-- ==== Sys2Proof/Word.lean ====
section
/-!
DEFINITION. The word types of the block and the plainest arithmetic of the manual's pseudocode (R16).
-/
namespace Sys2Proof

/-- A 32-bit register word (R8, R32). -/
abbrev Word := BitVec 32

/-- A 64-bit quantity or micro-op word. -/
abbrev Word64 := BitVec 64

/-- One byte of a memory. -/
abbrev Byte := BitVec 8

/-- Arithmetic on a `uN` type wraps modulo `2^n` (R16). -/
def wrap (n x : Nat) : Nat := x % 2 ^ n

/-- A counter of width `n` increments and wraps (R14). -/
def bump (n x : Nat) : Nat := wrap n (x + 1)

/-- The bits `[lo + len - 1 : lo]` of `x`. -/
def bitsAt (x lo len : Nat) : Nat := (x >>> lo) % 2 ^ len

/-- `x` with the bits `[lo + len - 1 : lo]` replaced by the low bits of `v`. -/
def setBitsAt (x lo len v : Nat) : Nat :=
  x - (bitsAt x lo len <<< lo) + (v % 2 ^ len) <<< lo

/-- The signed value of the low `n` bits of `x` (`sign_extend_n` of the manual). -/
def signed (n x : Nat) : Int :=
  let y := x % 2 ^ n
  if y < 2 ^ (n - 1) then (y : Int) else (y : Int) - 2 ^ n

/-- The low `n` bits of a signed number, as an unsigned field. -/
def unsigned (n : Nat) (x : Int) : Nat := (x % (2 ^ n : Int)).toNat

/-- `floor_div` of R63: rounds toward minus infinity. -/
def floorDiv (a b : Int) : Int := Int.fdiv a b

/-- Signed saturation to `n` bits. -/
def satS (n : Nat) (x : Int) : Int :=
  max (-(2 ^ (n - 1) : Int)) (min (2 ^ (n - 1) - 1) x)

/-- Unsigned saturation to `n` bits. -/
def satU (n x : Nat) : Nat := min x (2 ^ n - 1)

end Sys2Proof
end

