-- ==== Sys2Proof/Syntax.lean ====
section
/-!
DEFINITION. The commands the block takes: one constructor per row of spec/opcode_table.json, with the operands the row's
step needs from outside the block (an address, a value, a packet's contents, which unit the event happens in).
-/
namespace Sys2Proof

/-- The requester classes of the protection table (R447); the management core runs at two privilege levels, both of class
MGMT (R448). -/
inductive Req where
  | host | mgmtP0 | mgmtP1 | fabric | obs
deriving DecidableEq, Repr

/-- The width of an access (R32); a longer TLP of the host (R323) is `burst`: the 64-bit operand's two words and those of `more`, whose
number alone counts for a read. -/
inductive AccSize where
  | b1 | b2 | b4 | b8
  | burst (more : List Word)
deriving DecidableEq, Repr

/-- The PLLs of R26 and the CLK page. -/
inductive Pll where
  | aon | hub | die (d : Fin 4) | ddr | mipi | pcie | eth | piste
deriving DecidableEq, Repr

/-- The buffers that check the stamps of the words they hold (R47). -/
inductive BufId where
  | router (k : Fin 16) | coreQueue (core : Fin 4096) | ledger (k : Fin 16) | tok (k : Fin 16) | escape (k : Fin 16) | piste
deriving DecidableEq, Repr

/-- What the CSI-2 header ECC says of a packet header (R78): good, corrected, or not correctable. -/
inductive EccRes where
  | ok | corrected | bad
deriving DecidableEq, Repr

/-- Where an SRAM error is found (R428, R431, R433, R435): the memory, the 64-bit word in it, and for hub memory whose data the
word holds. `router` is the table memory of a cluster router, `dieSwitch` the die switch. -/
inductive SramSite where
  | sliver (core : Fin 4096) (word : Fin 3072)
  | matrix (m : Fin 32) (word : Fin 262144)
  | ledger (k : Fin 16) (word : Fin 524288)
  | router (k : Fin 16) (word : Fin 16777216)
  | dieSwitch (d : Fin 4) (word : Fin 16777216)
  | ingest (str : Fin 36) (word : Nat)
  | staging (str : Fin 36) (line : Nat) (word : Nat)
  | fusion (g : Fin 4) (trk : Option (Fin 4096)) (word : Nat)
  | report (g : Fin 4) (word : Nat)
  | filter (chan : Fin 1152) (word : Nat)
  | trace (word : Nat)
  | mgmt (word : Nat)
deriving DecidableEq, Repr

/-- The link header of a received Piste flit (R373). -/
structure PHdr where
  seq : Fin 1024
  ack : Fin 1024
  cv : Bool
  cclass : Fin 4
  chop : Fin 8
  nak : Bool
deriving DecidableEq, Repr

/-- Capabilities of the PCI Express specification that R322 says are present or not supported. -/
inductive PcieCap where
  | powerManagement | pciExpress | msix | advancedErrors | serialNumber | secondaryPcie | dataLinkFeature | physical16 | physical32
  | laneMargining | l1Substates | latencyTolerance
  | msi | sriov | ats | pri | pasid | acs | resizableBar | tph
deriving DecidableEq, Repr

/-- A PCIe configuration request (R322–R324, R333, R344): a read of an identity register, of what a BAR answers to sizing, of the
expansion ROM's BAR, of Interrupt Pin, of the largest payload in bytes, of a capability's presence; Bus Master Enable, the MSI-X
Message Control bits, the power state, the link's L1.2 enable. -/
inductive CfgReq where
  | readVendor | readDevice | readSerial | readSubsystem | readClass
  | readBar (i : Fin 6)
  | readRom | readIntPin | readMaxPayload
  | readCap (c : PcieCap)
  | setBme (on : Bool)
  | setMsix (enable mask : Bool)
  | setD3 (on : Bool)
  | setL12 (on : Bool)
deriving DecidableEq, Repr


/-- The commands of the block: one constructor per row of spec/opcode_table.json. `t` is the device time (DT, R42) at which
the command takes effect; the DT counter never runs backwards, so a command whose `t` lies in the past takes effect now. The
29-bit address of an access is written as LAST_DENIED writes it (R461): bit 28 for BAR2, bits [27:26] 0b11 for BAR4, 0 for BAR0. -/
inductive Instr where
  /-- REGISTER_WRITE (R9): A 32-bit write to a register field that has no row of its own takes effect under its access code, or is rejected and sets ERR_PARAM. -/
  | registerWrite (t : Nat) (c : Req) (a : BitVec 29) (z : AccSize) (v : BitVec 64)
  /-- RC_READ (R11): A non-OBS read of an RC field returns its value, then clears the field, or restarts a _PEAK field from the current level. -/
  | rcRead (t : Nat) (c : Req) (a : BitVec 29) (z : AccSize)
  /-- LATCHING_READ (R8): A read of a low word, or of another latching register, latches the companion words for the reading class. -/
  | latchingRead (t : Nat) (c : Req) (a : BitVec 29) (z : AccSize)
  /-- IRQ_STATUS_WRITE (R37): A write of 1 to an IRQ_STATUS bit clears it in IRQ_RAW; a write that leaves the interrupt asserted sends a further message. -/
  | irqStatusWrite (t : Nat) (c : Req) (p : BitVec 14) (v : Word)
  /-- PROXY_PAGE_WRITE (R34): A write to a page of a compute die that is in reset, off or fenced is ignored by the hub proxy and counted in HUB EVT_COUNT3. -/
  | proxyPageWrite (t : Nat) (c : Req) (a : BitVec 26) (v : Word)
  /-- BAR2_WRITE (R40): A write to BAR2 is discarded by the aperture and counted in HUB EVT_COUNT2. -/
  | bar2Write (t : Nat) (c : Req) (a2 : BitVec 28)
  /-- BLOCK_RESET_REQUEST (R486): A keyed RESET_REQ write with REQUEST = 1 starts a block reset when the page is IDLE, or is refused and counted. -/
  | blockResetRequest (t : Nat) (c : Req) (p : BitVec 14) (v : Word)
  /-- BLOCK_RESET_RELEASE (R486): A keyed RESET_REQ write with REQUEST = 1 and HOLD = 0 releases a held page without a new reset. -/
  | blockResetRelease (t : Nat) (c : Req) (p : BitVec 14) (v : Word)
  /-- BLOCK_RESET_DONE (R408): A running block reset completes; the block is released once CLK_GOOD is 1 and RESET_DONE sets. -/
  | blockResetDone (t : Nat) (p : BitVec 14)
  /-- PLL_LOCK_LOSS (R409): A PLL loses lock; the blocks of its domain are forced into reset, or the AON or hub PLL rule applies. -/
  | pllLockLoss (t : Nat) (pll : Pll)
  /-- PLL_LOCK (R408): A PLL locks and its domain reports CLK_GOOD; deferred block releases then happen. -/
  | pllLock (t : Nat) (pll : Pll)
  /-- LOCK_LOSS_LASTING (R409): A lock loss without relock within 100 us is classed as lasting and acts per PLL. -/
  | lockLossLasting (t : Nat) (pll : Pll)
  /-- TICK_BOUNDARY (R48): DT crosses a tick boundary; a TICK_PHASE change takes effect and each Turnstile closes tick c - W. -/
  | tickBoundary (t : Nat)
  /-- STALE_CHECK (R47): At least once every 2^30 ns each buffer rebuilds the stamps of the words it holds and discards those over 2^33 ns old. -/
  | staleCheck (t : Nat) (buf : BufId)
  /-- SYNC_EN_WRITE (R487): A write of SYNC_EN enables or disables SYNC_OUT lines, with the period-width checks; disabling brings a pending period into force. -/
  | syncEnWrite (t : Nat) (c : Req) (v : Word)
  /-- SYNC_PERIOD_WRITE (R60): A write of SYNC_PERIODn takes effect at once on a disabled line or stays pending until the next edge of an enabled line. -/
  | syncPeriodWrite (t : Nat) (c : Req) (line : Fin 4) (v : Word)
  /-- SYNC_WIDTH_WRITE (R487): A write of SYNC_WIDTH is checked against the periods in force and pending of all enabled lines. -/
  | syncWidthWrite (t : Nat) (c : Req) (v : Word)
  /-- SYNC_OUT_EDGE (R60): DT reaches a multiple of an enabled line's period; the line rises and the edge is recorded in SYNC_EDGEn and stream histories. -/
  | syncOutEdge (t : Nat) (line : Fin 4)
  /-- SYNC_OUT_FALL (R60): SYNC_WIDTH us after a rising edge, the SYNC_OUT line falls. -/
  | syncOutFall (t : Nat) (line : Fin 4)
  /-- PPS_IN_EDGE (R362): A rising edge on PPS_IN is captured in DT, counted, and each enabled domain records PPS_IN_ERR. -/
  | ppsInEdge (t : Nat)
  /-- SYNC_LOST_TIMEOUT (R67): In SYNC mode, 16 periods of the selected line pass with no accepted pair and SYNC_LOST sets. -/
  | syncLostTimeout (t : Nat) (str : Fin 36)
  /-- CM_MODE_WRITE (R63): A write of CM_CTRL that changes MODE clears the fit history, MODEL_VALID and SYNC_LOST. -/
  | cmModeWrite (t : Nat) (c : Req) (str : Fin 36) (v : Word)
  /-- CM_COMMIT (R64): A write of 1 to CM_COMMIT captures the staged model, applied at once or at the next staging-word boundary. -/
  | cmCommit (t : Nat) (c : Req) (str : Fin 36) (v : Word)
  /-- STREAM_UNIT_WRITE (R64): A write of STREAM_UNIT also stages RATE equal to STREAM_UNIT.0. -/
  | streamUnitWrite (t : Nat) (c : Req) (str : Fin 36) (v : Word)
  /-- MIPI_PACKET (R78): A CSI-2 packet is received whole: header ECC checked, mapped payload packed into staging words, CRC checked and counted. -/
  | mipiPacket (t : Nat) (mp : Fin 18) (vc : Fin 32) (dty : Fin 64) (long : Bool) (ecc : EccRes) (data : List Byte) (times : List Nat) (crcOk : Bool)
  /-- AER_REQ_RISE (R81): An enabled AER port sees REQ asserted, takes the entry DT and waits SETTLE ns. -/
  | aerReqRise (t : Nat) (ap : Fin 2)
  /-- AER_LATCH (R81): SETTLE ns after REQ, the port latches AERn_D, asserts ACK and writes one staging word. -/
  | aerLatch (t : Nat) (ap : Fin 2) (w : BitVec 24)
  /-- AER_REQ_FALL (R81): REQ falls; the port deasserts ACK, or counts PROTO_ERR when REQ was withdrawn before the latch. -/
  | aerReqFall (t : Nat) (ap : Fin 2)
  /-- PORT_ENABLE (R488): A write of CTRL.ENABLE of a MIPI or AER page switches the port on or off. -/
  | portEnable (t : Nat) (c : Req) (p : BitVec 14) (v : Word)
  /-- DECODE_WORD (R86): The decoder removes the head staging word and decodes its sensor words into events, time updates and triggers. -/
  | decodeWord (t : Nat) (str : Fin 36)
  /-- STAMP_EVENT (R92): The stamper grants a lane to a decoded event, maps it to DT and passes it through the range test, clamp, CAM and flicker gate. -/
  | stampEvent (t : Nat) (str : Fin 36)
  /-- HOT_DATA_WRITE (R93): A write of HOT_DATA replaces one CAM entry between two events. -/
  | hotDataWrite (t : Nat) (c : Req) (str : Fin 36) (v : Word)
  /-- TMAP_SWAP (R98): A write of 1 to TMAP_CTRL.SWAP sets SWAP_PENDING. -/
  | tmapSwap (t : Nat) (c : Req) (str : Fin 36) (v : Word)
  /-- RATE_TICK_CLOSE (R94): 16 ticks after a tick ends, its rate-channel counts close. -/
  | rateTickClose (t : Nat)
  /-- DIST_ISSUE (R100): When every destination cluster has credit, the distributor issues all flits of a stream's head event, its Journal copy and rate count. -/
  | distIssue (t : Nat) (str : Fin 36)
  /-- STREAM_ENABLE (R91): A write of 1 to STREAM CTRL.ENABLE is checked and starts the stream with the vector state invalid. -/
  | streamEnable (t : Nat) (c : Req) (str : Fin 36) (v : Word)
  /-- STREAM_DISABLE (R101): A write of 0 to STREAM CTRL.ENABLE stops the source writing words for the stream. -/
  | streamDisable (t : Nat) (c : Req) (str : Fin 36) (v : Word)
  /-- EVENT_FLIT (R233): An event flit reaches a cluster router and enters its stream queue. -/
  | eventFlit (t : Nat) (k : Fin 16)
  /-- STREAM_QUEUE_DELIVER (R233): When every target has room, the router delivers the head of a stream queue to the bank and subscribed cores and returns the credit. -/
  | streamQueueDeliver (t : Nat) (k : Fin 16) (str : Fin 36)
  /-- REPLAY_FLIT (R316): A replay flit pair reaches a cluster router and is delivered to the bank and cores per its flags. -/
  | replayFlit (t : Nat) (k : Fin 16)
  /-- CWRITE (R110): A Ledger core write reaches the bank and is applied or queued. -/
  | cwrite (t : Nat) (k : Fin 16)
  /-- SCRUB_VISIT (R52): Once every 64 write-port cycles the scrubber visits one line and clears VALID of entries aged one epoch or more. -/
  | scrubVisit (t : Nat) (k : Fin 16) (ln : Nat)
  /-- LEDGER_TICK_ADVANCE (R112): Once DT and all reader progress allow, the bank advances A to tau and applies the queued writes it covers. -/
  | ledgerTickAdvance (t : Nat) (k : Fin 16)
  /-- NREQ (R119): A neighbourhood read request reaches the bank and waits until A reaches its tick. -/
  | nreq (t : Nat) (k : Fin 16)
  /-- NBR_SERVE (R120): Once A reaches the read's tick, the bank looks up the descriptor and returns the patch rows. -/
  | nbrServe (t : Nat) (k : Fin 16)
  /-- NRSP (R175): A neighbourhood read response lands in the core's memory at DEST. -/
  | nrsp (t : Nat) (core : Fin 4096)
  /-- FENCE_SETTLE (R115): DT reaches F_n plus SETTLE ticks and reads of slot n on a SLOT map may start. -/
  | fenceSettle (t : Nat) (k : Fin 16) (d : Fin 64)
  /-- RELEASE (R115): A release mark reaches a SLOT descriptor or token buffer. -/
  | release (t : Nat) (k : Fin 16)
  /-- FENCE_ADVANCE (R115): All release marks arrive or DT reaches F_(n+1); the fence advances and applies waiting writes, counting forced advances. -/
  | fenceAdvance (t : Nat) (k : Fin 16) (d : Fin 64)
  /-- DESC_ENABLE (R126): A write that sets DESC_EN runs the checks and starts clearing the descriptor's region. -/
  | descEnable (t : Nat) (c : Req) (k : Fin 16) (v : Word)
  /-- DESC_CLEAR_DONE (R126): The clear of an enabled descriptor's region completes and INIT_BUSY clears. -/
  | descClearDone (t : Nat) (k : Fin 16) (d : Fin 64)
  /-- DESC_DISABLE (R126): A write that clears DESC_EN discards waiting writes and stops reads of the descriptor. -/
  | descDisable (t : Nat) (c : Req) (k : Fin 16) (v : Word)
  /-- LEDGER_CACHE_FILL (R108): A Ledger cache line fill or eviction to DDR4 for a BACKED descriptor completes. -/
  | ledgerCacheFill (t : Nat) (k : Fin 16) (ln : Nat)
  /-- PROGRESS (R137): A progress report for tick h + 1 reaches the core's Ledger bank. -/
  | progress (t : Nat) (k : Fin 16)
  /-- ARRIVAL_ENQUEUE (R133): A flit enters a core's Turnstile queue; its time is rebuilt and its key formed, and a LATE arrival is placed next. -/
  | arrivalEnqueue (t : Nat) (core : Fin 4096)
  /-- ARRIVAL_RELEASE (R130): When the core is free, the Turnstile releases the smallest eligible key; walks then ON_EVENT run. -/
  | arrivalRelease (t : Nat) (core : Fin 4096)
  /-- TICK_CLOSE_STEPS (R137): Once all releases of closed tick h are handled, the core runs ON_TICK, ON_SLOT, the sweep visit and the progress report. -/
  | tickCloseSteps (t : Nat) (core : Fin 4096)
  /-- RUN_WRITE (R179): A write of RUN from 0 to 1 starts the core, running ON_INIT before any arrival. -/
  | runWrite (t : Nat) (c : Req) (core : Fin 4096) (v : Word)
  /-- SPIKE_FLIT (R143): A spike reaches a cluster router, which sends it to the clusters in CLUSTER_MASK or delivers it through the group table. -/
  | spikeFlit (t : Nat) (k : Fin 16)
  /-- ESCAPE_ENTRY (R235): A spike copy that has waited ESC_WAIT cycles for credit enters the escape ring. -/
  | escapeEntry (t : Nat) (k : Fin 16)
  /-- ESCAPE_DRAIN (R235): The router delivers the head copy of the escape ring when its target has credit. -/
  | escapeDrain (t : Nat) (k : Fin 16)
  /-- SUBWIN_WRITE (R160): A write of SUBWIN commits a subscription window. -/
  | subwinWrite (t : Nat) (c : Req) (k : Fin 16) (v : Word)
  /-- SUB_HI_WRITE (R160): A write of SUB_HI commits the subscription entry. -/
  | subHiWrite (t : Nat) (c : Req) (k : Fin 16) (v : Word)
  /-- RT_HI_WRITE (R160): A write of RT_HI commits the route table entry. -/
  | rtHiWrite (t : Nat) (c : Req) (k : Fin 16) (v : Word)
  /-- GT_MASK7_WRITE (R160): A write of GT_MASK7 commits the group table entry with its TAG and VALID. -/
  | gtMask7Write (t : Nat) (c : Req) (k : Fin 16) (v : Word)
  /-- ACK (R236): An ACK control flit returns tags to a sliver core. -/
  | ack (t : Nat) (core : Fin 4096)
  /-- NOP (R169): Micro-op with no effect. -/
  | uopNop (t : Nat) (core : Fin 4096)
  /-- MOV (R169): Micro-op g[D] <- B. -/
  | uopMov (t : Nat) (core : Fin 4096)
  /-- ADD (R169): Micro-op g[D] <- g[A] + B. -/
  | uopAdd (t : Nat) (core : Fin 4096)
  /-- SUB (R169): Micro-op g[D] <- g[A] - B. -/
  | uopSub (t : Nat) (core : Fin 4096)
  /-- AND (R169): Micro-op bitwise AND. -/
  | uopAnd (t : Nat) (core : Fin 4096)
  /-- OR (R169): Micro-op bitwise OR. -/
  | uopOr (t : Nat) (core : Fin 4096)
  /-- XOR (R169): Micro-op bitwise XOR. -/
  | uopXor (t : Nat) (core : Fin 4096)
  /-- ANDN (R169): Micro-op g[D] <- g[A] & ~B. -/
  | uopAndn (t : Nat) (core : Fin 4096)
  /-- SHL (R169): Micro-op shift left. -/
  | uopShl (t : Nat) (core : Fin 4096)
  /-- SHR (R169): Micro-op logical shift right. -/
  | uopShr (t : Nat) (core : Fin 4096)
  /-- SRA (R169): Micro-op arithmetic shift right. -/
  | uopSra (t : Nat) (core : Fin 4096)
  /-- ROR (R169): Micro-op rotate right. -/
  | uopRor (t : Nat) (core : Fin 4096)
  /-- MIN (R169): Micro-op signed or unsigned minimum. -/
  | uopMin (t : Nat) (core : Fin 4096)
  /-- MAX (R169): Micro-op signed or unsigned maximum. -/
  | uopMax (t : Nat) (core : Fin 4096)
  /-- ABS (R169): Micro-op absolute value. -/
  | uopAbs (t : Nat) (core : Fin 4096)
  /-- POPC (R169): Micro-op population count. -/
  | uopPopc (t : Nat) (core : Fin 4096)
  /-- CMP (R169): Micro-op compare, always setting flags. -/
  | uopCmp (t : Nat) (core : Fin 4096)
  /-- EXT (R169): Micro-op field extract. -/
  | uopExt (t : Nat) (core : Fin 4096)
  /-- INS (R169): Micro-op field insert. -/
  | uopIns (t : Nat) (core : Fin 4096)
  /-- SAT (R169): Micro-op signed saturate. -/
  | uopSat (t : Nat) (core : Fin 4096)
  /-- MOVS (R162): Micro-op read of a special register. -/
  | uopMovs (t : Nat) (core : Fin 4096)
  /-- MUL (R169): Micro-op low 32 bits of a product. -/
  | uopMul (t : Nat) (core : Fin 4096)
  /-- TSB (R169): Micro-op time-surface test with accumulation. -/
  | uopTsb (t : Nat) (core : Fin 4096)
  /-- ASET (R170): Micro-op accumulator set. -/
  | uopAset (t : Nat) (core : Fin 4096)
  /-- MAC (R170): Micro-op 16-bit multiply-accumulate. -/
  | uopMac (t : Nat) (core : Fin 4096)
  /-- MAC2 (R170): Micro-op dual 16-bit multiply-accumulate. -/
  | uopMac2 (t : Nat) (core : Fin 4096)
  /-- AADD (R170): Micro-op accumulator add. -/
  | uopAadd (t : Nat) (core : Fin 4096)
  /-- AGET (R170): Micro-op accumulator read with shift and saturation. -/
  | uopAget (t : Nat) (core : Fin 4096)
  /-- LD16 (R171): Micro-op halfword load. -/
  | uopLd16 (t : Nat) (core : Fin 4096)
  /-- LD32 (R171): Micro-op word load. -/
  | uopLd32 (t : Nat) (core : Fin 4096)
  /-- ST16 (R171): Micro-op halfword store. -/
  | uopSt16 (t : Nat) (core : Fin 4096)
  /-- ST32 (R171): Micro-op word store. -/
  | uopSt32 (t : Nat) (core : Fin 4096)
  /-- NLD (R172): Micro-op loads a neuron into NL. -/
  | uopNld (t : Nat) (core : Fin 4096)
  /-- NST (R172): Micro-op writes NL back to neuron state. -/
  | uopNst (t : Nat) (core : Fin 4096)
  /-- LEAK (R149): Micro-op applies the lazy leak to NL at HT. -/
  | uopLeak (t : Nat) (core : Fin 4096)
  /-- NADD (R172): Micro-op adds a shifted value to NL's V. -/
  | uopNadd (t : Nat) (core : Fin 4096)
  /-- NGET (R172): Micro-op g[D] <- V. -/
  | uopNget (t : Nat) (core : Fin 4096)
  /-- NPUT (R172): Micro-op V <- sat(g[A]). -/
  | uopNput (t : Nat) (core : Fin 4096)
  /-- FIRE (R153): Micro-op applies the firing test to NL and may send a spike. -/
  | uopFire (t : Nat) (core : Fin 4096)
  /-- NCLR (R172): Micro-op rests NL. -/
  | uopNclr (t : Nat) (core : Fin 4096)
  /-- NBR (R175): Micro-op issues a neighbourhood read. -/
  | uopNbr (t : Nat) (core : Fin 4096)
  /-- WAITN (R175): Micro-op waits until no neighbourhood read is outstanding. -/
  | uopWaitn (t : Nat) (core : Fin 4096)
  /-- CWR (R176): Micro-op issues a Ledger core write. -/
  | uopCwr (t : Nat) (core : Fin 4096)
  /-- EMITT (R177): Micro-op sends a 64-byte token record. -/
  | uopEmitt (t : Nat) (core : Fin 4096)
  /-- EMITF (R178): Micro-op sends a feature record to the fusion complex. -/
  | uopEmitf (t : Nat) (core : Fin 4096)
  /-- B (R174): Micro-op conditional branch. -/
  | uopB (t : Nat) (core : Fin 4096)
  /-- CALL (R174): Micro-op pushes a return address and branches. -/
  | uopCall (t : Nat) (core : Fin 4096)
  /-- RET (R174): Micro-op pops the return address. -/
  | uopRet (t : Nat) (core : Fin 4096)
  /-- LOOP (R174): Micro-op decrements a register and branches when non-zero. -/
  | uopLoop (t : Nat) (core : Fin 4096)
  /-- END (R181): Micro-op waits for outstanding reads and ends the handler. -/
  | uopEnd (t : Nat) (core : Fin 4096)
  /-- TOKEN (R207): A token record reaches the TOK unit and is stored, queued for the fence or counted. -/
  | token (t : Nat) (k : Fin 16)
  /-- TOK_FENCE_ADVANCE (R208): A token buffer's fence advances and applies its pending records. -/
  | tokFenceAdvance (t : Nat) (k : Fin 16) (tb : Fin 32)
  /-- MX_SLOT_START (R211): DT reaches F_n; a bound matrix core fixes tau_eff, sets semaphores and starts its slot program. -/
  | mxSlotStart (t : Nat) (m : Fin 32) (tj : BitVec 8) (droop : BitVec 8)
  /-- MX_DISPATCH (R188): A descriptor at the queue head is dispatched when its unit is free and its WAIT semaphores are non-zero. -/
  | mxDispatch (t : Nat) (m : Fin 32)
  /-- GEMM (R196): Descriptor computing a matrix product. -/
  | gemm (t : Nat) (m : Fin 32)
  /-- CONV (R197): Descriptor computing a convolution or pooling. -/
  | conv (t : Nat) (m : Fin 32)
  /-- GATHER_LEDGER (R198): Descriptor gathering a decayed Ledger window once the fence read phase is open. -/
  | gatherLedger (t : Nat) (m : Fin 32)
  /-- GATHER_TOKENS (R199): Descriptor copying the valid cells of a token buffer. -/
  | gatherTokens (t : Nat) (m : Fin 32)
  /-- ATTN (R200): Descriptor computing multi-head attention, with optional Skim. -/
  | attn (t : Nat) (m : Fin 32)
  /-- ELTWISE (R201): Descriptor computing an elementwise operation. -/
  | eltwise (t : Nat) (m : Fin 32)
  /-- REDUCE (R202): Descriptor computing a row reduction. -/
  | reduce (t : Nat) (m : Fin 32)
  /-- DMA (R203): Descriptor copying rows between SRAM and DDR4 spaces. -/
  | dma (t : Nat) (m : Fin 32)
  /-- RESULT (R204): Descriptor sending bytes to the fusion complex. -/
  | result (t : Nat) (m : Fin 32)
  /-- MX_NOP (R195): Descriptor with no operation. -/
  | mxNop (t : Nat) (m : Fin 32)
  /-- MX_DESCRIPTOR_DONE (R188): A descriptor's results become visible; its SIGNAL semaphores increment and the last one sends SLOT_DONE. -/
  | mxDescriptorDone (t : Nat) (m : Fin 32)
  /-- MX_SLOT_ABORT (R212): DT reaches the deadline or F_(n+1) with the program incomplete; the program is aborted with OVERRUN. -/
  | mxSlotAbort (t : Nat) (m : Fin 32)
  /-- MX_START (R221): A write of 1 to MXC START runs the program once. -/
  | mxStart (t : Nat) (c : Req) (m : Fin 32) (v : Word)
  /-- WRITE_FLIT (R227): A WRITE flit with 64 data bytes reaches its destination memory. -/
  | writeFlit (t : Nat)
  /-- READ_FLIT (R227): A READ flit requests 64 bytes from its destination. -/
  | readFlit (t : Nat)
  /-- READRSP (R227): A READRSP flit returns 64 data bytes to its requester. -/
  | readrsp (t : Nat)
  /-- REG (R227): A REG flit carries a register access to the register agent. -/
  | reg (t : Nat) (c : Req) (a : BitVec 26) (wr : Bool) (v : Word)
  /-- REGRSP (R227): A REGRSP flit returns a register read result. -/
  | regrsp (t : Nat)
  /-- BAD_FLIT (R227): A flit of type 0xE or 0xF is discarded and counted. -/
  | badFlit (t : Nat) (k : Fin 16) (ty : Fin 16)
  /-- UCIE_CRC_RETRY (R230): A UCIe flit fails its CRC and is retried; a second failure fences the link and stops the job. -/
  | ucieCrcRetry (t : Nat) (u : Fin 16) (ok : Bool)
  /-- DDR_REQUEST_SERVE (R237): A DDR4 channel serves the oldest request of its highest-priority waiting level. -/
  | ddrRequestServe (t : Nat) (ddr : Fin 6)
  /-- FEATURE (R271): A FEATURE record reaches the fusion complex and is assigned to a slot or counted. -/
  | feature (t : Nat)
  /-- SLOT_DONE (R274): A SLOT_DONE marker from a matrix core reaches the fusion complex. -/
  | slotDone (t : Nat)
  /-- RESULT_RECEIVE (R274): A RESULT transfer reaches the fusion complex and is kept, copied or discarded by KIND. -/
  | resultReceive (t : Nat)
  /-- RFB_PROCESS_TICK (R240): At the boundary into tick u + 17, the bank processes tick u for every running channel. -/
  | rfbProcessTick (t : Nat)
  /-- SYNC_ARM (R251): A write of 1 to SYNC_ARM arms a synchronising reset. -/
  | syncArm (t : Nat) (c : Req) (v : Word)
  /-- COMMIT (R252): A write of 1 to COMMIT stages the profile configuration for the next period start. -/
  | commit (t : Nat) (c : Req) (v : Word)
  /-- SWAP (R256): A write of 1 to SWAP requests a coefficient swap, accepted as pending or refused. -/
  | swap (t : Nat) (c : Req) (v : Word)
  /-- COEF_DATA_WRITE (R255): A write of COEF_DATA writes a tap of an unreferenced slot and advances COEF_TAP. -/
  | coefDataWrite (t : Nat) (c : Req) (v : Word)
  /-- CH_CFG_WRITE (R252): A write of a channel's configuration schedules a switch at the next period start. -/
  | chCfgWrite (t : Nat) (c : Req) (str : Fin 36) (r : Fin 32) (v : Word)
  /-- RFB_DISABLE (R260): A write of RFB CTRL.ENABLE = 0 stops every channel and makes the gate read FLICKER as 0. -/
  | rfbDisable (t : Nat) (c : Req) (v : Word)
  /-- FG_ENABLE (R268): A write of a non-zero PERIOD_NS enables a fusion group after the bound checks. -/
  | fgEnable (t : Nat) (c : Req) (g : Fin 4) (v : Word)
  /-- FUSION_SLOT_INSTANT (R267): DT reaches F_n; the group latches its calibration bank and begins collecting slot n + 1. -/
  | fusionSlotInstant (t : Nat) (g : Fin 4)
  /-- FUSION_CUTOFF (R267): At F_n + COLLECT_NS the engine processes slot n and builds the report. -/
  | fusionCutoff (t : Nat) (g : Fin 4)
  /-- REPORT_COMPLETE (R267): The report is complete and posted to launch queues. -/
  | reportComplete (t : Nat) (g : Fin 4)
  /-- REPORT_RELEASE (R269): At the output time the report is released to the host ring, launch queues and Piste peers. -/
  | reportRelease (t : Nat) (g : Fin 4)
  /-- CAL_SWITCH (R280): A write of 1 to CAL_SWITCH requests a calibration bank switch. -/
  | calSwitch (t : Nat) (c : Req) (v : Word)
  /-- CAL_DATA_ACCESS (R278): An access of CAL_DATA writes or reads a word of the inactive bank and advances CAL_WORD. -/
  | calDataAccess (t : Nat) (c : Req) (wr : Bool) (v : Word)
  /-- ZONE_CFG_WRITE (R302): A write of ZONE_CFG commits the zone. -/
  | zoneCfgWrite (t : Nat) (c : Req) (v : Word)
  /-- TRK_KILL (R295): A write of KILL with KILL_INDEX deletes the track at the next cutoff. -/
  | trkKill (t : Nat) (c : Req) (v : Word)
  /-- JOURNAL_ENABLE (R307): A write of JSTR CTRL.ENABLE from 0 to 1 sets WP to 0 and clears marks and OVERTAKEN. -/
  | journalEnable (t : Nat) (c : Req) (str : Fin 36) (v : Word)
  /-- JOURNAL_DISABLE (R307): Clearing JSTR ENABLE flushes staged words and stops journaling. -/
  | journalDisable (t : Nat) (c : Req) (str : Fin 36) (v : Word)
  /-- JOURNAL_FLUSH (R311): No copy accepted for FLUSH_NS; the partial line is padded and sent. -/
  | journalFlush (t : Nat) (str : Fin 36)
  /-- JOURNAL_LINE_ISSUE (R311): A full or flushed staging line is issued to DDR4 and marks are checked for overtaking. -/
  | journalLineIssue (t : Nat) (str : Fin 36)
  /-- JOURNAL_LINE_DONE (R311): A Journal line write completes; WP advances by 64 and pending marks become VALID. -/
  | journalLineDone (t : Nat) (str : Fin 36)
  /-- MARK_SET (R312): MARK_CMD SET places a mark at the next accepted EVENT. -/
  | markSet (t : Nat) (c : Req) (str : Fin 36) (v : Word)
  /-- MARK_CLEAR (R312): MARK_CMD CLEAR invalidates a mark and cancels a pending SET. -/
  | markClear (t : Nat) (c : Req) (str : Fin 36) (v : Word)
  /-- REPLAY_START (R315): A write of START accepts a replay command, writing the shifts, or refuses it with a reason. -/
  | replayStart (t : Nat) (c : Req) (ch : Fin 4) (v : Word)
  /-- REPLAY_CANCEL (R317): A write of CANCEL stops the replay at the next record. -/
  | replayCancel (t : Nat) (c : Req) (ch : Fin 4) (v : Word)
  /-- REPLAY_ISSUE (R316): A replay channel issues one EVENT record's flit pairs when its pace and credit allow. -/
  | replayIssue (t : Nat) (ch : Fin 4)
  /-- PERST_ASSERT (R344): PERST# asserts and resets the host interface state. -/
  | perstAssert (t : Nat)
  /-- PERST_DEASSERT (R324): PERST# deasserts and the link retrains. -/
  | perstDeassert (t : Nat)
  /-- FLR (R344): A Function Level Reset resets the host interface state. -/
  | flr (t : Nat)
  /-- CMD_TAIL (R328): A doorbell write of CMD_TAIL makes commands available. -/
  | cmdTail (t : Nat) (v : Word)
  /-- CPL_HEAD (R328): A doorbell write of CPL_HEAD frees completion entries. -/
  | cplHead (t : Nat) (v : Word)
  /-- NTC_HEAD (R328): A doorbell write of NTC_HEAD frees notice entries. -/
  | ntcHead (t : Nat) (v : Word)
  /-- RPT_CONS (R328): A doorbell write of RPT_CONSg frees report ring bytes. -/
  | rptCons (t : Nat) (g : Fin 4) (v : Word)
  /-- RING_ENABLE (R325): A write of RING_EN sets the ring's indices to 0 and enables it. -/
  | ringEnable (t : Nat) (c : Req) (v : Word)
  /-- LOAD (R338): Command LOAD reads a model package into the staging area. -/
  | load (t : Nat) (cmd : List Byte) (pkg : List Byte) (ok : Bool)
  /-- PACKAGE_STAGED (R338): The staged package is checked, then applied or completed. -/
  | packageStaged (t : Nat)
  /-- CLUSTER_QUIESCED (R342): After W + 1 tick boundaries and empty queues, the loader stops the cluster's cores and matrix cores. -/
  | clusterQuiesced (t : Nat) (k : Fin 16)
  /-- CLUSTER_RESETS_DONE (R342): The cluster's resets complete and the loader writes its images and settings. -/
  | clusterResetsDone (t : Nat) (k : Fin 16)
  /-- CLUSTER_RESUME (R342): At the next tick boundary the loader validates group tables, clears the gate and writes CLUSTER_RELOADED. -/
  | clusterResume (t : Nat) (k : Fin 16)
  /-- UNLOAD (R330): Command UNLOAD quiesces and resets a partition and marks it EMPTY. -/
  | unload (t : Nat) (cmd : List Byte)
  /-- QUERY (R330): Command QUERY returns a partition's state. -/
  | query (t : Nat) (cmd : List Byte)
  /-- CMD_NOP (R330): Command NOP completes LOAD_OK. -/
  | cmdNop (t : Nat) (cmd : List Byte)
  /-- ATTEST (R445): Command ATTEST writes a signed attestation report to host memory. -/
  | attest (t : Nat) (cmd : List Byte)
  /-- FW_UPDATE (R452): Command FW_UPDATE stages and checks a firmware image and starts the takeover. -/
  | fwUpdate (t : Nat) (cmd : List Byte) (img : List Byte) (ok : Bool)
  /-- FW_RESTARTED (R452): The new firmware has started; FW_RESTARTED is written and commands resume. -/
  | fwRestarted (t : Nat)
  /-- FW_PERSIST_DONE (R452): Programming the flash image completes and the FW_UPDATE completion is written. -/
  | fwPersistDone (t : Nat) (ok : Bool)
  /-- COAL_EXPIRY (R333): A COAL_NS window ends and one folded MSI-X message is sent. -/
  | coalExpiry (t : Nat) (ring : Fin 6)
  /-- ETH_FRAME_RX (R348): An Ethernet frame is received and passed to the time receiver, firmware or discarded. -/
  | ethFrameRx (t : Nat) (eth : Fin 2) (frame : List Byte) (fcsOk : Bool)
  /-- PTP_SYNC (R352): A Sync from the selected time transmitter yields one offset sample for the servo. -/
  | ptpSync (t : Nat) (dom : Fin 2) (t1 : Nat) (corr : Int) (t2 : Nat) (mpd : Int) (iv : Nat)
  /-- PTP_ANNOUNCE (R353): An Announce message feeds the BMCA, which may select a time transmitter. -/
  | ptpAnnounce (t : Nat) (dom : Fin 2) (gm : BitVec 64) (sel : Bool) (utc : BitVec 16) (utcOk : Bool) (iv : Nat)
  /-- PDELAY_REQ (R351): A received Pdelay_Req is answered two-step. -/
  | pdelayReq (t : Nat) (eth : Fin 2) (frame : List Byte)
  /-- PTP_TIMEOUT (R353): ANN_TIMEOUT or SYNC_TIMEOUT intervals pass without the message; the domain goes to HOLDOVER or reselects. -/
  | ptpTimeout (t : Nat) (dom : Fin 2) (alt : Option (BitVec 64))
  /-- JUMP_WINDOW_EXPIRY (R355): A JUDGING domain's window ends without a jump on the other domain; it becomes SUSPECT. -/
  | jumpWindowExpiry (t : Nat) (dom : Fin 2)
  /-- ETH_LINK_DOWN (R360): An Ethernet port's link falls; FAILOVER domains move to the other port. -/
  | ethLinkDown (t : Nat) (eth : Fin 2)
  /-- DOM_EN_WRITE (R353): A write of DOM_EN enables a domain into LISTENING or disables it. -/
  | domEnWrite (t : Nat) (c : Req) (dom : Fin 2) (v : Word)
  /-- RATE_WRITE (R69): A write of RATE's high word changes RATE_d at one DT, adjusting OFFSET_d so WT stays continuous. -/
  | rateWrite (t : Nat) (c : Req) (dom : Fin 2) (v : Word)
  /-- SET_OFFSET (R356): A write of SET_OFFSET steps the domain to the staged OFFSET. -/
  | setOffset (t : Nat) (c : Req) (dom : Fin 2) (v : Word)
  /-- RESOLVE_STEP (R358): Command RESOLVE_STEP steps the domain by JUMP_OFFSET. -/
  | resolveStep (t : Nat) (c : Req) (dom : Fin 2) (v : Word)
  /-- RESOLVE_SLEW (R358): Command RESOLVE_SLEW sets SLEWING at the held rate. -/
  | resolveSlew (t : Nat) (c : Req) (dom : Fin 2) (v : Word)
  /-- CLEAR_INTEGRAL (R369): Command CLEAR_INTEGRAL sets i_acc to 0. -/
  | clearIntegral (t : Nat) (c : Req) (dom : Fin 2) (v : Word)
  /-- ACTIVE_WRITE (R357): A write of ACTIVE switches the active domain at one DT. -/
  | activeWrite (t : Nat) (c : Req) (v : Word)
  /-- PPS_OUT_EDGE (R361): PPS_OUT rises at the DT of the next whole second plus PPS_OFFSET_NS. -/
  | ppsOutEdge (t : Nat)
  /-- PPS_OUT_FALL (R361): PPS_WIDTH_MS after its edge, PPS_OUT falls. -/
  | ppsOutFall (t : Nat)
  /-- LAUNCH_START (R365): At an entry's launch DT the port starts its frame train, or handles it as LATE or link-down. -/
  | launchStart (t : Nat) (eth : Fin 2)
  /-- TPL_DATA_WRITE (R370): A write of TPL_DATA writes template bytes and advances TPL_WORD. -/
  | tplDataWrite (t : Nat) (c : Req) (eth : Fin 2) (q : Fin 4) (v : Word)
  /-- PISTE_NULL (R373): A NULL flit is received and returns credit. -/
  | pisteNull (t : Nat) (pp : Fin 6) (h : PHdr)
  /-- PISTE_EVENT (R385): An EVENT flit is received; its spikes are delivered locally or forwarded. -/
  | pisteEvent (t : Nat) (pp : Fin 6) (h : PHdr) (w : List (BitVec 64))
  /-- TENSOR (R388): A TENSOR flit is received and assembled into a transfer for the inbox. -/
  | tensor (t : Nat) (pp : Fin 6) (h : PHdr) (w : List (BitVec 64))
  /-- PISTE_TIME (R390): A TIME request is answered, or a response yields a link delay and offset sample. -/
  | pisteTime (t : Nat) (pp : Fin 6) (h : PHdr) (rsp : Bool) (w : List (BitVec 64))
  /-- HELLO (R376): A HELLO is received; root, numbers and port state are updated. -/
  | hello (t : Nat) (pp : Fin 6) (h : PHdr) (w : List (BitVec 64)) (grant : Option (Fin 64))
  /-- ROUTE (R381): A ROUTE advertisement is received, kept if newer and flooded. -/
  | route (t : Nat) (pp : Fin 6) (h : PHdr) (w : List (BitVec 64))
  /-- PISTE_MGMT (R389): An MGMT message applies a register access or returns its response. -/
  | pisteMgmt (t : Nat) (pp : Fin 6) (h : PHdr) (w : List (BitVec 64))
  /-- PISTE_CRC_FAIL (R374): A flit fails its CRC or SEQ; the receiver discards and NAKs, and a repeat failure fences the port. -/
  | pisteCrcFail (t : Nat) (pp : Fin 6) (seq : Fin 1024)
  /-- PORT_UP (R375): A Piste port has trained and exchanged HELLO and becomes UP. -/
  | portUp (t : Nat) (pp : Fin 6)
  /-- LOS_TIMEOUT (R375): No good flit arrives for LOS_NS and the port goes DOWN. -/
  | losTimeout (t : Nat) (pp : Fin 6)
  /-- HELLO_TIMER (R376): Every 100 us a HELLO is sent on every UP or training port. -/
  | helloTimer (t : Nat)
  /-- ROUTE_TIMER (R381): Every 10 ms a member floods its ROUTE advertisement. -/
  | routeTimer (t : Nat)
  /-- ROUTE_RECOMPUTE (R381): Within 200 us of new link state, the member recomputes its route table. -/
  | routeRecompute (t : Nat)
  /-- TIME_REQUEST_TIMER (R390): Every 1 ms each UP port sends a TIME request. -/
  | timeRequestTimer (t : Nat)
  /-- PISTE_EGRESS (R384): A spike copy reaches the Piste egress and joins open flits for the devices in DEV_MASK. -/
  | pisteEgress (t : Nat)
  /-- PACK_TIMEOUT (R384): PACK_NS after its first spike, an open EVENT flit is sent. -/
  | packTimeout (t : Nat)
  /-- RMT_READ (R389): RMT_CMD read sends an MGMT read to a peer device. -/
  | rmtRead (t : Nat) (c : Req) (v : Word)
  /-- RMT_WRITE (R389): RMT_CMD write sends an MGMT write to a peer device. -/
  | rmtWrite (t : Nat) (c : Req) (v : Word)
  /-- RMT_TIMEOUT (R389): No MGMT response arrives within 100 us and RMT_STATUS reads FAILED. -/
  | rmtTimeout (t : Nat)
  /-- DEV_NUM_REQ_WRITE (R379): A write of DEV_NUM_REQ asks the root for a device number. -/
  | devNumReqWrite (t : Nat) (c : Req) (v : Word)
  /-- FGT_CLUSTERS_WRITE (R398): A write of FGT_CLUSTERS commits a fabric group table entry. -/
  | fgtClustersWrite (t : Nat) (c : Req) (v : Word)
  /-- INBOX_ENABLE (R398): Enabling the inbox sets INBOX_PROD and INBOX_CONS to 0. -/
  | inboxEnable (t : Nat) (c : Req) (v : Word)
  /-- POR (R399): A monitored supply falls below its threshold and the whole package is reset. -/
  | por (t : Nat)
  /-- RESET_N_LOW (R400): RESET_N held low for 1 us or more starts a PIN reset. -/
  | resetNLow (t : Nat)
  /-- RESET_N_RISE (R400): RESET_N rises and the PIN reset releases. -/
  | resetNRise (t : Nat)
  /-- POR_RELEASE (R400): The monitored supplies stay above threshold for 1 ms and POR releases. -/
  | porRelease (t : Nat)
  /-- WDOG_WARN (R403): Half the watchdog period remains and WDOG_WARN sets. -/
  | wdogWarn (t : Nat)
  /-- WDOG_EXPIRY (R402): The watchdog reaches 0; DDR4 enters self-refresh and a WDOG reset follows. -/
  | wdogExpiry (t : Nat)
  /-- WDOG_KICK (R403): A keyed write of WDOG_KICK reloads the watchdog. -/
  | wdogKick (t : Nat) (c : Req) (v : Word)
  /-- WDOG_EN_WRITE (R403): A write of WDOG_EN = 1 starts the watchdog. -/
  | wdogEnWrite (t : Nat) (c : Req) (v : Word)
  /-- PKG_RESET (R404): A keyed write of PKG_RESET causes a SOFT_PKG reset 1 us later. -/
  | pkgReset (t : Nat) (c : Req) (v : Word)
  /-- REFCLK_DETECT (R410): 64 good REFCLK edges are seen and the AON PLL starts locking. -/
  | refclkDetect (t : Nat)
  /-- OPTION_LOAD_DONE (R406): The option bytes are read and judged blank, valid or bad. -/
  | optionLoadDone (t : Nat)
  /-- HUB_PLL_TIMEOUT (R411): The hub core PLL fails to lock within 1 ms and boot halts. -/
  | hubPllTimeout (t : Nat)
  /-- VAULT_IMAGE_CHECKED (R442): The Vault finishes reading and checking the firmware image and starts it or enters host boot. -/
  | vaultImageChecked (t : Nat) (img : Option (List Byte))
  /-- DDR_TRAIN_DONE (R410): DDR4 channel training completes or fails. -/
  | ddrTrainDone (t : Nat) (ddr : Fin 6) (fail : BitVec 3) (ranks : BitVec 2) (cap : BitVec 16) (ms : BitVec 16) (rd : BitVec 16) (wr : BitVec 16)
  /-- DIE_LINK_TRAINED (R410): The UCIe die links complete training and compute dies are released. -/
  | dieLinkTrained (t : Nat) (die : Fin 4) (ok : Bool)
  /-- BOOT_READY (R410): Boot reaches READY and the endpoint stops answering CRS. -/
  | bootReady (t : Nat) (logOk : Bool)
  /-- BOOT_COUNT_CLEAR (R412): 60 s at READY with no WDOG reset clears BOOT_COUNT. -/
  | bootCountClear (t : Nat)
  /-- HB_GO (R412): A write of HB_GO in host boot makes the Vault read and verify an image from host memory. -/
  | hbGo (t : Nat) (c : Req) (v : Word)
  /-- OPT_BURN (R407): A keyed write of OPT_BURN starts burning the staged option bytes, or is refused. -/
  | optBurn (t : Nat) (c : Req) (v : Word)
  /-- BURN_DONE (R407): The 20 ms option burn completes. -/
  | burnDone (t : Nat) (ok : Bool)
  /-- PWR_REQ_STANDBY (R414): A write of PWR_REQ = STANDBY is checked and starts quiescing the compute dies. -/
  | pwrReqStandby (t : Nat) (c : Req) (v : Word)
  /-- STANDBY_QUIET (R414): The compute dies are quiet; compute logic is gated and STATE_DONE sets. -/
  | standbyQuiet (t : Nat)
  /-- STANDBY_TIMEOUT (R414): The dies are not quiet within STBY_WAIT_US and the request is refused. -/
  | standbyTimeout (t : Nat)
  /-- PWR_REQ_SLEEP (R415): A write of PWR_REQ = SLEEP is checked and runs the SLEEP entry sequence. -/
  | pwrReqSleep (t : Nat) (c : Req) (v : Word)
  /-- PWR_REQ_ACTIVE (R416): A write of PWR_REQ = ACTIVE starts the exit from STANDBY or SLEEP. -/
  | pwrReqActive (t : Nat) (c : Req) (v : Word)
  /-- STANDBY_EXIT_DONE (R414): Compute clocks restart, cores pass and report, and STATE_DONE sets. -/
  | standbyExitDone (t : Nat)
  /-- SLEEP_EXIT_DONE (R416): The SLEEP exit completes; the state is ACTIVE and WAKE and MODELS_LOST set. -/
  | sleepExitDone (t : Nat) (logOk : Bool) (dies : BitVec 4)
  /-- AVS_COMMAND (R475): At most once per 100 us the device sends an AVSBus setpoint command, retrying once on error. -/
  | avsCommand (t : Nat) (want : BitVec 10) (ok1 : Bool) (ok2 : Bool)
  /-- TJ_WARN_CROSS (R424): Tj crosses TJ_WARN; IRQ TJ_WARN sets and ALERT_N asserts. -/
  | tjWarnCross (t : Nat) (tj : BitVec 32) (th : BitVec 8)
  /-- SRAM_ECC_ERROR (R428): A read finds a SECDED error and retries it, classing the fault transient or lasting. -/
  | sramEccError (t : Nat) (site : SramSite) (dbl : Bool) (ok : Bool)
  /-- FENCE_FIRMWARE_ACTION (R432): Within 1 ms of a fence, firmware writes the FENCED notice and trace record. -/
  | fenceFirmwareAction (t : Nat)
  /-- FAULT_LOG_APPEND (R440): Firmware appends a fault-log entry to flash, or sets LOG_FAIL. -/
  | faultLogAppend (t : Nat) (ok : Bool)
  /-- DDR_ECC_ERROR (R429): A DDR4 read or scrub finds an ECC error and retries it. -/
  | ddrEccError (t : Nat) (ddr : Fin 6) (da : BitVec 40) (dbl : Bool) (ok : Bool) (syn : BitVec 8) (rank : Bool) (bank : BitVec 4)
  /-- PATROL_SCRUB (R429): The DDR4 controller's patrol scrub reads the next address. -/
  | patrolScrub (t : Nat) (ddr : Fin 6)
  /-- MGMT_WARM_RESTART (R435): The management core restarts from the verified flash image. -/
  | mgmtWarmRestart (t : Nat) (img : Option (List Byte))
  /-- KEY_PROGRAM (R443): KEY_CMD PROGRAM burns an owner key into a slot. -/
  | keyProgram (t : Nat) (c : Req) (v : Word)
  /-- KEY_REVOKE (R443): KEY_CMD REVOKE blows a slot's REVOKED fuse. -/
  | keyRevoke (t : Nat) (c : Req) (v : Word)
  /-- PT_REQ_GO (R450): A write of PT_REQ_GO asks firmware to change a protection entry. -/
  | ptReqGo (t : Nat) (c : Req) (v : Word)
  /-- TRACE_CLEAR (R464): A write of CLEAR zeroes the trace buffer and its indices. -/
  | traceClear (t : Nat) (c : Req) (v : Word)
  /-- FW_MARK (R464): A write of FW_MARK writes a KIND 9 trace record. -/
  | fwMark (t : Nat) (c : Req) (v : Word)
  /-- READ_REG (R456): Observation command READ_REG returns register words. -/
  | readReg (t : Nat) (a : BitVec 26) (n : Nat)
  /-- READ_MEM (R456): Observation command READ_MEM returns BAR2 bytes. -/
  | readMem (t : Nat) (a2 : BitVec 28) (n : Nat)
  /-- READ_ID (R456): Observation command READ_ID returns the part number and UID. -/
  | readId (t : Nat)
  /-- OBS_DATA_TIMEOUT (R456): No datum is ready within 8 us and the port drives 0xEE then 0xFF. -/
  | obsDataTimeout (t : Nat)
  /-- IDCODE (R457): JTAG instruction IDCODE returns 0x1364_05EB. -/
  | idcode (t : Nat)
  /-- SAMPLE (R457): JTAG instruction SAMPLE captures the signal balls. -/
  | sample (t : Nat)
  /-- BYPASS (R457): JTAG instruction BYPASS selects the bypass register. -/
  | bypass (t : Nat)
  /-- ETH_LINK_UP (R360): An Ethernet port's link comes up and LINK_UP sets, making the port available again to domains and launch queues. -/
  | ethLinkUp (t : Nat) (eth : Fin 2)
  /-- PCIE_LINK_DOWN (R345): The PCIe data link goes down, LINK_UP clears and IRQ LINK_DOWN sets. -/
  | pcieLinkDown (t : Nat)
  /-- PCIE_LINK_UP (R324): PCIe link training completes and LINK_UP, LINK_SPEED and LINK_WIDTH take their values. -/
  | pcieLinkUp (t : Nat) (sp : Fin 16) (wd : Fin 64)
  /-- CONFIG_REQUEST (R324): A PCIe configuration request is answered with CRS before READY, or served, setting state such as Bus Master Enable. -/
  | configRequest (t : Nat) (q : CfgReq)
  /-- DESKEW_SEQUENCE (R77): A D-PHY initial deskew sequence is received and completed, and DESKEW_DONE sets. -/
  | deskewSequence (t : Nat) (mp : Fin 18)
  /-- KEY_BURN_DONE (R443): The 10 ms owner-key fuse burn completes, FILLED sets and KEY_STATUS leaves BUSY. -/
  | keyBurnDone (t : Nat)
  /-- PT_REQ_APPLIED (R450): Within 1 ms, firmware applies or refuses a protection request and PT_REQ_STATUS leaves BUSY, with PT_DONE set. -/
  | ptReqApplied (t : Nat)
  /-- CMD_UNLISTED_OPCODE (R330): A host command with an unlisted opcode, or with non-zero unused bytes, completes with E_PARAM and DETAIL 0xFFFF. -/
  | cmdUnlistedOpcode (t : Nat) (cmd : List Byte)
  /-- UNLISTED_MICRO_OP (R165): A micro-op word with an unlisted opcode issues and faults as ILLEGAL. -/
  | unlistedMicroOp (t : Nat) (core : Fin 4096)
  /-- UNLISTED_DESCRIPTOR_OP (R195): A matrix descriptor with an unlisted OP is dispatched and faults as OPCODE. -/
  | unlistedDescriptorOp (t : Nat) (m : Fin 32)
  /-- OBS_UNKNOWN_COMMAND (R456): An observation-port frame with an unknown command byte returns 0xFF for the whole frame and counts in BAD_CMD. -/
  | obsUnknownCommand (t : Nat)
  /-- PISTE_BAD_TYPE (R376): A Piste flit of TYPE 0x7-0xF is received, discarded and counted in BAD_TYPE. -/
  | pisteBadType (t : Nat) (pp : Fin 6) (h : PHdr)
  /-- DELAY_REQ_TIMER (R351): At each delay-measurement interval, an enabled domain sends its Delay_Req or Pdelay_Req and stamps it on egress. -/
  | delayReqTimer (t : Nat) (dom : Fin 2)
  /-- MESH_PARITY_RESEND (R430): A package flit on a mesh row link or router port fails parity and is resent once, classed transient or lasting. -/
  | meshParityResend (t : Nat) (k : Fin 16) (row : Fin 16) (ok : Bool)
deriving DecidableEq, Repr

end Sys2Proof
end

