-- ==== Sys2Proof/Config.lean ====
section
/-!
DEFINITION. What the spec leaves open, as constants without a body: no proof can see what they are. Every one is named in
the assumption log.
-/
namespace Sys2Proof.Config

/-- A fresh unconstrained number: the `n`-th value the spec leaves open (assumption 3). -/
opaque freeValue : Nat → Nat

/-- The 64-byte SHAKE256 digest of a byte string (R441, RFC 8032 / FIPS 202 named and not reproduced; assumption 4). -/
opaque shake256 : List Byte → List Byte

/-- Does an Ed448 signature verify: public key, message, signature (R441; assumption 4). -/
opaque ed448Verify : List Byte → List Byte → List Byte → Bool

/-- The Ed448 signature of a message under a private key (R441; assumption 4). -/
opaque ed448Sign : List Byte → List Byte → List Byte

/-- The Ed448 public key of a private key (R444; assumption 4). -/
opaque ed448Public : List Byte → List Byte

/-- A direction in the space of the smallest eigenvalue of a symmetric 3 × 3 FP32 matrix (entries 00, 01, 02, 11, 12, 22), where that
eigenvalue is repeated and R284 does not say which unit vector is meant (assumption 50). -/
opaque minEigvec : List Nat → List Nat

/-- SIGMA_V where no solve gives one (R285): a function of the bins' weights, bearings and residuals (assumption 50). -/
opaque sigmaV : List Nat → Nat

/-- The extent of a new track (R294 states none), by axis: a function of the detection and the sensor's tables (assumption 50). -/
opaque birthExtent : List Nat → Nat → Nat

/-- The i16 form of a sample of +1.0 (R277 states none): a function of the sample's pixel (assumption 121). -/
opaque sampleOne : List Nat → Nat

/-- The `n`-th undefined memory content: bytes by address (R402, R434; assumption 3). -/
opaque freeMem : Nat → List (Nat × Byte)

/-- Undefined bytes: the `n`-th free value, of the given length (assumption 3). -/
opaque freeByte : Nat → Nat → Byte

/-- What the OTP holds from manufacture (R441): the unique ID, the digest of the root key, the device secret, the certificate. -/
opaque uid : Nat
opaque rootDigest : List Byte
opaque deviceSecret : List Byte
opaque certificate : List Byte

/-- A PTP frame the device sends: kind (0 Delay_Req, 1 Pdelay_Req, 2 Pdelay_Resp, 3 Pdelay_Resp_Follow_Up), stamps and
identities, and the frame it answers (IEEE 1588 and 802.1AS named and not reproduced; assumption 60). -/
opaque ptpFrame : Nat → List Nat → List Byte → List Byte

/-- What a package section whose body has no given layout asks for (types 0x06–0x09, 0x0B, 0x0C, 0x0E–0x10 of R336; assumption 72), in
logical units: its fields are registers of R160, R128, R221, R222, R303, R302 and R398 or entries of the tables they select. -/
inductive Setting where
  /-- A register of the section's page number `page` (of those its type writes): its offset and value. -/
  | reg (page off val : Nat)
  /-- Subscription entry `i` with its cores (R131). -/
  | sub (i : Nat) (cores : List Nat)
  /-- Route entry `i`, its CLUSTER_MASK by logical cluster (R142). -/
  | route (i entry : Nat)
  /-- Group-table entry `i`: TAG, VALID, cores (R143). -/
  | group (i tag : Nat) (valid : Bool) (cores : List Nat)
  /-- READERS of the Ledger bank (R112). -/
  | readers (cores : List Nat)
  /-- Tile-map entry `i`: CORE_CLUSTERS and the cluster of LEDGER_CLUSTER, `none` for LEDGER_EN = 0 (R96). -/
  | tile (i : Nat) (clusters : List Nat) (ledger : Option Nat)
  /-- Fabric group table entry `i`: TAG, VALID, DEV_MASK, CLUSTERS (R398). -/
  | fgt (i tag : Nat) (valid : Bool) (devices : Nat) (clusters : List Nat)
  /-- A pinned route entry (R381, R395): device, PRIMARY, ALT. -/
  | pin (dev primary alt : Nat)
deriving DecidableEq, Repr

/-- The settings of a body, by section type. -/
opaque bodySettings : Nat → List Byte → List Setting

/-- The share of a level's bandwidth that the loader's allocation gives a matrix core, in 1/1,024 (R210; assumption 154). -/
opaque dmaShare : Nat → Nat → Nat

/-- The allocation size and the initial contents that the body of a DDR section gives (R336; assumption 72). -/
opaque ddrSize : List Byte → Nat
opaque ddrImage : List Byte → List Byte

end Sys2Proof.Config
end

