-- ==== Sys2Proof/Machine/Regs.lean ====
section
/-!
DEFINITION. The registers of the block, field by field, from the register tables of the spec: each field is named by its
page, its byte offset, its bits, its access code (R9) and its reset value (R7). Arrays of registers are one field with a
count and a stride. A quantity of 64 bits or more (R8) is one wide field at the offset of its low word.
-/
namespace Sys2Proof.Machine

/-- The page kinds of the index tables of R34 and R35. `cgs` is a core slot of a core-group page (R35), `jch` a replay
channel of the JRNL page, `lnq` a launch queue of an LNCH page. -/
inductive PK where
  | clu | ldb | mxc | tok | mesh | cg | cgs | die | ucie | dmon | hub | rstc
  | opt | clk | pwr | prot | vault | time | mipi | aer | ingest | dist | stream | jstr
  | jrnl | jch | rfb | rfbs | fuse | fg | trk | cal | pcie | hq | ddr | trace
  | obs | mgmt | eth | ptp | ptpd | lnch | lnq | pst | fab | pkg | gov
deriving DecidableEq, Repr

/-- The number of a page kind, in the order above. -/
def PK.num (k : PK) : Nat := k.ctorIdx

/-- The access codes of R9 (RSVD bits have no field). -/
inductive Acc where
  | rw | ro | wo | w1c | rc
deriving DecidableEq, Repr

/-- One register field: page kind, byte offset, low bit, width, access, reset value; `n` copies `stride` bytes apart. -/
structure Fld where
  pk : PK
  off : Nat
  lsb : Nat
  width : Nat
  acc : Acc
  reset : Nat
  n : Nat
  stride : Nat
deriving DecidableEq, Repr

/-- The `k`-th copy of an array field. -/
def Fld.nth (f : Fld) (k : Nat) : Fld := { f with off := f.off + k * f.stride, n := 1, stride := 0 }

namespace Hdr

/-- Header TYPE (01 R36). -/
def TYPE (k : PK) : Fld := ⟨k, 0x000, 16, 16, .ro, 0, 1, 0⟩
/-- Header INSTANCE (01 R36). -/
def INSTANCE (k : PK) : Fld := ⟨k, 0x000, 8, 8, .ro, 0, 1, 0⟩
/-- Header LAYOUT (01 R36). -/
def LAYOUT (k : PK) : Fld := ⟨k, 0x000, 0, 8, .ro, 0, 1, 0⟩
/-- Header BLK_IRQ (01 R36). -/
def BLK_IRQ (k : PK) : Fld := ⟨k, 0x004, 0, 1, .ro, 0, 1, 0⟩
/-- Header BLK_RESET (01 R36). -/
def BLK_RESET (k : PK) : Fld := ⟨k, 0x004, 1, 1, .ro, 0, 1, 0⟩
/-- Header FENCEABLE (01 R36). -/
def FENCEABLE (k : PK) : Fld := ⟨k, 0x004, 2, 1, .ro, 0, 1, 0⟩
/-- Header HAS_DEGRADED (01 R36). -/
def HAS_DEGRADED (k : PK) : Fld := ⟨k, 0x004, 3, 1, .ro, 0, 1, 0⟩
/-- Header NUM_EVT (01 R36). -/
def NUM_EVT (k : PK) : Fld := ⟨k, 0x004, 4, 4, .ro, 0, 1, 0⟩
/-- Header ENABLE (01 R36). -/
def ENABLE (k : PK) : Fld := ⟨k, 0x008, 0, 1, .rw, 0, 1, 0⟩
/-- Header IDLE (01 R36). -/
def IDLE (k : PK) : Fld := ⟨k, 0x00C, 0, 1, .ro, 0, 1, 0⟩
/-- Header FENCED (01 R36). -/
def FENCED (k : PK) : Fld := ⟨k, 0x00C, 1, 1, .ro, 0, 1, 0⟩
/-- Header CLK_GOOD (01 R36). -/
def CLK_GOOD (k : PK) : Fld := ⟨k, 0x00C, 2, 1, .ro, 0, 1, 0⟩
/-- Header IN_RESET (01 R36). -/
def IN_RESET (k : PK) : Fld := ⟨k, 0x00C, 3, 1, .ro, 0, 1, 0⟩
/-- Header DEGRADED (01 R36). -/
def DEGRADED (k : PK) : Fld := ⟨k, 0x00C, 4, 1, .ro, 0, 1, 0⟩
/-- Header RR_KEY (01 R37). -/
def RR_KEY (k : PK) : Fld := ⟨k, 0x01C, 24, 8, .wo, 0, 1, 0⟩
/-- Header RR_HOLD (01 R37). -/
def RR_HOLD (k : PK) : Fld := ⟨k, 0x01C, 1, 1, .wo, 0, 1, 0⟩
/-- Header RR_REQUEST (01 R37). -/
def RR_REQUEST (k : PK) : Fld := ⟨k, 0x01C, 0, 1, .wo, 0, 1, 0⟩
/-- Header REFUSED (01 R37). -/
def REFUSED (k : PK) : Fld := ⟨k, 0x020, 0, 1, .ro, 0, 1, 0⟩
/-- Header DEFERRED (01 R37). -/
def DEFERRED (k : PK) : Fld := ⟨k, 0x020, 1, 1, .ro, 0, 1, 0⟩
/-- Header HELD (01 R37). -/
def HELD (k : PK) : Fld := ⟨k, 0x020, 2, 1, .ro, 0, 1, 0⟩
/-- Header ACCEPT_COUNT (01 R37). -/
def ACCEPT_COUNT (k : PK) : Fld := ⟨k, 0x020, 8, 8, .ro, 0, 1, 0⟩
/-- Header REFUSE_COUNT (01 R37). -/
def REFUSE_COUNT (k : PK) : Fld := ⟨k, 0x020, 16, 8, .ro, 0, 1, 0⟩
/-- Header LOG_VALID (01 R486). -/
def LOG_VALID (k : PK) : Fld := ⟨k, 0x024, 31, 1, .ro, 0, 1, 0⟩
/-- Header LOG_LASTING (01 R486). -/
def LOG_LASTING (k : PK) : Fld := ⟨k, 0x024, 30, 1, .ro, 0, 1, 0⟩
/-- Header LOG_CODE (01 R486). -/
def LOG_CODE (k : PK) : Fld := ⟨k, 0x024, 24, 6, .ro, 0, 1, 0⟩
/-- Header LOG_WHERE (01 R486). -/
def LOG_WHERE (k : PK) : Fld := ⟨k, 0x024, 0, 24, .ro, 0, 1, 0⟩
/-- Header ERR_TRANSIENT (01 R38). -/
def ERR_TRANSIENT (k : PK) : Fld := ⟨k, 0x028, 0, 32, .ro, 0, 1, 0⟩
/-- Header ERR_LASTING (01 R38). -/
def ERR_LASTING (k : PK) : Fld := ⟨k, 0x02C, 0, 32, .ro, 0, 1, 0⟩
/-- Header EVT_COUNT (01 R38). -/
def EVT_COUNT (k : PK) : Fld := ⟨k, 0x030, 0, 32, .ro, 0, 4, 4⟩
/-- Header CTRL_BLK (01 R36: block-specific CTRL bits). -/
def CTRL_BLK (k : PK) : Fld := ⟨k, 0x008, 1, 31, .rw, 0, 1, 0⟩
/-- Header IRQ_RAW (01 R37). -/
def IRQ_RAW (k : PK) : Fld := ⟨k, 0x010, 0, 32, .ro, 0, 1, 0⟩
/-- Header IRQ_ENABLE (01 R37). -/
def IRQ_ENABLE (k : PK) : Fld := ⟨k, 0x014, 0, 32, .rw, 0, 1, 0⟩
/-- Header IRQ_STATUS (01 R37). -/
def IRQ_STATUS (k : PK) : Fld := ⟨k, 0x018, 0, 32, .w1c, 0, 1, 0⟩
/-- Header STATUS_BLK (01 R36: block-specific STATUS bits). -/
def STATUS_BLK (k : PK) : Fld := ⟨k, 0x00C, 16, 16, .ro, 0, 1, 0⟩
/-- Every header field (R36, R37, R38). -/
def all (k : PK) : List Fld :=
  [TYPE k, INSTANCE k, LAYOUT k, BLK_IRQ k, BLK_RESET k, FENCEABLE k,
   HAS_DEGRADED k, NUM_EVT k, ENABLE k, IDLE k, FENCED k, CLK_GOOD k,
   IN_RESET k, DEGRADED k, RR_KEY k, RR_HOLD k, RR_REQUEST k, REFUSED k,
   DEFERRED k, HELD k, ACCEPT_COUNT k, REFUSE_COUNT k, LOG_VALID k, LOG_LASTING k,
   LOG_CODE k, LOG_WHERE k, ERR_TRANSIENT k, ERR_LASTING k, EVT_COUNT k, CTRL_BLK k,
   IRQ_RAW k, IRQ_ENABLE k, IRQ_STATUS k, STATUS_BLK k]

end Hdr

namespace Regs.TIME

/-- DT_LO (02 R44; reset column: —). -/
def DT_LO : Fld := ⟨.time, 0x040, 0, 32, .ro, 0, 1, 0⟩
/-- DT_HI (02 R44; reset column: —). -/
def DT_HI : Fld := ⟨.time, 0x044, 0, 32, .ro, 0, 1, 0⟩
/-- TICK_PHASE (02 R44). -/
def TICK_PHASE : Fld := ⟨.time, 0x048, 0, 10, .ro, 0, 1, 0⟩
/-- SYNC_EN (02 R44). -/
def SYNC_EN : Fld := ⟨.time, 0x04C, 0, 4, .rw, 0, 1, 0⟩
/-- SYNC_PERIOD (02 R44). -/
def SYNC_PERIOD : Fld := ⟨.time, 0x050, 0, 17, .rw, 0x3E8, 4, 4⟩
/-- SYNC_WIDTH (02 R44). -/
def SYNC_WIDTH : Fld := ⟨.time, 0x060, 0, 8, .rw, 0xA, 1, 0⟩
/-- SYNC_EDGE (02 R44). -/
def SYNC_EDGE : Fld := ⟨.time, 0x070, 0, 64, .ro, 0, 4, 8⟩
/-- PPS_IN_DT (02 R44). -/
def PPS_IN_DT : Fld := ⟨.time, 0x090, 0, 64, .ro, 0, 1, 0⟩
/-- PPS_IN_COUNT (02 R44). -/
def PPS_IN_COUNT : Fld := ⟨.time, 0x098, 0, 32, .ro, 0, 1, 0⟩
/-- Every field of the page. -/
def all : List Fld :=
  [DT_LO, DT_HI, TICK_PHASE, SYNC_EN, SYNC_PERIOD, SYNC_WIDTH, SYNC_EDGE, PPS_IN_DT,
   PPS_IN_COUNT]

end Regs.TIME

namespace Regs.STREAM

/-- MODE (02 R67). -/
def MODE : Fld := ⟨.stream, 0x200, 0, 2, .rw, 2, 1, 0⟩
/-- SYNC_LINE (02 R67). -/
def SYNC_LINE : Fld := ⟨.stream, 0x200, 2, 2, .rw, 0, 1, 0⟩
/-- FIT_LOG (02 R67). -/
def FIT_LOG : Fld := ⟨.stream, 0x200, 4, 3, .rw, 3, 1, 0⟩
/-- HOLD (02 R67). -/
def HOLD : Fld := ⟨.stream, 0x200, 7, 1, .rw, 0, 1, 0⟩
/-- MODEL_VALID (02 R67). -/
def MODEL_VALID : Fld := ⟨.stream, 0x204, 0, 1, .ro, 0, 1, 0⟩
/-- UNALIGNED (02 R67). -/
def UNALIGNED : Fld := ⟨.stream, 0x204, 1, 1, .ro, 1, 1, 0⟩
/-- SYNC_LOST (02 R67). -/
def SYNC_LOST : Fld := ⟨.stream, 0x204, 2, 1, .ro, 0, 1, 0⟩
/-- GOOD_RUN (02 R67). -/
def GOOD_RUN : Fld := ⟨.stream, 0x204, 8, 8, .ro, 0, 1, 0⟩
/-- CM_BASE_S (02 R67). -/
def CM_BASE_S : Fld := ⟨.stream, 0x208, 0, 48, .rw, 0, 1, 0⟩
/-- CM_BASE_DT (02 R67). -/
def CM_BASE_DT : Fld := ⟨.stream, 0x210, 0, 64, .rw, 0, 1, 0⟩
/-- CM_RATE (02 R67). -/
def CM_RATE : Fld := ⟨.stream, 0x218, 0, 64, .rw, 0x3E800000000, 1, 0⟩
/-- CM_COMMIT (02 R67). -/
def CM_COMMIT : Fld := ⟨.stream, 0x220, 0, 1, .wo, 0, 1, 0⟩
/-- ALIGN_LIMIT (02 R67). -/
def ALIGN_LIMIT : Fld := ⟨.stream, 0x224, 0, 32, .rw, 0, 1, 0⟩
/-- LINK_LATENCY (02 R67). -/
def LINK_LATENCY : Fld := ⟨.stream, 0x228, 0, 32, .rw, 0, 1, 0⟩
/-- ARR_WINDOW (02 R67). -/
def ARR_WINDOW : Fld := ⟨.stream, 0x22C, 0, 16, .rw, 0x400, 1, 0⟩
/-- RESIDUAL (02 R67). -/
def RESIDUAL : Fld := ⟨.stream, 0x230, 0, 32, .ro, 0, 1, 0⟩
/-- STREAM_UNIT (02 R67). -/
def STREAM_UNIT : Fld := ⟨.stream, 0x234, 0, 32, .rw, 0x3E8, 1, 0⟩
/-- STREAM_TIME (02 R67; reset column: —). -/
def STREAM_TIME : Fld := ⟨.stream, 0x238, 0, 48, .ro, 0, 1, 0⟩
/-- SYNC_PAIRS (02 R67). -/
def SYNC_PAIRS : Fld := ⟨.stream, 0x240, 0, 32, .ro, 0, 1, 0⟩
/-- SYNC_UNPAIRED (02 R67). -/
def SYNC_UNPAIRED : Fld := ⟨.stream, 0x244, 0, 32, .ro, 0, 1, 0⟩
/-- CLAMPED (02 R67). -/
def CLAMPED : Fld := ⟨.stream, 0x248, 0, 32, .ro, 0, 1, 0⟩
/-- WRAPS (02 R67). -/
def WRAPS : Fld := ⟨.stream, 0x24C, 0, 32, .ro, 0, 1, 0⟩
/-- TH_MISMATCH (02 R67). -/
def TH_MISMATCH : Fld := ⟨.stream, 0x250, 0, 32, .ro, 0, 1, 0⟩
/-- SOURCE (03 R488). -/
def SOURCE : Fld := ⟨.stream, 0x040, 0, 5, .ro, 0x1F, 1, 0⟩
/-- SRC_VC (03 R488). -/
def SRC_VC : Fld := ⟨.stream, 0x040, 8, 5, .ro, 0, 1, 0⟩
/-- WORD_BITS (03 R488). -/
def WORD_BITS : Fld := ⟨.stream, 0x044, 0, 2, .rw, 0, 1, 0⟩
/-- MATCH_SHIFT (03 R488). -/
def MATCH_SHIFT : Fld := ⟨.stream, 0x044, 2, 6, .rw, 0, 1, 0⟩
/-- TL_BITS (03 R488). -/
def TL_BITS : Fld := ⟨.stream, 0x044, 8, 6, .rw, 0x10, 1, 0⟩
/-- POL_INV (03 R488). -/
def POL_INV : Fld := ⟨.stream, 0x044, 16, 1, .rw, 0, 1, 0⟩
/-- WIDTH_M1 (03 R488). -/
def WIDTH_M1 : Fld := ⟨.stream, 0x048, 0, 11, .rw, 0x27F, 1, 0⟩
/-- HEIGHT_M1 (03 R488). -/
def HEIGHT_M1 : Fld := ⟨.stream, 0x048, 16, 11, .rw, 0x1DF, 1, 0⟩
/-- LEVEL_MARK (03 R488). -/
def LEVEL_MARK : Fld := ⟨.stream, 0x04C, 0, 5, .rw, 0x18, 1, 0⟩
/-- LEVEL (03 R488; reset column: —). -/
def LEVEL : Fld := ⟨.stream, 0x050, 0, 6, .ro, 0, 1, 0⟩
/-- FULL (03 R488; reset column: —). -/
def FULL : Fld := ⟨.stream, 0x050, 8, 1, .ro, 0, 1, 0⟩
/-- OVERRUN (03 R488). -/
def OVERRUN : Fld := ⟨.stream, 0x050, 9, 1, .w1c, 0, 1, 0⟩
/-- MARK_HIT (03 R488). -/
def MARK_HIT : Fld := ⟨.stream, 0x050, 10, 1, .w1c, 0, 1, 0⟩
/-- DROPPED_WORDS (03 R488). -/
def DROPPED_WORDS : Fld := ⟨.stream, 0x058, 0, 64, .ro, 0, 1, 0⟩
/-- MARK_COUNT (03 R488). -/
def MARK_COUNT : Fld := ⟨.stream, 0x060, 0, 32, .ro, 0, 1, 0⟩
/-- FLK_EN (03 R488). -/
def FLK_EN : Fld := ⟨.stream, 0x064, 0, 1, .rw, 0, 1, 0⟩
/-- FLK_N (03 R488). -/
def FLK_N : Fld := ⟨.stream, 0x064, 8, 9, .rw, 4, 1, 0⟩
/-- FLK_FORCE (03 R488). -/
def FLK_FORCE : Fld := ⟨.stream, 0x068, 0, 32, .rw, 0, 1, 0⟩
/-- FLK_ACTIVE (03 R488; reset column: —). -/
def FLK_ACTIVE : Fld := ⟨.stream, 0x06C, 0, 32, .ro, 0, 1, 0⟩
/-- HOT_INDEX (03 R488). -/
def HOT_INDEX : Fld := ⟨.stream, 0x070, 0, 12, .rw, 0, 1, 0⟩
/-- HOT_X (03 R488). -/
def HOT_X : Fld := ⟨.stream, 0x074, 0, 11, .rw, 0, 1, 0⟩
/-- HOT_Y (03 R488). -/
def HOT_Y : Fld := ⟨.stream, 0x074, 11, 11, .rw, 0, 1, 0⟩
/-- DROP_ON (03 R488). -/
def DROP_ON : Fld := ⟨.stream, 0x074, 22, 1, .rw, 0, 1, 0⟩
/-- DROP_OFF (03 R488). -/
def DROP_OFF : Fld := ⟨.stream, 0x074, 23, 1, .rw, 0, 1, 0⟩
/-- HOT_VALID (03 R488). -/
def HOT_VALID : Fld := ⟨.stream, 0x074, 31, 1, .rw, 0, 1, 0⟩
/-- LEDGER_MAP (03 R488). -/
def LEDGER_MAP : Fld := ⟨.stream, 0x078, 0, 6, .rw, 0, 1, 0⟩
/-- ACTIVE_BANK (03 R488). -/
def ACTIVE_BANK : Fld := ⟨.stream, 0x07C, 0, 1, .ro, 0, 1, 0⟩
/-- SWAP (03 R488). -/
def SWAP : Fld := ⟨.stream, 0x07C, 1, 1, .wo, 0, 1, 0⟩
/-- SWAP_PENDING (03 R488). -/
def SWAP_PENDING : Fld := ⟨.stream, 0x07C, 2, 1, .ro, 0, 1, 0⟩
/-- TILE (03 R488). -/
def TILE : Fld := ⟨.stream, 0x080, 0, 12, .rw, 0, 1, 0⟩
/-- BANK (03 R488). -/
def BANK : Fld := ⟨.stream, 0x080, 12, 1, .rw, 0, 1, 0⟩
/-- CORE_CLUSTERS (03 R488). -/
def CORE_CLUSTERS : Fld := ⟨.stream, 0x084, 0, 16, .rw, 0, 1, 0⟩
/-- LEDGER_CLUSTER (03 R488). -/
def LEDGER_CLUSTER : Fld := ⟨.stream, 0x084, 16, 4, .rw, 0, 1, 0⟩
/-- LEDGER_EN (03 R488). -/
def LEDGER_EN : Fld := ⟨.stream, 0x084, 20, 1, .rw, 0, 1, 0⟩
/-- MATCH_MASK (03 R488). -/
def MATCH_MASK : Fld := ⟨.stream, 0x100, 0, 32, .rw, 0, 8, 16⟩
/-- MATCH_VALUE (03 R488). -/
def MATCH_VALUE : Fld := ⟨.stream, 0x104, 0, 32, .rw, 0, 8, 16⟩
/-- KIND (03 R488). -/
def KIND : Fld := ⟨.stream, 0x108, 0, 3, .rw, 6, 8, 16⟩
/-- CLASS_EN (03 R488). -/
def CLASS_EN : Fld := ⟨.stream, 0x108, 3, 1, .rw, 0, 8, 16⟩
/-- POL_CONST (03 R488). -/
def POL_CONST : Fld := ⟨.stream, 0x108, 4, 1, .rw, 0, 8, 16⟩
/-- F0 (03 R488). -/
def F0 : Fld := ⟨.stream, 0x108, 8, 12, .rw, 0, 8, 16⟩
/-- F1 (03 R488). -/
def F1 : Fld := ⟨.stream, 0x108, 20, 12, .rw, 0, 8, 16⟩
/-- F2 (03 R488). -/
def F2 : Fld := ⟨.stream, 0x10C, 0, 12, .rw, 0, 8, 16⟩
/-- F3 (03 R488). -/
def F3 : Fld := ⟨.stream, 0x10C, 12, 12, .rw, 0, 8, 16⟩
/-- EVENTS (03 R488). -/
def EVENTS : Fld := ⟨.stream, 0x180, 0, 32, .ro, 0, 1, 0⟩
/-- HOT_DROPPED (03 R488). -/
def HOT_DROPPED : Fld := ⟨.stream, 0x184, 0, 32, .ro, 0, 1, 0⟩
/-- FLK_DROPPED (03 R488). -/
def FLK_DROPPED : Fld := ⟨.stream, 0x188, 0, 32, .ro, 0, 1, 0⟩
/-- OUT_OF_RANGE (03 R488). -/
def OUT_OF_RANGE : Fld := ⟨.stream, 0x18C, 0, 32, .ro, 0, 1, 0⟩
/-- DEC_NOMATCH (03 R488). -/
def DEC_NOMATCH : Fld := ⟨.stream, 0x190, 0, 32, .ro, 0, 1, 0⟩
/-- DEC_ERR (03 R488). -/
def DEC_ERR : Fld := ⟨.stream, 0x194, 0, 32, .ro, 0, 1, 0⟩
/-- IGNORED (03 R488). -/
def IGNORED : Fld := ⟨.stream, 0x198, 0, 32, .ro, 0, 1, 0⟩
/-- TRIGGERS (03 R488). -/
def TRIGGERS : Fld := ⟨.stream, 0x19C, 0, 32, .ro, 0, 1, 0⟩
/-- FRAG_BYTES (03 R488). -/
def FRAG_BYTES : Fld := ⟨.stream, 0x1A0, 0, 32, .ro, 0, 1, 0⟩
/-- CRC_WORDS (03 R488). -/
def CRC_WORDS : Fld := ⟨.stream, 0x1A4, 0, 32, .ro, 0, 1, 0⟩
/-- RATE_LATE (03 R488). -/
def RATE_LATE : Fld := ⟨.stream, 0x1A8, 0, 32, .ro, 0, 1, 0⟩
/-- STALL_CYCLES (03 R488). -/
def STALL_CYCLES : Fld := ⟨.stream, 0x1AC, 0, 32, .ro, 0, 1, 0⟩
/-- STAMP_RANGE (03 R488). -/
def STAMP_RANGE : Fld := ⟨.stream, 0x1B0, 0, 32, .ro, 0, 1, 0⟩
/-- Every field of the page. -/
def all : List Fld :=
  [ MODE, SYNC_LINE, FIT_LOG, HOLD, MODEL_VALID, UNALIGNED, SYNC_LOST, GOOD_RUN,
   CM_BASE_S, CM_BASE_DT, CM_RATE, CM_COMMIT, ALIGN_LIMIT, LINK_LATENCY, ARR_WINDOW, RESIDUAL,
   STREAM_UNIT, STREAM_TIME, SYNC_PAIRS, SYNC_UNPAIRED, CLAMPED, WRAPS, TH_MISMATCH, SOURCE,
   SRC_VC, WORD_BITS, MATCH_SHIFT, TL_BITS, POL_INV, WIDTH_M1, HEIGHT_M1, LEVEL_MARK,
   LEVEL, FULL, OVERRUN, MARK_HIT, DROPPED_WORDS, MARK_COUNT, FLK_EN, FLK_N] ++
  [FLK_FORCE, FLK_ACTIVE, HOT_INDEX, HOT_X, HOT_Y, DROP_ON, DROP_OFF, HOT_VALID,
   LEDGER_MAP, ACTIVE_BANK, SWAP, SWAP_PENDING, TILE, BANK, CORE_CLUSTERS, LEDGER_CLUSTER,
   LEDGER_EN, MATCH_MASK, MATCH_VALUE, KIND, CLASS_EN, POL_CONST, F0, F1,
   F2, F3, EVENTS, HOT_DROPPED, FLK_DROPPED, OUT_OF_RANGE, DEC_NOMATCH, DEC_ERR,
   IGNORED, TRIGGERS, FRAG_BYTES, CRC_WORDS, RATE_LATE, STALL_CYCLES, STAMP_RANGE]

end Regs.STREAM

namespace Regs.MIPI

/-- PHY_MODE (03 R103). -/
def PHY_MODE : Fld := ⟨.mipi, 0x040, 0, 1, .rw, 0, 1, 0⟩
/-- WIDTH (03 R103). -/
def WIDTH : Fld := ⟨.mipi, 0x040, 1, 2, .rw, 2, 1, 0⟩
/-- LANE_INV (03 R103). -/
def LANE_INV : Fld := ⟨.mipi, 0x040, 4, 4, .rw, 0, 1, 0⟩
/-- RATE (03 R103). -/
def RATE : Fld := ⟨.mipi, 0x040, 16, 16, .rw, 0x5DC, 1, 0⟩
/-- VCID (03 R103). -/
def VCID : Fld := ⟨.mipi, 0x044, 0, 5, .rw, 0, 4, 4⟩
/-- DT_MASK (03 R103). -/
def DT_MASK : Fld := ⟨.mipi, 0x044, 8, 8, .rw, 0, 4, 4⟩
/-- STREAM (03 R103). -/
def STREAM : Fld := ⟨.mipi, 0x044, 16, 6, .rw, 0, 4, 4⟩
/-- MAP_EN (03 R103). -/
def MAP_EN : Fld := ⟨.mipi, 0x044, 31, 1, .rw, 0, 4, 4⟩
/-- HS_ACTIVE (03 R103; reset column: —). -/
def HS_ACTIVE : Fld := ⟨.mipi, 0x054, 0, 1, .ro, 0, 1, 0⟩
/-- DESKEW_DONE (03 R103; reset column: —). -/
def DESKEW_DONE : Fld := ⟨.mipi, 0x054, 1, 1, .ro, 0, 1, 0⟩
/-- PKTS_OK (03 R103). -/
def PKTS_OK : Fld := ⟨.mipi, 0x058, 0, 32, .ro, 0, 1, 0⟩
/-- ECC_CORR (03 R103). -/
def ECC_CORR : Fld := ⟨.mipi, 0x05C, 0, 32, .ro, 0, 1, 0⟩
/-- ECC_FAIL (03 R103). -/
def ECC_FAIL : Fld := ⟨.mipi, 0x060, 0, 32, .ro, 0, 1, 0⟩
/-- CRC_FAIL (03 R103). -/
def CRC_FAIL : Fld := ⟨.mipi, 0x064, 0, 32, .ro, 0, 1, 0⟩
/-- IMG_PKTS (03 R103). -/
def IMG_PKTS : Fld := ⟨.mipi, 0x068, 0, 32, .ro, 0, 1, 0⟩
/-- UNMAPPED_PKTS (03 R103). -/
def UNMAPPED_PKTS : Fld := ⟨.mipi, 0x06C, 0, 32, .ro, 0, 1, 0⟩
/-- SHORT_PKTS (03 R103). -/
def SHORT_PKTS : Fld := ⟨.mipi, 0x070, 0, 32, .ro, 0, 1, 0⟩
/-- Every field of the page. -/
def all : List Fld :=
  [PHY_MODE, WIDTH, LANE_INV, RATE, VCID, DT_MASK, STREAM, MAP_EN,
   HS_ACTIVE, DESKEW_DONE, PKTS_OK, ECC_CORR, ECC_FAIL, CRC_FAIL, IMG_PKTS, UNMAPPED_PKTS,
   SHORT_PKTS]

end Regs.MIPI

namespace Regs.AER

/-- REQ_LOW (03 R103). -/
def REQ_LOW : Fld := ⟨.aer, 0x040, 0, 1, .rw, 0, 1, 0⟩
/-- ACK_LOW (03 R103). -/
def ACK_LOW : Fld := ⟨.aer, 0x040, 1, 1, .rw, 0, 1, 0⟩
/-- SETTLE (03 R103). -/
def SETTLE : Fld := ⟨.aer, 0x040, 4, 4, .rw, 2, 1, 0⟩
/-- STREAM (03 R103). -/
def STREAM : Fld := ⟨.aer, 0x040, 8, 6, .rw, 0, 1, 0⟩
/-- MAP_EN (03 R103). -/
def MAP_EN : Fld := ⟨.aer, 0x040, 15, 1, .rw, 0, 1, 0⟩
/-- WORDS (03 R103). -/
def WORDS : Fld := ⟨.aer, 0x044, 0, 32, .ro, 0, 1, 0⟩
/-- PROTO_ERR (03 R103). -/
def PROTO_ERR : Fld := ⟨.aer, 0x048, 0, 32, .ro, 0, 1, 0⟩
/-- Every field of the page. -/
def all : List Fld :=
  [REQ_LOW, ACK_LOW, SETTLE, STREAM, MAP_EN, WORDS, PROTO_ERR]

end Regs.AER

namespace Regs.INGEST

/-- WORDS_IN (03 R488). -/
def WORDS_IN : Fld := ⟨.ingest, 0x040, 0, 64, .ro, 0, 1, 0⟩
/-- EVENTS_DECODED (03 R488). -/
def EVENTS_DECODED : Fld := ⟨.ingest, 0x048, 0, 64, .ro, 0, 1, 0⟩
/-- EVENTS_DISTRIBUTED (03 R488). -/
def EVENTS_DISTRIBUTED : Fld := ⟨.ingest, 0x050, 0, 64, .ro, 0, 1, 0⟩
/-- DROPPED_TOTAL (03 R488). -/
def DROPPED_TOTAL : Fld := ⟨.ingest, 0x058, 0, 64, .ro, 0, 1, 0⟩
/-- GATED_TOTAL (03 R488). -/
def GATED_TOTAL : Fld := ⟨.ingest, 0x060, 0, 64, .ro, 0, 1, 0⟩
/-- Every field of the page. -/
def all : List Fld :=
  [WORDS_IN, EVENTS_DECODED, EVENTS_DISTRIBUTED, DROPPED_TOTAL, GATED_TOTAL]

end Regs.INGEST

namespace Regs.DIST

/-- CLUSTER_GATE (03 R488). -/
def CLUSTER_GATE : Fld := ⟨.dist, 0x040, 0, 16, .rw, 0, 1, 0⟩
/-- GATE_ACTIVE (03 R488; reset column: —). -/
def GATE_ACTIVE : Fld := ⟨.dist, 0x044, 0, 16, .ro, 0, 1, 0⟩
/-- GATED_FLITS (03 R488). -/
def GATED_FLITS : Fld := ⟨.dist, 0x080, 0, 32, .ro, 0, 16, 4⟩
/-- Every field of the page. -/
def all : List Fld :=
  [CLUSTER_GATE, GATE_ACTIVE, GATED_FLITS]

end Regs.DIST

namespace Regs.LDB

/-- APPLY_W (04 R128). -/
def APPLY_W : Fld := ⟨.ldb, 0x040, 0, 4, .rw, 2, 1, 0⟩
/-- QUEUE_LEVEL (04 R128; reset column: —). -/
def QUEUE_LEVEL : Fld := ⟨.ldb, 0x044, 0, 14, .ro, 0, 1, 0⟩
/-- INIT_BUSY (04 R128). -/
def INIT_BUSY : Fld := ⟨.ldb, 0x044, 16, 1, .ro, 0, 1, 0⟩
/-- APPLIED_TICK (04 R128; reset column: —). -/
def APPLIED_TICK : Fld := ⟨.ldb, 0x048, 0, 32, .ro, 0, 1, 0⟩
/-- DESC_INDEX (04 R128). -/
def DESC_INDEX : Fld := ⟨.ldb, 0x04C, 0, 6, .rw, 0, 1, 0⟩
/-- DESC_EN (04 R128). -/
def DESC_EN : Fld := ⟨.ldb, 0x050, 0, 1, .rw, 0, 1, 0⟩
/-- SOURCE (04 R128). -/
def SOURCE : Fld := ⟨.ldb, 0x050, 1, 1, .rw, 0, 1, 0⟩
/-- SHADOW (04 R128). -/
def SHADOW : Fld := ⟨.ldb, 0x050, 2, 1, .rw, 0, 1, 0⟩
/-- POL_MODE (04 R128). -/
def POL_MODE : Fld := ⟨.ldb, 0x050, 3, 1, .rw, 0, 1, 0⟩
/-- K (04 R128). -/
def K : Fld := ⟨.ldb, 0x050, 4, 2, .rw, 0, 1, 0⟩
/-- DISCIPLINE (04 R128). -/
def DISCIPLINE : Fld := ⟨.ldb, 0x050, 6, 1, .rw, 0, 1, 0⟩
/-- FENCE_GROUP (04 R128). -/
def FENCE_GROUP : Fld := ⟨.ldb, 0x050, 7, 2, .rw, 0, 1, 0⟩
/-- BACKED (04 R128). -/
def BACKED : Fld := ⟨.ldb, 0x050, 9, 1, .rw, 0, 1, 0⟩
/-- MAP (04 R128). -/
def MAP : Fld := ⟨.ldb, 0x050, 10, 6, .rw, 0, 1, 0⟩
/-- KEY (04 R128). -/
def KEY : Fld := ⟨.ldb, 0x050, 16, 6, .rw, 0, 1, 0⟩
/-- HALO (04 R128). -/
def HALO : Fld := ⟨.ldb, 0x050, 22, 3, .rw, 0, 1, 0⟩
/-- COPY_MAP (04 R128). -/
def COPY_MAP : Fld := ⟨.ldb, 0x050, 25, 6, .rw, 0, 1, 0⟩
/-- COPY_EN (04 R128). -/
def COPY_EN : Fld := ⟨.ldb, 0x050, 31, 1, .rw, 0, 1, 0⟩
/-- TX0 (04 R128). -/
def TX0 : Fld := ⟨.ldb, 0x054, 0, 6, .rw, 0, 1, 0⟩
/-- TY0 (04 R128). -/
def TY0 : Fld := ⟨.ldb, 0x054, 6, 6, .rw, 0, 1, 0⟩
/-- TW (04 R128). -/
def TW : Fld := ⟨.ldb, 0x054, 12, 7, .rw, 1, 1, 0⟩
/-- TH (04 R128). -/
def TH : Fld := ⟨.ldb, 0x054, 19, 7, .rw, 1, 1, 0⟩
/-- BASE_LINE (04 R128). -/
def BASE_LINE : Fld := ⟨.ldb, 0x058, 0, 16, .rw, 0, 1, 0⟩
/-- DDR_BASE (04 R128). -/
def DDR_BASE : Fld := ⟨.ldb, 0x05C, 0, 64, .rw, 0, 1, 0⟩
/-- LAW (04 R128). -/
def LAW : Fld := ⟨.ldb, 0x064, 0, 2, .rw, 0, 1, 0⟩
/-- PARAM (04 R128). -/
def PARAM : Fld := ⟨.ldb, 0x064, 16, 15, .rw, 0x3E8, 1, 0⟩
/-- SETTLE (04 R128). -/
def SETTLE : Fld := ⟨.ldb, 0x068, 0, 8, .rw, 4, 1, 0⟩
/-- FENCE_READERS (04 R128). -/
def FENCE_READERS : Fld := ⟨.ldb, 0x068, 8, 4, .rw, 1, 1, 0⟩
/-- TIME_SHIFT (04 R128). -/
def TIME_SHIFT : Fld := ⟨.ldb, 0x06C, 0, 64, .rw, 0, 1, 0⟩
/-- ENTRIES (04 R128). -/
def ENTRIES : Fld := ⟨.ldb, 0x074, 0, 24, .ro, 0, 1, 0⟩
/-- WRITES_APPLIED (04 R128). -/
def WRITES_APPLIED : Fld := ⟨.ldb, 0x080, 0, 32, .ro, 0, 1, 0⟩
/-- OLDER_WRITES (04 R128). -/
def OLDER_WRITES : Fld := ⟨.ldb, 0x084, 0, 32, .ro, 0, 1, 0⟩
/-- STALE_WRITES (04 R128). -/
def STALE_WRITES : Fld := ⟨.ldb, 0x088, 0, 32, .ro, 0, 1, 0⟩
/-- LATE_WRITES (04 R128). -/
def LATE_WRITES : Fld := ⟨.ldb, 0x08C, 0, 32, .ro, 0, 1, 0⟩
/-- NO_MAP (04 R128). -/
def NO_MAP : Fld := ⟨.ldb, 0x090, 0, 32, .ro, 0, 1, 0⟩
/-- FENCE_FORCED (04 R128). -/
def FENCE_FORCED : Fld := ⟨.ldb, 0x094, 0, 32, .ro, 0, 1, 0⟩
/-- QUEUE_PEAK (04 R128). -/
def QUEUE_PEAK : Fld := ⟨.ldb, 0x098, 0, 14, .rc, 0, 1, 0⟩
/-- CACHE_MISSES (04 R128). -/
def CACHE_MISSES : Fld := ⟨.ldb, 0x09C, 0, 32, .ro, 0, 1, 0⟩
/-- SCRUB_CLEARED (04 R128). -/
def SCRUB_CLEARED : Fld := ⟨.ldb, 0x0A0, 0, 32, .ro, 0, 1, 0⟩
/-- NBR_READS (04 R128). -/
def NBR_READS : Fld := ⟨.ldb, 0x0A4, 0, 32, .ro, 0, 1, 0⟩
/-- NBR_WRONG (04 R128). -/
def NBR_WRONG : Fld := ⟨.ldb, 0x0A8, 0, 32, .ro, 0, 1, 0⟩
/-- GATHER_ELEMENTS (04 R128). -/
def GATHER_ELEMENTS : Fld := ⟨.ldb, 0x0AC, 0, 32, .ro, 0, 1, 0⟩
/-- CREDIT_STALL (04 R128). -/
def CREDIT_STALL : Fld := ⟨.ldb, 0x0B0, 0, 32, .ro, 0, 1, 0⟩
/-- READERS (04 R128). -/
def READERS : Fld := ⟨.ldb, 0x0C0, 0, 32, .rw, 0, 8, 4⟩
/-- Every field of the page. -/
def all : List Fld :=
  [APPLY_W, QUEUE_LEVEL, INIT_BUSY, APPLIED_TICK, DESC_INDEX, DESC_EN, SOURCE, SHADOW,
   POL_MODE, K, DISCIPLINE, FENCE_GROUP, BACKED, MAP, KEY, HALO,
   COPY_MAP, COPY_EN, TX0, TY0, TW, TH, BASE_LINE, DDR_BASE,
   LAW, PARAM, SETTLE, FENCE_READERS, TIME_SHIFT, ENTRIES, WRITES_APPLIED, OLDER_WRITES,
   STALE_WRITES, LATE_WRITES, NO_MAP, FENCE_FORCED, QUEUE_PEAK, CACHE_MISSES, SCRUB_CLEARED, NBR_READS] ++
  [NBR_WRONG, GATHER_ELEMENTS, CREDIT_STALL, READERS]

end Regs.LDB

namespace Regs.CG

/-- FENCE_MASK (05 R159). -/
def FENCE_MASK : Fld := ⟨.cg, 0x040, 0, 16, .ro, 0, 1, 0⟩
/-- IDLE_MASK (05 R159; reset column: —). -/
def IDLE_MASK : Fld := ⟨.cg, 0x044, 0, 16, .ro, 0, 1, 0⟩
/-- LATE_MASK (05 R159). -/
def LATE_MASK : Fld := ⟨.cg, 0x048, 0, 16, .w1c, 0, 1, 0⟩
/-- Every field of the page. -/
def all : List Fld :=
  [FENCE_MASK, IDLE_MASK, LATE_MASK]

end Regs.CG

namespace Regs.CGS

/-- RUN (05 R159). -/
def RUN : Fld := ⟨.cgs, 0x000, 0, 1, .rw, 0, 1, 0⟩
/-- STATE_FMT (05 R159). -/
def STATE_FMT : Fld := ⟨.cgs, 0x000, 1, 1, .rw, 0, 1, 0⟩
/-- FIRE_LAW (05 R159). -/
def FIRE_LAW : Fld := ⟨.cgs, 0x000, 2, 1, .rw, 0, 1, 0⟩
/-- TICK_EN (05 R159). -/
def TICK_EN : Fld := ⟨.cgs, 0x000, 3, 1, .rw, 0, 1, 0⟩
/-- SLOT_EN (05 R159). -/
def SLOT_EN : Fld := ⟨.cgs, 0x000, 4, 1, .rw, 0, 1, 0⟩
/-- SLOT_GROUP (05 R159). -/
def SLOT_GROUP : Fld := ⟨.cgs, 0x000, 5, 2, .rw, 0, 1, 0⟩
/-- IDLE (05 R159; reset column: —). -/
def IDLE : Fld := ⟨.cgs, 0x004, 0, 1, .ro, 0, 1, 0⟩
/-- FENCED (05 R159). -/
def FENCED : Fld := ⟨.cgs, 0x004, 1, 1, .ro, 0, 1, 0⟩
/-- RUNNING (05 R159). -/
def RUNNING : Fld := ⟨.cgs, 0x004, 2, 1, .ro, 0, 1, 0⟩
/-- UCODE_ERR (05 R159). -/
def UCODE_ERR : Fld := ⟨.cgs, 0x004, 3, 1, .ro, 0, 1, 0⟩
/-- QLEVEL (05 R159; reset column: —). -/
def QLEVEL : Fld := ⟨.cgs, 0x004, 8, 8, .ro, 0, 1, 0⟩
/-- THETA (05 R159). -/
def THETA : Fld := ⟨.cgs, 0x008, 0, 32, .rw, 0x7FFFFFFF, 1, 0⟩
/-- FANIN_COUNT (05 R159). -/
def FANIN_COUNT : Fld := ⟨.cgs, 0x00C, 0, 8, .rw, 0, 1, 0⟩
/-- PROGRESS (05 R159). -/
def PROGRESS : Fld := ⟨.cgs, 0x010, 0, 32, .ro, 0, 1, 0⟩
/-- NT (05 R159). -/
def NT : Fld := ⟨.cgs, 0x014, 0, 32, .ro, 0, 1, 0⟩
/-- NEURON_HI (05 R159). -/
def NEURON_HI : Fld := ⟨.cgs, 0x018, 0, 10, .rw, 0, 8, 4⟩
/-- RT_INDEX (05 R159). -/
def RT_INDEX : Fld := ⟨.cgs, 0x018, 10, 10, .rw, 0, 8, 4⟩
/-- RT_VALID (05 R159). -/
def RT_VALID : Fld := ⟨.cgs, 0x018, 31, 1, .rw, 0, 8, 4⟩
/-- DPOW_E (05 R159). -/
def DPOW_E : Fld := ⟨.cgs, 0x038, 0, 16, .rw, 0, 8, 4⟩
/-- DPOW_O (05 R159). -/
def DPOW_O : Fld := ⟨.cgs, 0x038, 16, 16, .rw, 0, 8, 4⟩
/-- ARR_SENSOR (05 R159). -/
def ARR_SENSOR : Fld := ⟨.cgs, 0x078, 0, 32, .ro, 0, 1, 0⟩
/-- ARR_LOCAL (05 R159). -/
def ARR_LOCAL : Fld := ⟨.cgs, 0x07C, 0, 32, .ro, 0, 1, 0⟩
/-- ARR_REMOTE (05 R159). -/
def ARR_REMOTE : Fld := ⟨.cgs, 0x080, 0, 32, .ro, 0, 1, 0⟩
/-- ARR_REPLAY (05 R159). -/
def ARR_REPLAY : Fld := ⟨.cgs, 0x084, 0, 32, .ro, 0, 1, 0⟩
/-- LATE_ARRIVALS (05 R159). -/
def LATE_ARRIVALS : Fld := ⟨.cgs, 0x088, 0, 32, .ro, 0, 1, 0⟩
/-- OVERDRIVE (05 R159). -/
def OVERDRIVE : Fld := ⟨.cgs, 0x08C, 0, 32, .ro, 0, 1, 0⟩
/-- SPIKES_OUT (05 R159). -/
def SPIKES_OUT : Fld := ⟨.cgs, 0x090, 0, 32, .ro, 0, 1, 0⟩
/-- FANIN_MISS (05 R159). -/
def FANIN_MISS : Fld := ⟨.cgs, 0x094, 0, 32, .ro, 0, 1, 0⟩
/-- FANOUT_ZERO (05 R159). -/
def FANOUT_ZERO : Fld := ⟨.cgs, 0x098, 0, 32, .ro, 0, 1, 0⟩
/-- SYN_OPS (05 R159). -/
def SYN_OPS : Fld := ⟨.cgs, 0x09C, 0, 64, .ro, 0, 1, 0⟩
/-- UOPS (05 R159). -/
def UOPS : Fld := ⟨.cgs, 0x0A4, 0, 64, .ro, 0, 1, 0⟩
/-- SAT_EVENTS (05 R159). -/
def SAT_EVENTS : Fld := ⟨.cgs, 0x0AC, 0, 32, .ro, 0, 1, 0⟩
/-- SWEEP_RESTS (05 R159). -/
def SWEEP_RESTS : Fld := ⟨.cgs, 0x0B0, 0, 32, .ro, 0, 1, 0⟩
/-- QFULL_CYCLES (05 R159). -/
def QFULL_CYCLES : Fld := ⟨.cgs, 0x0B4, 0, 32, .ro, 0, 1, 0⟩
/-- OUT_STALL_CYCLES (05 R159). -/
def OUT_STALL_CYCLES : Fld := ⟨.cgs, 0x0B8, 0, 32, .ro, 0, 1, 0⟩
/-- QUEUE_PEAK (05 R159). -/
def QUEUE_PEAK : Fld := ⟨.cgs, 0x0BC, 0, 7, .rc, 0, 1, 0⟩
/-- LATE_TICK (05 R159). -/
def LATE_TICK : Fld := ⟨.cgs, 0x0C0, 0, 32, .ro, 0, 1, 0⟩
/-- ENT_SENSOR (06 R186). -/
def ENT_SENSOR : Fld := ⟨.cgs, 0x058, 0, 8, .rw, 0, 1, 0⟩
/-- ENT_LOCAL (06 R186). -/
def ENT_LOCAL : Fld := ⟨.cgs, 0x058, 8, 8, .rw, 0, 1, 0⟩
/-- ENT_REMOTE (06 R186). -/
def ENT_REMOTE : Fld := ⟨.cgs, 0x058, 16, 8, .rw, 0, 1, 0⟩
/-- ENT_REPLAY (06 R186). -/
def ENT_REPLAY : Fld := ⟨.cgs, 0x058, 24, 8, .rw, 0, 1, 0⟩
/-- ENT_TICK (06 R186). -/
def ENT_TICK : Fld := ⟨.cgs, 0x05C, 0, 8, .rw, 0, 1, 0⟩
/-- ENT_SLOT (06 R186). -/
def ENT_SLOT : Fld := ⟨.cgs, 0x05C, 8, 8, .rw, 0, 1, 0⟩
/-- ENT_INIT (06 R186). -/
def ENT_INIT : Fld := ⟨.cgs, 0x05C, 16, 8, .rw, 0, 1, 0⟩
/-- EV_EN (06 R186). -/
def EV_EN : Fld := ⟨.cgs, 0x05C, 24, 4, .rw, 0, 1, 0⟩
/-- INIT_EN (06 R186). -/
def INIT_EN : Fld := ⟨.cgs, 0x05C, 28, 1, .rw, 0, 1, 0⟩
/-- HPARAM (06 R186). -/
def HPARAM : Fld := ⟨.cgs, 0x060, 0, 32, .rw, 0, 3, 4⟩
/-- UC_LIMIT (06 R186). -/
def UC_LIMIT : Fld := ⟨.cgs, 0x06C, 0, 16, .rw, 0, 1, 0⟩
/-- UC_PC (06 R186). -/
def UC_PC : Fld := ⟨.cgs, 0x070, 0, 8, .ro, 0, 1, 0⟩
/-- UC_CODE (06 R186). -/
def UC_CODE : Fld := ⟨.cgs, 0x070, 8, 3, .ro, 0, 1, 0⟩
/-- UC_HANDLER (06 R186). -/
def UC_HANDLER : Fld := ⟨.cgs, 0x070, 12, 3, .ro, 0, 1, 0⟩
/-- UC_VALID (06 R186). -/
def UC_VALID : Fld := ⟨.cgs, 0x070, 31, 1, .ro, 0, 1, 0⟩
/-- UC_DROPS (06 R186). -/
def UC_DROPS : Fld := ⟨.cgs, 0x074, 0, 32, .ro, 0, 1, 0⟩
/-- Every field of the page. -/
def all : List Fld :=
  [RUN, STATE_FMT, FIRE_LAW, TICK_EN, SLOT_EN, SLOT_GROUP, IDLE, FENCED,
   RUNNING, UCODE_ERR, QLEVEL, THETA, FANIN_COUNT, PROGRESS, NT, NEURON_HI,
   RT_INDEX, RT_VALID, DPOW_E, DPOW_O, ARR_SENSOR, ARR_LOCAL, ARR_REMOTE, ARR_REPLAY,
   LATE_ARRIVALS, OVERDRIVE, SPIKES_OUT, FANIN_MISS, FANOUT_ZERO, SYN_OPS, UOPS, SAT_EVENTS,
   SWEEP_RESTS, QFULL_CYCLES, OUT_STALL_CYCLES, QUEUE_PEAK, LATE_TICK, ENT_SENSOR, ENT_LOCAL, ENT_REMOTE] ++
  [ENT_REPLAY, ENT_TICK, ENT_SLOT, ENT_INIT, EV_EN, INIT_EN, HPARAM, UC_LIMIT,
   UC_PC, UC_CODE, UC_HANDLER, UC_VALID, UC_DROPS]

end Regs.CGS

namespace Regs.CLU

/-- TS_WINDOW (05 R160). -/
def TS_WINDOW : Fld := ⟨.clu, 0x200, 0, 4, .rw, 2, 1, 0⟩
/-- REPLAY_SHIFT (05 R160). -/
def REPLAY_SHIFT : Fld := ⟨.clu, 0x204, 0, 64, .rw, 0, 1, 0⟩
/-- SUBWIN_INDEX (05 R160). -/
def SUBWIN_INDEX : Fld := ⟨.clu, 0x20C, 0, 6, .rw, 0, 1, 0⟩
/-- TX0 (05 R160). -/
def TX0 : Fld := ⟨.clu, 0x210, 0, 6, .rw, 0, 1, 0⟩
/-- TY0 (05 R160). -/
def TY0 : Fld := ⟨.clu, 0x210, 6, 6, .rw, 0, 1, 0⟩
/-- TW (05 R160). -/
def TW : Fld := ⟨.clu, 0x210, 12, 7, .rw, 1, 1, 0⟩
/-- TH (05 R160). -/
def TH : Fld := ⟨.clu, 0x210, 19, 7, .rw, 1, 1, 0⟩
/-- WIN_EN (05 R160). -/
def WIN_EN : Fld := ⟨.clu, 0x210, 31, 1, .rw, 0, 1, 0⟩
/-- SUB_BASE (05 R160). -/
def SUB_BASE : Fld := ⟨.clu, 0x214, 0, 12, .rw, 0, 1, 0⟩
/-- SUB_INDEX (05 R160). -/
def SUB_INDEX : Fld := ⟨.clu, 0x218, 0, 12, .rw, 0, 1, 0⟩
/-- SUB_LO (05 R160). -/
def SUB_LO : Fld := ⟨.clu, 0x21C, 0, 32, .rw, 0, 1, 0⟩
/-- SUB_HI (05 R160). -/
def SUB_HI : Fld := ⟨.clu, 0x220, 0, 24, .rw, 0, 1, 0⟩
/-- N (05 R160). -/
def N : Fld := ⟨.clu, 0x220, 24, 3, .rw, 0, 1, 0⟩
/-- RT_INDEX (05 R160). -/
def RT_INDEX : Fld := ⟨.clu, 0x224, 0, 10, .rw, 0, 1, 0⟩
/-- RT_LO (05 R160). -/
def RT_LO : Fld := ⟨.clu, 0x228, 0, 32, .rw, 0, 1, 0⟩
/-- RT_HI (05 R160). -/
def RT_HI : Fld := ⟨.clu, 0x22C, 0, 32, .rw, 0, 1, 0⟩
/-- GT_INDEX (05 R160). -/
def GT_INDEX : Fld := ⟨.clu, 0x230, 0, 10, .rw, 0, 1, 0⟩
/-- GT_TAG (05 R160). -/
def GT_TAG : Fld := ⟨.clu, 0x234, 0, 6, .rw, 0, 1, 0⟩
/-- GT_VALID (05 R160). -/
def GT_VALID : Fld := ⟨.clu, 0x234, 31, 1, .rw, 0, 1, 0⟩
/-- GT_MASK (05 R160). -/
def GT_MASK : Fld := ⟨.clu, 0x238, 0, 32, .rw, 0, 8, 4⟩
/-- SUB_NOMATCH (05 R160). -/
def SUB_NOMATCH : Fld := ⟨.clu, 0x258, 0, 32, .ro, 0, 1, 0⟩
/-- GT_MISS (05 R160). -/
def GT_MISS : Fld := ⟨.clu, 0x25C, 0, 32, .ro, 0, 1, 0⟩
/-- FENCED_DROPS (05 R160). -/
def FENCED_DROPS : Fld := ⟨.clu, 0x260, 0, 32, .ro, 0, 1, 0⟩
/-- SPIKES_IN (05 R160). -/
def SPIKES_IN : Fld := ⟨.clu, 0x264, 0, 32, .ro, 0, 1, 0⟩
/-- ESC_BASE (08 R490). -/
def ESC_BASE : Fld := ⟨.clu, 0x040, 0, 64, .rw, 0, 1, 0⟩
/-- ESC_SIZE (08 R490). -/
def ESC_SIZE : Fld := ⟨.clu, 0x048, 0, 32, .rw, 0, 1, 0⟩
/-- ESC_WAIT (08 R490). -/
def ESC_WAIT : Fld := ⟨.clu, 0x04C, 0, 16, .rw, 0x1000, 1, 0⟩
/-- ESC_LEVEL (08 R490; reset column: —). -/
def ESC_LEVEL : Fld := ⟨.clu, 0x050, 0, 21, .ro, 0, 1, 0⟩
/-- ESCAPED (08 R490). -/
def ESCAPED : Fld := ⟨.clu, 0x054, 0, 32, .ro, 0, 1, 0⟩
/-- ESC_FULL_CYCLES (08 R490). -/
def ESC_FULL_CYCLES : Fld := ⟨.clu, 0x058, 0, 32, .ro, 0, 1, 0⟩
/-- STALL_STREAMS (08 R490; reset column: —). -/
def STALL_STREAMS : Fld := ⟨.clu, 0x060, 0, 64, .ro, 0, 1, 0⟩
/-- EVT_HOL_CYCLES (08 R490). -/
def EVT_HOL_CYCLES : Fld := ⟨.clu, 0x068, 0, 32, .ro, 0, 1, 0⟩
/-- BAD_FLIT (08 R490). -/
def BAD_FLIT : Fld := ⟨.clu, 0x06C, 0, 32, .ro, 0, 1, 0⟩
/-- STREAM_QDEPTH (08 R490). -/
def STREAM_QDEPTH : Fld := ⟨.clu, 0x070, 0, 16, .ro, 8, 1, 0⟩
/-- STALE_FLITS (08 R490). -/
def STALE_FLITS : Fld := ⟨.clu, 0x074, 0, 32, .ro, 0, 1, 0⟩
/-- Every field of the page. -/
def all : List Fld :=
  [TS_WINDOW, REPLAY_SHIFT, SUBWIN_INDEX, TX0, TY0, TW, TH, WIN_EN,
   SUB_BASE, SUB_INDEX, SUB_LO, SUB_HI, N, RT_INDEX, RT_LO, RT_HI,
   GT_INDEX, GT_TAG, GT_VALID, GT_MASK, SUB_NOMATCH, GT_MISS, FENCED_DROPS, SPIKES_IN,
   ESC_BASE, ESC_SIZE, ESC_WAIT, ESC_LEVEL, ESCAPED, ESC_FULL_CYCLES, STALL_STREAMS, EVT_HOL_CYCLES,
   BAD_FLIT, STREAM_QDEPTH, STALE_FLITS]

end Regs.CLU

namespace Regs.MXC

/-- GROUP (07 R221). -/
def GROUP : Fld := ⟨.mxc, 0x040, 0, 2, .rw, 0, 1, 0⟩
/-- BOUND (07 R221). -/
def BOUND : Fld := ⟨.mxc, 0x040, 2, 1, .rw, 0, 1, 0⟩
/-- PROG_BASE (07 R221). -/
def PROG_BASE : Fld := ⟨.mxc, 0x044, 0, 21, .rw, 0, 1, 0⟩
/-- PROG_LEN (07 R221). -/
def PROG_LEN : Fld := ⟨.mxc, 0x048, 0, 15, .rw, 0, 1, 0⟩
/-- DEADLINE_NS (07 R221). -/
def DEADLINE_NS : Fld := ⟨.mxc, 0x04C, 0, 32, .rw, 0xF4240, 1, 0⟩
/-- SEM_INIT (07 R221). -/
def SEM_INIT : Fld := ⟨.mxc, 0x050, 0, 32, .rw, 0, 8, 4⟩
/-- SEM_NOW (07 R221; reset column: —). -/
def SEM_NOW : Fld := ⟨.mxc, 0x070, 0, 32, .ro, 0, 8, 4⟩
/-- SLOT_RUNNING (07 R221). -/
def SLOT_RUNNING : Fld := ⟨.mxc, 0x090, 0, 1, .ro, 0, 1, 0⟩
/-- LAST_STATUS (07 R221). -/
def LAST_STATUS : Fld := ⟨.mxc, 0x090, 1, 2, .ro, 0, 1, 0⟩
/-- CQ_LEVEL (07 R221; reset column: —). -/
def CQ_LEVEL : Fld := ⟨.mxc, 0x090, 8, 7, .ro, 0, 1, 0⟩
/-- CF_INDEX (07 R221). -/
def CF_INDEX : Fld := ⟨.mxc, 0x094, 0, 16, .ro, 0, 1, 0⟩
/-- CF_CODE (07 R221). -/
def CF_CODE : Fld := ⟨.mxc, 0x094, 16, 3, .ro, 0, 1, 0⟩
/-- CF_VALID (07 R221). -/
def CF_VALID : Fld := ⟨.mxc, 0x094, 31, 1, .ro, 0, 1, 0⟩
/-- SLOT_N (07 R221). -/
def SLOT_N : Fld := ⟨.mxc, 0x098, 0, 64, .ro, 0, 1, 0⟩
/-- TAU_LAST (07 R221). -/
def TAU_LAST : Fld := ⟨.mxc, 0x0A0, 0, 32, .ro, 0, 1, 0⟩
/-- TJ_LAST (07 R221). -/
def TJ_LAST : Fld := ⟨.mxc, 0x0A4, 0, 8, .ro, 0, 1, 0⟩
/-- DROOP_LAST (07 R221). -/
def DROOP_LAST : Fld := ⟨.mxc, 0x0A4, 8, 8, .ro, 0, 1, 0⟩
/-- SEQ_LAST (07 R221). -/
def SEQ_LAST : Fld := ⟨.mxc, 0x0A8, 0, 32, .ro, 0, 1, 0⟩
/-- SLOTS_RUN (07 R221). -/
def SLOTS_RUN : Fld := ⟨.mxc, 0x0B0, 0, 32, .ro, 0, 1, 0⟩
/-- SLOT_OVERRUNS (07 R221). -/
def SLOT_OVERRUNS : Fld := ⟨.mxc, 0x0B4, 0, 32, .ro, 0, 1, 0⟩
/-- CMD_FAULTS (07 R221). -/
def CMD_FAULTS : Fld := ⟨.mxc, 0x0B8, 0, 32, .ro, 0, 1, 0⟩
/-- MACS (07 R221). -/
def MACS : Fld := ⟨.mxc, 0x0C0, 0, 64, .ro, 0, 1, 0⟩
/-- SKIM_SKIPPED (07 R221). -/
def SKIM_SKIPPED : Fld := ⟨.mxc, 0x0C8, 0, 64, .ro, 0, 1, 0⟩
/-- NAN_OUT (07 R221). -/
def NAN_OUT : Fld := ⟨.mxc, 0x0D0, 0, 32, .ro, 0, 1, 0⟩
/-- SAT_OUT (07 R221). -/
def SAT_OUT : Fld := ⟨.mxc, 0x0D4, 0, 32, .ro, 0, 1, 0⟩
/-- ACC_SAT (07 R221). -/
def ACC_SAT : Fld := ⟨.mxc, 0x0D8, 0, 32, .ro, 0, 1, 0⟩
/-- TOK_OVER (07 R221). -/
def TOK_OVER : Fld := ⟨.mxc, 0x0DC, 0, 32, .ro, 0, 1, 0⟩
/-- DMA_BYTES (07 R221). -/
def DMA_BYTES : Fld := ⟨.mxc, 0x0E0, 0, 64, .ro, 0, 1, 0⟩
/-- SEM_SAT (07 R221). -/
def SEM_SAT : Fld := ⟨.mxc, 0x0E8, 0, 32, .ro, 0, 1, 0⟩
/-- START (07 R221). -/
def START : Fld := ⟨.mxc, 0x0F0, 0, 1, .wo, 0, 1, 0⟩
/-- Every field of the page. -/
def all : List Fld :=
  [GROUP, BOUND, PROG_BASE, PROG_LEN, DEADLINE_NS, SEM_INIT, SEM_NOW, SLOT_RUNNING,
   LAST_STATUS, CQ_LEVEL, CF_INDEX, CF_CODE, CF_VALID, SLOT_N, TAU_LAST, TJ_LAST,
   DROOP_LAST, SEQ_LAST, SLOTS_RUN, SLOT_OVERRUNS, CMD_FAULTS, MACS, SKIM_SKIPPED, NAN_OUT,
   SAT_OUT, ACC_SAT, TOK_OVER, DMA_BYTES, SEM_SAT, START]

end Regs.MXC

namespace Regs.TOK

/-- BUF_INDEX (07 R222). -/
def BUF_INDEX : Fld := ⟨.tok, 0x040, 0, 5, .rw, 0, 1, 0⟩
/-- BUF_EN (07 R222). -/
def BUF_EN : Fld := ⟨.tok, 0x044, 0, 1, .rw, 0, 1, 0⟩
/-- GROUP (07 R222). -/
def GROUP : Fld := ⟨.tok, 0x044, 1, 2, .rw, 0, 1, 0⟩
/-- FENCED_EN (07 R222). -/
def FENCED_EN : Fld := ⟨.tok, 0x044, 3, 1, .rw, 1, 1, 0⟩
/-- CELL_SHIFT (07 R222). -/
def CELL_SHIFT : Fld := ⟨.tok, 0x044, 4, 3, .rw, 5, 1, 0⟩
/-- S0 (07 R222). -/
def S0 : Fld := ⟨.tok, 0x044, 8, 6, .rw, 0, 1, 0⟩
/-- NS (07 R222). -/
def NS : Fld := ⟨.tok, 0x044, 14, 6, .rw, 1, 1, 0⟩
/-- X0 (07 R222). -/
def X0 : Fld := ⟨.tok, 0x048, 0, 11, .rw, 0, 1, 0⟩
/-- Y0 (07 R222). -/
def Y0 : Fld := ⟨.tok, 0x048, 16, 11, .rw, 0, 1, 0⟩
/-- GW (07 R222). -/
def GW : Fld := ⟨.tok, 0x04C, 0, 7, .rw, 0x14, 1, 0⟩
/-- GH (07 R222). -/
def GH : Fld := ⟨.tok, 0x04C, 8, 7, .rw, 0xF, 1, 0⟩
/-- BASE (07 R222). -/
def BASE : Fld := ⟨.tok, 0x050, 0, 21, .rw, 0, 1, 0⟩
/-- TTL_NS (07 R222). -/
def TTL_NS : Fld := ⟨.tok, 0x054, 0, 32, .rw, 0, 1, 0⟩
/-- SETTLE (07 R222). -/
def SETTLE : Fld := ⟨.tok, 0x058, 0, 8, .rw, 4, 1, 0⟩
/-- FENCE_READERS (07 R222). -/
def FENCE_READERS : Fld := ⟨.tok, 0x058, 8, 4, .rw, 1, 1, 0⟩
/-- RECORDS_IN (07 R222). -/
def RECORDS_IN : Fld := ⟨.tok, 0x080, 0, 32, .ro, 0, 1, 0⟩
/-- REPLACED (07 R222). -/
def REPLACED : Fld := ⟨.tok, 0x084, 0, 32, .ro, 0, 1, 0⟩
/-- OLDER (07 R222). -/
def OLDER : Fld := ⟨.tok, 0x088, 0, 32, .ro, 0, 1, 0⟩
/-- TOK_LATE (07 R222). -/
def TOK_LATE : Fld := ⟨.tok, 0x08C, 0, 32, .ro, 0, 1, 0⟩
/-- OUTSIDE (07 R222). -/
def OUTSIDE : Fld := ⟨.tok, 0x090, 0, 32, .ro, 0, 1, 0⟩
/-- NO_BUF (07 R222). -/
def NO_BUF : Fld := ⟨.tok, 0x094, 0, 32, .ro, 0, 1, 0⟩
/-- BAD_REC (07 R222). -/
def BAD_REC : Fld := ⟨.tok, 0x098, 0, 32, .ro, 0, 1, 0⟩
/-- FORCED (07 R222). -/
def FORCED : Fld := ⟨.tok, 0x09C, 0, 32, .ro, 0, 1, 0⟩
/-- PEND_LEVEL (07 R222; reset column: —). -/
def PEND_LEVEL : Fld := ⟨.tok, 0x0A0, 0, 11, .ro, 0, 1, 0⟩
/-- PEND_STALL (07 R222). -/
def PEND_STALL : Fld := ⟨.tok, 0x0A4, 0, 32, .ro, 0, 1, 0⟩
/-- Every field of the page. -/
def all : List Fld :=
  [BUF_INDEX, BUF_EN, GROUP, FENCED_EN, CELL_SHIFT, S0, NS, X0,
   Y0, GW, GH, BASE, TTL_NS, SETTLE, FENCE_READERS, RECORDS_IN,
   REPLACED, OLDER, TOK_LATE, OUTSIDE, NO_BUF, BAD_REC, FORCED, PEND_LEVEL,
   PEND_STALL]

end Regs.TOK

namespace Regs.GOV

/-- SKIM_GOV_EN (07 R223). -/
def SKIM_GOV_EN : Fld := ⟨.gov, 0x100, 0, 1, .rw, 1, 1, 0⟩
/-- T_KNEE (07 R223). -/
def T_KNEE : Fld := ⟨.gov, 0x104, 0, 8, .rw, 0x5F, 1, 0⟩
/-- G_T (07 R223). -/
def G_T : Fld := ⟨.gov, 0x108, 0, 32, .rw, 0x3E000000, 1, 0⟩
/-- G_D (07 R223). -/
def G_D : Fld := ⟨.gov, 0x10C, 0, 32, .rw, 0x3E800000, 1, 0⟩
/-- AVS_EN (15 R424). -/
def AVS_EN : Fld := ⟨.gov, 0x040, 0, 1, .rw, 1, 1, 0⟩
/-- FIX_MV (15 R424). -/
def FIX_MV : Fld := ⟨.gov, 0x044, 0, 10, .rw, 0x2EE, 1, 0⟩
/-- SET_MV (15 R424; reset column: —). -/
def SET_MV : Fld := ⟨.gov, 0x044, 16, 10, .ro, 0, 1, 0⟩
/-- TJ_DIE (15 R424; reset column: —). -/
def TJ_DIE : Fld := ⟨.gov, 0x048, 0, 32, .ro, 0, 1, 0⟩
/-- TJ_HUB (15 R424; reset column: —). -/
def TJ_HUB : Fld := ⟨.gov, 0x04C, 0, 8, .ro, 0, 1, 0⟩
/-- TJ_WARN (15 R424). -/
def TJ_WARN : Fld := ⟨.gov, 0x050, 0, 8, .rw, 0x64, 1, 0⟩
/-- Every field of the page. -/
def all : List Fld :=
  [SKIM_GOV_EN, T_KNEE, G_T, G_D, AVS_EN, FIX_MV, SET_MV, TJ_DIE,
   TJ_HUB, TJ_WARN]

end Regs.GOV

namespace Regs.MESH

/-- FLITS (08 R490). -/
def FLITS : Fld := ⟨.mesh, 0x040, 0, 64, .ro, 0, 1, 0⟩
/-- ROW_STALL (08 R490). -/
def ROW_STALL : Fld := ⟨.mesh, 0x048, 0, 32, .ro, 0, 16, 4⟩
/-- TAG_STALL (08 R490). -/
def TAG_STALL : Fld := ⟨.mesh, 0x088, 0, 32, .ro, 0, 1, 0⟩
/-- ACKS (08 R490). -/
def ACKS : Fld := ⟨.mesh, 0x08C, 0, 32, .ro, 0, 1, 0⟩
/-- Every field of the page. -/
def all : List Fld :=
  [FLITS, ROW_STALL, TAG_STALL, ACKS]

end Regs.MESH

namespace Regs.UCIE

/-- LINK_UP (08 R490). -/
def LINK_UP : Fld := ⟨.ucie, 0x040, 0, 1, .ro, 0, 1, 0⟩
/-- TX_FLITS (08 R490). -/
def TX_FLITS : Fld := ⟨.ucie, 0x044, 0, 64, .ro, 0, 1, 0⟩
/-- RX_FLITS (08 R490). -/
def RX_FLITS : Fld := ⟨.ucie, 0x04C, 0, 64, .ro, 0, 1, 0⟩
/-- CRC_ERR (08 R490). -/
def CRC_ERR : Fld := ⟨.ucie, 0x054, 0, 32, .ro, 0, 1, 0⟩
/-- CREDIT_STALL_CLASS (08 R490). -/
def CREDIT_STALL_CLASS : Fld := ⟨.ucie, 0x058, 0, 32, .ro, 0, 5, 4⟩
/-- DATA_FLITS (08 R490). -/
def DATA_FLITS : Fld := ⟨.ucie, 0x06C, 0, 32, .ro, 0, 1, 0⟩
/-- Every field of the page. -/
def all : List Fld :=
  [LINK_UP, TX_FLITS, RX_FLITS, CRC_ERR, CREDIT_STALL_CLASS, DATA_FLITS]

end Regs.UCIE

namespace Regs.DDR

/-- L2_CAP (08 R490). -/
def L2_CAP : Fld := ⟨.ddr, 0x100, 0, 16, .rw, 0x5000, 1, 0⟩
/-- BYTES_L2 (08 R490). -/
def BYTES_L2 : Fld := ⟨.ddr, 0x108, 0, 64, .ro, 0, 1, 0⟩
/-- BYTES_L5 (08 R490). -/
def BYTES_L5 : Fld := ⟨.ddr, 0x110, 0, 64, .ro, 0, 1, 0⟩
/-- L2_CAP_STALL (08 R490). -/
def L2_CAP_STALL : Fld := ⟨.ddr, 0x118, 0, 32, .ro, 0, 1, 0⟩
/-- TRAIN_STATE (15 R426). -/
def TRAIN_STATE : Fld := ⟨.ddr, 0x040, 0, 3, .ro, 0, 1, 0⟩
/-- RANKS (15 R426). -/
def RANKS : Fld := ⟨.ddr, 0x044, 0, 2, .ro, 0, 1, 0⟩
/-- CAPACITY_MB (15 R426). -/
def CAPACITY_MB : Fld := ⟨.ddr, 0x044, 16, 16, .ro, 0, 1, 0⟩
/-- TRAIN_FAIL (15 R426). -/
def TRAIN_FAIL : Fld := ⟨.ddr, 0x048, 0, 3, .ro, 0, 1, 0⟩
/-- TRAIN_MS (15 R426). -/
def TRAIN_MS : Fld := ⟨.ddr, 0x04C, 0, 16, .ro, 0, 1, 0⟩
/-- RD_MARGIN_PS (15 R426). -/
def RD_MARGIN_PS : Fld := ⟨.ddr, 0x050, 0, 16, .ro, 0, 1, 0⟩
/-- WR_MARGIN_PS (15 R426). -/
def WR_MARGIN_PS : Fld := ⟨.ddr, 0x050, 16, 16, .ro, 0, 1, 0⟩
/-- SR_ENTRIES (15 R426). -/
def SR_ENTRIES : Fld := ⟨.ddr, 0x054, 0, 32, .ro, 0, 1, 0⟩
/-- SCRUB_HOURS (16 R466). -/
def SCRUB_HOURS : Fld := ⟨.ddr, 0x080, 0, 8, .rw, 0x18, 1, 0⟩
/-- SCRUB_PASSES (16 R466). -/
def SCRUB_PASSES : Fld := ⟨.ddr, 0x084, 0, 32, .ro, 0, 1, 0⟩
/-- LAST_ERR_ADDR (16 R466). -/
def LAST_ERR_ADDR : Fld := ⟨.ddr, 0x088, 0, 64, .ro, 0, 1, 0⟩
/-- SYNDROME (16 R466). -/
def SYNDROME : Fld := ⟨.ddr, 0x090, 0, 8, .ro, 0, 1, 0⟩
/-- UNCORRECTABLE (16 R466). -/
def UNCORRECTABLE : Fld := ⟨.ddr, 0x090, 8, 1, .ro, 0, 1, 0⟩
/-- LASTING (16 R466). -/
def LASTING : Fld := ⟨.ddr, 0x090, 9, 1, .ro, 0, 1, 0⟩
/-- RANK (16 R466). -/
def RANK : Fld := ⟨.ddr, 0x090, 10, 1, .ro, 0, 1, 0⟩
/-- BANK (16 R466). -/
def BANK : Fld := ⟨.ddr, 0x090, 12, 4, .ro, 0, 1, 0⟩
/-- FIRST_ERRORS (16 R466). -/
def FIRST_ERRORS : Fld := ⟨.ddr, 0x094, 0, 32, .ro, 0, 1, 0⟩
/-- Every field of the page. -/
def all : List Fld :=
  [L2_CAP, BYTES_L2, BYTES_L5, L2_CAP_STALL, TRAIN_STATE, RANKS, CAPACITY_MB, TRAIN_FAIL,
   TRAIN_MS, RD_MARGIN_PS, WR_MARGIN_PS, SR_ENTRIES, SCRUB_HOURS, SCRUB_PASSES, LAST_ERR_ADDR, SYNDROME,
   UNCORRECTABLE, LASTING, RANK, BANK, FIRST_ERRORS]

end Regs.DDR

namespace Regs.RFB

/-- PROC_TICK (09 R262; reset column: —). -/
def PROC_TICK : Fld := ⟨.rfb, 0x040, 0, 32, .ro, 0, 1, 0⟩
/-- SYNC_MASK (09 R262). -/
def SYNC_MASK : Fld := ⟨.rfb, 0x044, 0, 16, .rw, 0, 1, 0⟩
/-- SYNC_TICK (09 R262). -/
def SYNC_TICK : Fld := ⟨.rfb, 0x048, 0, 32, .rw, 0, 1, 0⟩
/-- SYNC_ARM (09 R262). -/
def SYNC_ARM : Fld := ⟨.rfb, 0x04C, 0, 1, .wo, 0, 1, 0⟩
/-- SYNC_PENDING (09 R262). -/
def SYNC_PENDING : Fld := ⟨.rfb, 0x04C, 1, 1, .ro, 0, 1, 0⟩
/-- PROF_INDEX (09 R262). -/
def PROF_INDEX : Fld := ⟨.rfb, 0x050, 0, 4, .rw, 0, 1, 0⟩
/-- PRESET (09 R262). -/
def PRESET : Fld := ⟨.rfb, 0x054, 0, 2, .rw, 0, 1, 0⟩
/-- S1 (09 R262). -/
def S1 : Fld := ⟨.rfb, 0x054, 2, 5, .rw, 4, 1, 0⟩
/-- S2 (09 R262). -/
def S2 : Fld := ⟨.rfb, 0x054, 7, 5, .rw, 0x10, 1, 0⟩
/-- K (09 R262). -/
def K : Fld := ⟨.rfb, 0x054, 12, 5, .rw, 0xA, 1, 0⟩
/-- NTAPS_M1 (09 R262). -/
def NTAPS_M1 : Fld := ⟨.rfb, 0x054, 17, 6, .rw, 0, 1, 0⟩
/-- FLK_ON (09 R262). -/
def FLK_ON : Fld := ⟨.rfb, 0x058, 0, 8, .rw, 0x80, 1, 0⟩
/-- FLK_OFF (09 R262). -/
def FLK_OFF : Fld := ⟨.rfb, 0x058, 8, 8, .rw, 0x40, 1, 0⟩
/-- FLK_DK (09 R262). -/
def FLK_DK : Fld := ⟨.rfb, 0x058, 16, 4, .rw, 4, 1, 0⟩
/-- FLK_MIN (09 R262). -/
def FLK_MIN : Fld := ⟨.rfb, 0x05C, 0, 16, .rw, 8, 1, 0⟩
/-- COMMIT (09 R262). -/
def COMMIT : Fld := ⟨.rfb, 0x060, 0, 1, .wo, 0, 1, 0⟩
/-- SWAP (09 R262). -/
def SWAP : Fld := ⟨.rfb, 0x060, 1, 1, .wo, 0, 1, 0⟩
/-- COMMIT_PENDING (09 R262). -/
def COMMIT_PENDING : Fld := ⟨.rfb, 0x064, 0, 1, .ro, 0, 1, 0⟩
/-- XF_ACTIVE (09 R262). -/
def XF_ACTIVE : Fld := ⟨.rfb, 0x064, 1, 1, .ro, 0, 1, 0⟩
/-- PENDING (09 R262). -/
def PENDING : Fld := ⟨.rfb, 0x064, 2, 1, .ro, 0, 1, 0⟩
/-- ACTIVE_BANK (09 R262). -/
def ACTIVE_BANK : Fld := ⟨.rfb, 0x064, 3, 1, .ro, 0, 1, 0⟩
/-- SLOT_A (09 R262; reset column: p). -/
def SLOT_A : Fld := ⟨.rfb, 0x064, 8, 5, .ro, 0, 1, 0⟩
/-- SLOT_B (09 R262; reset column: p). -/
def SLOT_B : Fld := ⟨.rfb, 0x064, 16, 5, .ro, 0, 1, 0⟩
/-- GEN (09 R262). -/
def GEN : Fld := ⟨.rfb, 0x068, 0, 8, .ro, 0, 1, 0⟩
/-- PEND_GEN (09 R262). -/
def PEND_GEN : Fld := ⟨.rfb, 0x068, 8, 8, .ro, 0, 1, 0⟩
/-- XF_POS (09 R262). -/
def XF_POS : Fld := ⟨.rfb, 0x068, 16, 9, .ro, 0, 1, 0⟩
/-- REQ_SLOT (09 R262). -/
def REQ_SLOT : Fld := ⟨.rfb, 0x06C, 0, 5, .rw, 0, 1, 0⟩
/-- REQ_GEN (09 R262). -/
def REQ_GEN : Fld := ⟨.rfb, 0x06C, 8, 8, .rw, 0, 1, 0⟩
/-- XF_LEN (09 R262). -/
def XF_LEN : Fld := ⟨.rfb, 0x06C, 16, 9, .rw, 0, 1, 0⟩
/-- COEF_SLOT (09 R262). -/
def COEF_SLOT : Fld := ⟨.rfb, 0x070, 0, 5, .rw, 0, 1, 0⟩
/-- COEF_TAP (09 R262). -/
def COEF_TAP : Fld := ⟨.rfb, 0x070, 8, 6, .rw, 0, 1, 0⟩
/-- COEF_DATA (09 R262; reset column: —). -/
def COEF_DATA : Fld := ⟨.rfb, 0x074, 0, 18, .rw, 0, 1, 0⟩
/-- SWAPS_DONE (09 R262). -/
def SWAPS_DONE : Fld := ⟨.rfb, 0x080, 0, 32, .ro, 0, 1, 0⟩
/-- SWAPS_REFUSED (09 R262). -/
def SWAPS_REFUSED : Fld := ⟨.rfb, 0x084, 0, 32, .ro, 0, 1, 0⟩
/-- PEND_REPLACED (09 R262). -/
def PEND_REPLACED : Fld := ⟨.rfb, 0x088, 0, 32, .ro, 0, 1, 0⟩
/-- SYNC_LATE (09 R262). -/
def SYNC_LATE : Fld := ⟨.rfb, 0x08C, 0, 32, .ro, 0, 1, 0⟩
/-- HIST_OLD (09 R262). -/
def HIST_OLD : Fld := ⟨.rfb, 0x090, 0, 32, .ro, 0, 1, 0⟩
/-- HIST_EARLY (09 R262). -/
def HIST_EARLY : Fld := ⟨.rfb, 0x094, 0, 32, .ro, 0, 1, 0⟩
/-- SAT_S1 (09 R262). -/
def SAT_S1 : Fld := ⟨.rfb, 0x098, 0, 32, .ro, 0, 1, 0⟩
/-- SAT_HB (09 R262). -/
def SAT_HB : Fld := ⟨.rfb, 0x09C, 0, 32, .ro, 0, 1, 0⟩
/-- SAT_S2 (09 R262). -/
def SAT_S2 : Fld := ⟨.rfb, 0x0A0, 0, 32, .ro, 0, 1, 0⟩
/-- SAT_FINE (09 R262). -/
def SAT_FINE : Fld := ⟨.rfb, 0x0A4, 0, 32, .ro, 0, 1, 0⟩
/-- SAT_COARSE (09 R262). -/
def SAT_COARSE : Fld := ⟨.rfb, 0x0A8, 0, 32, .ro, 0, 1, 0⟩
/-- Every field of the page. -/
def all : List Fld :=
  [PROC_TICK, SYNC_MASK, SYNC_TICK, SYNC_ARM, SYNC_PENDING, PROF_INDEX, PRESET, S1,
   S2, K, NTAPS_M1, FLK_ON, FLK_OFF, FLK_DK, FLK_MIN, COMMIT,
   SWAP, COMMIT_PENDING, XF_ACTIVE, PENDING, ACTIVE_BANK, SLOT_A, SLOT_B, GEN,
   PEND_GEN, XF_POS, REQ_SLOT, REQ_GEN, XF_LEN, COEF_SLOT, COEF_TAP, COEF_DATA,
   SWAPS_DONE, SWAPS_REFUSED, PEND_REPLACED, SYNC_LATE, HIST_OLD, HIST_EARLY, SAT_S1, SAT_HB] ++
  [SAT_S2, SAT_FINE, SAT_COARSE]

end Regs.RFB

namespace Regs.RFBS

/-- FLICKER_NOW (09 R263; reset column: —). -/
def FLICKER_NOW : Fld := ⟨.rfbs, 0x040, 0, 32, .ro, 0, 1, 0⟩
/-- VALID_NOW (09 R263; reset column: —). -/
def VALID_NOW : Fld := ⟨.rfbs, 0x044, 0, 32, .ro, 0, 1, 0⟩
/-- SWITCH_PENDING (09 R263). -/
def SWITCH_PENDING : Fld := ⟨.rfbs, 0x048, 0, 32, .ro, 0, 1, 0⟩
/-- CH_EN (09 R263). -/
def CH_EN : Fld := ⟨.rfbs, 0x100, 0, 1, .rw, 0, 32, 16⟩
/-- PROF (09 R263). -/
def PROF : Fld := ⟨.rfbs, 0x100, 1, 4, .rw, 0, 32, 16⟩
/-- DLY (09 R263). -/
def DLY : Fld := ⟨.rfbs, 0x100, 8, 8, .rw, 0, 32, 16⟩
/-- FREEZE (09 R263). -/
def FREEZE : Fld := ⟨.rfbs, 0x100, 16, 1, .rw, 0, 32, 16⟩
/-- FINE (09 R263). -/
def FINE : Fld := ⟨.rfbs, 0x104, 0, 24, .ro, 0, 32, 16⟩
/-- VALID (09 R263). -/
def VALID : Fld := ⟨.rfbs, 0x104, 24, 1, .ro, 0, 32, 16⟩
/-- FLICKER (09 R263). -/
def FLICKER : Fld := ⟨.rfbs, 0x104, 25, 1, .ro, 0, 32, 16⟩
/-- SEQ_FINE (09 R263). -/
def SEQ_FINE : Fld := ⟨.rfbs, 0x104, 26, 6, .ro, 0, 32, 16⟩
/-- COARSE (09 R263). -/
def COARSE : Fld := ⟨.rfbs, 0x108, 0, 16, .ro, 0, 32, 16⟩
/-- SEQ_COARSE (09 R263). -/
def SEQ_COARSE : Fld := ⟨.rfbs, 0x108, 16, 6, .ro, 0, 32, 16⟩
/-- METRIC (09 R263). -/
def METRIC : Fld := ⟨.rfbs, 0x10C, 0, 24, .ro, 0, 32, 16⟩
/-- Every field of the page. -/
def all : List Fld :=
  [FLICKER_NOW, VALID_NOW, SWITCH_PENDING, CH_EN, PROF, DLY, FREEZE, FINE,
   VALID, FLICKER, SEQ_FINE, COARSE, SEQ_COARSE, METRIC]

end Regs.RFBS

namespace Regs.FUSE

/-- HEAL (10 R302). -/
def HEAL : Fld := ⟨.fuse, 0x040, 0, 8, .rw, 2, 1, 0⟩
/-- P_CONF (10 R302). -/
def P_CONF : Fld := ⟨.fuse, 0x040, 8, 8, .rw, 8, 1, 0⟩
/-- P_DEC (10 R302). -/
def P_DEC : Fld := ⟨.fuse, 0x040, 16, 8, .rw, 0x20, 1, 0⟩
/-- P_ALIGN (10 R302). -/
def P_ALIGN : Fld := ⟨.fuse, 0x040, 24, 8, .rw, 0x10, 1, 0⟩
/-- P_RATE (10 R302). -/
def P_RATE : Fld := ⟨.fuse, 0x044, 0, 8, .rw, 8, 1, 0⟩
/-- MASK_LEVEL (10 R302). -/
def MASK_LEVEL : Fld := ⟨.fuse, 0x044, 8, 8, .rw, 0x40, 1, 0⟩
/-- UNMASK_LEVEL (10 R302). -/
def UNMASK_LEVEL : Fld := ⟨.fuse, 0x044, 16, 8, .rw, 0x80, 1, 0⟩
/-- INIT_HEALTH (10 R302). -/
def INIT_HEALTH : Fld := ⟨.fuse, 0x044, 24, 8, .rw, 0xFF, 1, 0⟩
/-- RATE_GATE (10 R302). -/
def RATE_GATE : Fld := ⟨.fuse, 0x048, 0, 8, .rw, 0x30, 1, 0⟩
/-- RATE_FLOOR (10 R302). -/
def RATE_FLOOR : Fld := ⟨.fuse, 0x048, 8, 16, .rw, 0x10, 1, 0⟩
/-- EGO_GATE (10 R302). -/
def EGO_GATE : Fld := ⟨.fuse, 0x04C, 0, 32, .rw, 0x3DCCCCCD, 1, 0⟩
/-- EGO_HUBER (10 R302). -/
def EGO_HUBER : Fld := ⟨.fuse, 0x050, 0, 32, .rw, 0x3D4CCCCD, 1, 0⟩
/-- BIN_MIN (10 R302). -/
def BIN_MIN : Fld := ⟨.fuse, 0x054, 0, 16, .rw, 0x100, 1, 0⟩
/-- EGO_MIN_BINS (10 R302). -/
def EGO_MIN_BINS : Fld := ⟨.fuse, 0x054, 16, 8, .rw, 8, 1, 0⟩
/-- RATE_LO (10 R302). -/
def RATE_LO : Fld := ⟨.fuse, 0x058, 0, 32, .rw, 0, 1, 0⟩
/-- RATE_HI (10 R302). -/
def RATE_HI : Fld := ⟨.fuse, 0x05C, 0, 32, .rw, 0xFFFFFF, 1, 0⟩
/-- SW_MASK (10 R302). -/
def SW_MASK : Fld := ⟨.fuse, 0x060, 0, 64, .rw, 0, 1, 0⟩
/-- ZONE_INDEX (10 R302). -/
def ZONE_INDEX : Fld := ⟨.fuse, 0x068, 0, 6, .rw, 0, 1, 0⟩
/-- ZONE_MEM (10 R302). -/
def ZONE_MEM : Fld := ⟨.fuse, 0x06C, 0, 32, .rw, 0, 4, 4⟩
/-- ZONE_EN (10 R302). -/
def ZONE_EN : Fld := ⟨.fuse, 0x07C, 0, 1, .rw, 0, 1, 0⟩
/-- ZONE_GROUP (10 R302). -/
def ZONE_GROUP : Fld := ⟨.fuse, 0x07C, 1, 2, .rw, 0, 1, 0⟩
/-- HEALTH (10 R302). -/
def HEALTH : Fld := ⟨.fuse, 0x080, 0, 8, .ro, 0, 36, 4⟩
/-- REASONS (10 R302). -/
def REASONS : Fld := ⟨.fuse, 0x080, 8, 6, .ro, 0, 36, 4⟩
/-- DISPUTED (10 R302). -/
def DISPUTED : Fld := ⟨.fuse, 0x080, 16, 1, .ro, 0, 36, 4⟩
/-- HOME (10 R302). -/
def HOME : Fld := ⟨.fuse, 0x080, 17, 2, .ro, 0, 36, 4⟩
/-- HOME_VALID (10 R302). -/
def HOME_VALID : Fld := ⟨.fuse, 0x080, 19, 1, .ro, 0, 36, 4⟩
/-- FEAT_IN (10 R302). -/
def FEAT_IN : Fld := ⟨.fuse, 0x140, 0, 64, .ro, 0, 1, 0⟩
/-- FEAT_LATE (10 R302). -/
def FEAT_LATE : Fld := ⟨.fuse, 0x148, 0, 32, .ro, 0, 1, 0⟩
/-- FEAT_EARLY (10 R302). -/
def FEAT_EARLY : Fld := ⟨.fuse, 0x14C, 0, 32, .ro, 0, 1, 0⟩
/-- FEAT_OVER (10 R302). -/
def FEAT_OVER : Fld := ⟨.fuse, 0x150, 0, 32, .ro, 0, 1, 0⟩
/-- FEAT_OTHER (10 R302). -/
def FEAT_OTHER : Fld := ⟨.fuse, 0x154, 0, 32, .ro, 0, 1, 0⟩
/-- CORNER_DROP (10 R302). -/
def CORNER_DROP : Fld := ⟨.fuse, 0x158, 0, 32, .ro, 0, 1, 0⟩
/-- BAD_RESULT (10 R302). -/
def BAD_RESULT : Fld := ⟨.fuse, 0x15C, 0, 32, .ro, 0, 1, 0⟩
/-- RESULT_LATE (10 R302). -/
def RESULT_LATE : Fld := ⟨.fuse, 0x160, 0, 32, .ro, 0, 1, 0⟩
/-- SAMPLE_RANGE (10 R302). -/
def SAMPLE_RANGE : Fld := ⟨.fuse, 0x164, 0, 32, .ro, 0, 1, 0⟩
/-- Every field of the page. -/
def all : List Fld :=
  [HEAL, P_CONF, P_DEC, P_ALIGN, P_RATE, MASK_LEVEL, UNMASK_LEVEL, INIT_HEALTH,
   RATE_GATE, RATE_FLOOR, EGO_GATE, EGO_HUBER, BIN_MIN, EGO_MIN_BINS, RATE_LO, RATE_HI,
   SW_MASK, ZONE_INDEX, ZONE_MEM, ZONE_EN, ZONE_GROUP, HEALTH, REASONS, DISPUTED,
   HOME, HOME_VALID, FEAT_IN, FEAT_LATE, FEAT_EARLY, FEAT_OVER, FEAT_OTHER, CORNER_DROP,
   BAD_RESULT, RESULT_LATE, SAMPLE_RANGE]

end Regs.FUSE

namespace Regs.FG

/-- PERIOD_NS (10 R303). -/
def PERIOD_NS : Fld := ⟨.fg, 0x040, 0, 32, .rw, 0, 1, 0⟩
/-- SLOT_LATENCY_NS (10 R303). -/
def SLOT_LATENCY_NS : Fld := ⟨.fg, 0x044, 0, 32, .rw, 0x7A120, 1, 0⟩
/-- COLLECT_NS (10 R303). -/
def COLLECT_NS : Fld := ⟨.fg, 0x048, 0, 32, .rw, 0xC350, 1, 0⟩
/-- TIMEBASE (10 R303). -/
def TIMEBASE : Fld := ⟨.fg, 0x04C, 0, 1, .rw, 0, 1, 0⟩
/-- REPORT_TENT (10 R303). -/
def REPORT_TENT : Fld := ⟨.fg, 0x04C, 1, 1, .rw, 0, 1, 0⟩
/-- ACT_EN (10 R303). -/
def ACT_EN : Fld := ⟨.fg, 0x04C, 2, 1, .rw, 0, 1, 0⟩
/-- SAMPLE_RELEASE (10 R303). -/
def SAMPLE_RELEASE : Fld := ⟨.fg, 0x04C, 3, 1, .rw, 0, 1, 0⟩
/-- DEST (10 R303). -/
def DEST : Fld := ⟨.fg, 0x04C, 4, 4, .rw, 0, 1, 0⟩
/-- ANCHOR (10 R303). -/
def ANCHOR : Fld := ⟨.fg, 0x050, 0, 64, .rw, 0, 1, 0⟩
/-- SENS_SET (10 R303). -/
def SENS_SET : Fld := ⟨.fg, 0x058, 0, 64, .rw, 0, 1, 0⟩
/-- MAX_EXTRAP_NS (10 R303). -/
def MAX_EXTRAP_NS : Fld := ⟨.fg, 0x060, 0, 32, .rw, 0x4C4B40, 1, 0⟩
/-- LOOKAHEAD_NS (10 R303). -/
def LOOKAHEAD_NS : Fld := ⟨.fg, 0x064, 0, 32, .rw, 0, 1, 0⟩
/-- TRK_FIRST (10 R303). -/
def TRK_FIRST : Fld := ⟨.fg, 0x068, 0, 12, .rw, 0, 1, 0⟩
/-- TRK_NUM (10 R303). -/
def TRK_NUM : Fld := ⟨.fg, 0x068, 16, 13, .rw, 0, 1, 0⟩
/-- CONF_M (10 R303). -/
def CONF_M : Fld := ⟨.fg, 0x06C, 0, 4, .rw, 2, 1, 0⟩
/-- CONF_N (10 R303). -/
def CONF_N : Fld := ⟨.fg, 0x06C, 4, 4, .rw, 3, 1, 0⟩
/-- DEL_K (10 R303). -/
def DEL_K : Fld := ⟨.fg, 0x06C, 8, 8, .rw, 5, 1, 0⟩
/-- DEL_FLOOR (10 R303). -/
def DEL_FLOOR : Fld := ⟨.fg, 0x06C, 16, 8, .rw, 8, 1, 0⟩
/-- BIRTH_MIN (10 R303). -/
def BIRTH_MIN : Fld := ⟨.fg, 0x06C, 24, 8, .rw, 0x80, 1, 0⟩
/-- HIT_GAIN (10 R303). -/
def HIT_GAIN : Fld := ⟨.fg, 0x070, 0, 8, .rw, 0x20, 1, 0⟩
/-- MISS_LOSS (10 R303). -/
def MISS_LOSS : Fld := ⟨.fg, 0x070, 8, 8, .rw, 0x10, 1, 0⟩
/-- INIT_CONF (10 R303). -/
def INIT_CONF : Fld := ⟨.fg, 0x070, 16, 8, .rw, 0x40, 1, 0⟩
/-- GATE2 (10 R303). -/
def GATE2 : Fld := ⟨.fg, 0x074, 0, 32, .rw, 0x41135C29, 1, 0⟩
/-- SIGMA_PIX (10 R303). -/
def SIGMA_PIX : Fld := ⟨.fg, 0x078, 0, 32, .rw, 0x3F800000, 1, 0⟩
/-- Q_ACC (10 R303). -/
def Q_ACC : Fld := ⟨.fg, 0x07C, 0, 32, .rw, 0x40800000, 1, 0⟩
/-- RANGE0 (10 R303). -/
def RANGE0 : Fld := ⟨.fg, 0x080, 0, 32, .rw, 0x41200000, 1, 0⟩
/-- DET_MAX (10 R303). -/
def DET_MAX : Fld := ⟨.fg, 0x084, 0, 9, .rw, 0x20, 1, 0⟩
/-- CORNER_MAX (10 R303). -/
def CORNER_MAX : Fld := ⟨.fg, 0x084, 16, 8, .rw, 0x10, 1, 0⟩
/-- SAMPLE_INDEX (10 R303). -/
def SAMPLE_INDEX : Fld := ⟨.fg, 0x088, 0, 6, .rw, 0, 1, 0⟩
/-- SAMPLE_COUNT (10 R303). -/
def SAMPLE_COUNT : Fld := ⟨.fg, 0x088, 8, 7, .rw, 0, 1, 0⟩
/-- S_MAP (10 R303). -/
def S_MAP : Fld := ⟨.fg, 0x08C, 0, 6, .rw, 0, 1, 0⟩
/-- S_SRC (10 R303). -/
def S_SRC : Fld := ⟨.fg, 0x08C, 6, 1, .rw, 0, 1, 0⟩
/-- S_KEY (10 R303). -/
def S_KEY : Fld := ⟨.fg, 0x08C, 7, 6, .rw, 0, 1, 0⟩
/-- S_POL (10 R303). -/
def S_POL : Fld := ⟨.fg, 0x08C, 13, 3, .rw, 0, 1, 0⟩
/-- S_X (10 R303). -/
def S_X : Fld := ⟨.fg, 0x08C, 16, 11, .rw, 0, 1, 0⟩
/-- S_Y (10 R303). -/
def S_Y : Fld := ⟨.fg, 0x090, 0, 11, .rw, 0, 1, 0⟩
/-- SAMPLE_T_OFFSET (10 R303). -/
def SAMPLE_T_OFFSET : Fld := ⟨.fg, 0x094, 0, 32, .rw, 0, 1, 0⟩
/-- USER_MAX (10 R303). -/
def USER_MAX : Fld := ⟨.fg, 0x098, 0, 11, .rw, 0, 1, 0⟩
/-- SLOT_N (10 R303). -/
def SLOT_N : Fld := ⟨.fg, 0x0C0, 0, 64, .ro, 0, 1, 0⟩
/-- RUNNING (10 R303). -/
def RUNNING : Fld := ⟨.fg, 0x0C8, 0, 1, .ro, 0, 1, 0⟩
/-- ENABLE_REFUSED (10 R303). -/
def ENABLE_REFUSED : Fld := ⟨.fg, 0x0C8, 1, 1, .ro, 0, 1, 0⟩
/-- LAST_LATE_INPUT (10 R303). -/
def LAST_LATE_INPUT : Fld := ⟨.fg, 0x0C8, 2, 1, .ro, 0, 1, 0⟩
/-- SCALE_VALID (10 R303). -/
def SCALE_VALID : Fld := ⟨.fg, 0x0C8, 3, 1, .ro, 0, 1, 0⟩
/-- EGO_VALID (10 R303). -/
def EGO_VALID : Fld := ⟨.fg, 0x0C8, 4, 1, .ro, 0, 1, 0⟩
/-- BOUND_CYC (10 R303; reset column: —). -/
def BOUND_CYC : Fld := ⟨.fg, 0x0CC, 0, 32, .ro, 0, 1, 0⟩
/-- REPORT_MAX (10 R303; reset column: —). -/
def REPORT_MAX : Fld := ⟨.fg, 0x0D0, 0, 32, .ro, 0, 1, 0⟩
/-- PROC_PEAK (10 R303). -/
def PROC_PEAK : Fld := ⟨.fg, 0x0D4, 0, 32, .rc, 0, 1, 0⟩
/-- SLOTS_DONE (10 R303). -/
def SLOTS_DONE : Fld := ⟨.fg, 0x0E0, 0, 32, .ro, 0, 1, 0⟩
/-- DEGRADED_SLOTS (10 R303). -/
def DEGRADED_SLOTS : Fld := ⟨.fg, 0x0E4, 0, 32, .ro, 0, 1, 0⟩
/-- LATE_INPUT_SLOTS (10 R303). -/
def LATE_INPUT_SLOTS : Fld := ⟨.fg, 0x0E8, 0, 32, .ro, 0, 1, 0⟩
/-- SLOTS_SKIPPED (10 R303). -/
def SLOTS_SKIPPED : Fld := ⟨.fg, 0x0EC, 0, 32, .ro, 0, 1, 0⟩
/-- CONFLICT_SLOTS (10 R303). -/
def CONFLICT_SLOTS : Fld := ⟨.fg, 0x0F0, 0, 32, .ro, 0, 1, 0⟩
/-- EXTRAP_DROP (10 R303). -/
def EXTRAP_DROP : Fld := ⟨.fg, 0x0F4, 0, 32, .ro, 0, 1, 0⟩
/-- BIRTHS (10 R303). -/
def BIRTHS : Fld := ⟨.fg, 0x0F8, 0, 32, .ro, 0, 1, 0⟩
/-- BIRTH_FULL (10 R303). -/
def BIRTH_FULL : Fld := ⟨.fg, 0x0FC, 0, 32, .ro, 0, 1, 0⟩
/-- CONFIRMS (10 R303). -/
def CONFIRMS : Fld := ⟨.fg, 0x100, 0, 32, .ro, 0, 1, 0⟩
/-- DELETES (10 R303). -/
def DELETES : Fld := ⟨.fg, 0x104, 0, 32, .ro, 0, 1, 0⟩
/-- USER_TRUNC (10 R303). -/
def USER_TRUNC : Fld := ⟨.fg, 0x108, 0, 32, .ro, 0, 1, 0⟩
/-- Every field of the page. -/
def all : List Fld :=
  [PERIOD_NS, SLOT_LATENCY_NS, COLLECT_NS, TIMEBASE, REPORT_TENT, ACT_EN, SAMPLE_RELEASE, DEST,
   ANCHOR, SENS_SET, MAX_EXTRAP_NS, LOOKAHEAD_NS, TRK_FIRST, TRK_NUM, CONF_M, CONF_N,
   DEL_K, DEL_FLOOR, BIRTH_MIN, HIT_GAIN, MISS_LOSS, INIT_CONF, GATE2, SIGMA_PIX,
   Q_ACC, RANGE0, DET_MAX, CORNER_MAX, SAMPLE_INDEX, SAMPLE_COUNT, S_MAP, S_SRC,
   S_KEY, S_POL, S_X, S_Y, SAMPLE_T_OFFSET, USER_MAX, SLOT_N, RUNNING] ++
  [ENABLE_REFUSED, LAST_LATE_INPUT, SCALE_VALID, EGO_VALID, BOUND_CYC, REPORT_MAX, PROC_PEAK, SLOTS_DONE,
   DEGRADED_SLOTS, LATE_INPUT_SLOTS, SLOTS_SKIPPED, CONFLICT_SLOTS, EXTRAP_DROP, BIRTHS, BIRTH_FULL, CONFIRMS,
   DELETES, USER_TRUNC]

end Regs.FG

namespace Regs.TRK

/-- TRK_INDEX (10 R304). -/
def TRK_INDEX : Fld := ⟨.trk, 0x040, 0, 12, .rw, 0, 1, 0⟩
/-- KILL_INDEX (10 R304). -/
def KILL_INDEX : Fld := ⟨.trk, 0x044, 0, 12, .wo, 0, 1, 0⟩
/-- KILL (10 R304). -/
def KILL : Fld := ⟨.trk, 0x044, 31, 1, .wo, 0, 1, 0⟩
/-- LIVE (10 R304). -/
def LIVE : Fld := ⟨.trk, 0x048, 0, 13, .ro, 0, 1, 0⟩
/-- TRK_REC (10 R304). -/
def TRK_REC : Fld := ⟨.trk, 0x080, 0, 32, .ro, 0, 16, 4⟩
/-- Every field of the page. -/
def all : List Fld :=
  [TRK_INDEX, KILL_INDEX, KILL, LIVE, TRK_REC]

end Regs.TRK

namespace Regs.CAL

/-- CAL_SENSOR (10 R305). -/
def CAL_SENSOR : Fld := ⟨.cal, 0x040, 0, 6, .rw, 0, 1, 0⟩
/-- CAL_WORD (10 R305). -/
def CAL_WORD : Fld := ⟨.cal, 0x044, 0, 12, .rw, 0, 1, 0⟩
/-- CAL_DATA (10 R305). -/
def CAL_DATA : Fld := ⟨.cal, 0x048, 0, 32, .rw, 0, 1, 0⟩
/-- CAL_REQ_GEN (10 R305). -/
def CAL_REQ_GEN : Fld := ⟨.cal, 0x04C, 0, 8, .rw, 0, 1, 0⟩
/-- CAL_SWITCH (10 R305). -/
def CAL_SWITCH : Fld := ⟨.cal, 0x050, 0, 1, .wo, 0, 1, 0⟩
/-- ACTIVE_BANK (10 R305). -/
def ACTIVE_BANK : Fld := ⟨.cal, 0x054, 0, 1, .ro, 0, 1, 0⟩
/-- PENDING (10 R305). -/
def PENDING : Fld := ⟨.cal, 0x054, 1, 1, .ro, 0, 1, 0⟩
/-- GEN (10 R305). -/
def GEN : Fld := ⟨.cal, 0x054, 8, 8, .ro, 0, 1, 0⟩
/-- PEND_GEN (10 R305). -/
def PEND_GEN : Fld := ⟨.cal, 0x054, 16, 8, .ro, 0, 1, 0⟩
/-- SWITCHES (10 R305). -/
def SWITCHES : Fld := ⟨.cal, 0x058, 0, 32, .ro, 0, 1, 0⟩
/-- SWITCHES_REFUSED (10 R305). -/
def SWITCHES_REFUSED : Fld := ⟨.cal, 0x05C, 0, 32, .ro, 0, 1, 0⟩
/-- Every field of the page. -/
def all : List Fld :=
  [CAL_SENSOR, CAL_WORD, CAL_DATA, CAL_REQ_GEN, CAL_SWITCH, ACTIVE_BANK, PENDING, GEN,
   PEND_GEN, SWITCHES, SWITCHES_REFUSED]

end Regs.CAL

namespace Regs.JSTR

/-- SIZE_LOG (11 R320). -/
def SIZE_LOG : Fld := ⟨.jstr, 0x040, 0, 6, .rw, 0x14, 1, 0⟩
/-- STAGE_LINES (11 R320). -/
def STAGE_LINES : Fld := ⟨.jstr, 0x044, 0, 16, .rw, 0x100, 1, 0⟩
/-- RING_BASE (11 R320). -/
def RING_BASE : Fld := ⟨.jstr, 0x048, 0, 64, .rw, 0, 1, 0⟩
/-- WP (11 R320). -/
def WP : Fld := ⟨.jstr, 0x050, 0, 64, .ro, 0, 1, 0⟩
/-- OVERTAKEN (11 R320). -/
def OVERTAKEN : Fld := ⟨.jstr, 0x058, 0, 8, .w1c, 0, 1, 0⟩
/-- GAP_OPEN (11 R320). -/
def GAP_OPEN : Fld := ⟨.jstr, 0x058, 8, 1, .ro, 0, 1, 0⟩
/-- MARK_VALID (11 R320). -/
def MARK_VALID : Fld := ⟨.jstr, 0x05C, 0, 8, .ro, 0, 1, 0⟩
/-- MARK_PENDING (11 R320). -/
def MARK_PENDING : Fld := ⟨.jstr, 0x05C, 8, 8, .ro, 0, 1, 0⟩
/-- MARK_CMD_INDEX (11 R320). -/
def MARK_CMD_INDEX : Fld := ⟨.jstr, 0x060, 0, 3, .wo, 0, 1, 0⟩
/-- MARK_CMD_OP (11 R320). -/
def MARK_CMD_OP : Fld := ⟨.jstr, 0x060, 8, 2, .wo, 0, 1, 0⟩
/-- MARK_SEL (11 R320). -/
def MARK_SEL : Fld := ⟨.jstr, 0x064, 0, 3, .rw, 0, 1, 0⟩
/-- MARK_POS (11 R320). -/
def MARK_POS : Fld := ⟨.jstr, 0x068, 0, 64, .ro, 0, 1, 0⟩
/-- MARK_DT (11 R320). -/
def MARK_DT : Fld := ⟨.jstr, 0x070, 0, 64, .ro, 0, 1, 0⟩
/-- EVENTS_JOURNALED (11 R320). -/
def EVENTS_JOURNALED : Fld := ⟨.jstr, 0x080, 0, 64, .ro, 0, 1, 0⟩
/-- GAP_EVENTS (11 R320). -/
def GAP_EVENTS : Fld := ⟨.jstr, 0x088, 0, 64, .ro, 0, 1, 0⟩
/-- GAPS (11 R320). -/
def GAPS : Fld := ⟨.jstr, 0x090, 0, 32, .ro, 0, 1, 0⟩
/-- TIME_RECS (11 R320). -/
def TIME_RECS : Fld := ⟨.jstr, 0x094, 0, 32, .ro, 0, 1, 0⟩
/-- PAD_WORDS (11 R320). -/
def PAD_WORDS : Fld := ⟨.jstr, 0x098, 0, 32, .ro, 0, 1, 0⟩
/-- OVERTAKES (11 R320). -/
def OVERTAKES : Fld := ⟨.jstr, 0x09C, 0, 32, .ro, 0, 1, 0⟩
/-- STAGE_PEAK (11 R320). -/
def STAGE_PEAK : Fld := ⟨.jstr, 0x0A0, 0, 16, .rc, 0, 1, 0⟩
/-- Every field of the page. -/
def all : List Fld :=
  [SIZE_LOG, STAGE_LINES, RING_BASE, WP, OVERTAKEN, GAP_OPEN, MARK_VALID, MARK_PENDING,
   MARK_CMD_INDEX, MARK_CMD_OP, MARK_SEL, MARK_POS, MARK_DT, EVENTS_JOURNALED, GAP_EVENTS, GAPS,
   TIME_RECS, PAD_WORDS, OVERTAKES, STAGE_PEAK]

end Regs.JSTR

namespace Regs.JRNL

/-- FLUSH_NS (11 R321). -/
def FLUSH_NS : Fld := ⟨.jrnl, 0x040, 0, 20, .rw, 0x2710, 1, 0⟩
/-- TOTAL_JOURNALED (11 R321). -/
def TOTAL_JOURNALED : Fld := ⟨.jrnl, 0x048, 0, 64, .ro, 0, 1, 0⟩
/-- TOTAL_GAP_EVENTS (11 R321). -/
def TOTAL_GAP_EVENTS : Fld := ⟨.jrnl, 0x050, 0, 64, .ro, 0, 1, 0⟩
/-- STAGE_USED (11 R321; reset column: —). -/
def STAGE_USED : Fld := ⟨.jrnl, 0x058, 0, 17, .ro, 0, 1, 0⟩
/-- STAGE_ALLOC (11 R321). -/
def STAGE_ALLOC : Fld := ⟨.jrnl, 0x05C, 0, 17, .ro, 0, 1, 0⟩
/-- Every field of the page. -/
def all : List Fld :=
  [FLUSH_NS, TOTAL_JOURNALED, TOTAL_GAP_EVENTS, STAGE_USED, STAGE_ALLOC]

end Regs.JRNL

namespace Regs.JCH

/-- STREAM (11 R321). -/
def STREAM : Fld := ⟨.jch, 0x000, 0, 6, .rw, 0, 1, 0⟩
/-- MARK (11 R321). -/
def MARK : Fld := ⟨.jch, 0x000, 8, 3, .rw, 0, 1, 0⟩
/-- TGT_LEDGER (11 R321). -/
def TGT_LEDGER : Fld := ⟨.jch, 0x000, 12, 1, .rw, 1, 1, 0⟩
/-- TGT_CORES (11 R321). -/
def TGT_CORES : Fld := ⟨.jch, 0x000, 13, 1, .rw, 0, 1, 0⟩
/-- PACE (11 R321). -/
def PACE : Fld := ⟨.jch, 0x000, 14, 1, .rw, 0, 1, 0⟩
/-- SHADOW_MAP (11 R321). -/
def SHADOW_MAP : Fld := ⟨.jch, 0x000, 16, 6, .rw, 0, 1, 0⟩
/-- CLUSTER_MASK (11 R321). -/
def CLUSTER_MASK : Fld := ⟨.jch, 0x004, 0, 16, .rw, 0xFFFF, 1, 0⟩
/-- LENGTH (11 R321). -/
def LENGTH : Fld := ⟨.jch, 0x008, 0, 32, .rw, 0, 1, 0⟩
/-- START_DELAY_NS (11 R321). -/
def START_DELAY_NS : Fld := ⟨.jch, 0x00C, 0, 32, .rw, 0x186A0, 1, 0⟩
/-- START (11 R321). -/
def START : Fld := ⟨.jch, 0x010, 0, 1, .wo, 0, 1, 0⟩
/-- CANCEL (11 R321). -/
def CANCEL : Fld := ⟨.jch, 0x010, 1, 1, .wo, 0, 1, 0⟩
/-- STATE (11 R321). -/
def STATE : Fld := ⟨.jch, 0x014, 0, 3, .ro, 0, 1, 0⟩
/-- SHORT (11 R321). -/
def SHORT : Fld := ⟨.jch, 0x014, 8, 1, .ro, 0, 1, 0⟩
/-- REFUSE_REASON (11 R321). -/
def REFUSE_REASON : Fld := ⟨.jch, 0x014, 12, 4, .ro, 0, 1, 0⟩
/-- POSITION (11 R321). -/
def POSITION : Fld := ⟨.jch, 0x018, 0, 64, .ro, 0, 1, 0⟩
/-- SHIFT (11 R321). -/
def SHIFT : Fld := ⟨.jch, 0x020, 0, 64, .ro, 0, 1, 0⟩
/-- EVENTS_DONE (11 R321). -/
def EVENTS_DONE : Fld := ⟨.jch, 0x028, 0, 32, .ro, 0, 1, 0⟩
/-- GAPS_SEEN (11 R321). -/
def GAPS_SEEN : Fld := ⟨.jch, 0x02C, 0, 32, .ro, 0, 1, 0⟩
/-- Every field of the page. -/
def all : List Fld :=
  [STREAM, MARK, TGT_LEDGER, TGT_CORES, PACE, SHADOW_MAP, CLUSTER_MASK, LENGTH,
   START_DELAY_NS, START, CANCEL, STATE, SHORT, REFUSE_REASON, POSITION, SHIFT,
   EVENTS_DONE, GAPS_SEEN]

end Regs.JCH

namespace Regs.PCIE

/-- LINK_SPEED (12 R345). -/
def LINK_SPEED : Fld := ⟨.pcie, 0x040, 0, 4, .ro, 0, 1, 0⟩
/-- LINK_WIDTH (12 R345). -/
def LINK_WIDTH : Fld := ⟨.pcie, 0x040, 4, 6, .ro, 0, 1, 0⟩
/-- LINK_UP (12 R345). -/
def LINK_UP : Fld := ⟨.pcie, 0x040, 10, 1, .ro, 0, 1, 0⟩
/-- BME (12 R345). -/
def BME : Fld := ⟨.pcie, 0x040, 11, 1, .ro, 0, 1, 0⟩
/-- PERST_COUNT (12 R345). -/
def PERST_COUNT : Fld := ⟨.pcie, 0x044, 0, 32, .ro, 0, 1, 0⟩
/-- FLR_COUNT (12 R345). -/
def FLR_COUNT : Fld := ⟨.pcie, 0x048, 0, 32, .ro, 0, 1, 0⟩
/-- CORR_ERR (12 R345). -/
def CORR_ERR : Fld := ⟨.pcie, 0x04C, 0, 32, .ro, 0, 1, 0⟩
/-- UNCORR_ERR (12 R345). -/
def UNCORR_ERR : Fld := ⟨.pcie, 0x050, 0, 32, .ro, 0, 1, 0⟩
/-- DMA_RD_BYTES (12 R345). -/
def DMA_RD_BYTES : Fld := ⟨.pcie, 0x058, 0, 64, .ro, 0, 1, 0⟩
/-- DMA_WR_BYTES (12 R345). -/
def DMA_WR_BYTES : Fld := ⟨.pcie, 0x060, 0, 64, .ro, 0, 1, 0⟩
/-- Every field of the page. -/
def all : List Fld :=
  [LINK_SPEED, LINK_WIDTH, LINK_UP, BME, PERST_COUNT, FLR_COUNT, CORR_ERR, UNCORR_ERR,
   DMA_RD_BYTES, DMA_WR_BYTES]

end Regs.PCIE

namespace Regs.HQ

/-- RING_INDEX (12 R346). -/
def RING_INDEX : Fld := ⟨.hq, 0x040, 0, 3, .rw, 0, 1, 0⟩
/-- RING_BASE (12 R346). -/
def RING_BASE : Fld := ⟨.hq, 0x044, 0, 64, .rw, 0, 1, 0⟩
/-- RING_SIZE_LOG (12 R346). -/
def RING_SIZE_LOG : Fld := ⟨.hq, 0x04C, 0, 5, .rw, 4, 1, 0⟩
/-- RING_EN (12 R346). -/
def RING_EN : Fld := ⟨.hq, 0x04C, 8, 1, .rw, 0, 1, 0⟩
/-- SHADOW_ADDR (12 R346). -/
def SHADOW_ADDR : Fld := ⟨.hq, 0x050, 0, 64, .rw, 0, 1, 0⟩
/-- RING_PROD (12 R346). -/
def RING_PROD : Fld := ⟨.hq, 0x058, 0, 32, .ro, 0, 1, 0⟩
/-- RING_CONS (12 R346). -/
def RING_CONS : Fld := ⟨.hq, 0x05C, 0, 32, .ro, 0, 1, 0⟩
/-- COAL_NS (12 R346). -/
def COAL_NS : Fld := ⟨.hq, 0x060, 0, 20, .rw, 0, 1, 0⟩
/-- ROUTE_INDEX (12 R346). -/
def ROUTE_INDEX : Fld := ⟨.hq, 0x0C0, 0, 6, .rw, 0, 1, 0⟩
/-- ROUTE_AREA (12 R346). -/
def ROUTE_AREA : Fld := ⟨.hq, 0x0C4, 0, 4, .rw, 0, 1, 0⟩
/-- ROUTE_PAGE (12 R346). -/
def ROUTE_PAGE : Fld := ⟨.hq, 0x0C4, 4, 10, .rw, 0, 1, 0⟩
/-- ROUTE_VECTOR (12 R346). -/
def ROUTE_VECTOR : Fld := ⟨.hq, 0x0C4, 16, 6, .rw, 6, 1, 0⟩
/-- ROUTE_HOST_EN (12 R346). -/
def ROUTE_HOST_EN : Fld := ⟨.hq, 0x0C4, 30, 1, .rw, 0, 1, 0⟩
/-- ROUTE_VALID (12 R346). -/
def ROUTE_VALID : Fld := ⟨.hq, 0x0C4, 31, 1, .rw, 0, 1, 0⟩
/-- STAGE_BASE (12 R346). -/
def STAGE_BASE : Fld := ⟨.hq, 0x100, 0, 64, .rw, 0, 1, 0⟩
/-- STAGE_SIZE (12 R346). -/
def STAGE_SIZE : Fld := ⟨.hq, 0x108, 0, 64, .rw, 0, 1, 0⟩
/-- MODEL_BASE (12 R346). -/
def MODEL_BASE : Fld := ⟨.hq, 0x110, 0, 64, .rw, 0, 1, 0⟩
/-- MODEL_SIZE (12 R346). -/
def MODEL_SIZE : Fld := ⟨.hq, 0x118, 0, 64, .rw, 0, 1, 0⟩
/-- CMD_STATE (12 R346). -/
def CMD_STATE : Fld := ⟨.hq, 0x120, 0, 2, .ro, 0, 1, 0⟩
/-- CUR_OPCODE (12 R346). -/
def CUR_OPCODE : Fld := ⟨.hq, 0x120, 8, 8, .ro, 0, 1, 0⟩
/-- CUR_TAG (12 R346). -/
def CUR_TAG : Fld := ⟨.hq, 0x120, 16, 16, .ro, 0, 1, 0⟩
/-- LAST_CODE (12 R346). -/
def LAST_CODE : Fld := ⟨.hq, 0x124, 0, 8, .ro, 0, 1, 0⟩
/-- LAST_OPCODE (12 R346). -/
def LAST_OPCODE : Fld := ⟨.hq, 0x124, 8, 8, .ro, 0, 1, 0⟩
/-- LAST_DETAIL (12 R346). -/
def LAST_DETAIL : Fld := ⟨.hq, 0x124, 16, 16, .ro, 0, 1, 0⟩
/-- PART_INDEX (12 R346). -/
def PART_INDEX : Fld := ⟨.hq, 0x128, 0, 4, .rw, 0, 1, 0⟩
/-- PART_GEN (12 R346). -/
def PART_GEN : Fld := ⟨.hq, 0x12C, 0, 16, .ro, 0, 1, 0⟩
/-- PART_STATE (12 R346). -/
def PART_STATE : Fld := ⟨.hq, 0x12C, 16, 3, .ro, 0, 1, 0⟩
/-- PART_LOADED (12 R346). -/
def PART_LOADED : Fld := ⟨.hq, 0x12C, 19, 1, .ro, 0, 1, 0⟩
/-- PART_CLUSTERS (12 R346). -/
def PART_CLUSTERS : Fld := ⟨.hq, 0x130, 0, 16, .ro, 0, 1, 0⟩
/-- CLUSTER_GEN (12 R346). -/
def CLUSTER_GEN : Fld := ⟨.hq, 0x140, 0, 32, .ro, 0, 8, 4⟩
/-- CLUSTER_PART (12 R346). -/
def CLUSTER_PART : Fld := ⟨.hq, 0x160, 0, 64, .ro, 0xFFFFFFFFFFFFFFFF, 1, 0⟩
/-- CMDS_DONE (12 R346). -/
def CMDS_DONE : Fld := ⟨.hq, 0x170, 0, 32, .ro, 0, 1, 0⟩
/-- LOADS_OK (12 R346). -/
def LOADS_OK : Fld := ⟨.hq, 0x174, 0, 32, .ro, 0, 1, 0⟩
/-- LOADS_REFUSED (12 R346). -/
def LOADS_REFUSED : Fld := ⟨.hq, 0x178, 0, 32, .ro, 0, 1, 0⟩
/-- DB_BAD (12 R346). -/
def DB_BAD : Fld := ⟨.hq, 0x17C, 0, 32, .ro, 0, 1, 0⟩
/-- NOTICES_DROPPED (12 R346). -/
def NOTICES_DROPPED : Fld := ⟨.hq, 0x180, 0, 32, .ro, 0, 1, 0⟩
/-- REPORTS_DROPPED (12 R346). -/
def REPORTS_DROPPED : Fld := ⟨.hq, 0x184, 0, 32, .ro, 0, 4, 4⟩
/-- Every field of the page. -/
def all : List Fld :=
  [RING_INDEX, RING_BASE, RING_SIZE_LOG, RING_EN, SHADOW_ADDR, RING_PROD, RING_CONS, COAL_NS,
   ROUTE_INDEX, ROUTE_AREA, ROUTE_PAGE, ROUTE_VECTOR, ROUTE_HOST_EN, ROUTE_VALID, STAGE_BASE, STAGE_SIZE,
   MODEL_BASE, MODEL_SIZE, CMD_STATE, CUR_OPCODE, CUR_TAG, LAST_CODE, LAST_OPCODE, LAST_DETAIL,
   PART_INDEX, PART_GEN, PART_STATE, PART_LOADED, PART_CLUSTERS, CLUSTER_GEN, CLUSTER_PART, CMDS_DONE,
   LOADS_OK, LOADS_REFUSED, DB_BAD, NOTICES_DROPPED, REPORTS_DROPPED]

end Regs.HQ

namespace Regs.ETH

/-- MODE (13 R367). -/
def MODE : Fld := ⟨.eth, 0x040, 0, 1, .rw, 1, 1, 0⟩
/-- FEC (13 R367). -/
def FEC : Fld := ⟨.eth, 0x040, 1, 2, .rw, 0, 1, 0⟩
/-- AN_EN (13 R367). -/
def AN_EN : Fld := ⟨.eth, 0x040, 3, 1, .rw, 0, 1, 0⟩
/-- LINK_UP (13 R367). -/
def LINK_UP : Fld := ⟨.eth, 0x044, 0, 1, .ro, 0, 1, 0⟩
/-- MAC_ADDR (13 R367). -/
def MAC_ADDR : Fld := ⟨.eth, 0x048, 0, 64, .rw, 0, 1, 0⟩
/-- IPV4_ADDR (13 R367). -/
def IPV4_ADDR : Fld := ⟨.eth, 0x050, 0, 32, .rw, 0, 1, 0⟩
/-- RX_FRAMES (13 R367). -/
def RX_FRAMES : Fld := ⟨.eth, 0x060, 0, 64, .ro, 0, 1, 0⟩
/-- TX_FRAMES (13 R367). -/
def TX_FRAMES : Fld := ⟨.eth, 0x068, 0, 64, .ro, 0, 1, 0⟩
/-- RX_FCS_ERR (13 R367). -/
def RX_FCS_ERR : Fld := ⟨.eth, 0x070, 0, 32, .ro, 0, 1, 0⟩
/-- RX_LONG (13 R367). -/
def RX_LONG : Fld := ⟨.eth, 0x074, 0, 32, .ro, 0, 1, 0⟩
/-- RX_PAUSE (13 R367). -/
def RX_PAUSE : Fld := ⟨.eth, 0x078, 0, 32, .ro, 0, 1, 0⟩
/-- RX_NO_CONSUMER (13 R367). -/
def RX_NO_CONSUMER : Fld := ⟨.eth, 0x07C, 0, 32, .ro, 0, 1, 0⟩
/-- PTP_RX (13 R367). -/
def PTP_RX : Fld := ⟨.eth, 0x080, 0, 32, .ro, 0, 1, 0⟩
/-- PTP_TX (13 R367). -/
def PTP_TX : Fld := ⟨.eth, 0x084, 0, 32, .ro, 0, 1, 0⟩
/-- RX_LATE_STAMP (13 R367). -/
def RX_LATE_STAMP : Fld := ⟨.eth, 0x088, 0, 32, .ro, 0, 1, 0⟩
/-- MGMT_MSGS (13 R367). -/
def MGMT_MSGS : Fld := ⟨.eth, 0x08C, 0, 32, .ro, 0, 1, 0⟩
/-- Every field of the page. -/
def all : List Fld :=
  [ MODE, FEC, AN_EN, LINK_UP, MAC_ADDR, IPV4_ADDR, RX_FRAMES, TX_FRAMES,
   RX_FCS_ERR, RX_LONG, RX_PAUSE, RX_NO_CONSUMER, PTP_RX, PTP_TX, RX_LATE_STAMP, MGMT_MSGS]

end Regs.ETH

namespace Regs.PTP

/-- ACTIVE (13 R368). -/
def ACTIVE : Fld := ⟨.ptp, 0x040, 0, 1, .rw, 0, 1, 0⟩
/-- AUTO_SWITCH (13 R368). -/
def AUTO_SWITCH : Fld := ⟨.ptp, 0x040, 1, 1, .rw, 1, 1, 0⟩
/-- PPS_EN (13 R368). -/
def PPS_EN : Fld := ⟨.ptp, 0x040, 2, 1, .rw, 0, 1, 0⟩
/-- PPS_GATE (13 R368). -/
def PPS_GATE : Fld := ⟨.ptp, 0x040, 3, 1, .rw, 1, 1, 0⟩
/-- PPS_WIDTH_MS (13 R368). -/
def PPS_WIDTH_MS : Fld := ⟨.ptp, 0x040, 16, 10, .rw, 0x64, 1, 0⟩
/-- PPS_OFFSET_NS (13 R368). -/
def PPS_OFFSET_NS : Fld := ⟨.ptp, 0x044, 0, 32, .rw, 0, 1, 0⟩
/-- SWITCHES (13 R368). -/
def SWITCHES : Fld := ⟨.ptp, 0x048, 0, 32, .ro, 0, 1, 0⟩
/-- PPS_SKIPPED (13 R368). -/
def PPS_SKIPPED : Fld := ⟨.ptp, 0x04C, 0, 32, .ro, 0, 1, 0⟩
/-- Every field of the page. -/
def all : List Fld :=
  [ACTIVE, AUTO_SWITCH, PPS_EN, PPS_GATE, PPS_WIDTH_MS, PPS_OFFSET_NS, SWITCHES, PPS_SKIPPED]

end Regs.PTP

namespace Regs.PTPD

/-- DOM_EN (13 R369). -/
def DOM_EN : Fld := ⟨.ptpd, 0x040, 0, 1, .rw, 0, 1, 0⟩
/-- PROFILE (13 R369). -/
def PROFILE : Fld := ⟨.ptpd, 0x040, 1, 1, .rw, 0, 1, 0⟩
/-- DELAY_MECH (13 R369). -/
def DELAY_MECH : Fld := ⟨.ptpd, 0x040, 2, 1, .rw, 0, 1, 0⟩
/-- TRANSPORT (13 R369). -/
def TRANSPORT : Fld := ⟨.ptpd, 0x040, 3, 1, .rw, 0, 1, 0⟩
/-- PORT (13 R369). -/
def PORT : Fld := ⟨.ptpd, 0x040, 4, 1, .rw, 0, 1, 0⟩
/-- FAILOVER (13 R369). -/
def FAILOVER : Fld := ⟨.ptpd, 0x040, 5, 1, .rw, 0, 1, 0⟩
/-- SERVO_EN (13 R369). -/
def SERVO_EN : Fld := ⟨.ptpd, 0x040, 6, 1, .rw, 1, 1, 0⟩
/-- DOMAIN_NUM (13 R369). -/
def DOMAIN_NUM : Fld := ⟨.ptpd, 0x040, 8, 8, .rw, 0, 1, 0⟩
/-- ANN_TIMEOUT (13 R369). -/
def ANN_TIMEOUT : Fld := ⟨.ptpd, 0x040, 16, 4, .rw, 3, 1, 0⟩
/-- SYNC_TIMEOUT (13 R369). -/
def SYNC_TIMEOUT : Fld := ⟨.ptpd, 0x040, 20, 4, .rw, 3, 1, 0⟩
/-- JUMP_CONFIRM (13 R369). -/
def JUMP_CONFIRM : Fld := ⟨.ptpd, 0x040, 24, 3, .rw, 4, 1, 0⟩
/-- KP (13 R369). -/
def KP : Fld := ⟨.ptpd, 0x044, 0, 16, .rw, 0x2000, 1, 0⟩
/-- KI (13 R369). -/
def KI : Fld := ⟨.ptpd, 0x044, 16, 16, .rw, 0x200, 1, 0⟩
/-- SLEW_LIMIT (13 R369). -/
def SLEW_LIMIT : Fld := ⟨.ptpd, 0x048, 0, 32, .rw, 0x2710, 1, 0⟩
/-- JUMP_WINDOW_NS (13 R369). -/
def JUMP_WINDOW_NS : Fld := ⟨.ptpd, 0x04C, 0, 32, .rw, 0x3B9ACA00, 1, 0⟩
/-- PATH_TOL (13 R369). -/
def PATH_TOL : Fld := ⟨.ptpd, 0x050, 0, 32, .rw, 0x64, 1, 0⟩
/-- SLEW_MAX_PPB (13 R369). -/
def SLEW_MAX_PPB : Fld := ⟨.ptpd, 0x054, 0, 32, .rw, 0xC350, 1, 0⟩
/-- ASYM_CORR (13 R369). -/
def ASYM_CORR : Fld := ⟨.ptpd, 0x058, 0, 32, .rw, 0, 1, 0⟩
/-- LOCK_NS (13 R369). -/
def LOCK_NS : Fld := ⟨.ptpd, 0x05C, 0, 24, .rw, 0x64, 1, 0⟩
/-- LOCK_COUNT (13 R369). -/
def LOCK_COUNT : Fld := ⟨.ptpd, 0x05C, 24, 8, .rw, 8, 1, 0⟩
/-- RATE (13 R369). -/
def RATE : Fld := ⟨.ptpd, 0x060, 0, 64, .rw, 0x100000000, 1, 0⟩
/-- OFFSET (13 R369). -/
def OFFSET : Fld := ⟨.ptpd, 0x068, 0, 128, .rw, 0, 1, 4⟩
/-- SET_OFFSET (13 R369). -/
def SET_OFFSET : Fld := ⟨.ptpd, 0x078, 0, 1, .wo, 0, 1, 0⟩
/-- RESOLVE_STEP (13 R369). -/
def RESOLVE_STEP : Fld := ⟨.ptpd, 0x078, 1, 1, .wo, 0, 1, 0⟩
/-- RESOLVE_SLEW (13 R369). -/
def RESOLVE_SLEW : Fld := ⟨.ptpd, 0x078, 2, 1, .wo, 0, 1, 0⟩
/-- CLEAR_INTEGRAL (13 R369). -/
def CLEAR_INTEGRAL : Fld := ⟨.ptpd, 0x078, 3, 1, .wo, 0, 1, 0⟩
/-- STATE (13 R369). -/
def STATE : Fld := ⟨.ptpd, 0x080, 0, 3, .ro, 0, 1, 0⟩
/-- SUSPECT (13 R369). -/
def SUSPECT : Fld := ⟨.ptpd, 0x080, 3, 1, .ro, 0, 1, 0⟩
/-- STEP_PENDING (13 R369). -/
def STEP_PENDING : Fld := ⟨.ptpd, 0x080, 4, 1, .ro, 0, 1, 0⟩
/-- JUDGING (13 R369). -/
def JUDGING : Fld := ⟨.ptpd, 0x080, 5, 1, .ro, 0, 1, 0⟩
/-- SLEWING (13 R369). -/
def SLEWING : Fld := ⟨.ptpd, 0x080, 6, 1, .ro, 0, 1, 0⟩
/-- REROUTE (13 R369). -/
def REROUTE : Fld := ⟨.ptpd, 0x080, 7, 1, .ro, 0, 1, 0⟩
/-- EVER_LOCKED (13 R369). -/
def EVER_LOCKED : Fld := ⟨.ptpd, 0x080, 8, 1, .ro, 0, 1, 0⟩
/-- WT_NEG (13 R369). -/
def WT_NEG : Fld := ⟨.ptpd, 0x080, 9, 1, .ro, 0, 1, 0⟩
/-- ON_PORT (13 R369). -/
def ON_PORT : Fld := ⟨.ptpd, 0x080, 10, 1, .ro, 0, 1, 0⟩
/-- RATE_HELD (13 R369). -/
def RATE_HELD : Fld := ⟨.ptpd, 0x080, 11, 1, .ro, 1, 1, 0⟩
/-- WT_S (13 R369; reset column: —). -/
def WT_S : Fld := ⟨.ptpd, 0x084, 0, 64, .ro, 0, 1, 0⟩
/-- WT_NS (13 R369; reset column: —). -/
def WT_NS : Fld := ⟨.ptpd, 0x08C, 0, 32, .ro, 0, 1, 0⟩
/-- LAST_OFFSET (13 R369). -/
def LAST_OFFSET : Fld := ⟨.ptpd, 0x090, 0, 32, .ro, 0, 1, 0⟩
/-- MEAN_PATH (13 R369). -/
def MEAN_PATH : Fld := ⟨.ptpd, 0x094, 0, 32, .ro, 0, 1, 0⟩
/-- JUMP_OFFSET (13 R369). -/
def JUMP_OFFSET : Fld := ⟨.ptpd, 0x098, 0, 64, .ro, 0, 1, 0⟩
/-- GM_ID (13 R369). -/
def GM_ID : Fld := ⟨.ptpd, 0x0A0, 0, 64, .ro, 0, 1, 0⟩
/-- UTC_OFFSET (13 R369). -/
def UTC_OFFSET : Fld := ⟨.ptpd, 0x0A8, 0, 16, .ro, 0, 1, 0⟩
/-- UTC_VALID (13 R369). -/
def UTC_VALID : Fld := ⟨.ptpd, 0x0A8, 16, 1, .ro, 0, 1, 0⟩
/-- PPS_IN_ERR (13 R369). -/
def PPS_IN_ERR : Fld := ⟨.ptpd, 0x0AC, 0, 32, .ro, 0, 1, 0⟩
/-- SYNCS (13 R369). -/
def SYNCS : Fld := ⟨.ptpd, 0x0C0, 0, 32, .ro, 0, 1, 0⟩
/-- OUTLIERS (13 R369). -/
def OUTLIERS : Fld := ⟨.ptpd, 0x0C4, 0, 32, .ro, 0, 1, 0⟩
/-- JUMPS (13 R369). -/
def JUMPS : Fld := ⟨.ptpd, 0x0C8, 0, 32, .ro, 0, 1, 0⟩
/-- STEPS (13 R369). -/
def STEPS : Fld := ⟨.ptpd, 0x0CC, 0, 32, .ro, 0, 1, 0⟩
/-- TIMEOUTS (13 R369). -/
def TIMEOUTS : Fld := ⟨.ptpd, 0x0D0, 0, 32, .ro, 0, 1, 0⟩
/-- REROUTES (13 R369). -/
def REROUTES : Fld := ⟨.ptpd, 0x0D4, 0, 32, .ro, 0, 1, 0⟩
/-- PORT_MOVES (13 R369). -/
def PORT_MOVES : Fld := ⟨.ptpd, 0x0D8, 0, 32, .ro, 0, 1, 0⟩
/-- Every field of the page. -/
def all : List Fld :=
  [DOM_EN, PROFILE, DELAY_MECH, TRANSPORT, PORT, FAILOVER, SERVO_EN, DOMAIN_NUM,
   ANN_TIMEOUT, SYNC_TIMEOUT, JUMP_CONFIRM, KP, KI, SLEW_LIMIT, JUMP_WINDOW_NS, PATH_TOL,
   SLEW_MAX_PPB, ASYM_CORR, LOCK_NS, LOCK_COUNT, RATE, OFFSET, SET_OFFSET, RESOLVE_STEP,
   RESOLVE_SLEW, CLEAR_INTEGRAL, STATE, SUSPECT, STEP_PENDING, JUDGING, SLEWING, REROUTE,
   EVER_LOCKED, WT_NEG, ON_PORT, RATE_HELD, WT_S, WT_NS, LAST_OFFSET, MEAN_PATH] ++
  [JUMP_OFFSET, GM_ID, UTC_OFFSET, UTC_VALID, PPS_IN_ERR, SYNCS, OUTLIERS, JUMPS,
   STEPS, TIMEOUTS, REROUTES, PORT_MOVES]

end Regs.PTPD

namespace Regs.LNCH

/-- ENTRIES_USED (13 R370; reset column: —). -/
def ENTRIES_USED : Fld := ⟨.lnch, 0x040, 0, 7, .ro, 0, 1, 0⟩
/-- Every field of the page. -/
def all : List Fld :=
  [ENTRIES_USED]

end Regs.LNCH

namespace Regs.LNQ

/-- Q_EN (13 R370). -/
def Q_EN : Fld := ⟨.lnq, 0x000, 0, 1, .rw, 0, 1, 0⟩
/-- LATE_SEND (13 R370). -/
def LATE_SEND : Fld := ⟨.lnq, 0x000, 1, 1, .rw, 0, 1, 0⟩
/-- IPV4_UDP (13 R370). -/
def IPV4_UDP : Fld := ⟨.lnq, 0x000, 2, 1, .rw, 0, 1, 0⟩
/-- TPL_LEN (13 R370). -/
def TPL_LEN : Fld := ⟨.lnq, 0x000, 8, 6, .rw, 0xE, 1, 0⟩
/-- FRAG_BYTES (13 R370). -/
def FRAG_BYTES : Fld := ⟨.lnq, 0x000, 16, 14, .rw, 0x580, 1, 0⟩
/-- TPL_WORD (13 R370). -/
def TPL_WORD : Fld := ⟨.lnq, 0x004, 0, 4, .rw, 0, 1, 0⟩
/-- TPL_DATA (13 R370). -/
def TPL_DATA : Fld := ⟨.lnq, 0x008, 0, 32, .rw, 0, 1, 0⟩
/-- LAST_LAUNCH_DT (13 R370). -/
def LAST_LAUNCH_DT : Fld := ⟨.lnq, 0x00C, 0, 64, .ro, 0, 1, 0⟩
/-- LAUNCHED (13 R370). -/
def LAUNCHED : Fld := ⟨.lnq, 0x014, 0, 32, .ro, 0, 1, 0⟩
/-- LATE_DROPS (13 R370). -/
def LATE_DROPS : Fld := ⟨.lnq, 0x018, 0, 32, .ro, 0, 1, 0⟩
/-- LATE_SENT (13 R370). -/
def LATE_SENT : Fld := ⟨.lnq, 0x01C, 0, 32, .ro, 0, 1, 0⟩
/-- FULL_DROPS (13 R370). -/
def FULL_DROPS : Fld := ⟨.lnq, 0x020, 0, 32, .ro, 0, 1, 0⟩
/-- LINK_DROPS (13 R370). -/
def LINK_DROPS : Fld := ⟨.lnq, 0x024, 0, 32, .ro, 0, 1, 0⟩
/-- TOO_BIG (13 R370). -/
def TOO_BIG : Fld := ⟨.lnq, 0x028, 0, 32, .ro, 0, 1, 0⟩
/-- Every field of the page. -/
def all : List Fld :=
  [Q_EN, LATE_SEND, IPV4_UDP, TPL_LEN, FRAG_BYTES, TPL_WORD, TPL_DATA, LAST_LAUNCH_DT,
   LAUNCHED, LATE_DROPS, LATE_SENT, FULL_DROPS, LINK_DROPS, TOO_BIG]

end Regs.LNQ

namespace Regs.PST

/-- LINK_STATE (14 R397). -/
def LINK_STATE : Fld := ⟨.pst, 0x040, 0, 2, .ro, 0, 1, 0⟩
/-- LANE_POL (14 R397). -/
def LANE_POL : Fld := ⟨.pst, 0x040, 8, 4, .rw, 0, 1, 0⟩
/-- LOS_NS (14 R397). -/
def LOS_NS : Fld := ⟨.pst, 0x044, 0, 16, .rw, 0x7D0, 1, 0⟩
/-- NBR_UID (14 R397). -/
def NBR_UID : Fld := ⟨.pst, 0x048, 0, 64, .ro, 0, 1, 0⟩
/-- NBR_DEV (14 R397). -/
def NBR_DEV : Fld := ⟨.pst, 0x050, 0, 6, .ro, 0, 1, 0⟩
/-- NBR_VALID (14 R397). -/
def NBR_VALID : Fld := ⟨.pst, 0x050, 6, 1, .ro, 0, 1, 0⟩
/-- NBR_PORT (14 R397). -/
def NBR_PORT : Fld := ⟨.pst, 0x050, 8, 3, .ro, 0, 1, 0⟩
/-- ASYM_CORR (14 R397). -/
def ASYM_CORR : Fld := ⟨.pst, 0x054, 0, 32, .rw, 0, 1, 0⟩
/-- LINK_DELAY (14 R397). -/
def LINK_DELAY : Fld := ⟨.pst, 0x058, 0, 32, .ro, 0, 1, 0⟩
/-- FLITS_TX (14 R397). -/
def FLITS_TX : Fld := ⟨.pst, 0x060, 0, 64, .ro, 0, 1, 0⟩
/-- FLITS_RX (14 R397). -/
def FLITS_RX : Fld := ⟨.pst, 0x068, 0, 64, .ro, 0, 1, 0⟩
/-- CRC_ERR (14 R397). -/
def CRC_ERR : Fld := ⟨.pst, 0x070, 0, 32, .ro, 0, 1, 0⟩
/-- RETRIES (14 R397). -/
def RETRIES : Fld := ⟨.pst, 0x074, 0, 32, .ro, 0, 1, 0⟩
/-- FEC_CORR (14 R397). -/
def FEC_CORR : Fld := ⟨.pst, 0x078, 0, 32, .ro, 0, 1, 0⟩
/-- FEC_UNCORR (14 R397). -/
def FEC_UNCORR : Fld := ⟨.pst, 0x07C, 0, 32, .ro, 0, 1, 0⟩
/-- CREDIT_STALL (14 R397). -/
def CREDIT_STALL : Fld := ⟨.pst, 0x080, 0, 32, .ro, 0, 1, 0⟩
/-- LINK_DOWNS (14 R397). -/
def LINK_DOWNS : Fld := ⟨.pst, 0x084, 0, 32, .ro, 0, 1, 0⟩
/-- BAD_TYPE (14 R397). -/
def BAD_TYPE : Fld := ⟨.pst, 0x088, 0, 32, .ro, 0, 1, 0⟩
/-- RETRY_FULL_CYCLES (14 R397). -/
def RETRY_FULL_CYCLES : Fld := ⟨.pst, 0x08C, 0, 32, .ro, 0, 1, 0⟩
/-- Every field of the page. -/
def all : List Fld :=
  [LINK_STATE, LANE_POL, LOS_NS, NBR_UID, NBR_DEV, NBR_VALID, NBR_PORT, ASYM_CORR,
   LINK_DELAY, FLITS_TX, FLITS_RX, CRC_ERR, RETRIES, FEC_CORR, FEC_UNCORR, CREDIT_STALL,
   LINK_DOWNS, BAD_TYPE, RETRY_FULL_CYCLES]

end Regs.PST

namespace Regs.FAB

/-- UID (14 R398; reset column: Fused). -/
def UID : Fld := ⟨.fab, 0x040, 0, 64, .ro, 0, 1, 0⟩
/-- DEV_NUM (14 R398; reset column: Pinned or 0). -/
def DEV_NUM : Fld := ⟨.fab, 0x048, 0, 6, .ro, 0, 1, 0⟩
/-- MSTATE (14 R398). -/
def MSTATE : Fld := ⟨.fab, 0x048, 8, 3, .ro, 0, 1, 0⟩
/-- IS_ROOT (14 R398). -/
def IS_ROOT : Fld := ⟨.fab, 0x048, 16, 1, .ro, 0, 1, 0⟩
/-- PIN_ROOT (14 R398; reset column: Option). -/
def PIN_ROOT : Fld := ⟨.fab, 0x048, 17, 1, .ro, 0, 1, 0⟩
/-- PIN_NUM (14 R398; reset column: Option). -/
def PIN_NUM : Fld := ⟨.fab, 0x048, 18, 1, .ro, 0, 1, 0⟩
/-- REQ_NUM (14 R398). -/
def REQ_NUM : Fld := ⟨.fab, 0x04C, 0, 6, .rw, 0, 1, 0⟩
/-- REQ_VALID (14 R398). -/
def REQ_VALID : Fld := ⟨.fab, 0x04C, 31, 1, .rw, 0, 1, 0⟩
/-- ROOT_UID (14 R398). -/
def ROOT_UID : Fld := ⟨.fab, 0x050, 0, 64, .ro, 0, 1, 0⟩
/-- ROOT_DEV (14 R398). -/
def ROOT_DEV : Fld := ⟨.fab, 0x058, 0, 6, .ro, 0, 1, 0⟩
/-- MEMBERS (14 R398). -/
def MEMBERS : Fld := ⟨.fab, 0x058, 8, 7, .ro, 0, 1, 0⟩
/-- FT_MODE (14 R398; reset column: Option FT_SHARED). -/
def FT_MODE : Fld := ⟨.fab, 0x05C, 0, 1, .rw, 0, 1, 0⟩
/-- FT_MODE_ACTIVE (14 R398). -/
def FT_MODE_ACTIVE : Fld := ⟨.fab, 0x05C, 1, 1, .ro, 0, 1, 0⟩
/-- FT_LOCKED (14 R398). -/
def FT_LOCKED : Fld := ⟨.fab, 0x05C, 2, 1, .ro, 0, 1, 0⟩
/-- RATE_MISMATCH (14 R398). -/
def RATE_MISMATCH : Fld := ⟨.fab, 0x05C, 3, 1, .ro, 0, 1, 0⟩
/-- PARENT_PORT (14 R398). -/
def PARENT_PORT : Fld := ⟨.fab, 0x05C, 4, 3, .ro, 0, 1, 0⟩
/-- PARENT_VALID (14 R398). -/
def PARENT_VALID : Fld := ⟨.fab, 0x05C, 7, 1, .ro, 0, 1, 0⟩
/-- FT_TOL (14 R398). -/
def FT_TOL : Fld := ⟨.fab, 0x060, 0, 16, .rw, 0x40, 1, 0⟩
/-- FT_ERR (14 R398). -/
def FT_ERR : Fld := ⟨.fab, 0x064, 0, 32, .ro, 0, 1, 0⟩
/-- FAB_OFFSET (14 R398). -/
def FAB_OFFSET : Fld := ⟨.fab, 0x068, 0, 128, .ro, 0, 1, 4⟩
/-- FAB_RATE (14 R398). -/
def FAB_RATE : Fld := ⟨.fab, 0x078, 0, 64, .ro, 0x100000000, 1, 0⟩
/-- FT_STEPS (14 R398). -/
def FT_STEPS : Fld := ⟨.fab, 0x080, 0, 32, .ro, 0, 1, 0⟩
/-- FT_KP (14 R398). -/
def FT_KP : Fld := ⟨.fab, 0x084, 0, 16, .rw, 0x2000, 1, 0⟩
/-- FT_KI (14 R398). -/
def FT_KI : Fld := ⟨.fab, 0x084, 16, 16, .rw, 0x200, 1, 0⟩
/-- RT_DEV (14 R398). -/
def RT_DEV : Fld := ⟨.fab, 0x090, 0, 6, .rw, 0, 1, 0⟩
/-- PRIMARY (14 R398; reset column: —). -/
def PRIMARY : Fld := ⟨.fab, 0x094, 0, 3, .rw, 0, 1, 0⟩
/-- P_VALID (14 R398). -/
def P_VALID : Fld := ⟨.fab, 0x094, 3, 1, .ro, 0, 1, 0⟩
/-- ALT (14 R398; reset column: —). -/
def ALT : Fld := ⟨.fab, 0x094, 4, 3, .rw, 0, 1, 0⟩
/-- A_VALID (14 R398). -/
def A_VALID : Fld := ⟨.fab, 0x094, 7, 1, .ro, 0, 1, 0⟩
/-- HOPS_P (14 R398). -/
def HOPS_P : Fld := ⟨.fab, 0x094, 8, 3, .ro, 0, 1, 0⟩
/-- HOPS_A (14 R398). -/
def HOPS_A : Fld := ⟨.fab, 0x094, 11, 3, .ro, 0, 1, 0⟩
/-- PINNED (14 R398). -/
def PINNED : Fld := ⟨.fab, 0x094, 14, 1, .rw, 0, 1, 0⟩
/-- REACHABLE (14 R398). -/
def REACHABLE : Fld := ⟨.fab, 0x094, 15, 1, .ro, 0, 1, 0⟩
/-- FGT_INDEX (14 R398). -/
def FGT_INDEX : Fld := ⟨.fab, 0x0A0, 0, 10, .rw, 0, 1, 0⟩
/-- FGT_TAG (14 R398). -/
def FGT_TAG : Fld := ⟨.fab, 0x0A4, 0, 6, .rw, 0, 1, 0⟩
/-- FGT_VALID (14 R398). -/
def FGT_VALID : Fld := ⟨.fab, 0x0A4, 31, 1, .rw, 0, 1, 0⟩
/-- FGT_DEVMASK (14 R398). -/
def FGT_DEVMASK : Fld := ⟨.fab, 0x0A8, 0, 64, .rw, 0, 1, 0⟩
/-- FGT_CLUSTERS (14 R398). -/
def FGT_CLUSTERS : Fld := ⟨.fab, 0x0B0, 0, 16, .rw, 0, 1, 0⟩
/-- PACK_NS (14 R398). -/
def PACK_NS : Fld := ⟨.fab, 0x0B4, 0, 14, .rw, 0x64, 1, 0⟩
/-- REPORT_PEERS (14 R398). -/
def REPORT_PEERS : Fld := ⟨.fab, 0x0C0, 0, 64, .rw, 0, 4, 8⟩
/-- REPLACE_PEERS (14 R398). -/
def REPLACE_PEERS : Fld := ⟨.fab, 0x0E0, 0, 64, .ro, 0, 1, 0⟩
/-- INBOX_BASE (14 R398). -/
def INBOX_BASE : Fld := ⟨.fab, 0x0E8, 0, 64, .rw, 0, 1, 0⟩
/-- INBOX_SIZE_LOG (14 R398). -/
def INBOX_SIZE_LOG : Fld := ⟨.fab, 0x0F0, 0, 5, .rw, 0x10, 1, 0⟩
/-- INBOX_EN (14 R398). -/
def INBOX_EN : Fld := ⟨.fab, 0x0F0, 8, 1, .rw, 0, 1, 0⟩
/-- INBOX_PROD (14 R398). -/
def INBOX_PROD : Fld := ⟨.fab, 0x0F4, 0, 32, .ro, 0, 1, 0⟩
/-- INBOX_CONS (14 R398). -/
def INBOX_CONS : Fld := ⟨.fab, 0x0F8, 0, 32, .rw, 0, 1, 0⟩
/-- RMT_DEV (14 R398). -/
def RMT_DEV : Fld := ⟨.fab, 0x100, 0, 6, .rw, 0, 1, 0⟩
/-- RMT_ADDR (14 R398). -/
def RMT_ADDR : Fld := ⟨.fab, 0x104, 0, 26, .rw, 0, 1, 0⟩
/-- RMT_DATA (14 R398). -/
def RMT_DATA : Fld := ⟨.fab, 0x108, 0, 32, .rw, 0, 1, 0⟩
/-- RMT_CMD (14 R398). -/
def RMT_CMD : Fld := ⟨.fab, 0x10C, 0, 2, .wo, 0, 1, 0⟩
/-- RMT_STATUS (14 R398). -/
def RMT_STATUS : Fld := ⟨.fab, 0x110, 0, 2, .ro, 0, 1, 0⟩
/-- RMT_DENIED (14 R398). -/
def RMT_DENIED : Fld := ⟨.fab, 0x110, 2, 1, .ro, 0, 1, 0⟩
/-- SPIKES_TX (14 R398). -/
def SPIKES_TX : Fld := ⟨.fab, 0x140, 0, 64, .ro, 0, 1, 0⟩
/-- SPIKES_RX (14 R398). -/
def SPIKES_RX : Fld := ⟨.fab, 0x148, 0, 64, .ro, 0, 1, 0⟩
/-- EVT_FLITS_TX (14 R398). -/
def EVT_FLITS_TX : Fld := ⟨.fab, 0x150, 0, 64, .ro, 0, 1, 0⟩
/-- FGT_MISS (14 R398). -/
def FGT_MISS : Fld := ⟨.fab, 0x160, 0, 32, .ro, 0, 1, 0⟩
/-- UNREACH_DROPS (14 R398). -/
def UNREACH_DROPS : Fld := ⟨.fab, 0x164, 0, 32, .ro, 0, 1, 0⟩
/-- LINK_LOSS_DROPS (14 R398). -/
def LINK_LOSS_DROPS : Fld := ⟨.fab, 0x168, 0, 32, .ro, 0, 1, 0⟩
/-- INBOX_DROPS (14 R398). -/
def INBOX_DROPS : Fld := ⟨.fab, 0x16C, 0, 32, .ro, 0, 1, 0⟩
/-- TENSOR_DISCARD (14 R398). -/
def TENSOR_DISCARD : Fld := ⟨.fab, 0x170, 0, 32, .ro, 0, 1, 0⟩
/-- MGMT_DENIED (14 R398). -/
def MGMT_DENIED : Fld := ⟨.fab, 0x174, 0, 32, .ro, 0, 1, 0⟩
/-- ROUTE_CHANGES (14 R398). -/
def ROUTE_CHANGES : Fld := ⟨.fab, 0x178, 0, 32, .ro, 0, 1, 0⟩
/-- DUP_NUM (14 R398). -/
def DUP_NUM : Fld := ⟨.fab, 0x17C, 0, 32, .ro, 0, 1, 0⟩
/-- EGRESS_STALL (14 R398). -/
def EGRESS_STALL : Fld := ⟨.fab, 0x180, 0, 32, .ro, 0, 1, 0⟩
/-- INGRESS_STALL (14 R398). -/
def INGRESS_STALL : Fld := ⟨.fab, 0x184, 0, 32, .ro, 0, 1, 0⟩
/-- STALE_FLITS (14 R398). -/
def STALE_FLITS : Fld := ⟨.fab, 0x188, 0, 32, .ro, 0, 1, 0⟩
/-- Every field of the page. -/
def all : List Fld :=
  [UID, DEV_NUM, MSTATE, IS_ROOT, PIN_ROOT, PIN_NUM, REQ_NUM, REQ_VALID,
   ROOT_UID, ROOT_DEV, MEMBERS, FT_MODE, FT_MODE_ACTIVE, FT_LOCKED, RATE_MISMATCH, PARENT_PORT,
   PARENT_VALID, FT_TOL, FT_ERR, FAB_OFFSET, FAB_RATE, FT_STEPS, FT_KP, FT_KI,
   RT_DEV, PRIMARY, P_VALID, ALT, A_VALID, HOPS_P, HOPS_A, PINNED,
   REACHABLE, FGT_INDEX, FGT_TAG, FGT_VALID, FGT_DEVMASK, FGT_CLUSTERS, PACK_NS, REPORT_PEERS] ++
  [REPLACE_PEERS, INBOX_BASE, INBOX_SIZE_LOG, INBOX_EN, INBOX_PROD, INBOX_CONS, RMT_DEV, RMT_ADDR,
   RMT_DATA, RMT_CMD, RMT_STATUS, RMT_DENIED, SPIKES_TX, SPIKES_RX, EVT_FLITS_TX, FGT_MISS,
   UNREACH_DROPS, LINK_LOSS_DROPS, INBOX_DROPS, TENSOR_DISCARD, MGMT_DENIED, ROUTE_CHANGES, DUP_NUM, EGRESS_STALL,
   INGRESS_STALL, STALE_FLITS]

end Regs.FAB

namespace Regs.RSTC

/-- LAST_CAUSE (15 R420; reset column: Per reset). -/
def LAST_CAUSE : Fld := ⟨.rstc, 0x040, 0, 3, .ro, 0, 1, 0⟩
/-- CAUSE_HIST (15 R420; reset column: Per reset). -/
def CAUSE_HIST : Fld := ⟨.rstc, 0x044, 0, 6, .w1c, 0, 1, 0⟩
/-- PKG_RESET_REQUEST (15 R420). -/
def PKG_RESET_REQUEST : Fld := ⟨.rstc, 0x048, 0, 1, .wo, 0, 1, 0⟩
/-- PKG_RESET_CONFIRM (15 R420). -/
def PKG_RESET_CONFIRM : Fld := ⟨.rstc, 0x048, 8, 8, .wo, 0, 1, 0⟩
/-- PKG_RESET_KEY (15 R420). -/
def PKG_RESET_KEY : Fld := ⟨.rstc, 0x048, 24, 8, .wo, 0, 1, 0⟩
/-- WDOG_EN (15 R420; reset column: WDOG_AT_BOOT). -/
def WDOG_EN : Fld := ⟨.rstc, 0x04C, 0, 1, .rw, 0, 1, 0⟩
/-- WDOG_PERIOD_MS (15 R420; reset column: Option WDOG_PERIOD). -/
def WDOG_PERIOD_MS : Fld := ⟨.rstc, 0x04C, 16, 16, .rw, 0, 1, 0⟩
/-- WDOG_KICK (15 R420). -/
def WDOG_KICK : Fld := ⟨.rstc, 0x050, 0, 1, .wo, 0, 1, 0⟩
/-- WDOG_REMAIN (15 R420; reset column: —). -/
def WDOG_REMAIN : Fld := ⟨.rstc, 0x054, 0, 16, .ro, 0, 1, 0⟩
/-- BOOT_PHASE (15 R420). -/
def BOOT_PHASE : Fld := ⟨.rstc, 0x058, 0, 4, .ro, 0, 1, 0⟩
/-- BOOT_COUNT (15 R420). -/
def BOOT_COUNT : Fld := ⟨.rstc, 0x058, 8, 8, .ro, 0, 1, 0⟩
/-- BOOT_TIME_US (15 R420). -/
def BOOT_TIME_US : Fld := ⟨.rstc, 0x05C, 0, 32, .ro, 0, 1, 0⟩
/-- WDOG_COUNT (15 R420). -/
def WDOG_COUNT : Fld := ⟨.rstc, 0x060, 0, 32, .ro, 0, 1, 0⟩
/-- SOFT_COUNT (15 R420). -/
def SOFT_COUNT : Fld := ⟨.rstc, 0x064, 0, 32, .ro, 0, 1, 0⟩
/-- Every field of the page. -/
def all : List Fld :=
  [LAST_CAUSE, CAUSE_HIST, PKG_RESET_REQUEST, PKG_RESET_CONFIRM, PKG_RESET_KEY, WDOG_EN, WDOG_PERIOD_MS, WDOG_KICK,
   WDOG_REMAIN, BOOT_PHASE, BOOT_COUNT, BOOT_TIME_US, WDOG_COUNT, SOFT_COUNT]

end Regs.RSTC

namespace Regs.OPT

/-- LOADED (15 R421). -/
def LOADED : Fld := ⟨.opt, 0x040, 0, 1, .ro, 0, 1, 0⟩
/-- OPT_BAD (15 R421). -/
def OPT_BAD : Fld := ⟨.opt, 0x040, 1, 1, .ro, 0, 1, 0⟩
/-- OPT_BLANK (15 R421). -/
def OPT_BLANK : Fld := ⟨.opt, 0x040, 2, 1, .ro, 0, 1, 0⟩
/-- BURN_BUSY (15 R421). -/
def BURN_BUSY : Fld := ⟨.opt, 0x040, 3, 1, .ro, 0, 1, 0⟩
/-- BURN_FAIL (15 R421). -/
def BURN_FAIL : Fld := ⟨.opt, 0x040, 4, 1, .ro, 0, 1, 0⟩
/-- BURN (15 R421). -/
def BURN : Fld := ⟨.opt, 0x044, 0, 1, .wo, 0, 1, 0⟩
/-- OPT_IN_USE (15 R421; reset column: Per load). -/
def OPT_IN_USE : Fld := ⟨.opt, 0x100, 0, 32, .ro, 0, 64, 4⟩
/-- OPT_STAGE (15 R421). -/
def OPT_STAGE : Fld := ⟨.opt, 0x200, 0, 32, .rw, 0, 64, 4⟩
/-- Every field of the page. -/
def all : List Fld :=
  [LOADED, OPT_BAD, OPT_BLANK, BURN_BUSY, BURN_FAIL, BURN, OPT_IN_USE, OPT_STAGE]

end Regs.OPT

namespace Regs.CLK

/-- AON (15 R422; reset column: —). -/
def AON : Fld := ⟨.clk, 0x040, 0, 1, .ro, 0, 1, 0⟩
/-- HUB (15 R422; reset column: —). -/
def HUB : Fld := ⟨.clk, 0x040, 1, 1, .ro, 0, 1, 0⟩
/-- DIE (15 R422; reset column: —). -/
def DIE : Fld := ⟨.clk, 0x040, 2, 4, .ro, 0, 1, 0⟩
/-- DDR (15 R422; reset column: —). -/
def DDR : Fld := ⟨.clk, 0x040, 6, 1, .ro, 0, 1, 0⟩
/-- MIPI (15 R422; reset column: —). -/
def MIPI : Fld := ⟨.clk, 0x040, 7, 1, .ro, 0, 1, 0⟩
/-- PCIE (15 R422; reset column: —). -/
def PCIE : Fld := ⟨.clk, 0x040, 8, 1, .ro, 0, 1, 0⟩
/-- ETH (15 R422; reset column: —). -/
def ETH : Fld := ⟨.clk, 0x040, 9, 1, .ro, 0, 1, 0⟩
/-- PISTE (15 R422; reset column: —). -/
def PISTE : Fld := ⟨.clk, 0x040, 10, 1, .ro, 0, 1, 0⟩
/-- REFCLK_OK (15 R422; reset column: —). -/
def REFCLK_OK : Fld := ⟨.clk, 0x044, 0, 1, .ro, 0, 1, 0⟩
/-- LOCK_LOSSES (15 R422). -/
def LOCK_LOSSES : Fld := ⟨.clk, 0x048, 0, 32, .ro, 0, 1, 0⟩
/-- Every field of the page. -/
def all : List Fld :=
  [AON, HUB, DIE, DDR, MIPI, PCIE, ETH, PISTE,
   REFCLK_OK, LOCK_LOSSES]

end Regs.CLK

namespace Regs.PWR

/-- PWR_REQ (15 R423). -/
def PWR_REQ : Fld := ⟨.pwr, 0x040, 0, 2, .wo, 0, 1, 0⟩
/-- PWR_STATE (15 R423). -/
def PWR_STATE : Fld := ⟨.pwr, 0x044, 0, 3, .ro, 0, 1, 0⟩
/-- REFUSE_REASON (15 R423). -/
def REFUSE_REASON : Fld := ⟨.pwr, 0x044, 8, 4, .ro, 0, 1, 0⟩
/-- MODELS_LOST (15 R423). -/
def MODELS_LOST : Fld := ⟨.pwr, 0x044, 16, 1, .w1c, 0, 1, 0⟩
/-- STBY_WAIT_US (15 R423). -/
def STBY_WAIT_US : Fld := ⟨.pwr, 0x048, 0, 16, .rw, 0x3E8, 1, 0⟩
/-- STANDBY_ENTRIES (15 R423). -/
def STANDBY_ENTRIES : Fld := ⟨.pwr, 0x04C, 0, 32, .ro, 0, 1, 0⟩
/-- SLEEP_ENTRIES (15 R423). -/
def SLEEP_ENTRIES : Fld := ⟨.pwr, 0x050, 0, 32, .ro, 0, 1, 0⟩
/-- REFUSALS (15 R423). -/
def REFUSALS : Fld := ⟨.pwr, 0x054, 0, 32, .ro, 0, 1, 0⟩
/-- LAST_EXIT_US (15 R423). -/
def LAST_EXIT_US : Fld := ⟨.pwr, 0x058, 0, 32, .ro, 0, 1, 0⟩
/-- Every field of the page. -/
def all : List Fld :=
  [PWR_REQ, PWR_STATE, REFUSE_REASON, MODELS_LOST, STBY_WAIT_US, STANDBY_ENTRIES, SLEEP_ENTRIES, REFUSALS,
   LAST_EXIT_US]

end Regs.PWR

namespace Regs.VAULT

/-- BOOT_SRC (15 R425). -/
def BOOT_SRC : Fld := ⟨.vault, 0x040, 0, 2, .ro, 0, 1, 0⟩
/-- FAIL_REASON (15 R425). -/
def FAIL_REASON : Fld := ⟨.vault, 0x040, 8, 8, .ro, 0, 1, 0⟩
/-- IMG_VERSION (15 R425). -/
def IMG_VERSION : Fld := ⟨.vault, 0x044, 0, 32, .ro, 0, 1, 0⟩
/-- HB_ADDR (15 R425). -/
def HB_ADDR : Fld := ⟨.vault, 0x048, 0, 64, .rw, 0, 1, 0⟩
/-- HB_LEN (15 R425). -/
def HB_LEN : Fld := ⟨.vault, 0x050, 0, 24, .rw, 0, 1, 0⟩
/-- HB_GO (15 R425). -/
def HB_GO : Fld := ⟨.vault, 0x054, 0, 1, .wo, 0, 1, 0⟩
/-- HB_STATUS (15 R425). -/
def HB_STATUS : Fld := ⟨.vault, 0x058, 0, 3, .ro, 0, 1, 0⟩
/-- FILLED (16 R462; reset column: Fuses). -/
def FILLED : Fld := ⟨.vault, 0x060, 0, 4, .ro, 0, 1, 0⟩
/-- REVOKED (16 R462; reset column: Fuses). -/
def REVOKED : Fld := ⟨.vault, 0x060, 4, 4, .ro, 0, 1, 0⟩
/-- KEY_CMD_OP (16 R462). -/
def KEY_CMD_OP : Fld := ⟨.vault, 0x064, 0, 2, .wo, 0, 1, 0⟩
/-- KEY_CMD_SLOT (16 R462). -/
def KEY_CMD_SLOT : Fld := ⟨.vault, 0x064, 4, 2, .wo, 0, 1, 0⟩
/-- KEY_CMD_CONFIRM (16 R462). -/
def KEY_CMD_CONFIRM : Fld := ⟨.vault, 0x064, 8, 8, .wo, 0, 1, 0⟩
/-- KEY_CMD_KEY (16 R462). -/
def KEY_CMD_KEY : Fld := ⟨.vault, 0x064, 24, 8, .wo, 0, 1, 0⟩
/-- KEY_STATUS (16 R462). -/
def KEY_STATUS : Fld := ⟨.vault, 0x068, 0, 2, .ro, 0, 1, 0⟩
/-- KEY_STAGE (16 R462). -/
def KEY_STAGE : Fld := ⟨.vault, 0x100, 0, 32, .rw, 0, 15, 4⟩
/-- CERT (16 R462; reset column: Fuses). -/
def CERT : Fld := ⟨.vault, 0x200, 0, 32, .ro, 0, 64, 4⟩
/-- ROOT_DIGEST (16 R462; reset column: Fuses). -/
def ROOT_DIGEST : Fld := ⟨.vault, 0x300, 0, 32, .ro, 0, 16, 4⟩
/-- ID_PUB (16 R462; reset column: Derived). -/
def ID_PUB : Fld := ⟨.vault, 0x340, 0, 32, .ro, 0, 15, 4⟩
/-- OWNER_KEY (16 R462; reset column: Fuses). -/
def OWNER_KEY : Fld := ⟨.vault, 0x400, 0, 32, .ro, 0, 64, 4⟩
/-- Every field of the page. -/
def all : List Fld :=
  [BOOT_SRC, FAIL_REASON, IMG_VERSION, HB_ADDR, HB_LEN, HB_GO, HB_STATUS, FILLED,
   REVOKED, KEY_CMD_OP, KEY_CMD_SLOT, KEY_CMD_CONFIRM, KEY_CMD_KEY, KEY_STATUS, KEY_STAGE, CERT,
   ROOT_DIGEST, ID_PUB, OWNER_KEY]

end Regs.VAULT

namespace Regs.HUB

/-- REPLACE_REQUEST (16 R460). -/
def REPLACE_REQUEST : Fld := ⟨.hub, 0x040, 0, 1, .ro, 0, 1, 0⟩
/-- RR_CAUSE (16 R460). -/
def RR_CAUSE : Fld := ⟨.hub, 0x040, 1, 5, .ro, 0, 1, 0⟩
/-- JOB_STOPPED (16 R460). -/
def JOB_STOPPED : Fld := ⟨.hub, 0x040, 6, 1, .ro, 0, 1, 0⟩
/-- LOG_FAIL (16 R460). -/
def LOG_FAIL : Fld := ⟨.hub, 0x040, 7, 1, .ro, 0, 1, 0⟩
/-- LOG_READ_ERR (16 R460). -/
def LOG_READ_ERR : Fld := ⟨.hub, 0x040, 8, 1, .ro, 0, 1, 0⟩
/-- FENCED_SC (16 R460). -/
def FENCED_SC : Fld := ⟨.hub, 0x040, 16, 13, .ro, 0, 1, 0⟩
/-- FENCED_MX (16 R460). -/
def FENCED_MX : Fld := ⟨.hub, 0x044, 0, 6, .ro, 0, 1, 0⟩
/-- FENCED_CLUSTERS (16 R460). -/
def FENCED_CLUSTERS : Fld := ⟨.hub, 0x044, 8, 5, .ro, 0, 1, 0⟩
/-- FENCED_DIES (16 R460). -/
def FENCED_DIES : Fld := ⟨.hub, 0x044, 16, 3, .ro, 0, 1, 0⟩
/-- FENCED_DDR (16 R460). -/
def FENCED_DDR : Fld := ⟨.hub, 0x044, 20, 3, .ro, 0, 1, 0⟩
/-- FENCED_PISTE (16 R460). -/
def FENCED_PISTE : Fld := ⟨.hub, 0x044, 24, 3, .ro, 0, 1, 0⟩
/-- FENCED_ETH (16 R460). -/
def FENCED_ETH : Fld := ⟨.hub, 0x044, 28, 2, .ro, 0, 1, 0⟩
/-- LOG_ENTRIES (16 R460). -/
def LOG_ENTRIES : Fld := ⟨.hub, 0x048, 0, 14, .ro, 0, 1, 0⟩
/-- LOG_BAD (16 R460). -/
def LOG_BAD : Fld := ⟨.hub, 0x04C, 0, 32, .ro, 0, 1, 0⟩
/-- Every field of the page. -/
def all : List Fld :=
  [REPLACE_REQUEST, RR_CAUSE, JOB_STOPPED, LOG_FAIL, LOG_READ_ERR, FENCED_SC, FENCED_MX, FENCED_CLUSTERS,
   FENCED_DIES, FENCED_DDR, FENCED_PISTE, FENCED_ETH, LOG_ENTRIES, LOG_BAD]

end Regs.HUB

namespace Regs.PROT

/-- PT_PAGE (16 R461). -/
def PT_PAGE : Fld := ⟨.prot, 0x040, 0, 10, .rw, 0, 1, 0⟩
/-- PT_AREA (16 R461). -/
def PT_AREA : Fld := ⟨.prot, 0x040, 12, 4, .rw, 0, 1, 0⟩
/-- PT_WINDOW (16 R461). -/
def PT_WINDOW : Fld := ⟨.prot, 0x040, 16, 1, .rw, 0, 1, 0⟩
/-- GRANTS (16 R461; reset column: Boot table). -/
def GRANTS : Fld := ⟨.prot, 0x044, 0, 7, .rw, 0, 1, 0⟩
/-- DENIED_HOST (16 R461). -/
def DENIED_HOST : Fld := ⟨.prot, 0x048, 0, 32, .ro, 0, 1, 0⟩
/-- DENIED_MGMT (16 R461). -/
def DENIED_MGMT : Fld := ⟨.prot, 0x04C, 0, 32, .ro, 0, 1, 0⟩
/-- DENIED_FABRIC (16 R461). -/
def DENIED_FABRIC : Fld := ⟨.prot, 0x050, 0, 32, .ro, 0, 1, 0⟩
/-- DENIED_OBS (16 R461). -/
def DENIED_OBS : Fld := ⟨.prot, 0x054, 0, 32, .ro, 0, 1, 0⟩
/-- LD_ADDR (16 R461). -/
def LD_ADDR : Fld := ⟨.prot, 0x058, 0, 28, .ro, 0, 1, 0⟩
/-- LD_BAR2 (16 R461). -/
def LD_BAR2 : Fld := ⟨.prot, 0x058, 28, 1, .ro, 0, 1, 0⟩
/-- LD_WRITE (16 R461). -/
def LD_WRITE : Fld := ⟨.prot, 0x058, 29, 1, .ro, 0, 1, 0⟩
/-- LD_CLASS (16 R461). -/
def LD_CLASS : Fld := ⟨.prot, 0x058, 30, 2, .ro, 0, 1, 0⟩
/-- Every field of the page. -/
def all : List Fld :=
  [PT_PAGE, PT_AREA, PT_WINDOW, GRANTS, DENIED_HOST, DENIED_MGMT, DENIED_FABRIC, DENIED_OBS,
   LD_ADDR, LD_BAR2, LD_WRITE, LD_CLASS]

end Regs.PROT

namespace Regs.MGMT

/-- FW_VERSION (16 R463). -/
def FW_VERSION : Fld := ⟨.mgmt, 0x040, 0, 32, .ro, 0, 1, 0⟩
/-- RESTARTS (16 R463). -/
def RESTARTS : Fld := ⟨.mgmt, 0x044, 0, 32, .ro, 0, 1, 0⟩
/-- PT_REQ_INDEX (16 R463). -/
def PT_REQ_INDEX : Fld := ⟨.mgmt, 0x048, 0, 17, .rw, 0, 1, 0⟩
/-- PT_REQ_ENTRY (16 R463). -/
def PT_REQ_ENTRY : Fld := ⟨.mgmt, 0x04C, 0, 7, .rw, 0, 1, 0⟩
/-- PT_REQ_GO (16 R463). -/
def PT_REQ_GO : Fld := ⟨.mgmt, 0x050, 0, 1, .wo, 0, 1, 0⟩
/-- PT_REQ_STATUS (16 R463). -/
def PT_REQ_STATUS : Fld := ⟨.mgmt, 0x054, 0, 2, .ro, 0, 1, 0⟩
/-- Every field of the page. -/
def all : List Fld :=
  [FW_VERSION, RESTARTS, PT_REQ_INDEX, PT_REQ_ENTRY, PT_REQ_GO, PT_REQ_STATUS]

end Regs.MGMT

namespace Regs.TRACE

/-- TR_EN (16 R464). -/
def TR_EN : Fld := ⟨.trace, 0x040, 0, 1, .rw, 0, 1, 0⟩
/-- STOP_FULL (16 R464). -/
def STOP_FULL : Fld := ⟨.trace, 0x040, 1, 1, .rw, 0, 1, 0⟩
/-- KIND_MASK (16 R464). -/
def KIND_MASK : Fld := ⟨.trace, 0x044, 0, 16, .rw, 6, 1, 0⟩
/-- WR_INDEX (16 R464). -/
def WR_INDEX : Fld := ⟨.trace, 0x048, 0, 17, .ro, 0, 1, 0⟩
/-- LAPS (16 R464). -/
def LAPS : Fld := ⟨.trace, 0x04C, 0, 32, .ro, 0, 1, 0⟩
/-- LOST (16 R464). -/
def LOST : Fld := ⟨.trace, 0x050, 0, 32, .ro, 0, 1, 0⟩
/-- CLEAR (16 R464). -/
def CLEAR : Fld := ⟨.trace, 0x054, 0, 1, .wo, 0, 1, 0⟩
/-- FW_MARK (16 R464). -/
def FW_MARK : Fld := ⟨.trace, 0x058, 0, 32, .wo, 0, 1, 0⟩
/-- Every field of the page. -/
def all : List Fld :=
  [TR_EN, STOP_FULL, KIND_MASK, WR_INDEX, LAPS, LOST, CLEAR, FW_MARK]

end Regs.TRACE

namespace Regs.OBS

/-- ENABLED (16 R465; reset column: Option). -/
def ENABLED : Fld := ⟨.obs, 0x040, 0, 1, .ro, 0, 1, 0⟩
/-- ACTIVE (16 R465; reset column: —). -/
def ACTIVE : Fld := ⟨.obs, 0x040, 1, 1, .ro, 0, 1, 0⟩
/-- FRAMES (16 R465). -/
def FRAMES : Fld := ⟨.obs, 0x044, 0, 32, .ro, 0, 1, 0⟩
/-- BAD_CMD (16 R465). -/
def BAD_CMD : Fld := ⟨.obs, 0x048, 0, 32, .ro, 0, 1, 0⟩
/-- Every field of the page. -/
def all : List Fld :=
  [ENABLED, ACTIVE, FRAMES, BAD_CMD]

end Regs.OBS

/-- Every block-specific field of a page kind. -/
def pageFlds : PK → List Fld
  | .clu => Regs.CLU.all
  | .ldb => Regs.LDB.all
  | .mxc => Regs.MXC.all
  | .tok => Regs.TOK.all
  | .mesh => Regs.MESH.all
  | .cg => Regs.CG.all
  | .cgs => Regs.CGS.all
  | .die => []
  | .ucie => Regs.UCIE.all
  | .dmon => []
  | .hub => Regs.HUB.all
  | .rstc => Regs.RSTC.all
  | .opt => Regs.OPT.all
  | .clk => Regs.CLK.all
  | .pwr => Regs.PWR.all
  | .prot => Regs.PROT.all
  | .vault => Regs.VAULT.all
  | .time => Regs.TIME.all
  | .mipi => Regs.MIPI.all
  | .aer => Regs.AER.all
  | .ingest => Regs.INGEST.all
  | .dist => Regs.DIST.all
  | .stream => Regs.STREAM.all
  | .jstr => Regs.JSTR.all
  | .jrnl => Regs.JRNL.all
  | .jch => Regs.JCH.all
  | .rfb => Regs.RFB.all
  | .rfbs => Regs.RFBS.all
  | .fuse => Regs.FUSE.all
  | .fg => Regs.FG.all
  | .trk => Regs.TRK.all
  | .cal => Regs.CAL.all
  | .pcie => Regs.PCIE.all
  | .hq => Regs.HQ.all
  | .ddr => Regs.DDR.all
  | .trace => Regs.TRACE.all
  | .obs => Regs.OBS.all
  | .mgmt => Regs.MGMT.all
  | .eth => Regs.ETH.all
  | .ptp => Regs.PTP.all
  | .ptpd => Regs.PTPD.all
  | .lnch => Regs.LNCH.all
  | .lnq => Regs.LNQ.all
  | .pst => Regs.PST.all
  | .fab => Regs.FAB.all
  | .pkg => []
  | .gov => Regs.GOV.all

end Sys2Proof.Machine
end

