-- ==== Sys2Proof/Machine/Tab.lean ====
section
/-!
DEFINITION. Sparse tables: everything the block holds many of (bytes, cores, entries, register fields) is a list of
keyed values that lists only what differs from the table's default, addresses strictly rising, so that equal tables are
equal data. The byte tables are lists of `Host.Cell`.
-/
namespace Sys2Proof.Machine

/-- A sparse table over natural-number keys. -/
abbrev Tab (α : Type) := List (Nat × α)

/-- The value at key `a`; an unlisted key reads as `d`. -/
def Tab.get {α : Type} (d : α) : Tab α → Nat → α
  | [], _ => d
  | (k, v) :: r, a => if k = a then v else Tab.get d r a

/-- Insert a value at its place. -/
def Tab.ins {α : Type} : Tab α → Nat → α → Tab α
  | [], a, v => [(a, v)]
  | (k, w) :: r, a, v =>
    if a < k then (a, v) :: (k, w) :: r
    else if a = k then (a, v) :: r
    else (k, w) :: Tab.ins r a v

/-- Write a value; writing the default removes the entry. -/
def Tab.put {α : Type} [DecidableEq α] (d : α) (m : Tab α) (a : Nat) (v : α) : Tab α :=
  if v = d then m.filter (fun p => decide (p.1 ≠ a)) else Tab.ins m a v

/-- Keep only the entries whose key satisfies `p` (a reset of a range). -/
def Tab.keep {α : Type} (p : Nat → Bool) (m : Tab α) : Tab α := m.filter (fun e => p e.1)

/-- The canonical form: keys strictly rising, no entry equal to the default. -/
def Tab.wf {α : Type} [DecidableEq α] (d : α) : Tab α → Bool
  | [] => true
  | [(_, v)] => decide (v ≠ d)
  | (k, v) :: (k', v') :: r => decide (v ≠ d) && decide (k < k') && Tab.wf d ((k', v') :: r)

/-- A byte memory (R39, R203): an unlisted byte reads 0 (DESIGN CHOICE, assumption 5). -/
abbrev Mem := List Host.Cell

/-- What a byte that nothing has written reads as. -/
def Mem.fill : Byte := 0

/-- Read one byte. -/
def Mem.rd (m : Mem) (a : Nat) : Byte := Tab.get Mem.fill m a

/-- Write one byte. -/
def Mem.wr (m : Mem) (a : Nat) (v : Byte) : Mem := Tab.put Mem.fill m a v

/-- The canonical form of a memory. -/
def Mem.wf (m : Mem) : Bool := Tab.wf Mem.fill m

/-- `n` bytes at `a`, little-endian (R16 conventions; assumption 6). -/
def Mem.rdLE (m : Mem) (a : Nat) : Nat → Nat
  | 0 => 0
  | n + 1 => (m.rd a).toNat + 256 * Mem.rdLE m (a + 1) n

/-- Write the low `n` bytes of `v` at `a`, little-endian. -/
def Mem.wrLE (m : Mem) (a : Nat) : Nat → Nat → Mem
  | 0, _ => m
  | n + 1, v => Mem.wrLE (m.wr a (BitVec.ofNat 8 v)) (a + 1) n (v / 256)

/-- `n` bytes at `a`, in address order. -/
def Mem.rdBytes (m : Mem) (a : Nat) : Nat → List Byte
  | 0 => []
  | n + 1 => m.rd a :: Mem.rdBytes m (a + 1) n

/-- Write bytes in address order from `a`. -/
def Mem.wrBytes (m : Mem) (a : Nat) : List Byte → Mem
  | [] => m
  | b :: bs => Mem.wrBytes (m.wr a b) (a + 1) bs

/-- The little-endian number a byte list spells. -/
def leNat : List Byte → Nat
  | [] => 0
  | b :: bs => b.toNat + 256 * leNat bs

/-- The low `n` bytes of `v`, little-endian. -/
def leBytes : Nat → Nat → List Byte
  | 0, _ => []
  | n + 1, v => BitVec.ofNat 8 v :: leBytes n (v / 256)

end Sys2Proof.Machine
end

