-- ==== Sys2Proof/Machine/State.lean ====
section
/-!
DEFINITION. Everything the spec gives the block: its registers, memories, queues, engines and pins, the model's own record
of what it drove to the outside, and the queue of waiting commands.
-/
namespace Sys2Proof.Machine

/-- The register file: the fields that differ from their reset value, by the key of the field. -/
abbrev RegFile := Tab Nat

/-- The key of a register field: the index an index register selects (0 where there is none), the page kind, the page
instance, the byte offset in the page and the low bit. -/
def regKey (pk : PK) (inst off lsb idx : Nat) : Nat :=
  (((idx * 64 + pk.num) * 4096 + inst % 4096) * 4096 + off % 4096) * 64 + lsb % 64

/-- The parts of a key. -/
def keyOff (k : Nat) : Nat := k / 64 % 4096
def keyInst (k : Nat) : Nat := k / 262144 % 4096
def keyPk (k : Nat) : Nat := k / 1073741824 % 64
def keyIdx (k : Nat) : Nat := k / 68719476736

/-- One register page: a page kind and its instance number (R34). -/
structure Page where
  pk : PK
  inst : Nat
deriving DecidableEq, Repr

/-- What a fence takes out of service (R433). -/
inductive FUnit where
  | core (n : Nat) | mx (m : Nat) | cluster (k : Nat) | die (d : Nat) | ddr (c : Nat) | piste (p : Nat) | eth (e : Nat)
deriving DecidableEq, Repr

/-- What the block drives to the outside (the model's own record of it, newest last): read data, host-memory writes and
messages, pin levels, frames and serial data. -/
inductive Out where
  /-- Data returned to a register or memory read (R32, R40, R456). -/
  | readData (c : Req) (vals : List Nat)
  /-- A DMA write to host memory (R325). -/
  | hostWrite (addr : Nat) (data : List Byte)
  /-- A DMA read of host memory: address and bytes (R325, R338). -/
  | hostRead (addr len : Nat)
  /-- An MSI-X message of a vector (R333). -/
  | msix (vector : Nat)
  /-- A page interrupt to the management core (R334). -/
  | mgmtIrq (p : Page)
  /-- A pin takes a level: SYNC_OUTn, PPS_OUT, An_ACK, ALERT_N, CORE_EN. -/
  | pin (name : String) (level : Bool)
  /-- An Ethernet frame sent on a port. -/
  | ethTx (port : Nat) (frame : List Byte)
  /-- A Piste flit sent on a port: its 64 bytes. -/
  | pisteTx (port : Nat) (flit : List Byte)
  /-- Bytes programmed into the boot flash at an address (R440, R452). -/
  | flash (addr : Nat) (data : List Byte)
  /-- Bytes driven on OBS_MISO (R456). -/
  | obs (data : List Nat)
  /-- A value shifted out by the JTAG TAP (R457). -/
  | jtag (value : Nat)
  /-- An AVSBus setpoint command (R475). -/
  | avs (mv : Nat)
  /-- A configuration-space completion: `none` is CRS (R324). -/
  | cfg (data : Option Nat)
deriving DecidableEq, Repr

/-- The reset, boot and clock state of the AON domain and the hub (chapter 15). -/
structure Boot where
  /-- A POR or PIN reset is in force. -/
  porHold : Bool
  pinHold : Bool
  /-- 64 good REFCLK edges have been seen (R410). -/
  refclkOk : Bool
  /-- Locked PLLs, in the bit order of the LOCK register (R422). -/
  lock : Nat
  /-- Of each PLL, by LOCK bit, that has lost lock: 2 + the DT of the loss, or 1 once the loss is classed as lasting (R409). -/
  lostAt : Tab Nat
  /-- The DT since which each relocked PLL has stayed locked, by LOCK bit. -/
  relockAt : Tab Nat
  /-- The hub has left reset. -/
  hubUp : Bool
  /-- Compute dies released (bit per die) and dies whose links have trained. -/
  diesUp : Nat
  diesTrained : Nat
  /-- DDR4 channels whose training has ended (bit per channel). -/
  ddrDone : Nat
  /-- DT at the start of boot step 2, or of the reset. -/
  startDT : Nat
  /-- DT since which the device has been at READY; 0 when it is not. -/
  readyDT : Nat
  /-- The watchdog runs, and the DT at which it reaches 0. -/
  wdogOn : Bool
  wdogEnd : Nat
  /-- The period in ms of the latest reload. -/
  wdogPer : Nat
  /-- Remaining ns while the watchdog is frozen in SLEEP. -/
  wdogFrozen : Nat
  /-- The tick in which each compute die was released (R408, R416). -/
  dieFrom : Tab Nat
  /-- The 256 option bytes in OTP and the staged copy being burned. -/
  otp : List Byte
  burning : List Byte
deriving DecidableEq, Repr

/-- A host command being carried out (R327, R338): its entry, where it stands and what it has found. -/
structure CmdRun where
  opcode : Nat
  tag : Nat
  entry : List Byte
  dtStart : Nat
  /-- 1 reading, 2 checking, 3 applying (CMD_STATE of R346). -/
  phase : Nat
  /-- The bytes read into the staging area. -/
  data : List Byte
  /-- The read returned an error completion or poisoned data (R338 step 1). -/
  readErr : Bool
  /-- Physical clusters still to apply, in ascending order: cluster, the step of R342 it has reached (0: not begun), the tick at
  which that step began. -/
  todo : List (Nat × Nat × Nat)
  /-- No completion may be written (R344). -/
  silent : Bool
  /-- FENCE_SEEN and GROUP_RESTART of the completion; a job stop hit the load (R343). -/
  fenceSeen : Bool
  groupRestart : Bool
  jobStop : Bool
  /-- The chosen matrix variant (R340), and the DDR4 allocation of the new generation. -/
  variant : Nat
  ddrBase : Nat
  ddrSize : Nat
  /-- The sliver cores that were fenced when the package was checked (R338, R340). -/
  fenced : List Nat
  /-- Bound matrix cores that the loader holds, with their fusion groups (R342). -/
  held : List (Nat × Nat)
deriving DecidableEq, Repr

/-- What the loader keeps of one partition (R341, R446). -/
structure Part where
  gen : Nat
  state : Nat
  loaded : Bool
  clusters : Nat
  /-- The package last applied: its bytes, its key slot (0xFF unsigned). -/
  pkgDigest : List Byte
  keySlot : Nat
  variant : Nat
  /-- DDR4 allocation inside the model region: base and size. -/
  ddrBase : Nat
  ddrSize : Nat
deriving DecidableEq, Repr

/-- A partition that holds nothing. -/
def Part.empty : Part := ⟨0, 0, false, 0, [], 0xFF, 0, 0, 0⟩

/-- The PCIe endpoint, its message table, and the command engine (chapter 12). -/
structure HostIf where
  /-- PERST# is asserted. -/
  perst : Bool
  /-- The endpoint has been released and answers configuration requests other than with CRS. -/
  ready : Bool
  /-- MSI-X Enable, Function Mask and the power state D3hot of the function. -/
  msixEn : Bool
  funcMask : Bool
  d3 : Bool
  aspmL12 : Bool
  /-- The MSI-X table by 32-bit word, and the pending bits (R333). -/
  msix : Tab Nat
  pba : Nat
  /-- End of the coalescing window of each of vectors 0–5 (0: none) and whether a message is folded into it. -/
  coalEnd : Tab Nat
  coalFold : Tab Bool
  cmd : Option CmdRun
  parts : Tab Part
  /-- Notices queued while new firmware starts (R453). -/
  noticeQ : List (List Byte)
  /-- Firmware does not run commands, notices, appends: between steps 3 and 5 of R452. -/
  fwDown : Bool
deriving DecidableEq, Repr

/-- The default of an MSI-X table word: every vector masked. -/
def msixDefault (i : Nat) : Nat := if i % 4 = 3 then 1 else 0

/-- A package flit unit in flight (R226, R227): TYPE, the destination (DKIND, DCL, DEP), the low 14 tag bits (AUX or source)
and its 64-bit data words. -/
structure Flit where
  ty : Nat
  dk : Nat
  dcl : Nat
  dep : Nat
  aux : Nat
  words : List Nat
deriving DecidableEq, Repr

/-- A flit in a router's stream queue (R233): the event word, its Ledger map, its two delivery flags, and the full DT of a REPLAY
pair (`none`: an EVENT flit). -/
structure QFlit where
  word : Nat
  map : Nat
  ledger : Bool
  cores : Bool
  t : Option Nat
deriving DecidableEq, Repr

/-- One stage of a staging FIFO (R83): the word, the ST35 of its entry DT, its count of valid bytes, its RESYNC flag. -/
structure StageW where
  w : Nat
  e35 : Nat
  valid : Nat
  resync : Bool
deriving DecidableEq, Repr

/-- A stream clock model (R57, R58). -/
structure Model where
  valid : Bool
  baseS : Nat
  baseDT : Nat
  rate : Nat
deriving DecidableEq, Repr

/-- A decoded event or trigger waiting for the stamper: position, polarity, stream time, the entry DT of its word, and the
model that applies after it when it completed a fit (R63). -/
structure DecEv where
  trig : Bool
  x : Nat
  y : Nat
  p : Nat
  st : Nat
  arr : Nat
  post : Option Model
deriving DecidableEq, Repr

/-- A stamped event (R58): stream, x, y, polarity, full DT and the tile-map bank that applies to it (R98). -/
structure Ev where
  str : Nat
  x : Nat
  y : Nat
  p : Nat
  dt : Nat
  bank : Nat
deriving DecidableEq, Repr

/-- The open window of arrival regression (R62): its number and length in ticks, and the least point so far. -/
structure ArrWin where
  win : Nat
  len : Nat
  key : Nat
  st : Nat
  adt : Nat
deriving DecidableEq, Repr

/-- A payload word that a MIPI receiver has still to offer to a stream's FIFO (R79, R83): the port, the word, its valid bytes, the DT
at which it is written into stage 31, and on the last word of a packet whether the packet's CRC is good. -/
structure RxW where
  port : Nat
  w : Nat
  valid : Nat
  atDT : Nat
  last : Option Bool
deriving DecidableEq, Repr

/-- A stream context of the ingest (chapters 02 and 03). -/
structure Strm where
  /-- The words of packets in reception, and how many of the present packet have been written (R78, R101). -/
  rx : List RxW
  rxN : Nat
  /-- The staging FIFO, head first, and whether words have been dropped since the last one accepted (R83, R84). -/
  fifo : List StageW
  dropped : Bool
  /-- Stream time (R54), the staged high bits (R55), the vector state (R87, R90). -/
  time : Nat
  thPend : Option Nat
  vx : Option Nat
  vy : Option Nat
  vp : Nat
  /-- Decoded events waiting for a lane, and the queue to the distributor (R100). -/
  wait : List DecEv
  queue : List Ev
  /-- DT of the previous event (R59). -/
  prev : Option Nat
  /-- The active model, the model the stamper maps the next waiting event with, the staged values and a captured commit
  (R64). -/
  act : Model
  stm : Model
  stgS : Nat
  stgDT : Nat
  stgRate : Nat
  cap : Option Model
  /-- The fit history, oldest first (R63), and the open arrival window (R62). -/
  hist : List (Nat × Nat)
  arr : Option ArrWin
  /-- Periods of the selected line that have passed with no accepted pair (R67). -/
  periods : Nat
  /-- Per region: the decimation counter, and whether the region's previous event found it gated (R95). -/
  flk : Tab (Nat × Bool)
  /-- The tick in which a pending tile-map swap was accepted (R98). -/
  swapTick : Nat
  /-- DTs of the events stamped in the last 10 ns, which is 11 EVCLK cycles (R92). -/
  lim : List Nat
deriving DecidableEq, Repr

/-- The model a stream has at reset: RATE 1,000.0, not valid (R67's register table). -/
def Model.init : Model := ⟨false, 0, 0, 0x000003E800000000⟩

/-- A stream context at reset. -/
def Strm.init : Strm :=
  { rx := [], rxN := 0, fifo := [], dropped := false, time := 0, thPend := none, vx := none, vy := none, vp := 0, wait := [], queue := [],
    prev := none, act := Model.init, stm := Model.init, stgS := 0, stgDT := 0, stgRate := 0x000003E800000000, cap := none,
    hist := [], arr := none, periods := 0, flk := [], swapTick := 0, lim := [] }

/-- An AER port's handshake (R81): REQ seen, the entry DT, the DT at which REQ was seen, latched (ACK asserted). -/
structure AerPort where
  req : Bool
  entry : Nat
  seen : Nat
  ack : Bool
deriving DecidableEq, Repr

/-- An idle handshake. -/
def AerPort.init : AerPort := ⟨false, 0, 0, false⟩

/-- A SYNC_OUT line (R60): the period in force and a pending one in µs, the DT of the next edge (0: none), whether the line is
high, when it falls, whether it has risen since it was last enabled, and the last 16 edges with the period in force when each rose,
newest first. -/
structure SyncLine where
  period : Nat
  pend : Option Nat
  next : Nat
  high : Bool
  fallAt : Nat
  began : Bool
  edges : List (Nat × Nat)
deriving DecidableEq, Repr

/-- A disabled line. -/
def SyncLine.init : SyncLine := ⟨1000, none, 0, false, 0, false, []⟩

/-- One kept output of a rate channel (R259): coarse, fine, VALID, FLICKER, sample tick, output number, metric. -/
structure ChOut where
  coarse : Nat
  fine : Int
  valid : Bool
  flick : Bool
  tick : Nat
  seq : Nat
  metric : Nat
deriving DecidableEq, Repr

/-- A rate channel (R244–R258): whether it runs, the FREEZE in effect while it runs (R254), the profile and delay in use, a switch
that waits, and the chain's state. -/
structure Chan where
  run : Bool
  frz : Bool
  prof : Nat
  dly : Nat
  pend : Bool
  i0 : Nat
  i1 : Nat
  i2 : Nat
  i3 : Nat
  z : List Nat
  nCic : Nat
  hb : List Int
  fir : List Int
  e : Int
  box : Nat
  m : Nat
  flick : Bool
  j : Nat
  hist : List ChOut
deriving DecidableEq, Repr

/-- A stopped channel with cleared state. -/
def Chan.init : Chan := ⟨false, false, 0, 0, false, 0, 0, 0, 0, [0, 0, 0, 0], 0, [], [], 0, 0, 0, false, 0, []⟩

/-- A filter profile in use (R241): preset, shifts, DC exponent, taps, phase anchor, bank pointers (as offsets from their
reset value p), bank, generation, a waiting COMMIT, a pending swap (slot, generation, XF_LEN) and a running crossfade
(latest i, L, outgoing slot). -/
structure Prof where
  preset : Nat
  s1 : Nat
  s2 : Nat
  k : Nat
  ntaps : Nat
  anchor : Nat
  slotA : Option Nat
  slotB : Option Nat
  bankB : Bool
  gen : Nat
  commit : Bool
  swap : Option (Nat × Nat × Nat)
  xf : Option (Nat × Nat)
  xfPos : Nat
deriving DecidableEq, Repr

/-- A profile at reset (R243, R255). -/
def Prof.init : Prof := ⟨0, 4, 16, 10, 1, 0, none, none, false, 0, false, none, none, 0⟩

/-- The rate filter bank (chapter 09). `rate` holds the counts by tick × 1152 + channel of the open ticks and the last 256
closed ones; `closed` is the first open tick; `proc` the next tick to process; `coef` the taps by 64 × slot + tap; `sync` the
pending synchronising reset (mask, tick). -/
structure Rfb where
  rate : Tab Nat
  closed : Nat
  proc : Nat
  chans : Tab Chan
  profs : Tab Prof
  coef : Tab Int
  sync : Option (Nat × Nat)
deriving DecidableEq, Repr

/-- A rewind mark (R312): VALID, a SET that waits for the next event, placed but its line not yet complete, POS, DT, and the
position of its EVENT. -/
structure Mark where
  valid : Bool
  set : Bool
  placed : Bool
  pos : Nat
  dt : Nat
  evPos : Nat
deriving DecidableEq, Repr

/-- A mark that holds nothing. -/
def Mark.init : Mark := ⟨false, false, false, 0, 0, 0⟩

/-- A stream's Journal (R306–R313): the words of the partial line, full staged lines, lines issued to DDR4, the open gap (lost
count, CAP, STAGE, DT of the first lost event), the DT of the latest TIME record, whether a TIME record must precede the next
EVENT, the DT at which a copy was last accepted, whether the oldest line not yet in DDR4 begins with the second word of a record, and
the marks. -/
structure Jrn where
  part : List Nat
  lines : List (List Nat)
  flight : List (List Nat)
  gap : Option (Nat × Bool × Bool × Nat)
  lastTime : Nat
  needTime : Bool
  lastCopy : Nat
  cont : Bool
  marks : Tab Mark
deriving DecidableEq, Repr

/-- A Journal with nothing staged. -/
def Jrn.init : Jrn := ⟨[], [], [], none, 0, true, 0, false, []⟩

/-- A replay channel's reader (R315): WP at acceptance and the DT of the record last rebuilt (R309). -/
structure RepCh where
  wpAt : Nat
  lastT : Nat
deriving DecidableEq, Repr

/-- A reader that has read nothing. -/
def RepCh.init : RepCh := ⟨0, 0⟩

/-- A write waiting in a bank's apply queue (R110, R112, R115): descriptor, pixel, polarity, full time in map time, whether a
core made it, whether it is a COPY write, and whether it came with its full time (a replay). -/
structure LWrite where
  d : Nat
  x : Nat
  y : Nat
  p : Nat
  tw : Nat
  core : Bool
  copy : Bool
  replay : Bool
deriving DecidableEq, Repr

/-- A neighbourhood read at the bank (R119, R227): core, pixel, radius, polarity selection, map, key, CORE source, DEST, tick. -/
structure NbrReq where
  core : Nat
  x : Nat
  y : Nat
  r : Nat
  pol : Nat
  map : Nat
  key : Nat
  src : Bool
  dest : Nat
  tick : Nat
deriving DecidableEq, Repr

/-- The fence of a SLOT descriptor or token buffer (R115, R208): slot number, its instant, whether reads may start, whether a
read has opened the read phase, and the release marks received for the slot. -/
structure Fence where
  n : Nat
  f : Nat
  settled : Bool
  opened : Bool
  marks : Nat
deriving DecidableEq, Repr

/-- A line of the Ledger cache (R108): the DDR4 line address, dirty, and the free line of the bank that holds its 64 bytes. -/
structure CLine where
  addr : Nat
  dirty : Bool
  line : Nat
deriving DecidableEq, Repr

/-- A Ledger bank (chapter 04): the applied tick A, the apply queue in arrival order, reported progress by core, waiting
neighbourhood reads, descriptors being cleared, fences by descriptor, and the cache with the most recently used line first. -/
structure Bank where
  applied : Nat
  queue : List LWrite
  prog : Tab Nat
  reqs : List NbrReq
  clears : List Nat
  fences : Tab (Option Fence)
  cache : List CLine
deriving DecidableEq, Repr

/-- A bank at reset. -/
def Bank.init : Bank := ⟨0, [], [], [], [], [], []⟩

/-- The schedule of a fusion group (R265): the next unstarted slot and its instant, the slots started (newest first: every one still
collecting, and the last 64 past), the DT of the enable, and the slot instant before the first slot. -/
structure Sched where
  next : Option (Nat × Nat)
  starts : List (Nat × Nat)
  enabledAt : Nat
  before : Nat
deriving DecidableEq, Repr

/-- A disabled group. -/
def Sched.init : Sched := ⟨none, [], 0, 0⟩

/-- An arrival in a Turnstile queue (R133): key time (a full DT), class 0–3, address (u29 or GNA), spike PAYLOAD, LATE. -/
structure Arr where
  t : Nat
  cls : Nat
  addr : Nat
  payload : Nat
  late : Bool
deriving DecidableEq, Repr

/-- The flags of the update engine (R161). -/
structure Flags where
  z : Bool
  n : Bool
  c : Bool
  v : Bool
  f : Bool
deriving DecidableEq, Repr

/-- The neuron latch NL (R161): VALID, index, V (as 32 bits), T17, FIRED. -/
structure NLatch where
  valid : Bool
  idx : Nat
  v : Int
  t17 : Nat
  fired : Bool
deriving DecidableEq, Repr

/-- The registers, accumulators and flags of an update engine (R161): g0–g15, a0–a3. -/
structure Eng where
  g : List Nat
  a : List Int
  fl : Flags
deriving DecidableEq, Repr

/-- A handler run (R179, R180): handler 0–3 ON_EVENT by class, 4 ON_TICK, 5 ON_SLOT, 6 ON_INIT; its arrival; ARR_ENTRY; HT,
read tick, record time; SLOT_N, HPARAM, CORE_GNA and NL as sampled at entry (R162); PC, call stack, micro-ops issued; and the
engine as it stood before the lane-0 word whose lane-1 partner is still to issue (R167). -/
structure HRun where
  kind : Nat
  arr : Option Arr
  entry : Nat
  ht : Nat
  readTick : Nat
  recT : Nat
  slotN : Nat
  hparam : List Nat
  gna : Nat
  nlAt : NLatch
  pc : Nat
  stack : List Nat
  count : Nat
  pair : Option Eng
deriving DecidableEq, Repr

/-- A sliver core (chapters 05 and 06): its queue in arrival order, NT, the next tick whose closing steps are due, the engine,
the neuron latch NL, the handler in progress, whether ON_INIT is due once that handler has ended (R179), the output port, the tags
held, and an outstanding neighbourhood read (DEST, radius). -/
structure Core where
  queue : List Arr
  nt : Nat
  stepped : Nat
  eng : Eng
  nl : NLatch
  run : Option HRun
  initDue : Bool
  port : List Flit
  tags : Nat
  nbr : Option (Nat × Nat)
deriving DecidableEq, Repr

/-- An engine at reset. -/
def Eng.init : Eng := ⟨List.replicate 16 0, List.replicate 4 0, ⟨false, false, false, false, false⟩⟩

/-- A core at reset. -/
def Core.init : Core := ⟨[], 0, 0, Eng.init, ⟨false, 0, 0, 0, false⟩, none, false, [], 0, none⟩

/-- A spike copy that waits at a router for its target core (R235): core in the cluster, its two words, the DT at which it first
waited. -/
structure SpkCopy where
  core : Nat
  w0 : Nat
  w1 : Nat
  since : Nat
deriving DecidableEq, Repr

/-- A cluster router's spike side (R235): waiting copies in arrival order, and the escape ring's head position and level. -/
structure Router where
  wait : List SpkCopy
  escHead : Nat
  escLevel : Nat
deriving DecidableEq, Repr

/-- A router at reset. -/
def Router.init : Router := ⟨[], 0, 0⟩


/-- A DMA descriptor being carried out (R203): its index, the addresses and sizes it copies, and the next row and byte to
request. -/
structure DmaJob where
  idx : Nat
  src : Nat
  dst : Nat
  rowBytes : Nat
  rows : Nat
  ss : Nat
  ds : Nat
  row : Nat
  off : Nat
deriving DecidableEq, Repr

/-- A DMA request in flight (R236): its tag, where its bytes go, their number, and whether the write is under way. -/
structure DmaReq where
  tag : Nat
  dst : Nat
  len : Nat
  wr : Bool
deriving DecidableEq, Repr

/-- A slot program being run (R211): its slot (`none`: a run by START), F_n, PROG_BASE and PROG_LEN, the next descriptor to
queue, the queue, the descriptor each unit runs with whether its results are visible, and the descriptors completed. -/
structure MxRun where
  slot : Option Nat
  f : Nat
  next : Nat
  queue : List Nat
  comp : Option (Nat × Bool)
  gath : Option (Nat × Bool)
  dma : Option (Nat × Bool)
  done : Nat
deriving DecidableEq, Repr

/-- A matrix core (chapter 07): the program it runs, semaphores SEM0–SEM15, its DMA job and requests, the last slot it started,
and the terms of τ_eff fixed at the slot start (SKIM_GOV_EN, a and b of R217). -/
structure Mx where
  run : Option MxRun
  sem : List Nat
  job : Option DmaJob
  reqs : List DmaReq
  last : Option Nat
  gov : Bool
  skA : Nat
  skB : Nat
deriving DecidableEq, Repr

/-- A matrix core at reset. -/
def Mx.init : Mx := ⟨none, List.replicate 16 0, none, [], none, false, 0, 0⟩

/-- A record waiting for a buffer's fence (R208): buffer, cell, record time, sending core, its 64-byte words. -/
structure TokPend where
  buf : Nat
  cell : Nat
  t : Nat
  core : Nat
  words : List Nat
deriving DecidableEq, Repr

/-- A TOK unit (R206–R209): the record time and sender of each filled cell by buffer × 4096 + cell, the pending queue, and the
buffers' fences. -/
structure Tok where
  cells : Tab (Option (Nat × Nat))
  pend : List TokPend
  fences : Tab (Option Fence)
deriving DecidableEq, Repr

/-- A TOK unit at reset. -/
def Tok.init : Tok := ⟨[], [], []⟩

/-- A request in a DDR4 channel's queue (R237): level, byte address, bytes to write (`none`: a read), length, requesting matrix
core, tag. -/
structure DdrReq where
  level : Nat
  addr : Nat
  data : Option (List Byte)
  len : Nat
  mx : Nat
  tag : Nat
deriving DecidableEq, Repr


/-- A flow bin (R272): W, SX, SY, PX, PY. -/
structure Bin where
  w : Nat
  sx : Int
  sy : Int
  px : Nat
  py : Nat
deriving DecidableEq, Repr

/-- A corner record (R273): stream, its 29-bit ADDR, SCORE, ARC, record time. -/
structure Corner where
  str : Nat
  addr : Nat
  score : Nat
  arc : Nat
  t : Nat
deriving DecidableEq, Repr

/-- What a group collects for a slot (R271–R274): slot number, bins by 32 × stream + region, corners, USER bytes by MX in order
of arrival, and the SLOT_DONE markers received as (MX, status). -/
structure SlotIn where
  n : Nat
  bins : Tab Bin
  corners : List Corner
  user : List (Nat × List Byte)
  done : List (Nat × Nat)
deriving DecidableEq, Repr

/-- A detection (R275): U, V, DU, DV, W, H, RANGE as FP32, CLASS, SCORE, OBJ_ID. -/
structure Det where
  u : Nat
  v : Nat
  du : Nat
  dv : Nat
  w : Nat
  h : Nat
  range : Nat
  cls : Nat
  score : Nat
  obj : Nat
deriving DecidableEq, Repr

/-- A kept result (R274): measurement time, MX, its detections, its inverse depths. -/
structure Result where
  tm : Nat
  mx : Nat
  dets : List Det
  depth : List Nat
deriving DecidableEq, Repr

/-- A Ledger sample point (R277): map, SOURCE = CORE, key, pixel, POL_SEL, SAMPLE_T_OFFSET. -/
structure Smp where
  map : Nat
  core : Bool
  key : Nat
  x : Nat
  y : Nat
  pol : Nat
  off : Nat
deriving DecidableEq, Repr

/-- A report built and not yet released (R267–R269): slot number, F_n, whether the report is complete, its bytes, the DT of its
cutoff, DEST in effect at its cutoff (R270), whether its output time is in WT, that time in ns of WT or DT (R265), STEP (R266), the
sample points whose reads wait for their fences (R121), and SAMPLE_RELEASE for them. -/
structure Report where
  n : Nat
  f : Nat
  done : Bool
  bytes : List Byte
  cut : Nat
  dest : Nat
  world : Bool
  target : Nat
  step : Bool
  pend : List Smp
  rel : Bool
deriving DecidableEq, Repr

/-- A fusion group's engine (chapter 10): the slots being collected, the last slot processed, F_prev, kept detections and depth
results by stream (newest first), reports (oldest first), the bank latched for each started slot as (slot, bank, generation,
newly switched), newest first, whether it has latched the pending bank, the birth serial, STEP, LATE_INPUT and DEGRADED (R435)
for the next report, SENS_SET and LOOKAHEAD_NS in effect (R270), the reasons of each stream in the latest slot (R286), and the slots
started last with their instants, kept over a disable (R274). -/
structure Grp where
  slots : List SlotIn
  cut : Option Nat
  prev : Option Nat
  dets : Tab (List Result)
  depth : Tab (List Result)
  reports : List Report
  banks : List (Nat × Nat × Nat × Bool)
  latched : Bool
  uid : Nat
  step : Bool
  late : Bool
  degr : Bool
  sens : Nat
  look : Nat
  why : Tab Nat
  known : List (Nat × Nat)
deriving DecidableEq, Repr

/-- A group at reset. -/
def Grp.init : Grp := ⟨[], none, none, [], [], [], [], false, 0, false, false, false, 0, 0, [], []⟩

/-- A track (R291, R300), FP32 values as patterns: STATE 1–3, birth serial, CONF, CLASS, MISSES, hit history of the last non-HELD
slots (newest first), non-HELD slots since birth, AGE, position, velocity, extent, 6 × 6 covariance by rows, a range update has
been applied; and the 64-byte record as in the latest report. -/
structure Track where
  st : Nat
  uid : Nat
  conf : Nat
  cls : Nat
  misses : Nat
  hist : List Bool
  free : Nat
  age : Nat
  p : List Nat
  u : List Nat
  e : List Nat
  cov : List Nat
  ranged : Bool
  recd : List Byte
deriving DecidableEq, Repr

/-- A stream's health bookkeeping (R286–R288): it has joined an enabled group, HEALTH is set, the DEC_NOMATCH, DEC_ERR and
CRC_WORDS seen at the last evaluation, the state after each evaluation with the output time of its slot (newest first; a flag says
that the time is in WT), and zone outcomes of other groups with the output times of their slots. -/
structure Health where
  joined : Bool
  masked : Bool
  seen : List Nat
  hist : List ((Bool × Nat) × Nat × Bool)
  zones : List (Bool × Nat)
deriving DecidableEq, Repr

/-- A stream that has joined nothing. -/
def Health.init : Health := ⟨false, false, [0, 0, 0], [], []⟩

/-- Work that management firmware owes to a fault (R432, R434, R438, R440): kind 1 FENCE, 2 REPLACE_REQUEST, 3 job stop,
the UNIT word of the log entry (a job stop: cause and number), the fault code, the
DT. -/
structure FaultAct where
  kind : Nat
  unit : Nat
  code : Nat
  dt : Nat
deriving DecidableEq, Repr

/-- Security and observation state (chapter 16): firmware actions owed (notices, log entries), the fault log in flash by entry,
ALERT_N asserted, Tj above TJ_WARN, the patrol scrub's next address by channel, the key operation being burned (OP, slot, key),
the owner keys and REVOKED fuses, the protection request being decided (class, index, entry), the JTAG instruction, the
digest of the running firmware image. -/
structure Sec where
  notices : List FaultAct
  logs : List FaultAct
  flog : List (List Byte)
  alert : Bool
  hot : Bool
  scrub : Tab Nat
  burn : Option (Nat × Nat × List Byte)
  owner : Tab (List Byte)
  revoked : Nat
  ptReq : Option (Bool × Nat × Nat)
  ir : Nat
  fwDigest : List Byte
deriving DecidableEq, Repr

/-- As manufactured: no owner key, an empty log (R441, R440). -/
def Sec.init : Sec := ⟨[], [], [], false, false, [], none, [], 0, none, 1, []⟩

/-- A PTP domain's servo and protocol state (R352–R358): DT of the previous applied sample, i_acc, the candidate run, the held
rate of a slew, the DT of an unresolved jump, the end of JUDGING, MPD before the run, consecutive samples within SLEW_LIMIT,
consecutive applied samples within LOCK_NS, and the DT and interval of the last Announce and Sync. -/
structure Dom where
  applied : Option Nat
  iAcc : Int
  run : Nat
  held : Nat
  jumpAt : Option Nat
  judgeEnd : Nat
  mpd0 : Int
  good : Nat
  lockRun : Nat
  annAt : Nat
  annIv : Nat
  syncAt : Nat
  syncIv : Nat
deriving DecidableEq, Repr

/-- A domain at reset. -/
def Dom.init : Dom := ⟨none, 0, 0, 0, none, 0, 0, 0, 0, 0, 0, 0, 0⟩

/-- PPS_OUT (R361): the pin is high, when it falls, the last second emitted or passed over. -/
structure Pps where
  high : Bool
  fallAt : Nat
  base : Int
deriving DecidableEq, Repr

/-- A launch entry (R363): its queue, the slot number n, the WT target, the launch DT (`none`: the target is never reached), the
report. -/
structure LEntry where
  q : Nat
  n : Nat
  target : Nat
  dt : Option Nat
  bytes : List Byte
deriving DecidableEq, Repr

/-- A message in a Piste port (R376): its TYPE, its body words, and the receive buffer that it still holds, if any (port, class,
HOP; R377). -/
structure PMsg where
  ty : Nat
  body : List Nat
  src : Option (Nat × Nat × Nat)
deriving DecidableEq, Repr

/-- A Piste port's link layer (R373–R377): the transmitter's next SEQ, its retry buffer (SEQ, TYPE, body words), messages that wait
for room in it or for credit, the messages sent and not credited per buffer of the receiver (8 × class + HOP), received EVENT flits
whose spikes wait for SPK credit (R387), the receiver's expected SEQ, the SEQs that failed and have not been received since, NAK
owed, flits consumed per buffer and credit returns owed (class, hop), the DT of the last good flit, HELLO received while training,
and t1 of an outstanding TIME request. -/
structure PPort where
  txSeq : Nat
  retry : List (Nat × Nat × List Nat)
  wait : List PMsg
  out : Tab Nat
  rx : List PMsg
  rxSeq : Nat
  failed : List Nat
  nak : Bool
  used : Tab Nat
  owed : List (Nat × Nat)
  lastGood : Nat
  hello : Bool
  t1 : Option Nat
deriving DecidableEq, Repr

/-- A port that is down. -/
def PPort.init : PPort := ⟨0, [], [], [], [], 0, [], false, [], [], 0, false, none⟩

/-- A ROUTE advertisement as kept (R381): sequence, flags, the six port words. -/
structure Adv where
  seq : Nat
  flags : Nat
  ports : List Nat
deriving DecidableEq, Repr

/-- An open EVENT flit of the Piste egress (R384): destination, FT35, GROUP, CLASS, its spike words, the DT of its first spike. -/
structure OpenFlit where
  dest : Nat
  ft35 : Nat
  group : Nat
  cls : Nat
  spikes : List Nat
  since : Nat
deriving DecidableEq, Repr

/-- A TENSOR transfer being assembled (R388): source, TID, arrival port, the bytes so far. -/
structure Xfer where
  src : Nat
  tid : Nat
  port : Nat
  data : List Byte
deriving DecidableEq, Repr

/-- The fabric unit (chapter 14): ports, spike copies passed by the source cluster routers, open flits, advertisements by origin,
this device's advertisement sequence, the next TID, transfers being assembled, the DT of the RMT access in progress and whether it is a read, samples of
the FT lock (newest first), the run of samples beyond FT_TOL or within it, the DT of the last lock, i_acc and the DT of the last
sample of the INDEPENDENT servo, link state has changed since the last recomputation, the
root's pin flag, and this device has a number (R379). -/
structure Fab where
  ports : Tab PPort
  openF : List OpenFlit
  advs : Tab (Option Adv)
  advSeq : Nat
  tid : Nat
  xfers : List Xfer
  rmtAt : Option Nat
  rmtRead : Bool
  ftSamples : List Int
  ftBad : List Int
  ftGood : Nat
  lockAt : Option Nat
  iAcc : Int
  ftLast : Option Nat
  dirty : Bool
  rootPin : Bool
  numOk : Bool
deriving DecidableEq, Repr

/-- A fabric unit at reset. -/
def Fab.init : Fab := ⟨[], [], [], 0, 0, [], none, false, [], [], 0, none, 0, none, false, false, false⟩

/-- Power-state and regulator state (R414–R416, R475): the DT of the request or exit in progress, the setpoint in mV and the DT of
the last command, no further setpoint change until the next package reset, and the dies whose lasting loss of lock in STANDBY takes
effect at the exit request (R417). -/
structure Pow where
  reqDT : Nat
  mv : Nat
  avsAt : Option Nat
  avsDead : Bool
  late : List Nat
deriving DecidableEq, Repr


/-- The state of the block. -/
structure State where
  /-- Device time DT in ns, below 2^64 (R42). -/
  dt : Nat
  /-- The model's own count of the times DT has wrapped to 0 (R42) since it was last cleared. -/
  laps : Nat
  /-- The DT counter runs: the AON PLL has locked since the last POR or PIN reset (R42). -/
  aonRun : Bool
  /-- The tick number as of the last tick boundary (R48, R49). -/
  tick : Nat
  /-- The model's own counter of the free values already taken (assumption 3). -/
  free : Nat
  /-- Every register field that differs from its reset value. -/
  regs : RegFile
  /-- The words latched by a read, per requester class (R8, R12): class, page kind, instance, offset. -/
  latch : List ((Req × PK × Nat × Nat) × Nat)
  /-- Units fenced for a lasting fault (R432). -/
  fenced : List FUnit
  /-- Pages whose block reset runs, or whose release waits for CLK_GOOD (R408). -/
  resetting : List Page
  /-- Pages held in reset by HOLD (R486). -/
  heldPages : List Page
  /-- All on-chip SRAM, by BAR2 address (R39). -/
  sram : Mem
  /-- DDR4, by byte address. -/
  ddr4 : Mem
  /-- What the block has driven to the outside so far. -/
  out : List Out
  /-- Reset, boot and clock state. -/
  boot : Boot
  /-- The Vault table, not the boot table, is the base protection table (R449). -/
  protVault : Bool
  /-- Protection entries changed since the base table was installed: page entries by page address, windows from 0x10000. -/
  prot : Tab (Option Nat)
  /-- The endpoint and the command engine. -/
  host : HostIf
  /-- Package flits in flight, oldest first (R226, R231). -/
  net : List Flit
  /-- The model's own size of the buffers that each link keeps per class, in units (R232; assumption 148). -/
  bufs : Nat
  /-- Distributor credits per cluster × 36 + stream, starting at 8 (R233). -/
  dcred : Tab Nat
  /-- Router stream queues per cluster × 36 + stream, head first (R233). -/
  rqueue : Tab (List QFlit)
  /-- A TICK_PHASE change that waits for the next tick boundary (R49). -/
  phasePend : Option Nat
  /-- The four SYNC_OUT lines. -/
  sync : Tab SyncLine
  /-- Stream contexts S0–S35. -/
  strm : Tab Strm
  /-- DTs of the lanes that the stamper has granted in the last 10 ns (R92). -/
  lanes : List Nat
  /-- AER handshakes. -/
  aer : Tab AerPort
  /-- The rate filter bank. -/
  rfb : Rfb
  /-- Journals of S0–S35. -/
  jrn : Tab Jrn
  /-- DTs of the Journal copies accepted in the last 10 ns, which is 11 EVCLK cycles (R310). -/
  jcap : List Nat
  /-- Replay readers RP0–RP3. -/
  rep : Tab RepCh
  /-- Waits in progress, by the key of the cycle counter that counts each: the DT at which it began. -/
  waits : Tab (Option Nat)
  /-- Ledger banks of clusters K0–K15. -/
  banks : Tab Bank
  /-- RATE_d in force of domains A and B, 32.32 (R68); 1.0 at reset. -/
  wtRate : Tab Nat
  /-- OFFSET_d in force of domains A and B, in 2^-32 ns (R68). -/
  wtOff : Tab Int
  /-- Slot schedules of fusion groups 0–3. -/
  sched : Tab Sched
  /-- Sliver cores SC0–SC4095. -/
  cores : Tab Core
  /-- The spike side of the cluster routers. -/
  routers : Tab Router
  /-- Matrix cores MX0–MX31. -/
  mx : Tab Mx
  /-- TOK units of clusters K0–K15. -/
  tok : Tab Tok
  /-- Requests waiting at DDR4 channels DDR_A–DDR_F, oldest first (R237). -/
  ddrq : Tab (List DdrReq)
  /-- DT before which a channel serves no further level-2 request under L2_CAP (R237). -/
  ddrNext : Tab Nat
  /-- Ticks in which a stream's rate channels closed a non-zero count, newest first (R276). -/
  rateAct : Tab (List Nat)
  /-- Engines of fusion groups 0–3. -/
  grp : Tab Grp
  /-- The track table. -/
  tracks : Tab (Option Track)
  /-- Tracks that TRK_KILL names, to be deleted at the next cutoff (R295). -/
  kills : List Nat
  /-- Sensor health of S0–S35. -/
  health : Tab Health
  /-- The calibration banks: bank × 78,984 + stream × 2,194 + word (R278). -/
  cal : Tab Nat
  /-- DTs of the FEATURE records taken in the last 10 ns (R271). -/
  featCap : List Nat
  /-- Faults, keys, protection requests and observation. -/
  sec : Sec
  /-- PTP domains A and B. -/
  dom : Tab Dom
  /-- PPS_OUT. -/
  pps : Pps
  /-- Launch entries of ETH0 and ETH1, in order of posting (R363). -/
  launch : Tab (List LEntry)
  /-- DT until which each Ethernet port's transmitter is busy. -/
  wireEnd : Tab Nat
  /-- Frames for management firmware that arrived while it restarts (R350, R453). -/
  rxHeld : List (Nat × List Byte)
  /-- The Piste fabric unit. -/
  fab : Fab
  /-- Power-state sequencing and the core-voltage regulator. -/
  pow : Pow
  /-- Commands waiting, first in first out. -/
  pending : List Instr
deriving DecidableEq, Repr

/-- The reasons a step can stop. There is none: the spec gives every command an effect in every state, a corner that it leaves
open takes a free value (assumption 3), and what hardware calls a fault (R427) is itself an effect on the state: a counter, a
log, an interrupt, a fence, a job stop. -/
inductive Fault where
deriving DecidableEq, Repr

/-- A command without a meaning. -/
inductive Refusal where
  /-- Raised by a dispatch arm whose command has no meaning yet. Safe. -/
  | notModelled (mnemonic : String)
deriving DecidableEq, Repr

/-- The block with its power-on reset in force (R399): every field at its reset value. -/
def State.reset : State :=
  { dt := 0,
    laps := 0,
    aonRun := false,
    tick := 0,
    free := 0,
    regs := [(regKey .rstc 0 0x044 0 0, 1)],
    latch := [],
    fenced := [],
    resetting := [],
    heldPages := [],
    sram := [],
    ddr4 := [],
    out := [],
    boot := ⟨true, false, false, 0, [], [], false, 0, 0, 0, 0, 0, false, 0, 0, 0, [], [], []⟩,
    protVault := true,
    prot := [],
    host := ⟨false, false, false, false, false, false, [], 0, [], [], none, [], [], false⟩,
    net := [],
    bufs := 64,
    dcred := [],
    rqueue := [],
    phasePend := none,
    sync := [],
    strm := [],
    lanes := [],
    aer := [],
    rfb := ⟨[], 0, 0, [], [], [], none⟩,
    jrn := [],
    jcap := [],
    rep := [],
    waits := [],
    banks := [],
    wtRate := [],
    wtOff := [],
    sched := [],
    cores := [],
    routers := [],
    mx := [],
    tok := [],
    ddrq := [],
    ddrNext := [],
    rateAct := [],
    grp := [],
    tracks := [],
    kills := [],
    health := [],
    cal := [],
    featCap := [],
    sec := Sec.init,
    dom := [],
    pps := ⟨false, 0, 0⟩,
    launch := [],
    wireEnd := [],
    rxHeld := [],
    fab := Fab.init,
    pow := ⟨0, 750, none, false, []⟩,
    pending := [] }

end Sys2Proof.Machine
end

