-- ==== Sys2Proof/Machine/Ops.lean ====
section
/-!
DEFINITION. The operations every command shares: time, register fields, pages and their addresses, page interrupts and
their messages, fault counting, trace records, notices, protection and the gate of a register access.
-/
namespace Sys2Proof.Machine

/-- The outcome of a command whose effect is a function of the state. -/
abbrev Res := Host.Outcome State Fault Refusal

/-! ## Time -/

/-- DT counted through its wraps. -/
def State.ns (s : State) : Nat := s.dt + 2 ^ 64 * s.laps

/-- DT moves to `n` ns, counted through its wraps (R42). -/
def State.setNs (s : State) (n : Nat) : State := { s with dt := n % 2 ^ 64, laps := n / 2 ^ 64 }

/-- Let DT run up to `t`, counted through its wraps (R42). DT never decreases except at its wrap; while the AON PLL is unlocked it
advances in steps of 10 ns (R409). -/
def State.advance (s : State) (t : Nat) : State :=
  if !s.aonRun then s
  else if s.boot.lock % 2 = 1 then s.setNs (max s.ns t)
  else s.setNs (s.ns + (t - s.ns) / 10 * 10)

/-- `rebuild` of R45: the full time nearest `now` with the given low 35 bits; a tie goes to the past. -/
def rebuild (now f35 : Nat) : Nat :=
  let m := 2 ^ 35
  let back := (now % m + m - f35 % m) % m
  if back ≤ 2 ^ 34 ∧ back ≤ now then now - back else now + (m - back)

/-- The low 35 bits of a time (ST35). -/
def st35 (t : Nat) : Nat := t % 2 ^ 35

/-! ## Register fields -/

/-- The key of a field of page instance `inst`, entry `idx`. -/
def Fld.key (f : Fld) (inst : Nat) (idx : Nat := 0) : Nat := regKey f.pk inst f.off f.lsb idx

/-- Read a field. -/
def State.rg (s : State) (f : Fld) (inst : Nat) (idx : Nat := 0) : Nat := Tab.get f.reset s.regs (f.key inst idx)

/-- Write a field; a value is cut to the field's width. -/
def State.rs (s : State) (f : Fld) (inst : Nat) (v : Nat) (idx : Nat := 0) : State :=
  { s with regs := Tab.put f.reset s.regs (f.key inst idx) (v % 2 ^ f.width) }

/-- Is a one-bit field set? -/
def State.on (s : State) (f : Fld) (inst : Nat) (idx : Nat := 0) : Bool := s.rg f inst idx != 0

/-- Write a one-bit field. -/
def State.rb (s : State) (f : Fld) (inst : Nat) (b : Bool) (idx : Nat := 0) : State :=
  s.rs f inst (if b then 1 else 0) idx

/-- Add to a counter, which wraps at its width (R14). -/
def State.inc (s : State) (f : Fld) (inst : Nat) (n : Nat := 1) (idx : Nat := 0) : State :=
  s.rs f inst (s.rg f inst idx + n) idx

/-- Add to a counter that saturates at its width. -/
def State.incSat (s : State) (f : Fld) (inst : Nat) (n : Nat := 1) (idx : Nat := 0) : State :=
  s.rs f inst (min (s.rg f inst idx + n) (2 ^ f.width - 1)) idx

/-- A `_PEAK` field holds the highest level since it was last read (R11). -/
def State.peak (s : State) (f : Fld) (inst : Nat) (level : Nat) : State :=
  s.rs f inst (max (s.rg f inst) level)

/-- Return a page instance's fields to their reset values, except the offsets in `keep`. -/
def State.resetPage (s : State) (pk : PK) (inst : Nat) (keep : Nat → Bool) : State :=
  let kept (k : Nat) : Bool := keyPk k != pk.num || keyInst k != inst || keep (keyOff k)
  { s with regs := s.regs.keep kept, waits := Tab.keep kept s.waits }

/-- The header offsets that a block reset does not reach: RESET_STAT, ERR_LOG, ERR_TRANSIENT, ERR_LASTING (R36). -/
def hdrKept (off : Nat) : Bool := off == 0x020 || off == 0x024 || off == 0x028 || off == 0x02C

/-- Take a free value (assumption 3). -/
def State.takeFree (s : State) : Nat × State := (Config.freeValue s.free, { s with free := s.free + 1 })

/-- Drive something to the outside. -/
def State.emit (s : State) (o : Out) : State := { s with out := s.out ++ [o] }

/-- The tick number of a time (R48), never below the tick already reached (R49). -/
def State.tickOf (s : State) (t : Nat) : Nat := (t + s.rg Regs.TIME.TICK_PHASE 0) >>> 10

/-- The current tick number. -/
def State.curTick (s : State) : Nat := max s.tick (s.tickOf s.dt)

/-! ## Waits counted in cycles -/

/-- A wait that the cycle counter `f` of page instance `inst` counts begins (or goes on) now; `who` tells waits of one counter
apart. -/
def State.waitBegin (s : State) (f : Fld) (inst : Nat) (who : Nat := 0) : State :=
  match Tab.get none s.waits (f.key inst who) with
  | some _ => s
  | none => { s with waits := Tab.put none s.waits (f.key inst who) (some s.dt) }

/-- The wait ends: the counter takes its length in EVCLK cycles, 1.1 per ns (R26; assumption 9). -/
def State.waitEnd (s : State) (f : Fld) (inst : Nat) (who : Nat := 0) : State :=
  match Tab.get none s.waits (f.key inst who) with
  | some b => { s.inc f inst ((s.dt - b) * 11 / 10) with waits := Tab.put none s.waits (f.key inst who) none }
  | none => s

/-- The cycles of the waits that a cycle counter counts and that still go on. -/
def State.waiting (s : State) (f : Fld) (inst : Nat) : Nat :=
  (s.waits.map fun e => if e.1 % 68719476736 = f.key inst then (match e.2 with | some b => (s.dt - b) * 11 / 10 | none => 0) else 0).sum

/-! ## Pages -/

/-- AREA and PAGE of a register page, as one 14-bit number (bits [25:12] of a BAR0 address, R30, R34). -/
def Page.addr (p : Page) : Nat :=
  let comp (k rel : Nat) : Nat := (k / 4) * 1024 + (k % 4) * 0x40 + rel
  let hub (x : Nat) : Nat := 4 * 1024 + x
  let net (x : Nat) : Nat := 5 * 1024 + x
  match p.pk with
  | .clu => comp p.inst 0
  | .ldb => comp p.inst 1
  | .mxc => comp (p.inst / 2) (2 + p.inst % 2)
  | .tok => comp p.inst 4
  | .mesh => comp p.inst 5
  | .cg => comp (p.inst / 16) (0x10 + p.inst % 16)
  | .cgs => comp (p.inst / 256) (0x10 + p.inst % 256 / 16)
  | .die => p.inst * 1024 + 0x100
  | .ucie => (p.inst / 4) * 1024 + 0x101 + p.inst % 4
  | .dmon => p.inst * 1024 + 0x105
  | .hub => hub 0 | .rstc => hub 1 | .opt => hub 2 | .clk => hub 3 | .pwr => hub 4 | .prot => hub 5 | .vault => hub 6
  | .time => hub 7
  | .mipi => hub (0x10 + p.inst)
  | .aer => hub (0x24 + p.inst)
  | .ingest => hub 0x28 | .dist => hub 0x29
  | .stream => hub (0x40 + p.inst)
  | .jstr => hub (0x80 + p.inst)
  | .jrnl => hub 0xA8 | .jch => hub 0xA8
  | .rfb => hub 0xC0
  | .rfbs => hub (0xC8 + p.inst)
  | .fuse => hub 0x100
  | .fg => hub (0x101 + p.inst)
  | .trk => hub 0x108 | .cal => hub 0x10C | .pcie => hub 0x140 | .hq => hub 0x141
  | .ddr => hub (0x180 + p.inst)
  | .trace => hub 0x1C0 | .obs => hub 0x1C1 | .mgmt => hub 0x200
  | .eth => net p.inst
  | .ptp => net 8
  | .ptpd => net (9 + p.inst)
  | .lnch => net (0x10 + p.inst)
  | .lnq => net (0x10 + p.inst / 4)
  | .pst => net (0x40 + p.inst)
  | .fab => net 0x48
  | .pkg => 6 * 1024 | .gov => 6 * 1024 + 1

/-- A page of a run of `n` pages from `base`. -/
def pageRun (x : Nat) (e : PK × Nat × Nat) : Option Page :=
  if e.2.1 ≤ x ∧ x < e.2.1 + e.2.2 then some ⟨e.1, x - e.2.1⟩ else none

/-- The hub pages of area 4: kind, first page, number of instances (R34). -/
def hubPages : List (PK × Nat × Nat) :=
  [(.hub, 0, 1), (.rstc, 1, 1), (.opt, 2, 1), (.clk, 3, 1), (.pwr, 4, 1), (.prot, 5, 1), (.vault, 6, 1), (.time, 7, 1),
   (.mipi, 0x10, 18), (.aer, 0x24, 2), (.ingest, 0x28, 1), (.dist, 0x29, 1), (.stream, 0x40, 36), (.jstr, 0x80, 36),
   (.jrnl, 0xA8, 1), (.rfb, 0xC0, 1), (.rfbs, 0xC8, 36), (.fuse, 0x100, 1), (.fg, 0x101, 4), (.trk, 0x108, 1),
   (.cal, 0x10C, 1), (.pcie, 0x140, 1), (.hq, 0x141, 1), (.ddr, 0x180, 6), (.trace, 0x1C0, 1), (.obs, 0x1C1, 1),
   (.mgmt, 0x200, 1)]

/-- The network and fabric pages of area 5 (R34). -/
def netPages : List (PK × Nat × Nat) :=
  [(.eth, 0, 2), (.ptp, 8, 1), (.ptpd, 9, 2), (.lnch, 0x10, 2), (.pst, 0x40, 6), (.fab, 0x48, 1)]

/-- A page of compute die `d` (R34). -/
def diePage (d x : Nat) : Option Page :=
  if x < 0x100 then
    let k := 4 * d + x / 0x40
    let r := x % 0x40
    if r = 0 then some ⟨.clu, k⟩ else if r = 1 then some ⟨.ldb, k⟩
    else if r = 2 ∨ r = 3 then some ⟨.mxc, 2 * k + (r - 2)⟩
    else if r = 4 then some ⟨.tok, k⟩ else if r = 5 then some ⟨.mesh, k⟩
    else if 0x10 ≤ r ∧ r < 0x20 then some ⟨.cg, 16 * k + (r - 0x10)⟩ else none
  else if x = 0x100 then some ⟨.die, d⟩
  else if x ≤ 0x104 then some ⟨.ucie, 4 * d + (x - 0x101)⟩
  else if x = 0x105 then some ⟨.dmon, d⟩ else none

/-- The page at AREA and PAGE; `none` is a reserved page (R31, R34). -/
def Page.ofAddr (a : Nat) : Option Page :=
  let area := a / 1024
  let x := a % 1024
  if area < 4 then diePage area x
  else if area = 4 then hubPages.findSome? (pageRun x)
  else if area = 5 then netPages.findSome? (pageRun x)
  else if a = 6 * 1024 then some ⟨.pkg, 0⟩ else if a = 6 * 1024 + 1 then some ⟨.gov, 0⟩
  else none

/-- The block types of the page index (R34). -/
def PK.blockType : PK → Nat
  | .clu => 0x0101 | .ldb => 0x0102 | .mxc => 0x0103 | .tok => 0x0104 | .mesh => 0x0105 | .cg => 0x0106 | .cgs => 0x0106
  | .die => 0x0110 | .ucie => 0x0111 | .dmon => 0x0112
  | .hub => 0x0201 | .rstc => 0x0202 | .opt => 0x0203 | .clk => 0x0204 | .pwr => 0x0205 | .prot => 0x0206 | .vault => 0x0207
  | .time => 0x0208 | .mipi => 0x0210 | .aer => 0x0211 | .ingest => 0x0212 | .dist => 0x0213 | .stream => 0x0214
  | .jrnl => 0x0220 | .jch => 0x0220 | .jstr => 0x0221 | .rfb => 0x0230 | .rfbs => 0x0231 | .fuse => 0x0240 | .fg => 0x0241
  | .trk => 0x0242 | .cal => 0x0243 | .pcie => 0x0250 | .hq => 0x0251 | .ddr => 0x0260 | .trace => 0x0270 | .obs => 0x0271
  | .mgmt => 0x0280 | .eth => 0x0301 | .ptp => 0x0302 | .ptpd => 0x0303 | .lnch => 0x0304 | .lnq => 0x0304 | .pst => 0x0310
  | .fab => 0x0311 | .pkg => 0x0401 | .gov => 0x0402

/-- The compute die a page belongs to (areas 0–3). -/
def Page.die? (p : Page) : Option Nat := if p.addr / 1024 < 4 then some (p.addr / 1024) else none

/-! ## Fences (R432, R433) -/

/-- Is a unit out of service, itself or with a unit that contains it? -/
def State.dieFenced (s : State) (d : Nat) : Bool := s.fenced.contains (.die d)
def State.clusterFenced (s : State) (k : Nat) : Bool := s.fenced.contains (.cluster k) || s.dieFenced (k / 4)
def State.coreFenced (s : State) (n : Nat) : Bool := s.fenced.contains (.core n) || s.clusterFenced (n / 256)
def State.mxFenced (s : State) (m : Nat) : Bool := s.fenced.contains (.mx m) || s.clusterFenced (m / 2)
def State.ddrFenced (s : State) (c : Nat) : Bool := s.fenced.contains (.ddr c)
def State.pisteFenced (s : State) (p : Nat) : Bool := s.fenced.contains (.piste p)
def State.ethFenced (s : State) (e : Nat) : Bool := s.fenced.contains (.eth e)

/-- The bound matrix cores that the loader holds, with their groups (R342). -/
def State.heldMx (s : State) : List (Nat × Nat) := match s.host.cmd with | some r => r.held | none => []

/-- STATUS.FENCED of a page. -/
def State.pageFenced (s : State) (p : Page) : Bool :=
  match p.pk with
  | .clu | .ldb | .tok | .mesh => s.clusterFenced p.inst
  | .mxc => s.mxFenced p.inst
  | .cg => s.clusterFenced (p.inst / 16)
  | .cgs => s.coreFenced p.inst
  | .die | .dmon => s.dieFenced p.inst
  | .ucie => s.dieFenced (p.inst / 4)
  | .ddr => s.ddrFenced p.inst
  | .pst => s.pisteFenced p.inst
  | .eth => s.ethFenced p.inst
  | _ => false

/-! ## Reset and clock state of a page -/

/-- Bit `i` of a mask. -/
def bit (m i : Nat) : Bool := m.testBit i

/-- Set or clear bit `i` of a mask. -/
def setBit (m i : Nat) (b : Bool) : Nat :=
  if b then m ||| 2 ^ i else m - (if m.testBit i then 2 ^ i else 0)

/-- The LOCK bit of a PLL (R422). -/
def pllBit : Pll → Nat
  | .aon => 0 | .hub => 1 | .die d => 2 + d.val | .ddr => 6 | .mipi => 7 | .pcie => 8 | .eth => 9 | .piste => 10

/-- The LOCK bit of the PLL that clocks a page (R26, R28; assumption 11). -/
def Page.pll (p : Page) : Nat :=
  match p.die? with
  | some d => 2 + d
  | none =>
    match p.pk with
    | .ddr => 6 | .mipi => 7 | .pcie => 8 | .eth => 9 | .pst => 10
    | _ => 1

/-- CLK_GOOD of a page (R28). -/
def State.clkGood (s : State) (p : Page) : Bool := bit s.boot.lock p.pll

/-- A compute die is in reset, off or fenced as a whole (R34). A die whose blocks R409 forces into reset, because its core PLL has lost
lock, is not held in reset in this sense (assumption 133). -/
def State.dieDown (s : State) (d : Nat) : Bool := !(bit s.boot.diesUp d) || s.dieFenced d

/-- IN_RESET of a page: its block reset runs or is held, its clock domain has no lock, its die is not released, or the hub is
in reset (R399, R408, R409). -/
def State.inReset (s : State) (p : Page) : Bool :=
  s.resetting.contains p || s.heldPages.contains p || !s.boot.hubUp || !s.clkGood p ||
    (match p.die? with | some d => !(bit s.boot.diesUp d) | none => false)

/-! ## Trace records (R455) -/

/-- Offset of the trace window in BAR2 (R39). -/
def traceBase : Nat := 0x0F600000

/-- Write a trace record of a kind that KIND_MASK enables, at WR_INDEX, word 1 before word 0; STOP_FULL stops at the wrap. -/
def State.trace (s : State) (p : Page) (kind arg data : Nat) : State :=
  let i := s.rg Regs.TRACE.WR_INDEX 0
  if !s.on Regs.TRACE.TR_EN 0 || !bit (s.rg Regs.TRACE.KIND_MASK 0) kind then s
  else
    let src := (p.addr / 1024) <<< 12 ||| p.addr % 1024
    let w0 := s.dt % 2 ^ 48 + src <<< 48
    let w1 := kind + (arg % 2 ^ 16) <<< 16 + (data % 2 ^ 32) <<< 32
    let m := Mem.wrLE (Mem.wrLE s.sram (traceBase + 16 * i + 8) 8 w1) (traceBase + 16 * i) 8 w0
    let s := { s with sram := m }
    if i + 1 < 131072 then s.rs Regs.TRACE.WR_INDEX 0 (i + 1)
    else if s.on Regs.TRACE.STOP_FULL 0 then s.rb Regs.TRACE.TR_EN 0 false
    else (s.rs Regs.TRACE.WR_INDEX 0 0).inc Regs.TRACE.LAPS 0

/-! ## Interrupts and messages (R37, R333, R334) -/

/-- The host function takes no DMA or message: PERST#, a Function Level Reset, Bus Master Enable 0 or D3hot (R344). -/
def State.hostUp (s : State) : Bool :=
  !s.host.perst && s.on Regs.PCIE.BME 0 && !s.host.d3 && s.boot.hubUp

/-- Send the message of a vector, or leave its pending bit set while it is masked (R333). -/
def State.msixSend (s : State) (v : Nat) : State :=
  if !s.host.msixEn then s
  else
    let masked := s.host.funcMask || (Tab.get (msixDefault (4 * v + 3)) s.host.msix (4 * v + 3)) % 2 = 1 || !s.hostUp
    if masked then { s with host := { s.host with pba := setBit s.host.pba v true } }
    else s.emit (.msix v)

/-- Signal an event of vectors 0–5 through the ring's coalescing time (R333). -/
def State.ringSignal (s : State) (v coalNs : Nat) : State :=
  if coalNs = 0 then s.msixSend v
  else if s.dt < Tab.get 0 s.host.coalEnd v then
    { s with host := { s.host with coalFold := Tab.put false s.host.coalFold v true } }
  else
    let s := s.msixSend v
    { s with host := { s.host with coalEnd := Tab.put 0 s.host.coalEnd v (s.dt + coalNs),
                                   coalFold := Tab.put false s.host.coalFold v false } }

/-- The vector of the lowest-numbered valid route entry from `i` on that names the page with HOST_EN (R334). -/
def State.routeVector (s : State) (p : Page) : Nat → Nat → Option Nat
  | 0, _ => none
  | n + 1, i =>
    if s.on Regs.HQ.ROUTE_VALID 0 i && s.on Regs.HQ.ROUTE_HOST_EN 0 i &&
        s.rg Regs.HQ.ROUTE_AREA 0 i * 1024 + s.rg Regs.HQ.ROUTE_PAGE 0 i == p.addr
    then some (s.rg Regs.HQ.ROUTE_VECTOR 0 i) else s.routeVector p n (i + 1)

/-- The message of a page interrupt: to the management core, and to the host through the route table (R334). -/
def State.irqMessage (s : State) (p : Page) : State :=
  let s := s.emit (.mgmtIrq p)
  match s.routeVector p 64 0 with
  | some v => s.msixSend v
  | none => s

/-- The page raises its interrupt: some bit of IRQ_STATUS is 1 (R37). -/
def State.irqUp (s : State) (p : Page) : Bool :=
  (s.rg (Hdr.IRQ_RAW p.pk) p.inst &&& s.rg (Hdr.IRQ_ENABLE p.pk) p.inst) != 0

/-- Hardware sets a bit of IRQ_RAW; a rising interrupt is traced (kind 1) and sends its message. -/
def State.irqSet (s : State) (p : Page) (b : Nat) : State :=
  let was := s.irqUp p
  let s := s.rs (Hdr.IRQ_RAW p.pk) p.inst (setBit (s.rg (Hdr.IRQ_RAW p.pk) p.inst) b true)
  if s.irqUp p && !was then (s.trace p 1 b (s.rg (Hdr.IRQ_RAW p.pk) p.inst)).irqMessage p else s

/-- A rejected write sets ERR_PARAM (R36). -/
def State.errParam (s : State) (p : Page) : State := s.irqSet p 4

/-! ## Faults (R38, R427, R431) -/

/-- ERR_LOG as one word. -/
def State.errLog (s : State) (p : Page) : Nat :=
  s.rg (Hdr.LOG_VALID p.pk) p.inst <<< 31 ||| s.rg (Hdr.LOG_LASTING p.pk) p.inst <<< 30 |||
    s.rg (Hdr.LOG_CODE p.pk) p.inst <<< 24 ||| s.rg (Hdr.LOG_WHERE p.pk) p.inst

/-- Count a transient or lasting fault on its page and log it: a lasting fault always overwrites ERR_LOG, a transient one
only while LASTING is 0 (R38, R427). The trace unit records it (kind 2). -/
def State.logFault (s : State) (p : Page) (lasting : Bool) (code where_ : Nat) : State :=
  let s := if lasting then (s.inc (Hdr.ERR_LASTING p.pk) p.inst).irqSet p 1
           else (s.inc (Hdr.ERR_TRANSIENT p.pk) p.inst).irqSet p 0
  let s := if lasting || !s.on (Hdr.LOG_LASTING p.pk) p.inst then
      (((s.rb (Hdr.LOG_VALID p.pk) p.inst true).rb (Hdr.LOG_LASTING p.pk) p.inst lasting).rs
        (Hdr.LOG_CODE p.pk) p.inst code).rs (Hdr.LOG_WHERE p.pk) p.inst where_
    else s
  s.trace p 2 0 (s.errLog p)

/-! ## Rings and notices (R325, R326, R331) -/

/-- Entries of ring `r`: 2^k (0 CMD, 1 CPL, 2 NTC, 3–6 report rings). -/
def State.ringCap (s : State) (r : Nat) : Nat := 2 ^ s.rg Regs.HQ.RING_SIZE_LOG 0 r

/-- What lies between producer and consumer of ring `r`. -/
def State.ringFill (s : State) (r : Nat) : Nat :=
  (s.rg Regs.HQ.RING_PROD 0 r + 2 ^ 32 - s.rg Regs.HQ.RING_CONS 0 r) % 2 ^ 32

/-- Ring `r` is enabled and the function may reach host memory (R344). -/
def State.ringLive (s : State) (r : Nat) : Bool := s.on Regs.HQ.RING_EN 0 r && s.hostUp

/-- A DMA write to host memory, counted in DMA_WR_BYTES. -/
def State.dmaWrite (s : State) (addr : Nat) (data : List Byte) : State :=
  (s.emit (.hostWrite addr data)).inc Regs.PCIE.DMA_WR_BYTES 0 data.length

/-- A DMA read of host memory, counted in DMA_RD_BYTES; what it returns is an operand of the command that makes it. -/
def State.hostRead (s : State) (addr len : Nat) : State := (s.emit (.hostRead addr len)).inc Regs.PCIE.DMA_RD_BYTES 0 len

/-- PHASE of an entry written at index `i` of a ring of 2^k entries (R326). -/
def ringPhase (i k : Nat) : Nat := ((i >>> k) + 1) % 2

/-- Write a 32-byte entry at the producer index of ring `r`; `e` gives the entry from its PHASE bit. -/
def State.ringPut (s : State) (r : Nat) (e : Nat → List Byte) : State :=
  let i := s.rg Regs.HQ.RING_PROD 0 r
  let k := s.rg Regs.HQ.RING_SIZE_LOG 0 r
  (s.dmaWrite (s.rg Regs.HQ.RING_BASE 0 r + i % 2 ^ k * 32) (e (ringPhase i k))).rs Regs.HQ.RING_PROD 0 (i + 1) r

/-- A notice entry (R331). -/
def noticeBytes (type arg info dt phase : Nat) : List Byte :=
  leBytes 1 type ++ leBytes 1 phase ++ leBytes 2 arg ++ leBytes 4 info ++ leBytes 8 dt ++ leBytes 16 0

/-- Write a notice, or drop and count it when the ring is full or disabled (R331); the trace unit records it (kind 4). -/
def State.noticeAt (s : State) (type arg info dt : Nat) : State :=
  let s := s.trace ⟨.hq, 0⟩ 4 type info
  if s.ringLive 2 && s.ringFill 2 < s.ringCap 2 then
    (s.ringPut 2 (noticeBytes type arg info dt)).ringSignal 1 (s.rg Regs.HQ.COAL_NS 0 2)
  else s.inc Regs.HQ.NOTICES_DROPPED 0

/-- A notice of the present DT. While new firmware starts, up to 256 are queued in hardware (R453). -/
def State.notice (s : State) (type arg info : Nat) : State :=
  if s.host.fwDown then
    if s.host.noticeQ.length < 256 then
      { s with host := { s.host with noticeQ := s.host.noticeQ ++ [leBytes 1 type ++ leBytes 2 arg ++ leBytes 4 info ++ leBytes 8 s.dt] } }
    else s.inc Regs.HQ.NOTICES_DROPPED 0
  else s.noticeAt type arg info s.dt

/-! ## Protection (R447–R449) -/

/-- The class number of LAST_DENIED (R461). -/
def reqNum : Req → Nat
  | .host => 0 | .mgmtP0 => 1 | .mgmtP1 => 1 | .fabric => 2 | .obs => 3

/-- HOST_R, HOST_W, FABRIC_R, FABRIC_W, MGMT_R, MGMT_W, OBS_R of the base tables (R449), by entry: a page address, or
0x10000 plus a window number. -/
def baseGrants (vault : Bool) (e : Nat) : Nat :=
  let pk := if e < 0x10000 then (Page.ofAddr e).map Page.pk else none
  if 0x10000 ≤ e then (if vault then 0b1010000 else 0b1010001)
  else if vault then
    let hostRW := pk == some .hub || pk == some .rstc || pk == some .pcie || pk == some .vault
    (if hostRW then 0b0000011 else if pk == some .opt then 0b0000001 else 0) + 0b1110000
  else (if pk == some .prot || pk == some .opt then 0b0000001 else 0b0000011) + 0b1110100

/-- The grants in force for an entry. -/
def State.grants (s : State) (e : Nat) : Nat :=
  match Tab.get none s.prot e with
  | some g => g
  | none => baseGrants s.protVault e

/-- Does the table let a class read (R447, R448)? -/
def State.mayRead (s : State) (c : Req) (e : Nat) : Bool :=
  let g := s.grants e
  match c with
  | .host => bit g 0
  | .fabric => bit g 2
  | .mgmtP0 => bit g 4 || e == (Page.addr ⟨.prot, 0⟩)
  | .mgmtP1 => bit g 4
  | .obs => bit g 6

/-- Does the table let a class write? Only MGMT at P0 writes the PROT page; OBS never writes (R447, R448). -/
def State.mayWrite (s : State) (c : Req) (e : Nat) : Bool :=
  let g := s.grants e
  if e == (Page.addr ⟨.prot, 0⟩) then (c matches .mgmtP0)
  else match c with
    | .host => bit g 1
    | .fabric => bit g 3
    | .mgmtP0 | .mgmtP1 => bit g 5
    | .obs => false

/-- Count a denied access in its class's DENIED counter and in LAST_DENIED (R447, R461). -/
def State.denied (s : State) (c : Req) (addr : Nat) (bar2 write : Bool) : State :=
  let f := match c with
    | .host => Regs.PROT.DENIED_HOST
    | .mgmtP0 | .mgmtP1 => Regs.PROT.DENIED_MGMT
    | .fabric => Regs.PROT.DENIED_FABRIC
    | .obs => Regs.PROT.DENIED_OBS
  ((((s.inc f 0).rs Regs.PROT.LD_ADDR 0 addr).rb Regs.PROT.LD_BAR2 0 bar2).rb Regs.PROT.LD_WRITE 0 write).rs
    Regs.PROT.LD_CLASS 0 (reqNum c)

/-! ## The gate of a register write -/

/-- In host boot only the HUB, RSTC, OPT, PCIE and VAULT pages answer (R412). -/
def hostBootPage : PK → Bool
  | .hub | .rstc | .opt | .pcie | .vault => true
  | _ => false

/-- BOOT_PHASE values of R420. -/
def phaseHostBoot : Nat := 5

/-- Does a page answer at all: the hub is up, and in host boot the page is one that answers. -/
def State.answers (s : State) (p : Page) : Bool :=
  s.boot.hubUp && (s.rg Regs.RSTC.BOOT_PHASE 0 != phaseHostBoot || hostBootPage p.pk)

/-- Carry a write to a page through the checks that come before its effect: the page answers (R31, R412), the protection
table grants it (R447), the page's die is not served by the proxy (R34), and its clock is good (R28). A page whose block is
in reset ignores writes (assumption 12). -/
def State.gateWrite (s : State) (c : Req) (p : Page) (off : Nat) (f : State → State) : State :=
  if !s.answers p then s
  else if !s.mayWrite c p.addr then s.denied c (p.addr * 4096 + off) false true
  else if (match p.die? with | some d => s.dieDown d | none => false) then s.inc ((Hdr.EVT_COUNT .hub).nth 3) 0
  else if !s.clkGood p || s.inReset p then s
  else f s

/-- The 12-bit offset of a BAR0 address. -/
def offOf (a : Nat) : Nat := a % 4096

/-- The field's value in a written word. -/
def Fld.of (f : Fld) (v : Word) : Nat := bitsAt v.toNat f.lsb f.width

end Sys2Proof.Machine
end

