-- ==== Sys2Proof/Machine/TimeBase.lean ====
section
/-!
DEFINITION. Time bases (chapter 02): the SYNC_OUT lines, the stream clock models, their fit and their alignment test.
-/
namespace Sys2Proof.Machine
open Regs

/-- A write to a page by its own row: the common gate, then its effect. -/
def State.cmdWrite (s : State) (t : Nat) (c : Req) (p : Page) (off : Nat) (f : State → State) : Res :=
  .next ((s.advance t).gateWrite c p off f)

/-! ## Table access -/

/-- Stream context `i`. -/
def State.st (s : State) (i : Nat) : Strm := Tab.get Strm.init s.strm i
/-- Change stream context `i`. -/
def State.upSt (s : State) (i : Nat) (f : Strm → Strm) : State := { s with strm := Tab.put Strm.init s.strm i (f (s.st i)) }
/-- SYNC_OUT line `n`. -/
def State.line (s : State) (n : Nat) : SyncLine := Tab.get SyncLine.init s.sync n
/-- Change SYNC_OUT line `n`. -/
def State.upLine (s : State) (n : Nat) (f : SyncLine → SyncLine) : State :=
  { s with sync := Tab.put SyncLine.init s.sync n (f (s.line n)) }

/-- Is the package in SLEEP (PWR_STATE 5), where SYNC_OUT and PPS_OUT stay low (R415)? -/
def State.asleep (s : State) : Bool := s.rg PWR.PWR_STATE 0 == 5

/-- Do the SYNC_OUT lines stay low: in SLEEP, and on the way out of it until the exit resumes them (R415, R416)? -/
def State.linesLow (s : State) : Bool := s.asleep || s.rg PWR.PWR_STATE 0 == 6

/-! ## SYNC_OUT lines (R60, R487) -/

/-- The name of a SYNC_OUT pin. -/
def syncPin (n : Nat) : String := "SYNC_OUT" ++ toString n

/-- The first multiple of `p` that lies after `a`. -/
def nextMultiple (a p : Nat) : Nat := (a / p + 1) * p

/-- Is line `n` enabled? -/
def State.lineOn (s : State) (n : Nat) : Bool := bit (s.rg TIME.SYNC_EN 0) n

/-- Drive a line low. -/
def State.lineLow (s : State) (n : Nat) : State :=
  if (s.line n).high then (s.upLine n fun l => { l with high := false }).emit (.pin (syncPin n) false) else s

/-- Enable or disable one line at the present DT (R60). -/
def State.lineSet (s : State) (n : Nat) (on : Bool) : State :=
  if on == s.lineOn n then s
  else if on then s.upLine n fun l => { l with next := nextMultiple s.dt (l.period * 1000), began := false }
  else (s.upLine n fun l => { l with period := l.pend.getD l.period, pend := none, next := 0 }).lineLow n

/-- A write of SYNC_EN: rejected when it enables a line whose period in force is at most SYNC_WIDTH. -/
def State.syncEnWrite (s : State) (v : Word) : State :=
  let new := TIME.SYNC_EN.of v
  if (List.range 4).any (fun n => bit new n && !s.lineOn n && (s.line n).period ≤ s.rg TIME.SYNC_WIDTH 0) then
    s.errParam ⟨.time, 0⟩
  else ((List.range 4).foldl (fun s n => s.lineSet n (bit new n)) s).rs TIME.SYNC_EN 0 new

/-- A write of SYNC_PERIODn (R60, R487). -/
def State.syncPeriodWrite (s : State) (n : Nat) (v : Word) : State :=
  let p := (TIME.SYNC_PERIOD.nth n).of v
  if p < 100 ∨ 100000 < p ∨ (s.lineOn n ∧ p ≤ s.rg TIME.SYNC_WIDTH 0) then s.errParam ⟨.time, 0⟩
  else
    let s := s.rs (TIME.SYNC_PERIOD.nth n) 0 p
    s.upLine n fun l => if s.lineOn n then { l with pend := some p } else { l with period := p }

/-- A write of SYNC_WIDTH: less than the period in force and any pending period of every enabled line (R487). -/
def State.syncWidthWrite (s : State) (v : Word) : State :=
  let w := TIME.SYNC_WIDTH.of v
  if w = 0 ∨ (List.range 4).any (fun n => s.lineOn n && ((s.line n).period ≤ w || (s.line n).pend.any (· ≤ w))) then
    s.errParam ⟨.time, 0⟩
  else s.rs TIME.SYNC_WIDTH 0 w

/-- A period of line `n` passes for every stream in SYNC mode that selects it (R67; assumption 135). -/
def State.periodPassed (s : State) (n : Nat) : State :=
  (List.range 36).foldl (fun s i =>
    if s.rg STREAM.MODE i == 1 && s.rg STREAM.SYNC_LINE i == n then s.upSt i fun c => { c with periods := c.periods + 1 } else s) s

/-- A rising edge of line `n` at its next edge DT (R60). A pending period is in force from this edge; the
edge itself rose under the old one (assumption 20). The line keeps one history for all the streams that select it (assumption 136). -/
def State.syncEdge (s : State) (n : Nat) : State :=
  let l := s.line n
  let s := if l.began then s.periodPassed n else s
  let e := l.next
  let w := s.rg TIME.SYNC_WIDTH 0 * 1000
  let p := l.pend.getD l.period
  let nx := match l.pend with
    | some q => nextMultiple (e + w) (q * 1000)
    | none => e + l.period * 1000
  ((s.upLine n fun l => { l with period := p, pend := none, next := nx, high := true, fallAt := e + w, began := true,
                                 edges := ((e, l.period) :: l.edges).take 16 }).rs (TIME.SYNC_EDGE.nth n) 0 e).emit
    (.pin (syncPin n) true)

/-- May line `n` rise now: enabled, powered, its edge DT reached? -/
def State.edgeDue (s : State) (n : Nat) : Bool :=
  s.lineOn n && !s.linesLow && s.boot.hubUp && (s.line n).next != 0 && (s.line n).next ≤ s.dt

/-! ## Clock models (R57–R67) -/

/-- `sign_extend_48((a - b) mod 2^48)` (R56, R58). -/
def sdiff48 (a b : Nat) : Int := signed 48 (a + 2 ^ 48 - b % 2 ^ 48)

/-- `mul_q32`: d × rate / 2^32, nearest, ties up (R58). -/
def mulQ32 (d : Int) (rate : Nat) : Int := floorDiv (d * rate + 2 ^ 31) (2 ^ 32)

/-- Nearest quotient, ties to even, of a division by a positive number. -/
def divNearestEven (a : Int) (b : Int) : Int :=
  let q := floorDiv a b
  let r := a - q * b
  if 2 * r < b then q else if b < 2 * r then q + 1 else if q % 2 = 0 then q else q + 1

/-- `map_dt` of R58. -/
def Model.map (m : Model) (st : Nat) : Nat := wrap 64 (unsigned 64 ((m.baseDT : Int) + mulQ32 (sdiff48 st m.baseS) m.rate))

/-! ## Sources and maps (R80) -/

/-- The enabled maps that target stream `i`: SOURCE number and virtual channel of each. -/
def State.mapsTo (s : State) (i : Nat) : List (Nat × Nat) :=
  ((List.range 18).flatMap fun p => (List.range 4).filterMap fun j =>
    if s.on (MIPI.MAP_EN.nth j) p && s.rg (MIPI.STREAM.nth j) p == i then some (p, s.rg (MIPI.VCID.nth j) p) else none) ++
  ((List.range 2).filterMap fun a =>
    if s.on AER.MAP_EN a && s.rg AER.STREAM a == i then some (18 + a, 0) else none)

/-- SOURCE and SRC_VC of stream `i` (R80). -/
def State.source (s : State) (i : Nat) : Nat × Nat :=
  match s.mapsTo i with
  | [] => (31, 0)
  | [m] => m
  | _ => (30, 0)

/-- Is stream `i` an AER stream (R82)? `src` is its SOURCE. -/
def isAer (src : Nat) : Bool := src == 18 || src == 19

/-- Is stream `i` an AER stream now (R82)? -/
def State.aerStream (s : State) (i : Nat) : Bool := isAer (s.source i).1

/-- MODE of a stream: 0 FIXED, 1 SYNC, 2 ARRIVAL. -/
def State.cmMode (s : State) (i : Nat) : Nat := s.rg STREAM.MODE i

def State.gr (s : State) (g : Nat) : Grp := Tab.get Grp.init s.grp g

/-- The sensor set of a group in effect: that of its latest cutoff, or of its enable, while it is enabled (R270). -/
def State.setOf (s : State) (g : Nat) : Nat := if s.rg FG.PERIOD_NS g != 0 then (s.gr g).sens else s.rg FG.SENS_SET g

/-- The shortest slot period among the enabled fusion groups whose sensor sets contain the stream (R66); 0 when there is
none. -/
def State.shortestSlot (s : State) (i : Nat) : Nat :=
  (List.range 4).foldl (fun m g =>
    if s.rg FG.PERIOD_NS g != 0 && bit (s.setOf g) i then
      let p := s.rg FG.PERIOD_NS g
      if m = 0 then p else min m p
    else m) 0

/-- Ten times the alignment limit in ns; 0 when the stream has no limit (R66). -/
def State.limit10 (s : State) (i : Nat) : Nat :=
  let l := s.rg STREAM.ALIGN_LIMIT i
  if l ≠ 0 then 10 * l else s.shortestSlot i

/-- UNALIGNED as CM_STATUS reads it: 0 for an AER stream, whose clock model's own state stands beneath (R82). -/
def State.unaligned (s : State) (i : Nat) : Bool := s.on STREAM.UNALIGNED i && !s.aerStream i

/-- Set or clear the clock model's UNALIGNED; a rise that CM_STATUS shows sets IRQ bit 11. -/
def State.setUnaligned (s : State) (i : Nat) (b : Bool) : State :=
  let was := s.unaligned i
  let s := s.rb STREAM.UNALIGNED i b
  if s.unaligned i && !was then s.irqSet ⟨.stream, i⟩ 11 else s

/-- After a change of maps: a stream that has stopped being an AER stream shows its own UNALIGNED again (R82); `old` is the state
before. -/
def State.sourceIrqs (s old : State) : State :=
  (List.range 36).foldl (fun s i => if s.unaligned i && !old.unaligned i then s.irqSet ⟨.stream, i⟩ 11 else s) s

/-- UNALIGNED after a change of MODEL_VALID or SYNC_LOST: it is 1 while either condition holds, and without a limit exactly
then (R66). -/
def State.alignUpdate (s : State) (i : Nat) : State :=
  let bad := !(s.st i).act.valid || s.on STREAM.SYNC_LOST i
  if bad then s.setUnaligned i true
  else if s.limit10 i = 0 then s.setUnaligned i false else s

/-- Record a residual and apply the alignment test of R66. -/
def State.residual (s : State) (i : Nat) (r : Int) : State :=
  let s := s.rs STREAM.RESIDUAL i (unsigned 32 (max (-(2 ^ 31 - 1)) (min (2 ^ 31 - 1) r)))
  let lim := s.limit10 i
  let mag := r.natAbs
  let bad := !(s.st i).act.valid || s.on STREAM.SYNC_LOST i
  let run := if lim = 0 ∨ 20 * mag ≤ lim then min 255 (s.rg STREAM.GOOD_RUN i + 1) else 0
  let s := s.rs STREAM.GOOD_RUN i run
  if bad ∨ (lim ≠ 0 ∧ lim < 10 * mag) then s.setUnaligned i true
  else if lim = 0 ∨ 8 ≤ run then s.setUnaligned i false else s

/-- The fit of R63 over a history of at least two entries, oldest first: the new base and rate, or `none` when `ds` is not
positive. -/
def fit (h : List (Nat × Nat)) : Option (Nat × Nat × Nat) :=
  match h.head?, h.getLast? with
  | some o, some e =>
    let ds := sdiff48 e.1 o.1
    if ds ≤ 0 then none
    else
      let dd := signed 64 (e.2 + 2 ^ 64 - o.2 % 2 ^ 64)
      let rate := unsigned 64 (divNearestEven (dd * 2 ^ 32) ds)
      let n : Int := h.length
      let sum := h.foldl (fun a p => a + ((p.2 : Int) - ((e.2 : Int) + mulQ32 (sdiff48 p.1 e.1) rate))) 0
      some (e.1, unsigned 64 ((e.2 : Int) + floorDiv (2 * sum + n) (2 * n)), rate)
  | _, _ => none

/-- A new pair or point (s, dt) of stream `i`: its residual against the model in force, the history and the refit (R63, R66).
The answer's second part is the model the refit made. -/
def State.newEntry (s : State) (i st dt : Nat) : State × Option Model :=
  let c := s.st i
  let s := s.residual i (signed 64 (dt + 2 ^ 64 - c.act.map st % 2 ^ 64))
  let s := s.inc STREAM.SYNC_PAIRS i
  let n := 2 ^ s.rg STREAM.FIT_LOG i
  let h := c.hist ++ [(st, dt)]
  let h := h.drop (h.length - n)
  if s.on STREAM.HOLD i || h.length < 2 then (s.upSt i fun c => { c with hist := h }, none)
  else
    match fit h with
    | none => (s.inc STREAM.SYNC_UNPAIRED i, none)
    | some (bs, bdt, rate) =>
      let m : Model := ⟨true, bs, bdt, rate⟩
      ((s.upSt i fun c => { c with hist := h, act := m }).alignUpdate i, some m)

/-- The alignment of every stream is judged again, for a change that may take a limit away (R66). -/
def State.alignAll (s : State) : State := (List.range 36).foldl (fun s i => s.alignUpdate i) s

/-- A write of CM_CTRL; one that changes MODE clears the history, MODEL_VALID and SYNC_LOST and restarts the count of
periods (R63, R67). -/
def State.cmCtrlWrite (s : State) (i : Nat) (v : Word) : State :=
  let m := STREAM.MODE.of v
  let f := STREAM.FIT_LOG.of v
  if m = 3 ∨ f = 0 ∨ f = 7 then s.errParam ⟨.stream, i⟩
  else
    let was := s.cmMode i
    let s := (((s.rs STREAM.MODE i m).rs STREAM.SYNC_LINE i (STREAM.SYNC_LINE.of v)).rs STREAM.FIT_LOG i f).rs
      STREAM.HOLD i (STREAM.HOLD.of v)
    if m = was then s
    else
      let s := s.upSt i fun c => { c with hist := [], arr := none, periods := 0, act := { c.act with valid := false },
                                          stm := { c.stm with valid := false },
                                          wait := c.wait.map fun e => { e with post := none } }
      (s.rb STREAM.SYNC_LOST i false).alignUpdate i

/-- The replacement of the active model by a captured commit; in FIXED mode it makes the model valid (R63, R64). A fit that a waiting
event has still to bring into force no longer does. -/
def State.commitModel (s : State) (i : Nat) (m : Model) : State :=
  let ok := s.cmMode i == 0 || (s.st i).act.valid
  let m := { m with valid := ok }
  (s.upSt i fun c => { c with act := m, stm := m, cap := none, wait := c.wait.map fun e => { e with post := none } }).alignUpdate i

/-- A write of CM_COMMIT (R64). -/
def State.cmCommit (s : State) (i : Nat) (v : Word) : State :=
  if STREAM.CM_COMMIT.of v = 0 then s
  else
    let c := s.st i
    let m : Model := ⟨true, c.stgS, c.stgDT, c.stgRate⟩
    if s.on (Hdr.ENABLE .stream) i then s.upSt i fun c => { c with cap := some m } else s.commitModel i m

/-- A write of STREAM_UNIT also stages RATE = STREAM_UNIT.0. -/
def State.streamUnitWrite (s : State) (i : Nat) (v : Word) : State :=
  let u := v.toNat
  if u = 0 ∨ 65535 < u then s.errParam ⟨.stream, i⟩
  else (s.rs STREAM.STREAM_UNIT i u).upSt i fun c => { c with stgRate := u * 2 ^ 32 }

/-- The edge of line `n`, among its last 16, nearest a provisional DT; a tie takes the earlier edge (R61). -/
def nearestEdge (edges : List (Nat × Nat)) (dt : Nat) : Option (Nat × Nat) :=
  edges.foldl (fun best e =>
    match best with
    | none => some e
    | some b =>
      let d (x : Nat) : Nat := ((x : Int) - dt).natAbs
      if d e.1 < d b.1 ∨ (d e.1 = d b.1 ∧ e.1 < b.1) then some e else best) none

/-- A trigger event in SYNC mode pairs with one captured edge, or is rejected (R61), also when the line has no captured edge
(assumption 137). `dt` is its provisional DT. The second part is the model a refit made. -/
def State.pairTrigger (s : State) (i st dt : Nat) : State × Option Model :=
  match nearestEdge (s.line (s.rg STREAM.SYNC_LINE i)).edges dt with
  | none => (s.inc STREAM.SYNC_UNPAIRED i, none)
  | some (e, p) =>
    let dist := ((e : Int) - dt).natAbs
    let far := if (s.st i).stm.valid then p * 1000 < 4 * dist else p * 1000 < 2 * dist
    if far then (s.inc STREAM.SYNC_UNPAIRED i, none)
    else
      let s := (s.upSt i fun c => { c with periods := 0 }).rb STREAM.SYNC_LOST i false
      let (s, m) := s.newEntry i st e
      (s.alignUpdate i, m)

/-! ## The commands -/

/-- SYNC_EN_WRITE (R487). -/
def execSyncEnWrite (t : Nat) (c : Req) (v : Word) (s : State) : Res :=
  s.cmdWrite t c ⟨.time, 0⟩ 0x04C fun s => s.syncEnWrite v

/-- SYNC_PERIOD_WRITE (R60). -/
def execSyncPeriodWrite (t : Nat) (c : Req) (line : Fin 4) (v : Word) (s : State) : Res :=
  s.cmdWrite t c ⟨.time, 0⟩ (0x050 + 4 * line.val) fun s => s.syncPeriodWrite line v

/-- SYNC_WIDTH_WRITE (R487). -/
def execSyncWidthWrite (t : Nat) (c : Req) (v : Word) (s : State) : Res :=
  s.cmdWrite t c ⟨.time, 0⟩ 0x060 fun s => s.syncWidthWrite v

/-- SYNC_OUT_EDGE (R60). -/
def execSyncOutEdge (t : Nat) (line : Fin 4) (s : State) : Res :=
  let s := s.advance t
  .next (if s.edgeDue line then s.syncEdge line else s)

/-- SYNC_OUT_FALL (R60). -/
def execSyncOutFall (t : Nat) (line : Fin 4) (s : State) : Res :=
  let s := s.advance t
  .next (if (s.line line).fallAt ≤ s.dt then s.lineLow line else s)

/-- SYNC_LOST_TIMEOUT (R67): 16 periods of the selected line have passed with no accepted pair. -/
def execSyncLostTimeout (t : Nat) (i : Fin 36) (s : State) : Res :=
  let s := s.advance t
  .next (if s.cmMode i == 1 && 16 ≤ (s.st i).periods then (s.rb STREAM.SYNC_LOST i true).alignUpdate i else s)

/-- CM_MODE_WRITE (R63). -/
def execCmModeWrite (t : Nat) (c : Req) (i : Fin 36) (v : Word) (s : State) : Res :=
  s.cmdWrite t c ⟨.stream, i⟩ 0x200 fun s => s.cmCtrlWrite i v

/-- CM_COMMIT (R64). -/
def execCmCommit (t : Nat) (c : Req) (i : Fin 36) (v : Word) (s : State) : Res :=
  s.cmdWrite t c ⟨.stream, i⟩ 0x220 fun s => s.cmCommit i v

/-- STREAM_UNIT_WRITE (R64). -/
def execStreamUnitWrite (t : Nat) (c : Req) (i : Fin 36) (v : Word) (s : State) : Res :=
  s.cmdWrite t c ⟨.stream, i⟩ 0x234 fun s => s.streamUnitWrite i v

end Sys2Proof.Machine
end

