-- ==== Sys2Proof/Machine/RateFilter.lean ====
section
/-!
DEFINITION. The rate filter bank (chapter 09): closing of rate counts, the chain of each channel, restarts and switches,
coefficient swaps and crossfades, flicker detection and the output history.
-/
namespace Sys2Proof.Machine
open Regs

/-- Rate channels of the bank (R240). -/
def nChan : Nat := 1152

/-- The key of a channel's count in a tick. -/
def rateKey (tick ch : Nat) : Nat := tick * nChan + ch

/-- Channel `ch`. -/
def State.chan (s : State) (ch : Nat) : Chan := Tab.get Chan.init s.rfb.chans ch
/-- Change channel `ch`. -/
def State.upChan (s : State) (ch : Nat) (f : Chan → Chan) : State :=
  { s with rfb := { s.rfb with chans := Tab.put Chan.init s.rfb.chans ch (f (s.chan ch)) } }
/-- Profile `p`. -/
def State.prof (s : State) (p : Nat) : Prof := Tab.get Prof.init s.rfb.profs p
/-- Change profile `p`. -/
def State.upProf (s : State) (p : Nat) (f : Prof → Prof) : State :=
  { s with rfb := { s.rfb with profs := Tab.put Prof.init s.rfb.profs p (f (s.prof p)) } }

/-- Decimation D of a preset (R243). -/
def presetD (preset : Nat) : Nat := 16 * 4 ^ (preset % 4)

/-- A profile's decimation. -/
def Prof.d (p : Prof) : Nat := presetD p.preset

/-- Does an output period of the profile start at tick `u` (R242)? -/
def Prof.startsAt (p : Prof) (u : Nat) : Bool := p.anchor ≤ u && (u - p.anchor) % p.d == 0

/-- Does an output period of the profile end at tick `u`? -/
def Prof.endsAt (p : Prof) (u : Nat) : Bool := p.anchor ≤ u && (u + 1 - p.anchor) % p.d == 0

/-! ## Rate counts (R94) -/

/-- Add one event of a channel in the tick of its stamp; a closed tick counts in the oldest open one and in RATE_LATE. -/
def State.rateCount (s : State) (str ch tick : Nat) : State :=
  let late := tick < s.rfb.closed
  let k := rateKey (max tick s.rfb.closed) ch
  let n := min 65535 (Tab.get 0 s.rfb.rate k + 1)
  let s := { s with rfb := { s.rfb with rate := Tab.put 0 s.rfb.rate k n } }
  if late then s.inc STREAM.RATE_LATE str else s

/-- The ticks kept of a stream's activity (R276): those of the last 16,384 ticks and one before. -/
def actTrim (u : Nat) (l : List Nat) : List Nat := l.filter (fun x => u < x + 16384) ++ (l.filter (fun x => x + 16384 ≤ u)).take 1

/-- Close the oldest open tick; counts older than a delay line reaches are dropped (R94, R240). The streams with a non-zero count
are noted (R276). -/
def State.rateClose (s : State) : State :=
  let u := s.rfb.closed
  let strs := ((s.rfb.rate.filter fun e => decide (e.1 / nChan = u ∧ 0 < e.2)).map fun e => e.1 % nChan / 32).eraseDups
  let act := strs.foldl (fun m i => Tab.put [] m i (actTrim u (u :: Tab.get [] m i))) s.rateAct
  let rate := Tab.keep (fun k => (u + 1) * nChan ≤ k + 300 * nChan) s.rfb.rate
  { s with rateAct := act, rfb := { s.rfb with closed := u + 1, rate := rate } }

/-! ## The chain (R244–R249) -/

/-- Modulus of the CIC registers. -/
def m52 : Nat := 2 ^ 52

/-- The half-band taps (R246). -/
def halfBandTaps : List Int := [660, 0, -5462, 0, 37570, 65536, 37570, 0, -5462, 0, 660]

/-- The exact sum of products of taps and samples, newest sample first. -/
def dot : List Int → List Int → Int
  | c :: cs, x :: xs => c * x + dot cs xs
  | _, _ => 0

/-- One integrator tick (R245). -/
def Chan.integrate (c : Chan) (x : Nat) : Chan :=
  let i0 := (c.i0 + x) % m52
  let i1 := (c.i1 + i0) % m52
  let i2 := (c.i2 + i1) % m52
  let i3 := (c.i3 + i2) % m52
  { c with i0 := i0, i1 := i1, i2 := i2, i3 := i3, box := c.box + x }

/-- The four combs: the output and the new comb memories (R245). -/
def combs : Nat → List Nat → Nat × List Nat
  | c, [] => (c, [])
  | c, z :: zs =>
    let (out, zs') := combs ((c + m52 - z) % m52) zs
    (out, c :: zs')

/-- Saturate to i24 and say whether that changed the value. -/
def sat24 (x : Int) : Int × Bool := let y := satS 24 x; (y, decide (y ≠ x))

/-- Round and shift right by `k`; `k = 0` means no shift. -/
def rshift (x : Int) (k : Nat) : Int := if k = 0 then x else floorDiv (x + 2 ^ (k - 1)) (2 ^ k)

/-- The crossfade mix of R257. -/
def mix (accOld accNew : Int) (i l : Nat) : Int :=
  if l ≤ i then accNew
  else
    let w := i * 65536 / l
    floorDiv (accOld * (65536 - w : Nat) + accNew * w + 32768) 65536

/-- The identity slots at reset (R255). -/
def coefDefault (i : Nat) : Int := if i % 64 = 0 then 65536 else 0

/-- Tap `m` of slot `sl`. -/
def State.coefTap (s : State) (sl m : Nat) : Int := Tab.get (coefDefault (64 * sl + m)) s.rfb.coef (64 * sl + m)

/-- The first `n` taps of a slot. -/
def State.taps (s : State) (sl n : Nat) : List Int := (List.range n).map (s.coefTap sl)

/-- The slot of a bank of profile `p` (R255). -/
def State.bankSlot (s : State) (p : Nat) (b : Bool) : Nat :=
  let q := s.prof p
  if b then q.slotB.getD p else q.slotA.getD p

/-- Count a saturation. -/
def State.satCount (s : State) (f : Fld) (b : Bool) : State := if b then s.inc f 0 else s

/-- FLICKER after an output (R258). -/
def flickRule (on off fmin c m : Nat) (was : Bool) : Bool :=
  if (c * on) >>> 4 ≤ m ∧ fmin ≤ c then true
  else if m < (c * off) >>> 4 ∨ c < fmin then false
  else was

/-- One output of channel `ch` at the end of a period (R247–R249, R253, R258); `h` is the half-band output. -/
def State.chanOutput (s : State) (ch u : Nat) (h : Int) : State :=
  let c := s.chan ch
  let p := s.prof c.prof
  let fir := (h :: c.fir).take 64
  let accNew := dot (s.taps (s.bankSlot c.prof p.bankB) p.ntaps) fir
  let acc := match p.xf with
    | some (i, l) => mix (dot (s.taps (s.bankSlot c.prof (!p.bankB)) p.ntaps) fir) accNew (i + 1) l
    | none => accNew
  let (x, satX) := sat24 (rshift acc p.s2)
  let s := s.satCount RFB.SAT_S2 satX
  let frozen := s.on (RFBS.FREEZE.nth (ch % 32)) (ch / 32)
  let valid := p.ntaps + 5 ≤ c.j
  let e := if c.j = p.ntaps + 5 ∧ !frozen then x * 65536 else c.e
  let (y, satY) := sat24 (x - floorDiv (e + 0x8000) 65536)
  let s := s.satCount RFB.SAT_FINE (valid && satY)
  let e' := if valid ∧ !frozen then e + floorDiv (x * 65536 - e) (2 ^ p.k) else c.e
  let coarse0 := (c.box * 16 + p.d / 2) / p.d
  let coarse := satU 16 coarse0
  let s := s.satCount RFB.SAT_COARSE (decide (coarse ≠ coarse0))
  let m := if valid then max y.natAbs (c.m - c.m >>> s.rg RFB.FLK_DK 0 c.prof) else 0
  let fl := valid && flickRule (s.rg RFB.FLK_ON 0 c.prof) (s.rg RFB.FLK_OFF 0 c.prof) (s.rg RFB.FLK_MIN 0 c.prof) coarse m c.flick
  let o : ChOut := ⟨coarse, if valid then y else 0, valid, fl, u, c.j, m⟩
  let s := s.upChan ch fun c => { c with fir := fir, e := e', box := 0, m := m, flick := fl, j := c.j + 1,
                                         hist := (o :: c.hist).take 8, frz := frozen }
  if fl && !(c.hist.head?.any ChOut.flick) then s.irqSet ⟨.rfbs, ch / 32⟩ 8 else s

/-- Process tick `u` of a running channel (R244–R249). -/
def State.chanTick (s : State) (u ch : Nat) : State :=
  let c := s.chan ch
  let p := s.prof c.prof
  let r := p.d / 2
  let x := if c.dly ≤ u then Tab.get 0 s.rfb.rate (rateKey (u - c.dly) ch) else 0
  let c := c.integrate x
  if p.anchor ≤ u ∧ (u + 1 - p.anchor) % r = 0 then
    let (o, z) := combs c.i3 c.z
    let (h, satH) := sat24 (rshift (o : Nat) p.s1)
    let s := s.satCount RFB.SAT_S1 satH
    let hb := (h :: c.hb).take 11
    let c := { c with z := z, hb := hb, nCic := c.nCic + 1 }
    let s := s.upChan ch fun _ => c
    if p.endsAt u then
      let (b, satB) := sat24 (floorDiv (dot halfBandTaps hb + 65536) 131072)
      (s.satCount RFB.SAT_HB satB).chanOutput ch u b
    else s
  else s.upChan ch fun _ => c

/-! ## Restarts, switches, commits and swaps (R251–R257) -/

/-- Restart a channel: filter state, envelope and numbering clear; E too unless frozen; the history is kept (R251, R253). -/
def Chan.restart (c : Chan) (frozen : Bool) : Chan :=
  { c with i0 := 0, i1 := 0, i2 := 0, i3 := 0, z := [0, 0, 0, 0], nCic := 0, hb := [], fir := [], box := 0,
           e := if frozen then c.e else 0, m := 0, flick := false, j := 0 }

/-- The three enables of channel `ch` (R241). -/
def State.chanWanted (s : State) (ch : Nat) : Bool :=
  s.on (Hdr.ENABLE .rfb) 0 && s.on (Hdr.ENABLE .rfbs) (ch / 32) && s.on (RFBS.CH_EN.nth (ch % 32)) (ch / 32)

/-- The FREEZE in effect: while the channel runs as its latest output took it, otherwise as written (R254). -/
def State.chanFrozen (s : State) (ch : Nat) : Bool :=
  if (s.chan ch).run then (s.chan ch).frz else s.on (RFBS.FREEZE.nth (ch % 32)) (ch / 32)

/-- A synchronising reset that falls due before tick `u` (R251). -/
def State.applySync (s : State) (u : Nat) : State :=
  match s.rfb.sync with
  | none => s
  | some (mask, t) =>
    if u < t then s
    else
      let s := (List.range 16).foldl (fun s p => if bit mask p then s.upProf p fun q => { q with anchor := u } else s) s
      let s := { s with rfb := { s.rfb with
        sync := none
        chans := s.rfb.chans.map fun (e : Nat × Chan) => if e.2.run && bit mask e.2.prof then (e.1, e.2.restart (s.chanFrozen e.1)) else e } }
      s.irqSet ⟨.rfb, 0⟩ 10

/-- A commit of profile `p` at its period start `u`: the staged configuration comes into use, the anchor moves to `u` and every
running channel of the profile restarts (R252). -/
def State.applyCommit (s : State) (u p : Nat) : State :=
  if !(s.prof p).commit || !(s.prof p).startsAt u then s
  else
    let s := s.upProf p fun q => { q with preset := s.rg RFB.PRESET 0 p, s1 := s.rg RFB.S1 0 p, s2 := s.rg RFB.S2 0 p,
                                          k := s.rg RFB.K 0 p, ntaps := s.rg RFB.NTAPS_M1 0 p + 1, anchor := u, commit := false }
    { s with rfb := { s.rfb with
        chans := s.rfb.chans.map fun (e : Nat × Chan) => if e.2.run && e.2.prof == p then (e.1, e.2.restart (s.chanFrozen e.1)) else e } }

/-- A waiting switch of a channel at the period start of its target profile, or its stop at its own period start (R252). A stop is no
restart: E stands for a FREEZE written to the stopped channel (R254). -/
def State.applySwitch (s : State) (u ch : Nat) : State :=
  let c := s.chan ch
  if !c.pend then s
  else if s.chanWanted ch then
    let p := s.rg (RFBS.PROF.nth (ch % 32)) (ch / 32)
    if (s.prof p).startsAt u then
      s.upChan ch fun c => { c.restart (s.chanFrozen ch) with run := true, frz := s.chanFrozen ch, prof := p, pend := false,
                                                              dly := s.rg (RFBS.DLY.nth (ch % 32)) (ch / 32) }
    else s
  else if !c.run then s.upChan ch fun c => { c with pend := false }
  else if (s.prof c.prof).startsAt u then
    s.upChan ch fun c => { c.restart true with run := false, pend := false, hist := [] }
  else s

/-- The start of a pending swap of profile `p` at its period start, once no crossfade runs (R256). -/
def State.applySwap (s : State) (u p : Nat) : State :=
  let q := s.prof p
  match q.swap with
  | none => s
  | some (slot, gen, l) =>
    if q.xf.isSome || !q.startsAt u then s
    else s.upProf p fun q => { q with slotA := if q.bankB then some slot else q.slotA,
                                      slotB := if q.bankB then q.slotB else some slot,
                                      bankB := !q.bankB, gen := gen, swap := none, xf := some (0, l), xfPos := 0 }

/-- The crossfade of profile `p` counts an output at the end of tick `u`, and ends (R257). -/
def State.stepXf (s : State) (u p : Nat) : State :=
  let q := s.prof p
  match q.xf with
  | none => s
  | some (i, l) =>
    if !q.endsAt u then s
    else if l ≤ i + 1 then
      ((s.upProf p fun q => { q with xf := none, xfPos := i + 1 }).inc RFB.SWAPS_DONE 0).irqSet ⟨.rfb, 0⟩ 8
    else s.upProf p fun q => { q with xf := some (i + 1, l), xfPos := i + 1 }

/-- Process one tick (R240): what takes effect before it, every running channel, then the crossfades. A synchronising reset moves the
anchors first, so that the tick starts a period of its profiles for what waits for one (R242, R252). -/
def State.rfbTick (s : State) : State :=
  let u := s.rfb.proc
  let s := s.applySync u
  let s := (List.range 16).foldl (fun s p => s.applyCommit u p) s
  let s := s.rfb.chans.foldl (fun s e => s.applySwitch u e.1) s
  let s := (List.range 16).foldl (fun s p => s.applySwap u p) s
  let s := s.rfb.chans.foldl (fun s e => if (s.chan e.1).run then s.chanTick u e.1 else s) s
  let s := (List.range 16).foldl (fun s p => s.stepXf u p) s
  { s with rfb := { s.rfb with proc := u + 1 } }

/-! ## The output history (R259) -/

/-- Outputs available to readers now: from the boundary into their sample tick + 18. -/
def State.available (s : State) (ch : Nat) : List ChOut := (s.chan ch).hist.filter fun o => o.tick + 18 ≤ s.curTick

/-- The sample tick at which the first output that is not available yet will end. -/
def State.nextEnd (s : State) (ch : Nat) : Option Nat :=
  let c := s.chan ch
  match (c.hist.filter fun o => s.curTick < o.tick + 18).getLast? with
  | some o => some o.tick
  | none =>
    if c.run then
      let p := s.prof c.prof
      some (p.anchor + ((s.rfb.proc - p.anchor) / p.d + 1) * p.d - 1)
    else none

/-- The output a channel with nothing kept gives. -/
def ChOut.zero : ChOut := ⟨0, 0, false, false, 0, 0, 0⟩

/-- The output in effect at tick `v`, counting HIST_OLD and HIST_EARLY (R259). -/
def State.outputAt (s : State) (ch v : Nat) : ChOut × State :=
  match s.available ch with
  | [] => (ChOut.zero, s)
  | newest :: rest =>
    let s := if (s.nextEnd ch).any (· ≤ v) then s.inc RFB.HIST_EARLY 0 else s
    match (newest :: rest).find? (fun o => o.tick ≤ v) with
    | some o => (o, s)
    | none => ((newest :: rest).getLast?.getD newest, s.inc RFB.HIST_OLD 0)

/-- The FLICKER flag the gate uses for an event of stamp tick `tick` (R95, R260). -/
def State.flickerFor (s : State) (ch tick : Nat) : Bool × State :=
  if !s.on (Hdr.ENABLE .rfb) 0 then (false, s)
  else
    let (o, s) := s.outputAt ch (tick - 64)
    (o.flick, s)

/-! ## Register writes -/

/-- Is a coefficient slot referenced (R255)? -/
def State.slotUsed (s : State) (sl : Nat) : Bool :=
  (List.range 16).any fun p =>
    let q := s.prof p
    s.bankSlot p q.bankB == sl || (q.xf.isSome && s.bankSlot p (!q.bankB) == sl) || q.swap.any (fun w => w.1 == sl)

/-- A write of SYNC_ARM (R251). -/
def State.syncArm (s : State) (v : Word) : State :=
  if RFB.SYNC_ARM.of v = 0 then s
  else
    let last := s.rfb.proc - 1
    let w := s.rg RFB.SYNC_TICK 0
    let m := 2 ^ 32
    let back := (last % m + m - w) % m
    let t := if back ≤ m / 2 ∧ back ≤ last then last - back else last + (m - back)
    let late := t < s.rfb.proc
    let s := { s with rfb := { s.rfb with sync := some (s.rg RFB.SYNC_MASK 0, max t s.rfb.proc) } }
    if late then (s.inc RFB.SYNC_LATE 0).irqSet ⟨.rfb, 0⟩ 11 else s

/-- A write of COMMIT for the selected profile (R252). -/
def State.rfbCommit (s : State) (v : Word) : State :=
  if RFB.COMMIT.of v = 0 then s else s.upProf (s.rg RFB.PROF_INDEX 0) fun q => { q with commit := true }

/-- `a` is newer than `b` for an n-bit generation (R74). -/
def newer (n a b : Nat) : Bool :=
  let d := (a + 2 ^ n - b % 2 ^ n) % 2 ^ n
  0 < d && d < 2 ^ (n - 1)

/-- A write of SWAP for the selected profile (R256). -/
def State.rfbSwap (s : State) (v : Word) : State :=
  if RFB.SWAP.of v = 0 then s
  else
    let p := s.rg RFB.PROF_INDEX 0
    let q := s.prof p
    let slot := s.rg RFB.REQ_SLOT 0 p
    let gen := s.rg RFB.REQ_GEN 0 p
    if !newer 8 gen q.gen || slot == s.bankSlot p q.bankB then
      (s.inc RFB.SWAPS_REFUSED 0).irqSet ⟨.rfb, 0⟩ 9
    else
      let s := if q.swap.isSome then s.inc RFB.PEND_REPLACED 0 else s
      s.upProf p fun q => { q with swap := some (slot, gen, s.rg RFB.XF_LEN 0 p) }

/-- A write of COEF_DATA (R255). -/
def State.coefWrite (s : State) (v : Word) : State :=
  let sl := s.rg RFB.COEF_SLOT 0
  let m := s.rg RFB.COEF_TAP 0
  if s.slotUsed sl then s.errParam ⟨.rfb, 0⟩
  else
    let k := 64 * sl + m
    let s := { s with rfb := { s.rfb with coef := Tab.put (coefDefault k) s.rfb.coef k (signed 18 (RFB.COEF_DATA.of v)) } }
    s.rs RFB.COEF_TAP 0 ((m + 1) % 64)

/-- A write of CH_CFG of channel `r` of stream `i` (R252, R254). A change of FREEZE alone is never a switch. -/
def State.chCfgWrite (s : State) (i r : Nat) (v : Word) : State :=
  let was := (s.on (RFBS.CH_EN.nth r) i, s.rg (RFBS.PROF.nth r) i, s.rg (RFBS.DLY.nth r) i)
  let new := (RFBS.CH_EN.of v != 0, RFBS.PROF.of v, RFBS.DLY.of v)
  let s := (((s.rs (RFBS.CH_EN.nth r) i (RFBS.CH_EN.of v)).rs (RFBS.PROF.nth r) i new.2.1).rs (RFBS.DLY.nth r) i new.2.2).rs
    (RFBS.FREEZE.nth r) i (RFBS.FREEZE.of v)
  let ch := 32 * i + r
  if was.1 != new.1 || ((s.chan ch).run && was.2 != new.2) then s.upChan ch fun c => { c with pend := true } else s

/-- A change of an enable above the channels: every channel of `ps` streams whose CH_EN is 1 switches at its next period
start (R241, R252). -/
def State.rfbEnables (s : State) (f : Nat → Bool) : State :=
  (List.range nChan).foldl (fun s ch =>
    if f (ch / 32) && ((s.chan ch).run != s.chanWanted ch || (s.chan ch).pend) then s.upChan ch fun c => { c with pend := true } else s) s

/-- A write of RFB CTRL (R260). -/
def State.rfbCtrl (s : State) (v : Word) : State :=
  let was := s.on (Hdr.ENABLE .rfb) 0
  let s := s.rs (Hdr.ENABLE .rfb) 0 ((Hdr.ENABLE .rfb).of v)
  if was == s.on (Hdr.ENABLE .rfb) 0 then s else s.rfbEnables fun _ => true

/-- A write of CTRL of an RFBS page. -/
def State.rfbsCtrl (s : State) (i : Nat) (v : Word) : State :=
  let was := s.on (Hdr.ENABLE .rfbs) i
  let s := s.rs (Hdr.ENABLE .rfbs) i ((Hdr.ENABLE .rfbs).of v)
  if was == s.on (Hdr.ENABLE .rfbs) i then s else s.rfbEnables fun k => k == i

/-! ## The commands -/

/-- RATE_TICK_CLOSE (R94): 16 ticks after a tick ends, its counts close. -/
def execRateTickClose (t : Nat) (s : State) : Res :=
  let s := s.advance t
  .next (if s.rfb.closed + 17 ≤ s.curTick then s.rateClose else s)

/-- RFB_PROCESS_TICK (R240): tick u is processed at the boundary into u + 17, once its counts have closed. -/
def execRfbProcessTick (t : Nat) (s : State) : Res :=
  let s := s.advance t
  .next (if s.rfb.proc + 17 ≤ s.curTick && s.rfb.proc < s.rfb.closed then s.rfbTick else s)

/-- SYNC_ARM (R251). -/
def execSyncArm (t : Nat) (c : Req) (v : Word) (s : State) : Res :=
  s.cmdWrite t c ⟨.rfb, 0⟩ 0x04C fun s => s.syncArm v

/-- COMMIT (R252). -/
def execCommit (t : Nat) (c : Req) (v : Word) (s : State) : Res :=
  s.cmdWrite t c ⟨.rfb, 0⟩ 0x060 fun s => (s.rfbCommit v).rfbSwap v

/-- SWAP (R256). -/
def execSwap (t : Nat) (c : Req) (v : Word) (s : State) : Res :=
  s.cmdWrite t c ⟨.rfb, 0⟩ 0x060 fun s => (s.rfbCommit v).rfbSwap v

/-- COEF_DATA_WRITE (R255). -/
def execCoefDataWrite (t : Nat) (c : Req) (v : Word) (s : State) : Res :=
  s.cmdWrite t c ⟨.rfb, 0⟩ 0x074 fun s => s.coefWrite v

/-- CH_CFG_WRITE (R252). -/
def execChCfgWrite (t : Nat) (c : Req) (i : Fin 36) (r : Fin 32) (v : Word) (s : State) : Res :=
  s.cmdWrite t c ⟨.rfbs, i⟩ (0x100 + 16 * r.val) fun s => s.chCfgWrite i r v

/-- RFB_DISABLE (R260). -/
def execRfbDisable (t : Nat) (c : Req) (v : Word) (s : State) : Res :=
  s.cmdWrite t c ⟨.rfb, 0⟩ 0x008 fun s => s.rfbCtrl v

end Sys2Proof.Machine
end

