-- ==== Sys2Proof/Machine/Ingest.lean ====
section
/-!
DEFINITION. Sensor ingest (chapter 03): MIPI and AER reception, the staging FIFO, the format decoder, the stamper, the gates.
-/
namespace Sys2Proof.Machine
open Regs

/-! ## The staging FIFO (R83–R85) -/

/-- Offer a word with its entry DT to stream `i`'s staging FIFO. -/
def State.offerWord (s : State) (i w entry valid : Nat) : State × Bool :=
  let c := s.st i
  let n := c.fifo.length
  if 32 ≤ n then
    let s := (s.upSt i fun c => { c with dropped := true }).rb STREAM.OVERRUN i true
    (((s.inc STREAM.DROPPED_WORDS i).inc INGEST.DROPPED_TOTAL 0).irqSet ⟨.stream, i⟩ 9, false)
  else
    let s := s.upSt i fun c => { c with fifo := c.fifo ++ [⟨w, st35 entry, valid, c.dropped⟩], dropped := false }
    let s := s.inc INGEST.WORDS_IN 0
    if n ≤ s.rg STREAM.LEVEL_MARK i ∧ s.rg STREAM.LEVEL_MARK i < n + 1 then
      (((s.rb STREAM.MARK_HIT i true).inc STREAM.MARK_COUNT i).irqSet ⟨.stream, i⟩ 8, true)
    else (s, true)

/-! ## The format decoder (R86–R90) -/

/-- A field extract: LSB and WIDTH; WIDTH 0 is absent. -/
def extractOf (f : Nat) : Nat × Nat := (f % 64, f / 64)

/-- The field's value in a sensor word, or `none` when it is absent. -/
def fieldOf (f w : Nat) : Option Nat :=
  let (lsb, wd) := extractOf f
  if wd = 0 then none else some (bitsAt w lsb wd)

/-- The bits of a sensor word: 16, 32 or 64. -/
def State.wordBits (s : State) (i : Nat) : Nat := 16 * 2 ^ s.rg STREAM.WORD_BITS i

/-- One of the four field extracts of class `k`. -/
def State.classF (s : State) (i k : Nat) (f : Fld) : Nat := s.rg (f.nth k) i

/-- Does class `k` carry a time-low field, and which one (R87)? -/
def State.timeLowOf (s : State) (i k : Nat) : Nat :=
  match s.rg (STREAM.KIND.nth k) i with
  | 3 => s.classF i k STREAM.F0
  | 0 | 1 | 2 | 5 => s.classF i k STREAM.F3
  | _ => 0

/-- The lowest-numbered enabled class whose window matches (R86). -/
def State.classOf (s : State) (i w : Nat) : Option Nat :=
  let win := bitsAt w (s.rg STREAM.MATCH_SHIFT i) 32
  (List.range 8).find? fun k => s.on (STREAM.CLASS_EN.nth k) i &&
    (win &&& s.rg (STREAM.MATCH_MASK.nth k) i) == s.rg (STREAM.MATCH_VALUE.nth k) i

/-- A time-low value updates stream time (R54), after a staged time-high word (R55). -/
def State.timeLow (s : State) (i l : Nat) : State :=
  let c := s.st i
  let w := s.rg STREAM.TL_BITS i
  let m := 2 ^ w
  let l := l % m
  let d := (l + m - c.time % m) % m
  let fwd := d ≤ m / 2
  let near := wrap 48 (if fwd then c.time + d else c.time + 2 ^ 48 - (m - d))
  match c.thPend with
  | none =>
    let s := if fwd ∧ m ≤ c.time % m + d then s.inc STREAM.WRAPS i else s
    s.upSt i fun c => { c with time := near }
  | some h =>
    let s := if near / m ≠ h then s.inc STREAM.TH_MISMATCH i
             else if fwd ∧ m ≤ c.time % m + d then s.inc STREAM.WRAPS i else s
    s.upSt i fun c => { c with time := wrap 48 (h * m + l), thPend := none }

/-- A time-high word of `wd` bits stages bits [47:w] (R88): the value nearest the current ones, a tie taking the later. -/
def State.timeHigh (s : State) (i v wd : Nat) : State :=
  let c := s.st i
  let w := s.rg STREAM.TL_BITS i
  let cur := c.time / 2 ^ w
  let m := 2 ^ wd
  let full := 2 ^ (48 - w)
  let d := (v % m + m - cur % m) % m
  let h := if 48 - w ≤ wd then v else if d ≤ m / 2 then cur + d else cur + full - (m - d)
  s.upSt i fun c => { c with thPend := some (h % full) }

/-- The arrival key of R62: arrival_dt − ((s × RATE) >> 32), in u64. -/
def arrKey (adt st rate : Nat) : Nat := wrap 64 (adt + 2 ^ 64 - (wrap 64 (st * rate)) >>> 32)

/-- An event's part in arrival regression (R62): it joins the open window or closes it; the second part is the model of a
refit. -/
def State.arrival (s : State) (i st adt : Nat) : State × Option Model :=
  if s.cmMode i ≠ 2 ∨ s.aerStream i then (s, none)
  else
    let c := s.st i
    let tick := s.tickOf adt
    let fresh (s : State) : State :=
      let n := s.rg STREAM.ARR_WINDOW i
      s.upSt i fun c => { c with arr := some ⟨tick / n, n, arrKey adt st (s.st i).act.rate, st, adt⟩ }
    match c.arr with
    | none => (fresh s, none)
    | some a =>
      if tick / a.len ≤ a.win then
        let k := arrKey adt st c.act.rate
        (if k < a.key then s.upSt i fun c => { c with arr := some { a with key := k, st := st, adt := adt } } else s, none)
      else
        let (s, m) := s.newEntry i a.st (wrap 64 (a.adt + 2 ^ 64 - s.rg STREAM.LINK_LATENCY i))
        (fresh s, m)

/-- The decoder emits one event at the current stream time (R87, R89). EVENTS and EVENTS_DECODED count it here, and not an event that
R89 discards (assumption 115). -/
def State.emitEvent (s : State) (i x y p adt : Nat) : State :=
  if s.rg STREAM.WIDTH_M1 i < x ∨ s.rg STREAM.HEIGHT_M1 i < y then s.inc STREAM.OUT_OF_RANGE i
  else
    let st := (s.st i).time
    let (s, m) := s.arrival i st adt
    ((s.inc STREAM.EVENTS i).inc INGEST.EVENTS_DECODED 0).upSt i fun c =>
      { c with wait := c.wait ++ [⟨false, x, y, p, st, adt, m⟩] }

/-- A decoder error counts and sets IRQ bit 10. -/
def State.decErr (s : State) (i : Nat) (f : Fld) (n : Nat) : State :=
  if n = 0 then s else (s.inc f i n).irqSet ⟨.stream, i⟩ 10

/-- A polarity field, inverted by POL_INV (R87); of a field wider than one bit its low bit counts (assumption 139). -/
def State.polField (s : State) (i p : Nat) : Nat := (p + s.rg STREAM.POL_INV i) % 2

/-- Decode one sensor word `w` whose staging word entered at `adt` (R86, R87). An absent x or y of an ADDR class is 0 (assumption 138);
a trigger's edge field wider than one bit emits a trigger only at 1 (assumption 139). -/
def State.decodeSensor (s : State) (i w adt : Nat) : State :=
  match s.classOf i w with
  | none => s.decErr i STREAM.DEC_NOMATCH 1
  | some k =>
    let f0 := s.classF i k STREAM.F0
    let f1 := s.classF i k STREAM.F1
    let f2 := s.classF i k STREAM.F2
    let tl := fieldOf (s.timeLowOf i k) w
    let upd (s : State) : State := match tl with | some l => s.timeLow i l | none => s
    match s.rg (STREAM.KIND.nth k) i with
    | 0 =>
      let s := upd s
      let p := match fieldOf f2 w with | some p => s.polField i p | none => s.rg (STREAM.POL_CONST.nth k) i
      s.emitEvent i ((fieldOf f0 w).getD 0) ((fieldOf f1 w).getD 0) p adt
    | 1 =>
      let s := upd s
      s.upSt i fun c => { c with vx := (fieldOf f0 w).orElse fun _ => c.vx, vy := (fieldOf f1 w).orElse fun _ => c.vy,
                                 vp := match fieldOf f2 w with | some p => s.polField i p | none => c.vp }
    | 2 =>
      match (s.st i).vx, (s.st i).vy with
      | some x, some y =>
        let s := upd s
        let n := (extractOf f0).2
        let mask := (fieldOf f0 w).getD 0
        let p := (s.st i).vp
        let s := (List.range n).foldl (fun s b => if bit mask b then s.emitEvent i (x + b) y p adt else s) s
        s.upSt i fun c => { c with vx := some (x + n) }
      | _, _ => s.decErr i STREAM.DEC_ERR 1
    | 3 => upd s
    | 4 => s.timeHigh i ((fieldOf f0 w).getD 0) (extractOf f0).2
    | 5 =>
      let s := upd s
      if (fieldOf f0 w).getD 1 = 1 then
        s.upSt i fun c => { c with wait := c.wait ++ [⟨true, 0, 0, 0, c.time, adt, none⟩] }
      else s.inc STREAM.TRIGGERS i
    | _ => s.inc STREAM.IGNORED i

/-- The vector state after the enable or a RESYNC word (R90). -/
def State.vectorReset (s : State) (i : Nat) : State :=
  let p := match (List.range 8).find? fun k => s.on (STREAM.CLASS_EN.nth k) i && s.rg (STREAM.KIND.nth k) i == 1 with
    | some k => s.rg (STREAM.POL_CONST.nth k) i
    | none => 0
  s.upSt i fun c => { c with vx := none, vy := none, vp := p }

/-- The decoder takes the head staging word (R86): a captured model commit takes effect (R64), then its sensor words. -/
def State.decodeWord (s : State) (i : Nat) : State :=
  match (s.st i).fifo with
  | [] => s
  | g :: rest =>
    let s := s.upSt i fun c => { c with fifo := rest }
    let s := match (s.st i).cap with | some m => s.commitModel i m | none => s
    let s := if g.resync then s.vectorReset i else s
    let adt := rebuild s.dt g.e35
    let b := s.wordBits i
    let n := g.valid * 8 / b
    let s := s.inc STREAM.FRAG_BYTES i (g.valid - n * b / 8)
    (List.range n).foldl (fun s k => s.decodeSensor i (bitsAt g.w (k * b) b) adt) s

/-- May the decoder take a word: one waits, and no decoded event of the stream waits for a lane (R83, R92). -/
def State.canDecode (s : State) (i : Nat) : Bool := !(s.st i).fifo.isEmpty && (s.st i).wait.isEmpty

/-! ## The stamper and the gates (R58, R59, R92–R95, R98) -/

/-- Does the hot-pixel CAM drop an event (R93)? -/
def State.hotDrop (s : State) (i x y p : Nat) : Bool :=
  s.regs.any fun e =>
    let h := keyIdx e.1
    e.1 == STREAM.HOT_VALID.key i h && e.2 != 0 && s.rg STREAM.HOT_X i h == x && s.rg STREAM.HOT_Y i h == y &&
      s.on (if p = 1 then STREAM.DROP_ON else STREAM.DROP_OFF) i h

/-- The rate region of a pixel (R94): ry × 8 + rx. -/
def State.regionOf (s : State) (i x y : Nat) : Nat :=
  (y * 4 / (s.rg STREAM.HEIGHT_M1 i + 1)) * 8 + x * 8 / (s.rg STREAM.WIDTH_M1 i + 1)

/-- The flicker gate judges an event (R95): does it pass? -/
def State.flickerGate (s : State) (i region tick : Nat) : Bool × State :=
  if !s.on STREAM.FLK_EN i then (true, s.upSt i fun c => { c with flk := Tab.put (0, false) c.flk region ((Tab.get (0, false) c.flk region).1, false) })
  else
    let (fl, s) := s.flickerFor (32 * i + region) tick
    let gated := fl || bit (s.rg STREAM.FLK_FORCE i) region
    let (cnt, was) := Tab.get (0, false) (s.st i).flk region
    let cnt := if gated && !was then 0 else cnt
    let n := s.rg STREAM.FLK_N i
    let nxt := if gated then (cnt + 1) % n else cnt
    (!gated || cnt == 0, s.upSt i fun c => { c with flk := Tab.put (0, false) c.flk region (nxt, gated) })

/-- A pending tile-map swap applies at the first passing event whose stamp tick exceeds the tick of the write (R98). -/
def State.swapApply (s : State) (i tick : Nat) : State :=
  if s.on STREAM.SWAP_PENDING i && (s.st i).swapTick < tick then
    (s.rs STREAM.ACTIVE_BANK i (1 - s.rg STREAM.ACTIVE_BANK i)).rb STREAM.SWAP_PENDING i false
  else s

/-- The DT a waiting event maps to, before the clamp (R58, R82). -/
def State.mapEvent (s : State) (i : Nat) (e : DecEv) : Nat :=
  let m := (s.st i).stm
  if m.valid && !s.aerStream i then m.map e.st else wrap 64 (e.arr + 2 ^ 64 - s.rg STREAM.LINK_LATENCY i)

/-- Is a mapped DT more than 2^33 ns before or after DT (R47)? -/
def outOfRange (now dt : Nat) : Bool := 2 ^ 33 < (signed 64 (dt + 2 ^ 64 - now % 2 ^ 64)).natAbs

/-- A trigger reaches the stamper (R61, R87). -/
def State.stampTrigger (s : State) (i : Nat) (e : DecEv) : State :=
  if s.cmMode i = 1 && !s.aerStream i then
    let (s, m) := s.pairTrigger i e.st (s.mapEvent i e)
    match m with
    | some m => s.upSt i fun c => { c with stm := m }
    | none => s
  else s.inc STREAM.TRIGGERS i

/-- Stamp an event: range test, clamp, CAM, rate count, flicker gate, tile-map swap, and into the stream's queue (R47, R59,
R93–R95, R98, R100). -/
def State.stampData (s : State) (i : Nat) (e : DecEv) : State :=
  let dt0 := s.mapEvent i e
  if outOfRange s.dt dt0 then s.inc STREAM.STAMP_RANGE i
  else
    let prev := (s.st i).prev.getD dt0
    let s := if dt0 < prev then s.inc STREAM.CLAMPED i else s
    let dt := max dt0 prev
    let s := s.upSt i fun c => { c with prev := some dt }
    if s.hotDrop i e.x e.y e.p then (s.inc STREAM.HOT_DROPPED i).inc INGEST.GATED_TOTAL 0
    else
      let region := s.regionOf i e.x e.y
      let tick := s.tickOf dt
      let s := s.rateCount i (32 * i + region) tick
      let (pass, s) := s.flickerGate i region tick
      if !pass then (s.inc STREAM.FLK_DROPPED i).inc INGEST.GATED_TOTAL 0
      else
        let s := (s.swapApply i tick).inc INGEST.EVENTS_DISTRIBUTED 0
        s.upSt i fun c => { c with queue := c.queue ++ [⟨i, e.x, e.y, e.p, dt, s.rg STREAM.ACTIVE_BANK i⟩] }

/-- The stamper takes stream `i`'s first waiting event; a fit that the event completed applies from the next one (R63). -/
def State.stampEvent (s : State) (i : Nat) : State :=
  match (s.st i).wait with
  | [] => s
  | e :: rest =>
    let s := s.upSt i fun c => { c with wait := rest }
    let s := if e.trig then s.stampTrigger i e else s.stampData i e
    match e.post with
    | some m => s.upSt i fun c => { c with stm := m }
    | none => s

/-- The times of a list that lie within the last 11 EVCLK cycles, which is 10 ns. -/
def State.recent (s : State) (l : List Nat) : List Nat := l.filter fun d => s.dt < d + 10

/-- May the stamper grant stream `i` a lane: an event waits, its queue of 16 has a place (R100), the stream has had fewer than 15
lanes in these 11 cycles and the streams together fewer than 11 × 11 (R92; assumption 140). -/
def State.canStamp (s : State) (i : Nat) : Bool :=
  !(s.st i).wait.isEmpty && (s.st i).queue.length < 16 && (s.recent (s.st i).lim).length < 15 && (s.recent s.lanes).length < 121

/-- A lane is granted to stream `i` (R92). -/
def State.grantLane (s : State) (i : Nat) : State :=
  let s := s.upSt i fun c => { c with lim := s.dt :: s.recent c.lim }
  { s with lanes := s.dt :: s.recent s.lanes }

/-! ## Reception (R77–R82, R101, R488) -/

/-- The enabled map of port `p` for a virtual channel and an event data type (R78, R80). -/
def State.vcMap (s : State) (p vc dty : Nat) : Option Nat :=
  (List.range 4).find? fun j => s.on (MIPI.MAP_EN.nth j) p && s.rg (MIPI.VCID.nth j) p == vc &&
    bit (s.rg (MIPI.DT_MASK.nth j) p) (dty - 0x30)

/-- Payload bytes as 64-bit staging words with their counts of valid bytes (R79). -/
def packWords : Nat → List Byte → List (Nat × Nat)
  | 0, _ => []
  | _, [] => []
  | n + 1, bs => (leNat (bs.take 8), (bs.take 8).length) :: packWords n (bs.drop 8)

/-- The CRC verdict of a mapped packet (R78): a failure counts on the port, and in CRC_WORDS the words that were written. -/
def State.packetEnd (s : State) (i p : Nat) (crcOk : Bool) : State :=
  let n := (s.st i).rxN
  let s := s.upSt i fun c => { c with rxN := 0 }
  if crcOk then s else ((s.inc MIPI.CRC_FAIL p).irqSet ⟨.mipi, p⟩ 9).decErr i STREAM.CRC_WORDS n

/-- Offer the words in reception whose time has come to the FIFO, in order. -/
def State.admitRx (s : State) (i : Nat) : List RxW → State
  | [] => s.upSt i fun c => { c with rx := [] }
  | x :: r =>
    if x.atDT ≤ s.dt then
      let (s, ok) := s.offerWord i x.w x.atDT x.valid
      let s := if ok then s.upSt i fun c => { c with rxN := c.rxN + 1 } else s
      let s := match x.last with | some good => s.packetEnd i x.port good | none => s
      s.admitRx i r
    else s.upSt i fun c => { c with rx := x :: r }

/-- What a stream's receiver has done by now. -/
def State.takeIn (s : State) (i : Nat) : State := if (s.st i).rx.isEmpty then s else s.admitRx i (s.st i).rx

/-- The streams with words in reception. -/
def State.receiving (s : State) : List Nat := (s.strm.filter fun e => !e.2.rx.isEmpty).map fun e => e.1

/-- What every stream's receiver has done by now. -/
def State.takeInAll (s : State) : State := s.receiving.foldl (fun s i => s.takeIn i) s

/-- Losses of lock that relocked within 100 µs and have stayed locked for 1 s: they are transient, and count now (R409). -/
def State.lockSettle (s : State) : State :=
  (List.range 11).foldl (fun s b =>
    let r := Tab.get 0 s.boot.relockAt b
    if r != 0 && decide (r + 1000000000 ≤ s.dt + 1) then
      { s with boot := { s.boot with relockAt := Tab.put 0 s.boot.relockAt b 0 } }.logFault ⟨.clk, 0⟩ false 6 0
    else s) s

/-- The work that a register access to a page can see has been done by then: the receivers' (R11, R78, R84, R85), and the classing
of losses of lock (R409). -/
def State.takeInFor (s : State) (p : Page) : State :=
  match p.pk with
  | .stream | .mipi | .ingest => s.takeInAll
  | .clk => s.lockSettle
  | _ => s

/-- The rest of the packets in progress for a stream from the ports that `f` names is discarded (R101, R488); `count`: their CRC is
still checked. -/
def State.dropRx (s : State) (i : Nat) (f : Nat → Bool) (count : Bool) : State :=
  let s := s.takeIn i
  let gone := (s.st i).rx.filter fun x => f x.port
  let s := s.upSt i fun c => { c with rx := c.rx.filter fun x => !f x.port }
  if count then gone.foldl (fun s x => match x.last with | some good => s.packetEnd i x.port good | none => s) s
  else if gone.isEmpty then s else s.upSt i fun c => { c with rxN := 0 }

/-- The words of a packet in reception: `times` gives the DT at which each is written into stage 31, a missing one being the
present. -/
def rxWords (p now : Nat) (crcOk : Bool) : List (Nat × Nat) → List Nat → List RxW
  | [], _ => []
  | (w, v) :: ws, times =>
    ⟨p, w, v, max now (times.head?.getD now), if ws.isEmpty then some crcOk else none⟩ :: rxWords p now crcOk ws times.tail

/-- A CSI-2 packet (R78, R79), from the arrival of its header on. -/
def State.mipiPacket (s : State) (p vc dty : Nat) (long : Bool) (ecc : EccRes) (data : List Byte) (times : List Nat)
    (crcOk : Bool) : State :=
  match ecc with
  | .bad => (s.inc MIPI.ECC_FAIL p).irqSet ⟨.mipi, p⟩ 8
  | _ =>
    let s := if ecc == .corrected then s.inc MIPI.ECC_CORR p else s
    if !long then s.inc MIPI.SHORT_PKTS p
    else
      let unkept := if crcOk then s else (s.inc MIPI.CRC_FAIL p).irqSet ⟨.mipi, p⟩ 9
      if dty < 0x30 ∨ 0x37 < dty then unkept.inc MIPI.IMG_PKTS p
      else
        match s.vcMap p vc dty with
        | none => unkept.inc MIPI.UNMAPPED_PKTS p
        | some j =>
          let i := s.rg (MIPI.STREAM.nth j) p
          let ws := rxWords p s.dt crcOk (packWords (data.length + 1) data) times
          if !s.on (Hdr.ENABLE .stream) i then unkept.inc MIPI.UNMAPPED_PKTS p
          else if ws.isEmpty then unkept.inc MIPI.PKTS_OK p
          else (((s.inc MIPI.PKTS_OK p).upSt i fun c => { c with rx := c.rx ++ ws })).takeIn i

/-- Is a port switched on and out of reset, with its PHY clock good (R28, R488)? -/
def State.portOn (s : State) (p : Page) : Bool :=
  s.on (Hdr.ENABLE p.pk) p.inst && s.boot.hubUp && s.clkGood p && !s.inReset p && !s.asleep

/-- AER handshake of port `a`. -/
def State.aerP (s : State) (a : Nat) : AerPort := Tab.get AerPort.init s.aer a
/-- Change an AER handshake. -/
def State.upAer (s : State) (a : Nat) (v : AerPort) : State := { s with aer := Tab.put AerPort.init s.aer a v }

/-- The level of AERn_ACK for an asserted or inactive ACK. -/
def State.ackLevel (s : State) (a : Nat) (asserted : Bool) : Bool := asserted != s.on AER.ACK_LOW a

/-- The name of an ACK pin. -/
def ackPin (a : Nat) : String := "AER" ++ toString a ++ "_ACK"

/-- The level at which port `a` drives AERn_ACK. -/
def State.ackNow (s : State) (a : Nat) : Bool := s.ackLevel a (s.aerP a).ack

/-- Drive AERn_ACK after a change from the state `old`: the pin takes a level when the level changes (R81, R488). -/
def State.ackDrive (s old : State) (a : Nat) : State :=
  if s.ackNow a != old.ackNow a then s.emit (.pin (ackPin a) (s.ackNow a)) else s

/-- The link of MIPI port `p` goes down: the packets that it is receiving are discarded, and DESKEW_DONE waits for a deskew of the
next link (R103, R488). -/
def State.mipiDown (s : State) (p : Nat) : State :=
  ((List.range 36).foldl (fun s i => s.dropRx i (· == p) false) s).rb MIPI.DESKEW_DONE p false

/-- A write of CTRL of a MIPI or AER page (R488): switching an AER port off drops its handshake, and a MIPI port its link. -/
def State.portCtrl (s : State) (p : Page) (v : Word) : State :=
  let off := (Hdr.ENABLE p.pk).of v == 0
  let s := if p.pk == .mipi && off then s.mipiDown p.inst else s
  let s := s.rs (Hdr.ENABLE p.pk) p.inst ((Hdr.ENABLE p.pk).of v)
  if p.pk == .aer && off then (s.upAer p.inst AerPort.init).ackDrive s p.inst else s

/-! ## Stream control (R91, R101) -/

/-- The fields that kind `k` uses, of F0–F3 (R87). -/
def kindUses (kind : Nat) (f : Nat) : Bool :=
  match kind with
  | 0 | 1 => true
  | 2 => f == 0 || f == 3
  | 3 | 4 => f == 0
  | 5 => f == 0 || f == 3
  | _ => false

/-- The checks of one enabled class at the enable of a stream (R87, R91). -/
def State.classOk (s : State) (i k : Nat) : Bool :=
  let kind := s.rg (STREAM.KIND.nth k) i
  let w := s.rg STREAM.TL_BITS i
  let fs := [s.classF i k STREAM.F0, s.classF i k STREAM.F1, s.classF i k STREAM.F2, s.classF i k STREAM.F3]
  let fits := fs.all fun f => let (l, n) := extractOf f; n == 0 || (l + n ≤ s.wordBits i && n ≤ 48)
  let tl := (extractOf (s.timeLowOf i k)).2
  let f0 := (extractOf (s.classF i k STREAM.F0)).2
  kind != 7 && fits && (tl == 0 || tl == w) && (kind != 2 || (1 ≤ f0 && f0 ≤ 32)) && (kind != 4 || (1 ≤ f0 && f0 + w ≤ 48))

/-- May stream `i` be enabled (R91)? -/
def State.enableOk (s : State) (i : Nat) : Bool :=
  let w := s.rg STREAM.TL_BITS i
  let cls := (List.range 8).filter fun k => s.on (STREAM.CLASS_EN.nth k) i
  (s.mapsTo i).length == 1 && 1 ≤ w && w ≤ 32 && cls.all (s.classOk i) &&
    (s.aerStream i || cls.any fun k => (extractOf (s.timeLowOf i k)).2 != 0)

/-- A write of CTRL of a STREAM page (R91, R101). -/
def State.streamCtrl (s : State) (i : Nat) (v : Word) : State :=
  let was := s.on (Hdr.ENABLE .stream) i
  let en := (Hdr.ENABLE .stream).of v != 0
  if en && !was then
    if s.enableOk i then
      ((s.rb (Hdr.ENABLE .stream) i true).vectorReset i).upSt i fun c => { c with flk := [] }
    else s.errParam ⟨.stream, i⟩
  else if !en && was then (s.dropRx i (fun _ => true) true).rb (Hdr.ENABLE .stream) i false
  else s

/-- A write of HOT_DATA replaces the selected CAM entry (R93). -/
def State.hotWrite (s : State) (i : Nat) (v : Word) : State :=
  let x := s.rg STREAM.HOT_INDEX i
  [STREAM.HOT_X, STREAM.HOT_Y, STREAM.DROP_ON, STREAM.DROP_OFF, STREAM.HOT_VALID].foldl (fun s f => s.rs f i (f.of v) x) s

/-- A write of TMAP_CTRL (R98). -/
def State.tmapCtrl (s : State) (i : Nat) (v : Word) : State :=
  if STREAM.SWAP.of v = 0 ∨ s.on STREAM.SWAP_PENDING i then s
  else (s.rb STREAM.SWAP_PENDING i true).upSt i fun c => { c with swapTick := s.curTick }

/-- The tile of a pixel (R96). -/
def tileOf (x y : Nat) : Nat := (y / 32) * 64 + x / 32

/-! ## The commands -/

/-- MIPI_PACKET (R78). -/
def execMipiPacket (t : Nat) (mp : Fin 18) (vc : Fin 32) (dty : Fin 64) (long : Bool) (ecc : EccRes) (data : List Byte)
    (times : List Nat) (crcOk : Bool) (s : State) : Res :=
  let s := s.advance t
  .next (if s.portOn ⟨.mipi, mp⟩ then s.mipiPacket mp vc dty long ecc data times crcOk else s)

/-- DESKEW_SEQUENCE (R77): DESKEW_DONE sets. -/
def execDeskewSequence (t : Nat) (mp : Fin 18) (s : State) : Res :=
  let s := s.advance t
  .next (if s.portOn ⟨.mipi, mp⟩ && !s.on MIPI.PHY_MODE mp then s.rb MIPI.DESKEW_DONE mp true else s)

/-- AER_REQ_RISE (R81): the port sees REQ 3 ns after it reached the ball. -/
def execAerReqRise (t : Nat) (ap : Fin 2) (s : State) : Res :=
  let s := s.advance t
  let a := s.aerP ap
  .next (if s.portOn ⟨.aer, ap⟩ && !a.req && !a.ack then s.upAer ap ⟨true, s.dt - 3, s.dt, false⟩ else s)

/-- AER_LATCH (R81): SETTLE ns after REQ was seen, ACK rises and one staging word is written. -/
def execAerLatch (t : Nat) (ap : Fin 2) (w : BitVec 24) (s : State) : Res :=
  let s := s.advance t
  let a := s.aerP ap
  .next (
    if s.portOn ⟨.aer, ap⟩ && a.req && !a.ack && a.seen + s.rg AER.SETTLE ap ≤ s.dt then
      let s := ((s.upAer ap { a with ack := true }).emit (.pin (ackPin ap) (s.ackLevel ap true))).inc AER.WORDS ap
      let i := s.rg AER.STREAM ap
      if s.on AER.MAP_EN ap && s.on (Hdr.ENABLE .stream) i then (s.offerWord i w.toNat a.entry 8).1 else s
    else s)

/-- AER_REQ_FALL (R81): ACK falls; a REQ withdrawn before the latch counts in PROTO_ERR. -/
def execAerReqFall (t : Nat) (ap : Fin 2) (s : State) : Res :=
  let s := s.advance t
  let a := s.aerP ap
  .next (
    if !s.portOn ⟨.aer, ap⟩ || !a.req then s
    else if a.ack then (s.upAer ap AerPort.init).emit (.pin (ackPin ap) (s.ackLevel ap false))
    else (s.upAer ap AerPort.init).inc AER.PROTO_ERR ap)

/-- PORT_ENABLE (R488): a write of CTRL of a MIPI or AER page. -/
def execPortEnable (t : Nat) (c : Req) (p : BitVec 14) (v : Word) (s : State) : Res :=
  match Page.ofAddr p.toNat with
  | some q => if q.pk == .mipi || q.pk == .aer then s.cmdWrite t c q 0x008 fun s => s.portCtrl q v else .next (s.advance t)
  | none => .next (s.advance t)

/-- DECODE_WORD (R86). -/
def execDecodeWord (t : Nat) (i : Fin 36) (s : State) : Res :=
  let s := (s.advance t).takeIn i
  .next (if s.canDecode i then s.decodeWord i else s)

/-- STAMP_EVENT (R92). -/
def execStampEvent (t : Nat) (i : Fin 36) (s : State) : Res :=
  let s := s.advance t
  .next (if s.canStamp i then (s.grantLane i).stampEvent i else s)

/-- HOT_DATA_WRITE (R93). -/
def execHotDataWrite (t : Nat) (c : Req) (i : Fin 36) (v : Word) (s : State) : Res :=
  s.cmdWrite t c ⟨.stream, i⟩ 0x074 fun s => s.hotWrite i v

/-- TMAP_SWAP (R98). -/
def execTmapSwap (t : Nat) (c : Req) (i : Fin 36) (v : Word) (s : State) : Res :=
  s.cmdWrite t c ⟨.stream, i⟩ 0x07C fun s => s.tmapCtrl i v

/-- STREAM_ENABLE (R91). -/
def execStreamEnable (t : Nat) (c : Req) (i : Fin 36) (v : Word) (s : State) : Res :=
  s.cmdWrite t c ⟨.stream, i⟩ 0x008 fun s => s.streamCtrl i v

/-- STREAM_DISABLE (R101). -/
def execStreamDisable (t : Nat) (c : Req) (i : Fin 36) (v : Word) (s : State) : Res :=
  s.cmdWrite t c ⟨.stream, i⟩ 0x008 fun s => s.streamCtrl i v

end Sys2Proof.Machine
end

