-- ==== Sys2Proof/Machine/Network.lean ====
section
/-!
DEFINITION. The package network (chapter 08): flit encodings, flits in flight, credits, DDR4 addressing.
-/
namespace Sys2Proof.Machine
open Regs

/-! ## Words (R226, R227) -/

/-- The stamped event word: stream or plane [63:58], x [57:47], y [46:36], polarity [35], ST35 [34:0]. -/
def evWord (str x y p t35 : Nat) : Nat := str <<< 58 ||| x <<< 47 ||| y <<< 36 ||| p <<< 35 ||| t35
def wStr (w : Nat) : Nat := bitsAt w 58 6
def wX (w : Nat) : Nat := bitsAt w 47 11
def wY (w : Nat) : Nat := bitsAt w 36 11
def wP (w : Nat) : Nat := bitsAt w 35 1
def wT (w : Nat) : Nat := bitsAt w 0 35

/-- The word of a stamped event. -/
def Ev.word (e : Ev) : Nat := evWord e.str e.x e.y e.p (st35 e.dt)

/-- AUX of EVENT and REPLAY flits: MAP, LEDGER, CORES (R226). -/
def evAux (map : Nat) (ledger cores : Bool) : Nat := map <<< 8 ||| (if ledger then 128 else 0) ||| (if cores then 64 else 0)

/-- A source field: kind, cluster, endpoint (R226). -/
def srcField (kind cl ep : Nat) : Nat := kind <<< 12 ||| cl <<< 8 ||| ep

/-- The source field of a sliver core. -/
def coreSrc (n : Nat) : Nat := srcField 0 (n / 256) (n % 256)

/-- The sliver core a source field names. -/
def srcCore (aux : Nat) : Nat := bitsAt aux 8 4 * 256 + bitsAt aux 0 8

/-- AUX of a CWRITE flit: MAP, and 0 in [7:0] (R226). The model keeps the sending core's number in the cluster above the 14 tag bits
(assumption 33). -/
def cwriteAux (n map : Nat) : Nat := map <<< 8 ||| (n % 256) <<< 14

/-! ## Where a flit comes from and goes to (R225–R227) -/

/-- The endpoint that sent a flit, as a source field: EVENT and REPLAY come from the distributor to a router and from the router to a
core, CWRITE from a core of the bank's cluster; every other type carries its source. -/
def Flit.src (f : Flit) : Nat :=
  if f.ty = 0 ∨ f.ty = 1 then (if f.dk = 0 then srcField 1 f.dcl 0 else srcField 2 0 4)
  else if f.ty = 3 then srcField 0 f.dcl (bitsAt f.aux 14 8)
  else f.aux % 2 ^ 14

/-- The traffic class of a flit: 0 EVT, 1 SPK, 2 REQ, 3 RSP, 4 CTL (R227, R232). -/
def Flit.cls (f : Flit) : Nat :=
  if f.ty = 0 ∨ f.ty = 1 then 0
  else if f.ty = 2 then 1
  else if f.ty = 5 ∨ f.ty = 0xA ∨ f.ty = 0xD then 3
  else if f.ty = 0xB then 4
  else 2

/-- A WRITE or READRSP unit carries 64 data bytes in its last 8 words (R227). -/
def Flit.wide (f : Flit) : Bool := f.ty == 8 || f.ty == 0xA

/-- UCIe flits of a unit: bundles of five slots, and one DATA flit for each 64 data bytes (R229). Every unit has bundles of its own
(assumption 150). -/
def Flit.dataFlits (f : Flit) : Nat := if f.wide then f.words.length / 9 else 0
def Flit.ucieFlits (f : Flit) : Nat := ((if f.wide then f.dataFlits else f.words.length) + 4) / 5 + f.dataFlits

/-- What the units of the network move over (R224, R225): the row by which the sliver cores of row `r` of cluster `k` send, the module
of UCIE page `u` as its die sends over it, and the same module as the hub sends over it. -/
inductive Link where
  | row (k r : Nat)
  | die (u : Nat)
  | hub (u : Nat)
deriving DecidableEq, Repr

/-- The UCIE page of the hub module that serves cluster `k` (R225). -/
def hubModule (k : Nat) : Nat := 4 * (k / 4) + k % 4 / 2

/-- The modules by which die `d` reaches die `e` over the ring (R225). -/
def ringPath (d e : Nat) : List Link :=
  match (e + 4 - d) % 4 with
  | 0 => []
  | 1 => [.die (4 * d + 2)]
  | 2 => [.die (4 * d + 2), .die (4 * ((d + 1) % 4) + 2)]
  | _ => [.die (4 * d + 3)]

/-- The links that a flit's fixed route takes on its way from its source to its destination (R225). -/
def Flit.path (f : Flit) : List Link :=
  let c := bitsAt f.src 8 4
  (if bitsAt f.src 12 2 = 0 then [Link.row c (bitsAt f.src 4 4)] else []) ++
    (if bitsAt f.src 12 2 = 2 then (if f.dk = 2 then [] else [Link.hub (hubModule f.dcl)])
     else if f.dk = 2 then [Link.die (hubModule c)] else ringPath (c / 4) (f.dcl / 4))

/-- The module at the other end of a ring module. -/
def ringPeer (u : Nat) : Nat := if u % 4 = 2 then 4 * ((u / 4 + 1) % 4) + 3 else 4 * ((u / 4 + 3) % 4) + 2

/-! ## Counters of the links (R239) -/

/-- Flits move over the row link of a sliver core: one hop from column to column (R225). -/
def State.meshCount (s : State) (core flits : Nat) : State := s.inc MESH.FLITS (core / 256) (flits * (core % 16 + 1))

/-- A unit moves over a link: what the sending and the receiving UCIE pages count. -/
def State.crossLink (s : State) (f : Flit) : Link → State
  | .row _ _ => s
  | .hub u => s.inc UCIE.RX_FLITS u f.ucieFlits
  | .die u =>
    let s := (s.inc UCIE.TX_FLITS u f.ucieFlits).inc UCIE.DATA_FLITS u f.dataFlits
    if u % 4 < 2 then s else s.inc UCIE.RX_FLITS (ringPeer u) f.ucieFlits

/-- What the row links of a unit count: those of the core that sends it and of the core that it goes to. -/
def State.rowCount (s : State) (f : Flit) : State :=
  let s := if bitsAt f.src 12 2 = 0 then s.meshCount (srcCore f.src) f.words.length else s
  if f.dk = 0 then s.meshCount (f.dcl * 256 + f.dep) f.words.length else s

/-- Send a flit: it is in flight, and the links of its path count it. -/
def State.send (s : State) (f : Flit) : State :=
  let s := f.path.foldl (fun s l => s.crossLink f l) (s.rowCount f)
  { s with net := s.net ++ [f] }

/-! ## Buffers of the links, per class (R232, R234) -/

/-- Units of a class in flight over a link. -/
def State.linkLoad (s : State) (l : Link) (cls : Nat) : Nat := (s.net.filter fun f => f.cls == cls && f.path.contains l).length

/-- The first link of a unit's path that has no buffer of its class free. -/
def State.fullLink (s : State) (f : Flit) : Option Link := f.path.find? fun l => decide (s.bufs ≤ s.linkLoad l f.cls)

/-- Has every link of a unit's path a buffer of its class free? -/
def State.linkRoom (s : State) (f : Flit) : Bool := (s.fullLink f).isNone

/-- The counter of the cycles in which a sender waits for a link's credit, and its page; the hub's own modules have none. -/
def linkStall (cls : Nat) : Link → Option (Fld × Nat)
  | .row k r => some (MESH.ROW_STALL.nth r, k)
  | .die u => some (UCIE.CREDIT_STALL_CLASS.nth cls, u)
  | .hub _ => none

/-- Sender `who` waits with a unit for a link's credit. -/
def State.linkWait (s : State) (f : Flit) (who : Nat) : State :=
  match (s.fullLink f).bind (linkStall f.cls) with
  | some (c, i) => s.waitBegin c i who
  | none => s

/-- Sender `who` waits no longer. -/
def State.linkMoved (s : State) (f : Flit) (who : Nat) : State :=
  f.path.foldl (fun s l => match linkStall f.cls l with | some (c, i) => s.waitEnd c i who | none => s) s

/-! ## Taking a flit (R231) -/

/-- Take the first element that satisfies `p`. -/
def takeFirst {α : Type} (p : α → Bool) : List α → Option (α × List α)
  | [] => none
  | x :: xs => if p x then some (x, xs) else (takeFirst p xs).map fun r => (r.1, x :: r.2)

/-- Do two flits of one class go from one endpoint to one endpoint? They arrive in the order sent (R231). -/
def Flit.sameFlow (f g : Flit) : Bool := f.cls == g.cls && f.src == g.src && f.dk == g.dk && f.dcl == g.dcl && f.dep == g.dep

/-- Take the first flit that satisfies `p` and that no earlier flit of its class and endpoints precedes. -/
def takeInOrder (p : Flit → Bool) (seen : List Flit) : List Flit → Option (Flit × List Flit)
  | [] => none
  | x :: xs =>
    if p x && !seen.any x.sameFlow then some (x, xs)
    else (takeInOrder p (x :: seen) xs).map fun r => (r.1, x :: r.2)

/-- The compute logic is stopped: STANDBY, SLEEP, and the exits from them (R413–R416). -/
def State.computeStopped (s : State) : Bool :=
  let p := s.rg Regs.PWR.PWR_STATE 0
  p == 2 || p == 3 || p == 5 || p == 6

/-- Take the oldest flit of a type bound for an endpoint; none moves into stopped compute logic. -/
def State.takeFlit (s : State) (p : Flit → Bool) : Option (Flit × State) :=
  (takeInOrder (fun f => p f && (f.dk == 2 || !s.computeStopped)) [] s.net).map fun r => (r.1, { s with net := r.2 })

/-- Is a flit of type `ty` bound for unit `dep` of cluster `k` (DKIND 1)? -/
def Flit.toUnit (f : Flit) (ty k dep : Nat) : Bool := f.ty == ty && f.dk == 1 && f.dcl == k && f.dep == dep

/-- Is a flit of type `ty` bound for sliver core `n` (DKIND 0)? -/
def Flit.toCore (f : Flit) (ty n : Nat) : Bool := f.ty == ty && f.dk == 0 && f.dcl * 256 + f.dep == n

/-- Is a flit of type `ty` bound for hub unit `dep` (DKIND 2)? -/
def Flit.toHub (f : Flit) (ty dep : Nat) : Bool := f.ty == ty && f.dk == 2 && f.dep == dep

/-! ## Event credits (R99, R233) -/

/-- Credits of the distributor for a stream and a cluster. -/
def State.credit (s : State) (k i : Nat) : Nat := Tab.get 8 s.dcred (k * 36 + i)

/-- Set a credit count. -/
def State.setCredit (s : State) (k i n : Nat) : State := { s with dcred := Tab.put 8 s.dcred (k * 36 + i) n }

/-- Is a cluster gated in the distributor (R99)? -/
def State.gated (s : State) (k : Nat) : Bool :=
  bit (s.rg DIST.CLUSTER_GATE 0) k || s.clusterFenced k || s.inReset ⟨.clu, k⟩

/-- The clusters of a mask. -/
def clustersOf (mask : Nat) : List Nat := (List.range 16).filter (bit mask)

/-! ## DDR4 channels (R237) -/

/-- The working channels in order: trained and not fenced. -/
def State.channels (s : State) : List Nat := (List.range 6).filter fun c => s.rg DDR.TRAIN_STATE c == 2 && !s.ddrFenced c

/-- The channel a byte address lies on. -/
def State.channelOf (s : State) (a : Nat) : Option Nat :=
  let cs := s.channels
  if cs.length = 0 then none else cs[(a >>> 8) % cs.length]?

/-- Count bytes served on the channel of an address. -/
def State.ddrCount (s : State) (f : Fld) (a n : Nat) : State :=
  match s.channelOf a with | some c => s.inc f c n | none => s

/-- Level-2 bytes served on a channel: they count, and use up the channel's rate of L2_CAP MB/s (R237). -/
def State.l2Serve (s : State) (c n : Nat) : State :=
  { s.inc DDR.BYTES_L2 c n with
    ddrNext := Tab.put 0 s.ddrNext c (max s.dt (Tab.get 0 s.ddrNext c) + n * 1000 / s.rg DDR.L2_CAP c) }

/-- Level-2 bytes served at an address: Ledger backing and the escape rings. -/
def State.ddrL2 (s : State) (a n : Nat) : State := match s.channelOf a with | some c => s.l2Serve c n | none => s

/-- The lowest level waiting at a channel that may be served now: level 2 waits at L2_CAP. -/
def State.ddrLevel (s : State) (c : Nat) : Option Nat :=
  let q := if s.rg DDR.TRAIN_STATE c = 2 then Tab.get [] s.ddrq c else []
  let capped := s.dt < Tab.get 0 s.ddrNext c
  (List.range 6).find? fun l => q.any (fun r => r.level == l) && !(l == 2 && capped)

/-- Must traffic of a level at an address yield to a request of a higher level that waits at the channel (R237)? -/
def State.ddrYields (s : State) (a level : Nat) : Bool :=
  match (s.channelOf a).bind s.ddrLevel with
  | some l => decide (l < level)
  | none => false

/-- `n` 64-bit words at a DDR4 address. -/
def State.ddrWords (s : State) (a : Nat) : Nat → List Nat
  | 0 => []
  | n + 1 => Mem.rdLE s.ddr4 a 8 :: s.ddrWords (a + 8) n

/-- Write 64-bit words at a DDR4 address. -/
def State.ddrPut (s : State) (a : Nat) : List Nat → State
  | [] => s
  | w :: ws => ({ s with ddr4 := Mem.wrLE s.ddr4 a 8 w }).ddrPut (a + 8) ws

end Sys2Proof.Machine
end

