-- ==== Sys2Proof/Machine/Journal.lean ====
section
/-!
DEFINITION. The Journal (chapter 11): records, the writer, rewind marks.
-/
namespace Sys2Proof.Machine
open Regs

/-- Journal of stream `i`. -/
def State.jr (s : State) (i : Nat) : Jrn := Tab.get Jrn.init s.jrn i
/-- Change a Journal. -/
def State.upJr (s : State) (i : Nat) (f : Jrn → Jrn) : State := { s with jrn := Tab.put Jrn.init s.jrn i (f (s.jr i)) }
/-- Mark `m` of stream `i`. -/
def State.mark (s : State) (i m : Nat) : Mark := Tab.get Mark.init (s.jr i).marks m
/-- Change a mark. -/
def State.upMark (s : State) (i m : Nat) (f : Mark → Mark) : State :=
  s.upJr i fun j => { j with marks := Tab.put Mark.init j.marks m (f (Tab.get Mark.init j.marks m)) }

/-! ## Records (R308) -/

def padWord : Nat := 61 <<< 58
def timeRec (dt : Nat) : List Nat := [62 <<< 58, wrap 64 dt]
def gapRec (lost : Nat) (cap stage : Bool) (dt : Nat) : List Nat :=
  [63 <<< 58 + satU 32 lost + (if cap then 2 ^ 32 else 0) + (if stage then 2 ^ 33 else 0), wrap 64 dt]

/-- The kind of a record from bits [63:58] of its first word. -/
def recKind (w : Nat) : Nat := bitsAt w 58 6

/-! ## The writer (R309–R311) -/

/-- Lines of staging in use: the partial line, full ones and those in flight. -/
def Jrn.used (j : Jrn) : Nat := j.lines.length + j.flight.length + (if j.part.isEmpty then 0 else 1)

/-- 64-bit words of room in a stream's staging area. -/
def State.stageRoom (s : State) (i : Nat) : Nat :=
  let j := s.jr i
  (s.rg JSTR.STAGE_LINES i - j.lines.length - j.flight.length) * 8 - j.part.length

/-- The absolute position of the next word to be staged (R307). -/
def State.stagePos (s : State) (i : Nat) : Nat :=
  let j := s.jr i
  s.rg JSTR.WP i + 64 * (j.flight.length + j.lines.length) + 8 * j.part.length

/-- Stage one word; a full line joins the lines to be issued. -/
def Jrn.put (j : Jrn) (w : Nat) : Jrn :=
  let p := j.part ++ [w]
  if p.length < 8 then { j with part := p } else { j with part := [], lines := j.lines ++ [p] }

/-- Stage words. -/
def Jrn.putAll (j : Jrn) (ws : List Nat) : Jrn := ws.foldl Jrn.put j

/-- A lost copy: counted, and a gap opens or grows (R310). -/
def State.gapCopy (s : State) (i dt : Nat) (cap stage : Bool) : State :=
  let s := (s.inc JSTR.GAP_EVENTS i).inc JRNL.TOTAL_GAP_EVENTS 0
  match (s.jr i).gap with
  | some (n, c, g, d) => s.upJr i fun j => { j with gap := some (n + 1, c || cap, g || stage, d) }
  | none => ((s.upJr i fun j => { j with gap := some (1, cap, stage, dt) }).rb JSTR.GAP_OPEN i true).irqSet ⟨.jstr, i⟩ 9

/-- Must a TIME record precede an EVENT of this DT (R309)? -/
def State.timeNeeded (s : State) (i dt : Nat) : Bool :=
  let j := s.jr i
  j.needTime || j.gap.isSome || j.marks.any (fun m => m.2.set) || j.lastTime + 2 ^ 33 ≤ dt

/-- The aggregate cap: 60 copies in any 11 consecutive EVCLK cycles, which are 10 ns (R310). -/
def State.capFull (s : State) : Bool := 60 ≤ (s.jcap.filter fun d => s.dt < d + 10).length

/-- The writer accepts a copy: GAP and TIME records, the EVENT, and the marks set at it (R309, R310, R312). -/
def State.acceptCopy (s : State) (i : Nat) (e : Ev) : State :=
  let time := s.timeNeeded i e.dt
  let gap := (s.jr i).gap
  let g := match gap with | some (n, c, st, d) => gapRec n c st d | none => []
  let pos := s.stagePos i + 8 * g.length
  let evPos := pos + (if time then 16 else 0)
  let s := if gap.isSome then (s.inc JSTR.GAPS i).rb JSTR.GAP_OPEN i false else s
  let s := if time then s.inc JSTR.TIME_RECS i else s
  let s := s.upJr i fun j => { j.putAll (g ++ (if time then timeRec e.dt else []) ++ [e.word]) with
    gap := none
    needTime := false
    lastTime := if time then e.dt else j.lastTime
    lastCopy := s.dt
    marks := j.marks.map fun (m : Nat × Mark) => if m.2.set then (m.1, ⟨false, false, true, pos, e.dt, evPos⟩) else m }
  let s := { s with jcap := s.dt :: s.jcap.filter fun d => s.dt < d + 10 }
  let s := (s.inc JSTR.EVENTS_JOURNALED i).inc JRNL.TOTAL_JOURNALED 0
  s.peak JSTR.STAGE_PEAK i (s.jr i).used

/-- Has the staging area of a stream no room for an EVENT of this DT and the records that must precede it (R310)? -/
def State.stageFull (s : State) (i dt : Nat) : Bool :=
  s.stageRoom i < (if (s.jr i).gap.isSome then 2 else 0) + (if s.timeNeeded i dt then 2 else 0) + 1

/-- The distributor offers a Journal copy (R97, R310). -/
def State.journalCopy (s : State) (e : Ev) : State :=
  let i := e.str
  if !s.on (Hdr.ENABLE .jstr) i then s
  else if s.capFull || s.stageFull i e.dt then s.gapCopy i e.dt s.capFull (s.stageFull i e.dt)
  else s.acceptCopy i e

/-- Pad the partial line to its end (R311). -/
def State.padLine (s : State) (i : Nat) : State :=
  let n := (s.jr i).part.length
  if n = 0 then s
  else (s.upJr i fun j => j.putAll (List.replicate (8 - n) padWord)).inc JSTR.PAD_WORDS i (8 - n)

/-- Marks that a line write overtakes: one covering POS + 2^SIZE_LOG or higher (R313). -/
def State.overtake (s : State) (i lineEnd : Nat) : State :=
  (List.range 8).foldl (fun s m =>
    let k := s.mark i m
    if k.valid && k.pos + 2 ^ s.rg JSTR.SIZE_LOG i < lineEnd then
      ((((s.upMark i m fun k => { k with valid := false }).rs JSTR.OVERTAKEN i (setBit (s.rg JSTR.OVERTAKEN i) m true)).inc
        JSTR.OVERTAKES i).irqSet ⟨.jstr, i⟩ 8)
    else s) s

/-- A replay channel ends in a state of R317. -/
def State.replayEnd (s : State) (ch st : Nat) (short : Bool) : State :=
  let s := ((s.rs JCH.STATE ch st).rb JCH.SHORT ch short).irqSet ⟨.jrnl, 0⟩ 8
  if st = 3 then s.irqSet ⟨.jrnl, 0⟩ 9 else s

/-- Is a replay channel RUNNING? -/
def State.replaying (s : State) (ch : Nat) : Bool := s.rg JCH.STATE ch == 1

/-- The start of the oldest line that a replay has not fully received (R317). -/
def State.replayLine (s : State) (ch : Nat) : Nat := s.rg JCH.POSITION ch / 64 * 64

/-- A line write that laps a replay's oldest unreceived line ends it REWIND_LOST, with POSITION at that line (R317). -/
def State.lapReplays (s : State) (i lineEnd : Nat) : State :=
  (List.range 4).foldl (fun s ch =>
    if s.replaying ch && s.rg JCH.STREAM ch == i && s.replayLine ch + 2 ^ s.rg JSTR.SIZE_LOG i < lineEnd then
      (s.rs JCH.POSITION ch (s.replayLine ch)).replayEnd ch 3 false
    else s) s

/-- Send the oldest staged line to DDR4 (R311, R313, R317). -/
def State.issueNow (s : State) (i : Nat) : State :=
  let j := s.jr i
  match j.lines with
  | [] => s
  | l :: rest =>
    let lineEnd := s.rg JSTR.WP i + 64 * (j.flight.length + 1)
    ((s.upJr i fun j => { j with lines := rest, flight := j.flight ++ [l] }).overtake i lineEnd).lapReplays i lineEnd

/-- Line writes in flight: each holds one of the Journal writer's 4,096 tags (R236). -/
def State.linesInFlight (s : State) : Nat := (s.jrn.map fun e => e.2.flight.length).sum

/-- Issue the oldest staged line when a tag is free. -/
def State.issueLine (s : State) (i : Nat) : State := if s.linesInFlight < 4096 then s.issueNow i else s

/-- Does the record sequence go on past these words in the middle of a record? `c`: the first word is a record's second (R308). -/
def recTail (c : Bool) (ws : List Nat) : Bool := ws.foldl (fun c w => !c && (recKind w == 62 || recKind w == 63)) c

/-- DDR4 byte address of the oldest line not yet written. -/
def State.lineAt (s : State) (i : Nat) : Nat := s.rg JSTR.RING_BASE i + s.rg JSTR.WP i % 2 ^ s.rg JSTR.SIZE_LOG i

/-- The oldest line write completes: WP advances by 64 and the marks of its events become VALID (R311, R312). -/
def State.lineWrite (s : State) (i : Nat) : State :=
  match (s.jr i).flight with
  | [] => s
  | l :: rest =>
    let wp := s.rg JSTR.WP i
    let a := s.lineAt i
    let s := (s.ddrPut a l).ddrCount DDR.BYTES_L5 a 64
    (s.rs JSTR.WP i (wp + 64)).upJr i fun j => { j with
      flight := rest
      cont := recTail j.cont l
      marks := j.marks.map fun (m : Nat × Mark) =>
        if m.2.placed && m.2.evPos < wp + 64 then (m.1, { m.2 with placed := false, valid := true }) else m }

/-- The oldest line write of a stream is served: its channel has no request of a higher level to serve first (R237, R311). -/
def State.lineDone (s : State) (i : Nat) : State := if s.ddrYields (s.lineAt i) 5 then s else s.lineWrite i

/-- Complete `n` line writes: those staged before a new enable belong to the old history (assumption 26). -/
def State.finishLines (s : State) (i : Nat) : Nat → State
  | 0 => s
  | n + 1 => ((s.issueNow i).lineWrite i).finishLines i n

/-- A write of JSTR CTRL (R307, R311, R320). -/
def State.jstrCtrl (s : State) (i : Nat) (v : Word) : State :=
  let was := s.on (Hdr.ENABLE .jstr) i
  let en := (Hdr.ENABLE .jstr).of v != 0
  if en && !was then
    let total := (List.range 36).foldl (fun n k => if s.on (Hdr.ENABLE .jstr) k then n + s.rg JSTR.STAGE_LINES k else n) 0
    if 65536 < total + s.rg JSTR.STAGE_LINES i then s.errParam ⟨.jstr, i⟩
    else
      let s := s.finishLines i ((s.jr i).lines.length + (s.jr i).flight.length)
      (((s.rb (Hdr.ENABLE .jstr) i true).rs JSTR.WP i 0).rs JSTR.OVERTAKEN i 0).upJr i fun j => { Jrn.init with gap := j.gap }
  else if !en && was then (s.rb (Hdr.ENABLE .jstr) i false).padLine i
  else s

/-- A write of MARK_CMD (R312). -/
def State.markCmd (s : State) (i : Nat) (v : Word) : State :=
  let m := JSTR.MARK_CMD_INDEX.of v
  match JSTR.MARK_CMD_OP.of v with
  | 1 => if s.on (Hdr.ENABLE .jstr) i then s.upMark i m fun k => { k with set := true, placed := false } else s.errParam ⟨.jstr, i⟩
  | 2 => s.upMark i m fun k => { k with valid := false, set := false, placed := false }
  | _ => s.errParam ⟨.jstr, i⟩

/-! ## The commands -/

/-- JOURNAL_ENABLE (R307). -/
def execJournalEnable (t : Nat) (c : Req) (i : Fin 36) (v : Word) (s : State) : Res :=
  s.cmdWrite t c ⟨.jstr, i⟩ 0x008 fun s => s.jstrCtrl i v

/-- JOURNAL_DISABLE (R307). -/
def execJournalDisable (t : Nat) (c : Req) (i : Fin 36) (v : Word) (s : State) : Res :=
  s.cmdWrite t c ⟨.jstr, i⟩ 0x008 fun s => s.jstrCtrl i v

/-- JOURNAL_FLUSH (R311): no copy accepted for FLUSH_NS. -/
def execJournalFlush (t : Nat) (i : Fin 36) (s : State) : Res :=
  let s := s.advance t
  .next (if s.on (Hdr.ENABLE .jstr) i && (s.jr i).lastCopy + s.rg JRNL.FLUSH_NS 0 ≤ s.dt then s.padLine i else s)

/-- JOURNAL_LINE_ISSUE (R311). -/
def execJournalLineIssue (t : Nat) (i : Fin 36) (s : State) : Res := .next ((s.advance t).issueLine i)

/-- JOURNAL_LINE_DONE (R311). -/
def execJournalLineDone (t : Nat) (i : Fin 36) (s : State) : Res := .next ((s.advance t).lineDone i)

/-- MARK_SET (R312). -/
def execMarkSet (t : Nat) (c : Req) (i : Fin 36) (v : Word) (s : State) : Res :=
  s.cmdWrite t c ⟨.jstr, i⟩ 0x060 fun s => s.markCmd i v

/-- MARK_CLEAR (R312). -/
def execMarkClear (t : Nat) (c : Req) (i : Fin 36) (v : Word) (s : State) : Res :=
  s.cmdWrite t c ⟨.jstr, i⟩ 0x060 fun s => s.markCmd i v

end Sys2Proof.Machine
end

