-- ==== Sys2Proof/Machine/Distribute.lean ====
section
/-!
DEFINITION. The distributor (R96–R100, R233) and the replay channels (R314–R318).
-/
namespace Sys2Proof.Machine
open Regs

/-! ## The tile map (R96) -/

/-- The tile-map index of a pixel in a bank. -/
def tileIdx (bank x y : Nat) : Nat := bank * 4096 + tileOf x y

/-- Does a tile-map entry name cluster `k` as its Ledger cluster? -/
def State.ledgerHere (s : State) (i idx k : Nat) : Bool :=
  s.on STREAM.LEDGER_EN i idx && s.rg STREAM.LEDGER_CLUSTER i idx == k

/-- Does a tile-map entry name cluster `k` among its core clusters? -/
def State.coresHere (s : State) (i idx k : Nat) : Bool := bit (s.rg STREAM.CORE_CLUSTERS i idx) k

/-- The clusters a tile-map entry names. -/
def State.tileClusters (s : State) (i idx : Nat) : List Nat :=
  (List.range 16).filter fun k => s.coresHere i idx k || s.ledgerHere i idx k

/-! ## Issuing an event (R99, R100) -/

/-- Have all clusters that are not gated a credit of stream `i`? -/
def State.creditsFor (s : State) (i : Nat) (ks : List Nat) : Bool := ks.all fun k => s.gated k || 0 < s.credit k i

/-- Issue one flit to cluster `k`: a gated cluster's flit is discarded and counted; otherwise it takes a credit. -/
def State.issueTo (s : State) (i k : Nat) (f : Flit) : State :=
  if s.gated k then s.inc (DIST.GATED_FLITS.nth k) 0
  else (s.setCredit k i (s.credit k i - 1)).send f

/-- The distributor issues the head event of stream `i` (R96, R97, R100). -/
def State.distIssue (s : State) (i : Nat) : State :=
  match (s.st i).queue with
  | [] => s
  | e :: rest =>
    let idx := tileIdx e.bank e.x e.y
    let ks := s.tileClusters i idx
    if !s.creditsFor i ks then s.waitBegin STREAM.STALL_CYCLES i
    else
      let s := (s.waitEnd STREAM.STALL_CYCLES i).upSt i fun c => { c with queue := rest }
      let map := s.rg STREAM.LEDGER_MAP i
      let s := ks.foldl (fun s k => s.issueTo i k
        ⟨0, 1, k, 0, evAux map (s.ledgerHere i idx k) (s.coresHere i idx k), [e.word]⟩) s
      s.journalCopy e

/-! ## Replay (R315–R317) -/

/-- The destination clusters of a replay of stream `i`: the union over the tiles of its active bank, masked (R315). -/
def State.replayClusters (s : State) (i mask : Nat) : List Nat :=
  let b := s.rg STREAM.ACTIVE_BANK i
  (clustersOf mask).filter fun k =>
    s.regs.any fun e => keyPk e.1 == PK.num .stream && keyInst e.1 == i && keyOff e.1 == STREAM.LEDGER_EN.off &&
      keyIdx e.1 / 4096 == b && (s.coresHere i (keyIdx e.1) k || s.ledgerHere i (keyIdx e.1) k)

/-- Does a running replay with a different shift stand in the way of channel `ch` (R315, reason 4)? -/
def State.shiftClash (s : State) (ch shift : Nat) (ks : List Nat) : Bool :=
  (List.range 4).any fun o =>
    o != ch && s.replaying o && s.rg JCH.SHIFT o != shift &&
      ((s.on JCH.TGT_CORES o && (s.replayClusters (s.rg JCH.STREAM o) (s.rg JCH.CLUSTER_MASK o)).any (fun k => ks.contains k)) ||
       (s.on JCH.TGT_LEDGER o && s.rg JCH.SHADOW_MAP o == s.rg JCH.SHADOW_MAP ch &&
          s.rg JCH.STREAM o == s.rg JCH.STREAM ch))

/-- Write the shift to the shadow descriptors of a cluster (R125, R315). -/
def State.shadowShift (s : State) (k map key shift : Nat) : State :=
  (List.range 64).foldl (fun s d =>
    if s.on LDB.DESC_EN k d && s.on LDB.SHADOW k d && !s.on LDB.SOURCE k d && s.rg LDB.MAP k d == map && s.rg LDB.KEY k d == key
    then s.rs LDB.TIME_SHIFT k shift d else s) s

/-- A write of 1 to START of channel `ch` (R315). An overtake that has taken effect gives reason MARK even on a RUNNING channel (R314). -/
def State.replayStart (s : State) (ch : Nat) : State :=
  let i := s.rg JCH.STREAM ch
  let m := s.mark i (s.rg JCH.MARK ch)
  let shift := wrap 64 (s.dt + s.rg JCH.START_DELAY_NS ch + 2 ^ 64 - m.dt % 2 ^ 64)
  let ks := s.replayClusters i (s.rg JCH.CLUSTER_MASK ch)
  let refuse (s : State) (r : Nat) : State := (s.rs JCH.STATE ch 4).rs JCH.REFUSE_REASON ch r
  if s.replaying ch then s.rs JCH.REFUSE_REASON ch (if m.valid then 2 else 1)
  else if !m.valid then refuse s 1
  else if !s.on JCH.TGT_LEDGER ch && !s.on JCH.TGT_CORES ch then refuse s 3
  else if s.shiftClash ch shift ks then refuse s 4
  else
    let s := ks.foldl (fun s k => s.shadowShift k (s.rg JCH.SHADOW_MAP ch) i shift) s
    let s := if s.on JCH.TGT_CORES ch then ks.foldl (fun s k => s.rs CLU.REPLAY_SHIFT k shift) s else s
    let s := ((((s.rs JCH.STATE ch 1).rb JCH.SHORT ch false).rs JCH.REFUSE_REASON ch 0).rs JCH.SHIFT ch shift).rs
      JCH.POSITION ch m.pos
    let s := (s.rs JCH.EVENTS_DONE ch 0).rs JCH.GAPS_SEEN ch 0
    let s : State := { s with rep := Tab.put RepCh.init s.rep ch ⟨s.rg JSTR.WP i, m.dt⟩ }
    if s.rg JCH.LENGTH ch = 0 then s.replayEnd ch 2 false else s

/-- A write of the START and CANCEL register (R315, R317). -/
def State.replayCmd (s : State) (ch : Nat) (v : Word) : State :=
  let s := if JCH.START.of v = 1 then s.replayStart ch else s
  if JCH.CANCEL.of v = 1 && s.replaying ch then s.replayEnd ch 5 false else s

/-- Issue an EVENT record of full time `t` (R316); `none` while its pace or its credits do not allow it. -/
def State.replayEvent (s : State) (ch w t : Nat) : Option State :=
  let i := s.rg JCH.STREAM ch
  let idx := tileIdx (s.rg STREAM.ACTIVE_BANK i) (wX w) (wY w)
  let ks := (s.tileClusters i idx).filter (bit (s.rg JCH.CLUSTER_MASK ch))
  let due := s.on JCH.PACE ch || wrap 64 (t + s.rg JCH.SHIFT ch) ≤ s.dt
  if !due || !s.creditsFor i ks then none
  else
    some (ks.foldl (fun s k => s.issueTo i k
      ⟨1, 1, k, 0, evAux (s.rg JCH.SHADOW_MAP ch) (s.on JCH.TGT_LEDGER ch && s.ledgerHere i idx k)
        (s.on JCH.TGT_CORES ch && s.coresHere i idx k), [w, t]⟩) s)

/-- DDR4 byte address of a position of the history that channel `ch` reads (R307). -/
def State.replayAt (s : State) (ch p : Nat) : Nat :=
  let i := s.rg JCH.STREAM ch
  s.rg JSTR.RING_BASE i + p % 2 ^ s.rg JSTR.SIZE_LOG i

/-- Read on from POSITION to the next EVENT record and issue it (R309, R316, R317); at most `n` records are skipped. -/
def State.replayRead (s : State) (ch : Nat) : Nat → State
  | 0 => s
  | n + 1 =>
    let i := s.rg JCH.STREAM ch
    let pos := s.rg JCH.POSITION ch
    let rp := Tab.get RepCh.init s.rep ch
    let len := s.rg JCH.LENGTH ch
    if len = 0xFFFFFFFF ∧ rp.wpAt ≤ pos then s.replayEnd ch 2 false
    else if s.rg JSTR.WP i ≤ pos then s.replayEnd ch 2 true
    else
      let at_ (p : Nat) : Nat := Mem.rdLE s.ddr4 (s.replayAt ch p) 8
      let w := at_ pos
      let kind := recKind w
      if (kind = 62 ∨ kind = 63) ∧ s.rg JSTR.WP i ≤ pos + 8 then
        s.replayEnd ch 2 !(decide (len = 0xFFFFFFFF ∧ rp.wpAt ≤ pos + 8))
      else if kind = 61 then (s.rs JCH.POSITION ch (pos + 8)).replayRead ch n
      else if kind = 62 then
        ({ s with rep := Tab.put RepCh.init s.rep ch { rp with lastT := at_ (pos + 8) } }.rs JCH.POSITION ch (pos + 16)).replayRead ch n
      else if kind = 63 then ((s.inc JCH.GAPS_SEEN ch).rs JCH.POSITION ch (pos + 16)).replayRead ch n
      else if 36 ≤ kind then s.replayEnd ch 6 false
      else
        let t := rebuild rp.lastT (wT w)
        match s.replayEvent ch w t with
        | none => s
        | some s =>
          let s := { s with rep := Tab.put RepCh.init s.rep ch { rp with lastT := t } }
          let s := (s.rs JCH.POSITION ch (pos + 8)).inc JCH.EVENTS_DONE ch
          if len ≠ 0xFFFFFFFF ∧ s.rg JCH.EVENTS_DONE ch = len then s.replayEnd ch 2 false else s

/-! ## The commands -/

/-- DIST_ISSUE (R100). -/
def execDistIssue (t : Nat) (i : Fin 36) (s : State) : Res := .next ((s.advance t).distIssue i)

/-- REPLAY_START (R315). -/
def execReplayStart (t : Nat) (c : Req) (ch : Fin 4) (v : Word) (s : State) : Res :=
  s.cmdWrite t c ⟨.jrnl, 0⟩ (0x110 + 0x40 * ch.val) fun s => s.replayCmd ch v

/-- REPLAY_CANCEL (R317). -/
def execReplayCancel (t : Nat) (c : Req) (ch : Fin 4) (v : Word) (s : State) : Res :=
  s.cmdWrite t c ⟨.jrnl, 0⟩ (0x110 + 0x40 * ch.val) fun s => s.replayCmd ch v

/-- REPLAY_ISSUE (R316): replay reads are level 4 of R237 and yield to the levels above. -/
def execReplayIssue (t : Nat) (ch : Fin 4) (s : State) : Res :=
  let s := s.advance t
  .next (if s.replaying ch && !s.ddrYields (s.replayAt ch (s.rg JCH.POSITION ch)) 4 then s.replayRead ch 64 else s)

end Sys2Proof.Machine
end

