-- ==== Sys2Proof/Machine/WorldTime.lean ====
section
/-!
DEFINITION. Wide time and fabric time: the mappings of R68–R72.
-/
namespace Sys2Proof.Machine
open Regs

/-- RATE of 1.0. -/
def rateOne : Nat := 0x100000000

/-- RATE_d and OFFSET_d in force. -/
def State.wtR (s : State) (d : Nat) : Nat := Tab.get rateOne s.wtRate d
def State.wtO (s : State) (d : Nat) : Int := Tab.get 0 s.wtOff d

/-- OFFSET + DT × RATE in 2^-32 ns. -/
def mapExact (off : Int) (rate dt : Nat) : Int := off + (dt : Int) * rate

/-- A mapped time in whole ns, never below 0 (R68). -/
def mapNs (off : Int) (rate dt : Nat) : Nat := (floorDiv (mapExact off rate dt) (2 ^ 32)).toNat

/-- WT of domain `d` at a DT, in ns (R68). -/
def State.wt (s : State) (d dt : Nat) : Nat := mapNs (s.wtO d) (s.wtR d) dt

/-- Is the mapping's result negative (WT_NEG)? -/
def State.wtNeg (s : State) (d dt : Nat) : Bool := decide (mapExact (s.wtO d) (s.wtR d) dt < 0)

/-- The first DT at which a mapping reaches `target` ns (R70); `none` when it never does. -/
def firstDT (off : Int) (rate target : Nat) : Option Nat :=
  if mapExact off rate 0 ≥ (target : Int) * 2 ^ 32 ∨ target = 0 then some 0
  else if rate = 0 then none
  else some (-(floorDiv (-((target : Int) * 2 ^ 32 - off)) rate)).toNat

/-- The active PTP domain (R357). -/
def State.activeDom (s : State) : Nat := s.rg PTP.ACTIVE 0

/-- The DT of a WT target in the active domain (R70). -/
def State.wtTarget (s : State) (target : Nat) : Option Nat := firstDT (s.wtO s.activeDom) (s.wtR s.activeDom) target

/-- Fabric time of a DT, a 64-bit count (R71). -/
def State.ft (s : State) (dt : Nat) : Nat := mapNs (signed 128 (s.rg FAB.FAB_OFFSET 0)) (s.rg FAB.FAB_RATE 0) dt % 2 ^ 64

/-- The DT whose FT is nearest to `f`; a tie takes the lower DT (R72). -/
def State.dtOfFt (s : State) (f : Nat) : Nat :=
  match firstDT (signed 128 (s.rg FAB.FAB_OFFSET 0)) (s.rg FAB.FAB_RATE 0) f with
  | none => 0
  | some 0 => 0
  | some (d + 1) => if f - s.ft d ≤ s.ft (d + 1) - f then d else d + 1

end Sys2Proof.Machine
end

