-- ==== Sys2Proof/Machine/Ledger.lean ====
section
/-!
DEFINITION. The Ledger (chapter 04): descriptors, entries, writes and their visibility, fences, reads, decay, scrubbing.
-/
namespace Sys2Proof.Machine
open Regs

def State.bank (s : State) (k : Nat) : Bank := Tab.get Bank.init s.banks k
def State.upBank (s : State) (k : Nat) (f : Bank → Bank) : State :=
  { s with banks := Tab.put Bank.init s.banks k (f (s.bank k)) }

/-- The page of a bank. -/
def ldbPage (k : Nat) : Page := ⟨.ldb, k⟩

/-! ## Geometry (R106) -/

/-- A descriptor's region: top-left corner, width, height, entries per pixel. -/
structure Region where
  x0 : Int
  y0 : Int
  w : Nat
  h : Nat
  p : Nat
deriving DecidableEq, Repr

/-- The region of descriptor `d` of bank `k`. -/
def State.region (s : State) (k d : Nat) : Region :=
  let hl := s.rg LDB.HALO k d
  ⟨32 * (s.rg LDB.TX0 k d : Int) - hl, 32 * (s.rg LDB.TY0 k d : Int) - hl, 32 * s.rg LDB.TW k d + 2 * hl,
    32 * s.rg LDB.TH k d + 2 * hl, if s.on LDB.POL_MODE k d then 1 else 2⟩

/-- Entries of a region. -/
def Region.entries (r : Region) : Nat := r.w * r.h * r.p

/-- Does a region hold a pixel? -/
def Region.holds (r : Region) (x y : Int) : Bool :=
  decide (r.x0 ≤ x ∧ x < r.x0 + r.w ∧ r.y0 ≤ y ∧ y < r.y0 + r.h)

/-- Does the tile rectangle hold a pixel? -/
def State.inRect (s : State) (k d : Nat) (x y : Int) : Bool :=
  let a : Int := 32 * s.rg LDB.TX0 k d
  let b : Int := 32 * s.rg LDB.TY0 k d
  decide (a ≤ x ∧ x < a + 32 * s.rg LDB.TW k d ∧ b ≤ y ∧ y < b + 32 * s.rg LDB.TH k d)

/-- The index of an entry from the start of its region's storage. -/
def Region.index (r : Region) (x y : Int) (p : Nat) : Nat :=
  ((y - r.y0) * r.w + (x - r.x0)).toNat * r.p + (if r.p = 2 then p else 0)

/-- Lines of 64 bytes a region takes. -/
def Region.lines (r : Region) : Nat := (r.entries + 31) / 32

/-- The unit exponent k of a descriptor. -/
def State.unitExp (s : State) (k d : Nat) : Nat := 10 + s.rg LDB.K k d

/-- BAR2 address of bank `k` (R39). -/
def bankBase (k : Nat) : Nat := (k / 4) * 0x03800000 + 0x02800000 + (k % 4) * 0x400000

/-- The enabled descriptors of a bank. -/
def State.descs (s : State) (k : Nat) : List Nat := (List.range 64).filter fun d => s.on LDB.DESC_EN k d

/-! ## The Ledger cache (R108) -/

/-- Bank lines no enabled on-chip descriptor occupies. -/
def State.freeLines (s : State) (k : Nat) : Nat :=
  65536 - ((s.descs k).map fun d => if s.on LDB.BACKED k d then 0 else (s.region k d).lines).sum

/-- Sets of the cache: 4 ways each, in the free lines. -/
def State.cacheSets (s : State) (k : Nat) : Nat := s.freeLines k / 4

/-- The set of a line address (assumption 30). -/
def State.cacheSet (s : State) (k ln : Nat) : Nat := ln % s.cacheSets k

/-- The `j`-th free line of a bank, counted from 0: past every on-chip descriptor that lies at or before it. -/
def State.freeLine (s : State) (k j : Nat) : Nat :=
  (List.range 64).foldl (fun x _ =>
    j + ((s.descs k).map fun d => if !s.on LDB.BACKED k d && s.rg LDB.BASE_LINE k d ≤ x then (s.region k d).lines else 0).sum) j

/-- Byte address in BAR2 space of a line of a bank. -/
def lineAddr (k line : Nat) : Nat := bankBase k + 64 * line

/-- Write a cached line back to DDR4 when it is dirty. -/
def State.writeBack (s : State) (k : Nat) (l : CLine) : State :=
  if l.dirty then
    ({ s with ddr4 := Mem.wrBytes s.ddr4 (64 * l.addr) (Mem.rdBytes s.sram (lineAddr k l.line) 64) }).ddrL2 (64 * l.addr) 64
  else s

/-- The cache lines of a set, the most recently used first. -/
def State.cacheWays (s : State) (k σ : Nat) : List CLine := (s.bank k).cache.filter fun l => s.cacheSet k l.addr == σ

/-- The line a set gives up for a new one: the least recently used, when its 4 ways are taken. -/
def State.victim (s : State) (k σ : Nat) : Option CLine :=
  if 4 ≤ (s.cacheWays k σ).length then (s.cacheWays k σ).getLast? else none

/-- The bank line that takes a new line of a set: the victim's, or the set's first one without a line. -/
def State.fillLine (s : State) (k σ : Nat) : Nat :=
  match s.victim k σ with
  | some v => v.line
  | none =>
    let lines := (List.range 4).map fun w => s.freeLine k (4 * σ + w)
    (lines.find? fun x => !(s.bank k).cache.any fun l => l.line == x).getD 0

/-- Bring a line into the cache: the least recently used line of a full set goes, written back when it is dirty, and the bank line
takes the line's bytes of DDR4 (R108). Fewer than four free lines hold no cache. -/
def State.cacheFill (s : State) (k ln : Nat) : State :=
  if (s.bank k).cache.any (fun l => l.addr == ln) || s.cacheSets k == 0 then s
  else
    let x := s.fillLine k (s.cacheSet k ln)
    let old := s.victim k (s.cacheSet k ln)
    let s := match old with | some v => s.writeBack k v | none => s
    let s := ({ s with sram := Mem.wrBytes s.sram (lineAddr k x) (Mem.rdBytes s.ddr4 (64 * ln) 64) }).ddrL2 (64 * ln) 64
    s.upBank k fun b => { b with cache := ⟨ln, false, x⟩ :: b.cache.filter fun l => some l != old }

/-- Use a line: fill it on a miss, which CACHE_MISSES counts, and make it the most recently used. -/
def State.cacheUse (s : State) (k ln : Nat) : State :=
  let s := if (s.bank k).cache.any (fun l => l.addr == ln) then s else (s.inc LDB.CACHE_MISSES k).cacheFill k ln
  s.upBank k fun b =>
    { b with cache := (b.cache.filter fun l => l.addr == ln) ++ b.cache.filter fun l => l.addr != ln }

/-- Empty the cache, its dirty lines written back: the free lines of the bank change (assumption 30). -/
def State.cacheFlush (s : State) (k : Nat) : State :=
  ((s.bank k).cache.foldl (fun s l => s.writeBack k l) s).upBank k fun b => { b with cache := [] }

/-! ## Entries (R51, R106) -/

/-- The cached copy of a DDR4 line. -/
def State.cached (s : State) (k ln : Nat) : Option CLine := (s.bank k).cache.find? fun l => l.addr == ln

/-- Byte address of entry `i` of descriptor `d`: in BAR2 space on chip, in DDR4 when BACKED. -/
def State.entryAddr (s : State) (k d i : Nat) : Nat :=
  if s.on LDB.BACKED k d then s.rg LDB.DDR_BASE k d + 2 * i else bankBase k + 64 * s.rg LDB.BASE_LINE k d + 2 * i

/-- Read a raw 16-bit entry, without moving cache lines. -/
def State.entry (s : State) (k d i : Nat) : Nat :=
  let a := s.entryAddr k d i
  if s.on LDB.BACKED k d then
    match s.cached k (a / 64) with
    | some l => Mem.rdLE s.sram (lineAddr k l.line + a % 64) 2
    | none => Mem.rdLE s.ddr4 a 2
  else Mem.rdLE s.sram a 2

/-- Write a raw 16-bit entry. -/
def State.setEntry (s : State) (k d i v : Nat) : State :=
  let a := s.entryAddr k d i
  if s.on LDB.BACKED k d then
    let s := s.cacheUse k (a / 64)
    match s.cached k (a / 64) with
    | none => { s with ddr4 := Mem.wrLE s.ddr4 a 2 v }
    | some l =>
      { s with sram := Mem.wrLE s.sram (lineAddr k l.line + a % 64) 2 v }.upBank k fun b =>
        { b with cache := b.cache.map fun (x : CLine) => if x.addr = l.addr then { x with dirty := true } else x }
  else { s with sram := Mem.wrLE s.sram a 2 v }

/-- The line of entry `i` of a BACKED descriptor is used. -/
def State.entryUse (s : State) (k d i : Nat) : State :=
  if s.on LDB.BACKED k d then s.cacheUse k (s.entryAddr k d i / 64) else s

/-- VALID and the 15-bit time of a raw entry. -/
def eValid (e : Nat) : Bool := e.testBit 15
def eTime (e : Nat) : Nat := e % 2 ^ 15

/-- The low 15 bits of an LU time. -/
def lu15 (t k : Nat) : Nat := (t >>> k) % 2 ^ 15

/-- Difference modulo 2^15. -/
def diff15 (a b : Nat) : Nat := (a + 2 ^ 15 - b) % 2 ^ 15

/-- The age of an entry at a read instant, `none` when it is stale or invalid (R51). -/
def ageAt (e t k : Nat) : Option Nat :=
  let a := diff15 (lu15 t k) (eTime e)
  if !eValid e || 0x4000 ≤ a then none else some a

/-- Map time of a DT for a descriptor: DT − TIME_SHIFT (R125), modulo 2^64. -/
def State.mapTime (s : State) (k d dt : Nat) : Nat := wrap 64 (dt + 2 ^ 64 - s.rg LDB.TIME_SHIFT k d)

/-- The DT-equivalent of a write's stamp: t_w + TIME_SHIFT (R112). -/
def State.dtEquiv (s : State) (k d tw : Nat) : Nat := wrap 64 (tw + s.rg LDB.TIME_SHIFT k d)

/-- Is descriptor `d` being cleared (R126)? -/
def State.clearing (s : State) (k d : Nat) : Bool := (s.bank k).clears.contains d

/-! ## Applying writes (R111) -/

/-- Apply a write to its entry: too old to store, stored, or met by a newer time. -/
def State.applyEntry (s : State) (k : Nat) (w : LWrite) : State :=
  let r := s.region k w.d
  let i := r.index w.x w.y w.p
  let e := s.entry k w.d i
  let u := s.unitExp k w.d
  let w15 := lu15 w.tw u
  let n15 := lu15 (s.mapTime k w.d s.dt) u
  if 0x4000 ≤ diff15 n15 w15 then s.inc LDB.STALE_WRITES k
  else if !eValid e || 0x4000 ≤ diff15 n15 (eTime e) || diff15 w15 (eTime e) < 0x4000 then
    (s.setEntry k w.d i (0x8000 + w15)).inc LDB.WRITES_APPLIED k
  else (s.entryUse k w.d i).inc LDB.OLDER_WRITES k

/-- The group of a SLOT descriptor is enabled. -/
def State.groupOn (s : State) (g : Nat) : Bool := s.rg FG.PERIOD_NS g != 0

/-- The highest tick a reader core lets A reach: what it last reported; `none` for a fenced or faulted core, and for a stopped
core with an empty queue, which count as having reported every tick; a stopped core with arrivals holds A at the earliest of
their stamp ticks (R137, R184). -/
def State.readerTick (s : State) (k n : Nat) : Option Nat :=
  let core := 256 * k + n
  if s.coreFenced core || s.on CGS.UCODE_ERR core then none
  else if s.on CGS.RUN core && s.on (Hdr.ENABLE .cg) (core / 16) then some (Tab.get 0 (s.bank k).prog n)
  else
    match (Tab.get Core.init s.cores core).queue with
    | [] => none
    | a :: r => some (r.foldl (fun m b => min m (s.tickOf b.t)) (s.tickOf a.t))

/-- The highest ticks that the reader cores of a bank let A reach (condition (b) of R112). -/
def State.readerTicks (s : State) (k : Nat) : List Nat :=
  ((List.range 256).filter fun n => bit (s.rg (LDB.READERS.nth (n / 32)) k) (n % 32)).filterMap (s.readerTick k)

/-- Has A reached tick `τ`? With APPLY_W = 0 only the readers hold it back (R114). -/
def State.reached (s : State) (k τ : Nat) : Bool :=
  decide (τ ≤ (s.bank k).applied) || (s.rg LDB.APPLY_W k == 0 && (s.readerTicks k).all fun h => decide (τ ≤ h))

/-- The tick at which A covers a waiting TICK write: its stamp tick, and one more for a core write. -/
def State.coverTick (s : State) (k : Nat) (w : LWrite) : Nat := s.tickOf (s.dtEquiv k w.d w.tw) + (if w.core then 1 else 0)

/-- May a write be applied now, and is it LATE (R112, R114, R115)? A write to a SLOT descriptor meets the fence with its
DT-equivalent time too (assumption 143). -/
def State.writeNow (s : State) (k : Nat) (w : LWrite) : Bool × Bool :=
  if s.clearing k w.d then (false, false)
  else if s.on LDB.DISCIPLINE k w.d then
    match Tab.get none (s.bank k).fences w.d with
    | none => (true, false)
    | some f => if s.dtEquiv k w.d w.tw ≤ f.f then (true, f.opened) else (false, false)
  else (s.reached k (s.coverTick k w), s.reached k (s.coverTick k w) && !w.copy)

/-- Put a write into the apply queue (R117). -/
def State.enqueueWrite (s : State) (k : Nat) (w : LWrite) : State :=
  let s := s.upBank k fun b => { b with queue := b.queue ++ [w] }
  let n := (s.bank k).queue.length
  let s := s.peak LDB.QUEUE_PEAK k n
  if n = 8192 then (s.irqSet (ldbPage k) 10).waitBegin LDB.CREDIT_STALL k else s

/-- A LATE write is counted and sets IRQ bit LATE (R114). -/
def State.lateWrite (s : State) (k : Nat) : State := (s.inc LDB.LATE_WRITES k).irqSet (ldbPage k) 8

/-- The descriptor a COPY write of `w` goes to (R111). -/
def State.copyDesc (s : State) (k : Nat) (w : LWrite) : Option Nat :=
  (s.descs k).find? fun d => s.rg LDB.MAP k d == s.rg LDB.COPY_MAP k w.d && s.on LDB.SOURCE k d == s.on LDB.SOURCE k w.d &&
    s.rg LDB.KEY k d == s.rg LDB.KEY k w.d && s.on LDB.SHADOW k d == s.on LDB.SHADOW k w.d &&
    (s.region k d).holds w.x w.y

/-- The COPY write of a write to a descriptor (R111). -/
def LWrite.copyTo (w : LWrite) (d : Nat) : LWrite := { w with d := d, copy := true }

/-- The COPY write follows the copy's own discipline: applied now (LATE or not), or queued. -/
def State.copyWrite (s : State) (k : Nat) (w : LWrite) : State :=
  if (s.writeNow k w).1 then (if (s.writeNow k w).2 then s.lateWrite k else s).applyEntry k w else s.enqueueWrite k w

/-- An applied write forms its COPY write. -/
def State.copyOf (s : State) (k : Nat) (w : LWrite) : State :=
  match s.copyDesc k w with
  | none => s.inc LDB.NO_MAP k
  | some d => s.copyWrite k (w.copyTo d)

/-- Apply a write, and form its COPY write, whatever the entry did with it (R111; assumption 142). -/
def State.applyWrite (s : State) (k : Nat) (w : LWrite) : State :=
  if !w.copy && s.on LDB.COPY_EN k w.d then (s.applyEntry k w).copyOf k w else s.applyEntry k w

/-- A write reaches the bank: applied now (LATE or not), or queued. -/
def State.bankWrite (s : State) (k : Nat) (w : LWrite) : State :=
  let q := s.writeNow k w
  if q.1 then
    let s := if q.2 then s.lateWrite k else s
    s.applyWrite k w
  else s.enqueueWrite k w

/-- May the bank take `n` more writes (R117)? -/
def State.bankRoom (s : State) (k n : Nat) : Bool := (s.bank k).queue.length + n ≤ 8192

/-- The queue has room again: the credit-stall wait ends. -/
def State.bankFreed (s : State) (k : Nat) : State :=
  if s.bankRoom k 1 then s.waitEnd LDB.CREDIT_STALL k else s

/-! ## Event, replay and core writes (R110) -/

/-- SENSOR descriptors of a stream that match a shadow setting. -/
def State.sensorDescs (s : State) (k key : Nat) (shadow : Bool) : List Nat :=
  (s.descs k).filter fun d => !s.on LDB.SOURCE k d && s.rg LDB.KEY k d == key && s.on LDB.SHADOW k d == shadow

/-- The descriptors an event flit writes: rectangle ones when it is Ledger-flagged and of the flit's map, halo ones of any event
flit of the map (R110). -/
def State.eventDescs (s : State) (k : Nat) (q : QFlit) : List Nat :=
  let x := wX q.word
  let y := wY q.word
  (s.sensorDescs k (wStr q.word) false).filter fun d =>
    s.rg LDB.MAP k d == q.map &&
      (if s.inRect k d x y then q.ledger else (s.region k d).holds x y)

/-- An event flit reaches the bank. -/
def State.ledgerEvent (s : State) (k : Nat) (q : QFlit) : State :=
  let ds := s.eventDescs k q
  let tw := rebuild s.dt (wT q.word)
  let s := if ds.isEmpty && q.ledger then s.inc LDB.NO_MAP k else s
  ds.foldl (fun s d => s.bankWrite k ⟨d, wX q.word, wY q.word, wP q.word, tw, false, false, false⟩) s

/-- The shadow descriptors a replay flit writes. -/
def State.replayDescs (s : State) (k w map : Nat) : List Nat :=
  (s.sensorDescs k (wStr w) true).filter fun d => s.rg LDB.MAP k d == map && (s.region k d).holds (wX w) (wY w)

/-- A replay flit with LEDGER = 1 reaches the bank; it carries its full time (R46). -/
def State.ledgerReplay (s : State) (k w t map : Nat) : State :=
  let ds := s.replayDescs k w map
  let s := if ds.isEmpty then s.inc LDB.NO_MAP k else s
  ds.foldl (fun s d => s.bankWrite k ⟨d, wX w, wY w, wP w, t, false, false, true⟩) s

/-- The CORE descriptors a core write goes to; a shadow one receives only replay flits (R125). -/
def State.coreDescs (s : State) (k w map : Nat) : List Nat :=
  (s.descs k).filter fun d => s.on LDB.SOURCE k d && !s.on LDB.SHADOW k d && s.rg LDB.KEY k d == wStr w &&
    s.rg LDB.MAP k d == map && (s.region k d).holds (wX w) (wY w)

/-- A core write reaches the bank (R110). -/
def State.ledgerCwrite (s : State) (k w map : Nat) : State :=
  let ds := s.coreDescs k w map
  let tw := rebuild s.dt (wT w)
  let s := if ds.isEmpty then s.inc LDB.NO_MAP k else s
  ds.foldl (fun s d => s.bankWrite k ⟨d, wX w, wY w, wP w, tw, true, false, false⟩) s

/-! ## The TICK horizon (R112) -/

/-- Is a queued write one that waits for A (a TICK descriptor that is not being cleared)? -/
def State.tickWaiter (s : State) (k : Nat) (w : LWrite) : Bool := !s.on LDB.DISCIPLINE k w.d && !s.clearing k w.d

/-- The highest tick the horizon may reach now: tick(DT) − APPLY_W and the progress of every reader (R112). With APPLY_W = 0 the
first condition always holds (R114): A then reaches every waiting write that the readers allow. -/
def State.applyLimit (s : State) (k : Nat) : Nat :=
  let first := if s.rg LDB.APPLY_W k = 0 then (((s.bank k).queue.filter (s.tickWaiter k)).map (s.coverTick k)).foldl max s.curTick
    else s.curTick - s.rg LDB.APPLY_W k
  (s.readerTicks k).foldl min first

/-- Apply the queued TICK writes that `τ` covers, in arrival order. -/
def State.applyCovered (s : State) (k τ : Nat) : State :=
  let q := (s.bank k).queue
  let go := fun w => s.tickWaiter k w && s.coverTick k w ≤ τ
  let s := s.upBank k fun b => { b with applied := τ, queue := q.filter fun w => !go w }
  ((q.filter go).foldl (fun s w => s.applyWrite k w) s).bankFreed k

/-- Advance A tick by tick to `lim`: only the ticks that cover a waiting write do anything, so the others are passed over. -/
def State.advanceA (s : State) (k lim : Nat) : Nat → State
  | 0 => s.applyCovered k lim
  | n + 1 =>
    let ts := ((s.bank k).queue.filter (s.tickWaiter k)).map (s.coverTick k)
    match ts.filter (fun x => decide ((s.bank k).applied < x ∧ x ≤ lim)) with
    | [] => if (s.bank k).applied < lim then s.applyCovered k lim else s
    | x :: xs => (s.applyCovered k (xs.foldl min x)).advanceA k lim n

/-- Advance A as far as DT and the readers allow (R112). -/
def State.tickAdvance (s : State) (k : Nat) : State :=
  let lim := s.applyLimit k
  if lim ≤ (s.bank k).applied then s else s.advanceA k lim ((s.bank k).queue.length + 1)

/-! ## Fences (R115) -/

def State.sch (s : State) (g : Nat) : Sched := Tab.get Sched.init s.sched g

/-- The first known slot of a group after slot `n`, with its instant: a started one, or the next unstarted one. -/
def State.slotAfter (s : State) (g n : Nat) : Option (Nat × Nat) :=
  let c := s.sch g
  (c.starts.reverse ++ c.next.toList).find? fun p => decide (n < p.1)

def State.fence (s : State) (k d : Nat) : Option Fence := Tab.get none (s.bank k).fences d
def State.setFence (s : State) (k d : Nat) (f : Option Fence) : State :=
  s.upBank k fun b => { b with fences := Tab.put none b.fences d f }

/-- DT reaches F_n + SETTLE ticks: reads of slot n may start. -/
def State.fenceSettle (s : State) (k d : Nat) : State :=
  match s.fence k d with
  | some f => if f.f + 1024 * s.rg LDB.SETTLE k d ≤ s.dt then s.setFence k d (some { f with settled := true }) else s
  | none => s

/-- The first read of a settled slot opens its read phase. -/
def State.fenceRead (s : State) (k d : Nat) : State :=
  match s.fence k d with
  | some f => s.setFence k d (some { f with opened := true })
  | none => s

/-- May the fence of descriptor `d` advance: every release mark is in, or DT has reached the next slot instant. The flag says
whether the advance is forced. -/
def State.fenceDue (s : State) (k d : Nat) : Option (Bool × Nat × Nat) :=
  match s.fence k d with
  | none => none
  | some f =>
    match s.slotAfter (s.rg LDB.FENCE_GROUP k d) f.n with
    | none => none
    | some (n', f') =>
      if s.rg LDB.FENCE_READERS k d ≤ f.marks then some (false, n', f')
      else if f' ≤ s.dt then some (true, n', f') else none

/-- The fence advances: waiting writes it now covers are applied in arrival order (R115). -/
def State.fenceAdvance (s : State) (k d : Nat) : State :=
  match s.fenceDue k d with
  | none => s
  | some (forced, n', f') =>
    let s := if forced then (s.inc LDB.FENCE_FORCED k).irqSet (ldbPage k) 9 else s
    let s := s.setFence k d (some ⟨n', f', false, false, 0⟩)
    let q := (s.bank k).queue
    let go := fun (w : LWrite) => w.d == d && !s.clearing k d && s.dtEquiv k d w.tw ≤ f'
    let s := s.upBank k fun b => { b with queue := q.filter fun w => !go w }
    ((q.filter go).foldl (fun s w => s.applyWrite k w) s).bankFreed k

/-- Release marks reach the bank (R115, R198): one for every enabled SLOT descriptor of the map, source and key. -/
def State.ledgerRelease (s : State) (k map : Nat) (src : Bool) (key : Nat) : State :=
  (s.descs k).foldl (fun s d =>
    if s.on LDB.DISCIPLINE k d && s.rg LDB.MAP k d == map && s.on LDB.SOURCE k d == src && s.rg LDB.KEY k d == key then
      match s.fence k d with
      | some f => s.setFence k d (some { f with marks := f.marks + 1 })
      | none => s
    else s) s

/-- Group `g` is enabled with first slot `n` at `f`: the fences of its SLOT descriptors start there (R115). -/
def State.fencesStart (s : State) (g n f : Nat) : State :=
  (List.range 16).foldl (fun s k => (s.descs k).foldl (fun s d =>
    if s.on LDB.DISCIPLINE k d && s.rg LDB.FENCE_GROUP k d == g then s.setFence k d (some ⟨n, f, false, false, 0⟩) else s) s) s

/-- Group `g` is disabled: its fences end and the writes that waited are applied, since a write while the group is disabled is
applied whatever its stamp (R115). -/
def State.fencesStop (s : State) (g : Nat) : State :=
  (List.range 16).foldl (fun s k => (s.descs k).foldl (fun s d =>
    if s.on LDB.DISCIPLINE k d && s.rg LDB.FENCE_GROUP k d == g then
      let s := s.setFence k d none
      let q := (s.bank k).queue
      let go := fun (w : LWrite) => w.d == d && !s.clearing k d
      let s := s.upBank k fun b => { b with queue := q.filter fun w => !go w }
      ((q.filter go).foldl (fun s w => s.applyWrite k w) s).bankFreed k
    else s) s) s

/-! ## Neighbourhood reads (R113, R119) -/

/-- The last nanosecond of tick τ (R113). -/
def State.tickEnd (s : State) (τ : Nat) : Nat := (τ + 1) * 1024 - 1 - s.rg TIME.TICK_PHASE 0

/-- Which descriptor serves a neighbourhood read: `none`, NBR_WRONG; `some none`, a well-formed read outside every region. -/
def State.nbrDesc (s : State) (k : Nat) (q : NbrReq) : Option (Option Nat) :=
  let ds := (s.descs k).filter fun d => s.rg LDB.MAP k d == q.map && s.on LDB.SOURCE k d == q.src && s.rg LDB.KEY k d == q.key
  if ds.isEmpty then none
  else
    let hold := ds.filter fun d => (s.region k d).holds q.x q.y
    match (hold.find? fun d => s.inRect k d q.x q.y), hold with
    | some d, _ => if s.on LDB.DISCIPLINE k d || s.on LDB.BACKED k d then none else some (some d)
    | none, d :: _ => if s.on LDB.DISCIPLINE k d || s.on LDB.BACKED k d then none else some (some d)
    | none, [] => some none

/-- One patch value: the age in LU, or NONE = 0xFFFF (R119). -/
def State.nbrValue (s : State) (k d : Nat) (q : NbrReq) (x y : Int) : Nat :=
  let r := s.region k d
  let t := s.mapTime k d (s.tickEnd q.tick)
  let u := s.unitExp k d
  if !r.holds x y || s.clearing k d then 0xFFFF
  else
    let age (p : Nat) : Nat := (ageAt (s.entry k d (r.index x y p)) t u).getD 0xFFFF
    if r.p = 1 then age 0
    else if q.pol = 0 then age 0 else if q.pol = 1 then age 1 else min (age 0) (age 1)

/-- The patch of a read, in row order. -/
def State.nbrPatch (s : State) (k : Nat) (q : NbrReq) (d : Option Nat) : List Nat :=
  let n := 2 * q.r + 1
  (List.range (n * n)).map fun i =>
    match d with
    | none => 0xFFFF
    | some d => s.nbrValue k d q ((q.x : Int) + (i % n : Nat) - q.r) ((q.y : Int) + (i / n : Nat) - q.r)

/-- Pack u16 values four to a word, the last word zero-filled (R227). -/
def pack16 : List Nat → List Nat
  | a :: b :: c :: d :: r => (a + b <<< 16 + c <<< 32 + d <<< 48) :: pack16 r
  | [] => []
  | [a] => [a]
  | [a, b] => [a + b <<< 16]
  | [a, b, c] => [a + b <<< 16 + c <<< 32]

/-- Serve a read whose tick A has reached: the oldest such request (R113, R118, R119). -/
def State.nbrServe (s : State) (k : Nat) : State :=
  match takeFirst (fun q => s.reached k q.tick) (s.bank k).reqs with
  | none => s
  | some (q, rest) =>
    let s := s.upBank k fun b => { b with reqs := rest }
    let s := s.inc LDB.NBR_READS k
    let which := s.nbrDesc k q
    let s := if which.isNone then s.inc LDB.NBR_WRONG k else s
    let words := pack16 (s.nbrPatch k q (which.getD none))
    s.send ⟨5, 0, q.core / 256, q.core % 256, srcField 1 k 1, words⟩

/-! ## Decay-on-read (R121–R123) -/

/-- ⌊√n⌋, found bit by bit from the top. -/
def isqrt (n : Nat) : Nat :=
  (List.range (Nat.log2 n / 2 + 1)).foldr (fun b r => if (r + 2 ^ b) * (r + 2 ^ b) ≤ n then r + 2 ^ b else r) 0

/-- EXP2T[i] = round(32,768 × 2^(−i/256)), halves up (R122): the 256th root of 2 by eight exact square roots at 2^−240
precision, multiplied out. -/
def exp2t (i : Nat) : Nat :=
  let one := 2 ^ 240
  let step (r : Nat × Nat) (b : Nat) : Nat × Nat :=
    let root := isqrt (r.1 * one)
    (root, if (i >>> (7 - b)) % 2 = 1 then r.2 * root / one else r.2)
  let v := ((List.range 8).foldl step (one / 2, one)).2
  (v * 65536 / one + 1) / 2

/-- v in Q1.15 of a non-stale age under a law (R122). -/
def decay (law param age : Nat) : Nat :=
  if law = 0 then
    let q := age / param
    let i := age % param * 256 / param
    if 16 ≤ q then 0 else exp2t i >>> q
  else if law = 1 then (if param ≤ age then 0 else 32768 - age * 32768 / param)
  else (if age < param then 32768 else 0)

/-- v of one entry at map time `t`; a stale entry, or one being cleared, gives 0. -/
def State.decayed (s : State) (k d : Nat) (x y : Int) (p t : Nat) : Nat :=
  let r := s.region k d
  if !r.holds x y || s.clearing k d then 0
  else
    match ageAt (s.entry k d (r.index x y p)) t (s.unitExp k d) with
    | none => 0
    | some a => decay (s.rg LDB.LAW k d) (s.rg LDB.PARAM k d) a

/-- The elements of a pixel under POL_SEL (R123): one, or two for selection 2. -/
def State.polElems (s : State) (k d : Nat) (x y : Int) (sel t : Nat) : List Int :=
  let off : Int := s.decayed k d x y 0 t
  if s.on LDB.POL_MODE k d then [off]
  else
    let on : Int := s.decayed k d x y 1 t
    if sel = 0 then [off] else if sel = 1 then [on] else if sel = 2 then [off, on]
    else if sel = 3 then [max off on] else [on - off]

/-- May a read at map time `t` use descriptor `d` at its fence (R121): no earlier than the fence instant less (2^14 − 1) LU, no
later than the fence instant plus SETTLE ticks. -/
def State.inWindow (s : State) (k d : Nat) (fenceF : Nat) (t : Int) : Bool :=
  let f : Int := (fenceF : Int) - s.rg LDB.TIME_SHIFT k d
  decide (f - (2 ^ 14 - 1) * 2 ^ s.unitExp k d ≤ t ∧ t ≤ f + 1024 * s.rg LDB.SETTLE k d)

/-! ## Enabling and disabling (R105, R107–R109, R126) -/

/-- Do the tile rectangles of two descriptors overlap? -/
def State.rectsMeet (s : State) (k d k' d' : Nat) : Bool :=
  let a := s.rg LDB.TX0 k d
  let b := s.rg LDB.TX0 k' d'
  let c := s.rg LDB.TY0 k d
  let e := s.rg LDB.TY0 k' d'
  decide (a < b + s.rg LDB.TW k' d' ∧ b < a + s.rg LDB.TW k d ∧ c < e + s.rg LDB.TH k' d' ∧ e < c + s.rg LDB.TH k d)

/-- R105: another enabled descriptor in any bank with the same map, source and key overlaps. -/
def State.descClash (s : State) (k d : Nat) : Bool :=
  (List.range 16).any fun k' => (s.descs k').any fun d' =>
    !(k' == k && d' == d) && s.rg LDB.MAP k' d' == s.rg LDB.MAP k d && s.on LDB.SOURCE k' d' == s.on LDB.SOURCE k d &&
      s.rg LDB.KEY k' d' == s.rg LDB.KEY k d && s.rectsMeet k d k' d'

/-- R107: an on-chip descriptor fits in the bank and meets no other. -/
def State.linesOk (s : State) (k d : Nat) : Bool :=
  let a := s.rg LDB.BASE_LINE k d
  let n := (s.region k d).lines
  a + n ≤ 65536 && (s.descs k).all fun d' => d' == d || s.on LDB.BACKED k d' ||
    (let b := s.rg LDB.BASE_LINE k d'
     decide (a + n ≤ b ∨ b + (s.region k d').lines ≤ a))

/-- R109: entries ÷ epoch length, summed over the bank with the new descriptor, within 550 M entries/s. -/
def State.scrubOk (s : State) (k d : Nat) : Bool :=
  let ds := d :: (s.descs k).filter (· != d)
  -- in entries per 2^27 ns: an epoch of 2^(14+k) ns divides 2^27 ns for k up to 13
  let need := (ds.map fun e => (s.region k e).entries * 2 ^ (13 - s.unitExp k e)).sum
  need * 1000000000 ≤ 550000000 * 2 ^ 27

/-- May descriptor `d` be enabled? -/
def State.descOk (s : State) (k d : Nat) : Bool :=
  !s.descClash k d && s.scrubOk k d &&
    (if s.on LDB.BACKED k d then s.on LDB.DISCIPLINE k d && 64 ≤ s.freeLines k else s.linesOk k d)

/-- Zero every entry of a region. -/
def State.zeroRegion (s : State) (k d : Nat) : State :=
  let n := 2 * (s.region k d).entries
  let a := s.entryAddr k d 0
  if s.on LDB.BACKED k d then
    { s with ddr4 := Tab.keep (fun x => !(decide (a ≤ x ∧ x < a + n))) s.ddr4 }.upBank k fun b =>
      { b with cache := b.cache.filter fun l => decide (64 * l.addr + 64 ≤ a ∨ a + n ≤ 64 * l.addr) }
  else { s with sram := Tab.keep (fun x => !(decide (a ≤ x ∧ x < a + n))) s.sram }

/-- The lines of an on-chip descriptor leave the cache, or come to it (R108). -/
def State.linesChange (s : State) (k d : Nat) : State := if s.on LDB.BACKED k d then s else s.cacheFlush k

/-- Enable descriptor `d` when the checks pass, and start the clear of its region (R126). The fence of a SLOT descriptor whose group
runs starts at the latest slot that has started, else at the next one (assumption 144). -/
def State.descEnable (s : State) (k d : Nat) : State :=
  if !s.descOk k d then s.errParam (ldbPage k)
  else
    let s := ((s.linesChange k d).rb LDB.DESC_EN k true d).upBank k fun b => { b with clears := b.clears ++ [d] }
    let s := s.rb LDB.INIT_BUSY k true
    if s.on LDB.DISCIPLINE k d && s.groupOn (s.rg LDB.FENCE_GROUP k d) then
      let g := s.rg LDB.FENCE_GROUP k d
      match (s.sch g).starts.head?, (s.sch g).next with
      | some (n, f), _ => s.setFence k d (some ⟨n, f, false, false, 0⟩)
      | none, some (n, f) => s.setFence k d (some ⟨n, f, false, false, 0⟩)
      | none, none => s
    else s

/-- The clear of a descriptor's region completes: the entries are 0 and the writes that waited for it take their course. One that A
or an opened fence covers is applied without a count in LATE_WRITES (assumption 145). -/
def State.clearDone (s : State) (k d : Nat) : State :=
  if !s.clearing k d then s
  else
    let s := s.zeroRegion k d
    let s := s.upBank k fun b => { b with clears := b.clears.filter (· != d) }
    let s := if (s.bank k).clears.isEmpty then s.rb LDB.INIT_BUSY k false else s
    let q := (s.bank k).queue
    let go := fun (w : LWrite) => w.d == d && (s.writeNow k w).1
    let s := s.upBank k fun b => { b with queue := q.filter fun w => !go w }
    ((q.filter go).foldl (fun s w => s.applyWrite k w) s).bankFreed k

/-- Disable a descriptor: its waiting writes are discarded (R126). -/
def State.descDisable (s : State) (k d : Nat) : State :=
  let s := (s.linesChange k d).rb LDB.DESC_EN k false d
  let s := s.upBank k fun b =>
    { b with queue := b.queue.filter (fun w => w.d != d), clears := b.clears.filter (· != d), fences := Tab.put none b.fences d none }
  let s := if (s.bank k).clears.isEmpty then s.rb LDB.INIT_BUSY k false else s
  s.bankFreed k

/-- Fields of the DESC_CFG register at 0x050 other than DESC_EN. -/
def descCfgFields : List Fld :=
  [LDB.SOURCE, LDB.SHADOW, LDB.POL_MODE, LDB.K, LDB.DISCIPLINE, LDB.FENCE_GROUP, LDB.BACKED, LDB.MAP, LDB.KEY, LDB.HALO,
   LDB.COPY_MAP, LDB.COPY_EN]

/-- ENTRIES takes the count of the selected descriptor's region (R128; assumption 146). -/
def State.descCount (s : State) (k : Nat) : State :=
  s.rs LDB.ENTRIES k (s.region k (s.rg LDB.DESC_INDEX k)).entries (s.rg LDB.DESC_INDEX k)

/-- A write of the register at 0x050 for the selected descriptor (R126, R128). -/
def State.descCtrl (s : State) (k : Nat) (v : Word) : State :=
  let d := s.rg LDB.DESC_INDEX k
  let en := LDB.DESC_EN.of v = 1
  if s.on LDB.DESC_EN k d then (if en then s.errParam (ldbPage k) else s.descDisable k d)
  else if LDB.HALO.of v > 4 ∨ (LDB.SOURCE.of v = 0 ∧ LDB.KEY.of v > 35) then s.errParam (ldbPage k)
  else
    let s' := (descCfgFields.foldl (fun s f => s.rs f k (f.of v) d) s).descCount k
    if en then
      -- a rejected enabling write changes nothing (R126)
      (if s'.descOk k d then s'.descEnable k d else s.errParam (ldbPage k))
    else s'

/-! ## Scrubbing (R52, R53, R109) -/

/-- Scrub entry `i` of descriptor `d`. -/
def State.scrubEntry (s : State) (k d i : Nat) : State :=
  let e := s.entry k d i
  let u := s.unitExp k d
  if eValid e && 0x4000 ≤ diff15 (lu15 (s.mapTime k d s.dt) u) (eTime e) then
    (s.setEntry k d i (eTime e)).inc LDB.SCRUB_CLEARED k
  else s

/-- Visit one line: a bank line below 65,536, or line `n − 65,536` of DDR4 for a BACKED descriptor, through the cache (R109). -/
def State.scrubLine (s : State) (k n : Nat) : State :=
  let visit (s : State) (d first : Nat) : State :=
    let cnt := (s.region k d).entries
    (List.range 32).foldl (fun s j => if first + j < cnt then s.scrubEntry k d (first + j) else s) (s.entryUse k d first)
  (s.descs k).foldl (fun s d =>
    let base := if s.on LDB.BACKED k d then 65536 + s.rg LDB.DDR_BASE k d / 64 else s.rg LDB.BASE_LINE k d
    if base ≤ n && n < base + (s.region k d).lines && !s.clearing k d then visit s d (32 * (n - base)) else s) s

end Sys2Proof.Machine
end

