-- ==== Sys2Proof/Machine/Flags.lean ====
section
/-!
DEFINITION. The flags of the update engine (R161, R164, R166, R169, R170): what each kind of result sets, and the conditions.
-/
namespace Sys2Proof.Machine

/-- The flags a micro-op writes; `none` leaves a flag alone. -/
structure FlagW where
  z : Option Bool
  n : Option Bool
  c : Option Bool
  v : Option Bool
  f : Option Bool
deriving DecidableEq, Repr

/-- No flag. -/
def FlagW.none : FlagW := ⟨.none, .none, .none, .none, .none⟩

/-- Write flags. -/
def Flags.put (a : Flags) (w : FlagW) : Flags :=
  ⟨w.z.getD a.z, w.n.getD a.n, w.c.getD a.c, w.v.getD a.v, w.f.getD a.f⟩

/-- Cleared flags: every handler starts with them (R161). -/
def Flags.clear : Flags := ⟨false, false, false, false, false⟩

/-- Z and N of a 32-bit result. -/
def flagsZN (r : Nat) : FlagW := ⟨some (r == 0), some (r.testBit 31), .none, .none, .none⟩

/-- Z and N of an accumulator value. -/
def flagsAcc (a : Int) : FlagW := ⟨some (decide (a = 0)), some (decide (a < 0)), .none, .none, .none⟩

/-- With the V flag as well. -/
def FlagW.withV (w : FlagW) (v : Bool) : FlagW := { w with v := some v }

/-- ADD: Z, N, C carry out, V signed overflow (R169). -/
def flagsAdd (a b : Nat) : FlagW :=
  let r := wrap 32 (a + b)
  { flagsZN r with c := some (decide (2 ^ 32 ≤ a + b)), v := some (a.testBit 31 == b.testBit 31 && r.testBit 31 != a.testBit 31) }

/-- SUB and CMP: Z, N, C borrow, V signed overflow (R164, R169). -/
def flagsSub (a b : Nat) : FlagW :=
  let r := wrap 32 (a + 2 ^ 32 - b)
  { flagsZN r with c := some (decide (a < b)), v := some (a.testBit 31 != b.testBit 31 && r.testBit 31 != a.testBit 31) }

/-- Does a condition hold (R166)? `none` for condition 15, which is ILLEGAL. -/
def condHolds (cond : Nat) (a : Flags) (late : Bool) : Option Bool :=
  match cond with
  | 0 => some true
  | 1 => some a.z
  | 2 => some (!a.z)
  | 3 => some (a.n != a.v)
  | 4 => some (a.n == a.v)
  | 5 => some (!a.z && a.n == a.v)
  | 6 => some (a.z || a.n != a.v)
  | 7 => some a.c
  | 8 => some (!a.c)
  | 9 => some a.v
  | 10 => some (!a.v)
  | 11 => some a.f
  | 12 => some (!a.f)
  | 13 => some late
  | 14 => some (!late)
  | _ => .none

end Sys2Proof.Machine
end

