-- ==== Sys2Proof/Machine/Operands.lean ====
section
/-!
DEFINITION. The operand forms of a micro-op word (R165), field widths, special registers (R162), core memory (R163, R39).
-/
namespace Sys2Proof.Machine
open Regs

/-! ## The word (R165) -/

def uP (w : Nat) : Bool := w.testBit 63
def uOp (w : Nat) : Nat := bitsAt w 56 7
def uD (w : Nat) : Nat := bitsAt w 52 4
def uA (w : Nat) : Nat := bitsAt w 48 4
def uB (w : Nat) : Nat := bitsAt w 44 4
def uCond (w : Nat) : Nat := bitsAt w 40 4
def uSF (w : Nat) : Bool := w.testBit 39
def uIB (w : Nat) : Bool := w.testBit 38
def uMod (w : Nat) : Nat := bitsAt w 32 6
def uImm (w : Nat) : Nat := bitsAt w 0 32

/-- Classes of opcodes. -/
inductive UClass where
  | alu | acc | mem | neu | port | ctl
deriving DecidableEq, Repr

/-- The class of an opcode; `none` is not listed (R165, R169–R174). -/
def opClass (op : Nat) : Option UClass :=
  if op ≤ 0x16 then some .alu
  else if 0x20 ≤ op ∧ op ≤ 0x24 then some .acc
  else if 0x30 ≤ op ∧ op ≤ 0x33 then some .mem
  else if 0x40 ≤ op ∧ op ≤ 0x47 then some .neu
  else if 0x50 ≤ op ∧ op ≤ 0x54 then some .port
  else if 0x60 ≤ op ∧ op ≤ 0x64 then some .ctl
  else none

/-! ## Registers -/

def Eng.reg (e : Eng) (i : Nat) : Nat := e.g.getD i 0
def Eng.acc (e : Eng) (i : Nat) : Int := e.a.getD i 0
def Eng.setReg (e : Eng) (i v : Nat) : Eng := { e with g := e.g.set i (wrap 32 v) }
def Eng.setAcc (e : Eng) (i : Nat) (v : Int) : Eng := { e with a := e.a.set i v }

/-- Operand A. -/
def Eng.opA (e : Eng) (w : Nat) : Nat := e.reg (uA w)

/-- "B": g[B], or IMM when IB is 1 (R165). -/
def Eng.opB (e : Eng) (w : Nat) : Nat := if uIB w then uImm w else e.reg (uB w)

/-- Saturation of an accumulator (R170). -/
def sat40 (x : Int) : Int := satS 40 x

/-- An address (g[A] + IMM) mod 2^32 (R171). -/
def Eng.addr (e : Eng) (w : Nat) : Nat := wrap 32 (e.opA w + uImm w)

/-- Field LSB and WIDTH of EXT and INS; `none` when the width is out of range (R169). -/
def extWidth (w : Nat) : Option (Nat × Nat) :=
  let wd := uImm w % 64
  if 1 ≤ wd ∧ wd ≤ 32 then some (uMod w % 32, wd) else none

/-! ## Core memory (R19, R39, R163) -/

/-- BAR2 address of a core's 24 KB. -/
def coreBase (n : Nat) : Nat := (n / 1024) * 0x03800000 + (n % 1024) * 0x6000

/-- Read `b` bytes of core memory, little-endian. -/
def State.cmem (s : State) (n a b : Nat) : Nat := Mem.rdLE s.sram (coreBase n + a) b

/-- Write `b` bytes of core memory. -/
def State.setCmem (s : State) (n a b v : Nat) : State := { s with sram := Mem.wrLE s.sram (coreBase n + a) b v }

/-- A load or store address is in range and naturally aligned (R163). -/
def memOk (a size top : Nat) : Bool := decide (0x800 ≤ a ∧ a + size ≤ top ∧ a % size = 0)

/-- The micro-op word at a word address. -/
def State.uword (s : State) (n pc : Nat) : Nat := s.cmem n (8 * pc) 8

/-! ## Special registers (R162) -/

/-- DEVICE of a GNA: the device number of a fabric member, else 0 (R20). -/
def State.gnaDevice (s : State) : Nat := if s.rg FAB.MSTATE 0 = 2 then s.rg FAB.DEV_NUM 0 else 0

/-- GNA of a core with bits [13:0] zero (R20). -/
def State.coreGna (s : State) (n : Nat) : Nat := s.gnaDevice <<< 26 ||| n <<< 14

/-- A special register as `MOVS` reads it: every one has the value it had at handler entry. -/
def HRun.special (r : HRun) (i : Nat) : Nat :=
  let ev : Option Arr := match r.arr with | some a => if a.cls = 0 ∨ a.cls = 3 then some a else none | none => none
  let x : Nat := match ev with | some a => bitsAt a.addr 12 11 | none => 0
  let y : Nat := match ev with | some a => bitsAt a.addr 1 11 | none => 0
  match i with
  | 0 => match r.arr with | some a => a.addr | none => 0
  | 1 => x
  | 2 => y
  | 3 => match ev with | some a => a.addr % 2 | none => 0
  | 4 => match ev with | some a => bitsAt a.addr 23 6 | none => 0
  | 5 => (y % 32) * 32 + x % 32
  | 6 => match r.arr with | some a => a.cls | none => 0
  | 7 => match r.arr with | some a => a.payload | none => 0
  | 8 => r.entry
  | 9 => match r.arr with | some a => if a.late then 1 else 0 | none => 0
  | 10 => wrap 32 r.ht
  | 11 => wrap 32 r.readTick
  | 12 => wrap 32 r.recT
  | 13 => wrap 32 (r.recT >>> 32)
  | 14 => r.hparam.getD 0 0
  | 15 => r.hparam.getD 1 0
  | 16 => r.hparam.getD 2 0
  | 17 => r.gna
  | 18 => wrap 32 r.slotN
  | 19 => r.nlAt.idx
  | 20 => r.nlAt.t17
  | 21 => if r.nlAt.fired then 1 else 0
  | _ => 0

end Sys2Proof.Machine
end

