-- ==== Sys2Proof/Machine/PisteLink.lean ====
section
/-!
DEFINITION. The link layer of the Piste ports (R373, R374, R377) and their back-pressure (R387): the transmitter, the credits of the
buffers, received spikes that wait for SPK credit.
-/
namespace Sys2Proof.Machine
open Regs

/-! ## CRC-32 (R485) -/

/-- One bit of the reflected CRC register. -/
def crcBit (c : Nat) : Nat := if c % 2 = 1 then (c / 2) ^^^ 0xEDB88320 else c / 2

/-- One byte. -/
def crcByte (c : Nat) (b : Byte) : Nat :=
  crcBit (crcBit (crcBit (crcBit (crcBit (crcBit (crcBit (crcBit (c ^^^ b.toNat))))))))

/-- The CRC-32 of R485. -/
def crc32 (bs : List Byte) : Nat := bs.foldl crcByte 0xFFFFFFFF ^^^ 0xFFFFFFFF

/-! ## Pages and tables -/

def fabPage : Page := ⟨.fab, 0⟩
def pstPage (p : Nat) : Page := ⟨.pst, p⟩

/-- Port `p`. -/
def State.pp (s : State) (p : Nat) : PPort := Tab.get PPort.init s.fab.ports p
/-- Change port `p`. -/
def State.upPp (s : State) (p : Nat) (f : PPort → PPort) : State :=
  { s with fab := { s.fab with ports := Tab.put PPort.init s.fab.ports p (f (s.pp p)) } }

/-- LINK_STATE: 0 DOWN, 1 TRAINING, 2 UP, 3 FENCED. -/
def State.linkUp (s : State) (p : Nat) : Bool := s.rg PST.LINK_STATE p == 2
/-- The device's own number. -/
def State.devNum (s : State) : Nat := s.rg FAB.DEV_NUM 0
/-- The fabric latency bound to device `e` in ticks (R386): M = ⌈(600 + 500 × H) / 1,024⌉, H the larger of HOPS_P and HOPS_A. -/
def State.fabricBound (s : State) (e : Nat) : Nat := (600 + 500 * max (s.rg FAB.HOPS_P 0 e) (s.rg FAB.HOPS_A 0 e) + 1023) / 1024

/-- Ports that are UP, in order. -/
def State.upPorts (s : State) : List Nat := (List.range 6).filter s.linkUp
/-- Word `i` of a flit body. -/
def bw (w : List (BitVec 64)) (i : Nat) : Nat := ((w.map BitVec.toNat).getD i 0)

/-! ## The transmitter (R373, R374) -/

/-- The 64 bytes of a flit: link header, body, CRC. -/
def pisteBytes (hdr : Nat) (body : List Nat) : List Byte :=
  let b := leBytes 4 hdr ++ (List.range 7).flatMap fun i => leBytes 8 (body.getD i 0)
  b ++ leBytes 4 (crc32 b)

/-- Put a flit on the wire with the port's ACK, NAK and a credit return that is owed. -/
def State.pisteEmit (s : State) (p seq ty : Nat) (body : List Nat) : State :=
  let x := s.pp p
  let cv := match x.owed with | c :: _ => 1 <<< 24 ||| c.1 <<< 25 ||| c.2 <<< 27 | [] => 0
  let hdr := seq ||| ((x.rxSeq + 1023) % 1024) <<< 10 ||| ty <<< 20 ||| cv ||| (if x.nak then 1 <<< 30 else 0)
  ((s.upPp p fun x => { x with owed := x.owed.drop 1, nak := false }).emit (.pisteTx p (pisteBytes hdr body))).inc PST.FLITS_TX p

/-- A NULL flit carries a NAK or a credit return that is owed (R373). -/
def State.pisteNull (s : State) (p : Nat) : State :=
  let x := s.pp p
  if x.nak || !x.owed.isEmpty then s.pisteEmit p 0 0 [] else s

/-! ## Credits (R377, R387) -/

/-- Destination and HOP of a routed message, and the body with another HOP (R376, R383). -/
def msgDest (ty : Nat) (body : List Nat) : Nat := let w := body.getD 0 0; if ty = 1 then bitsAt w 55 6 else bitsAt w 0 6
def msgHop (ty : Nat) (body : List Nat) : Nat := let w := body.getD 0 0; if ty = 1 then bitsAt w 61 3 else bitsAt w 6 3
def setHop (ty : Nat) (body : List Nat) (h : Nat) : List Nat :=
  let w := body.getD 0 0
  body.set 0 (if ty = 1 then setBitsAt w 61 3 h else setBitsAt w 6 3 h)

/-- A routed flit is consumed from the buffer of its class and HOP: four consumed flits return credit. -/
def State.consumed (s : State) (p cls hop : Nat) : State :=
  s.upPp p fun x =>
    let n := Tab.get 0 x.used (cls * 8 + hop) + 1
    if n = 4 then { x with used := Tab.put 0 x.used (cls * 8 + hop) 0, owed := x.owed ++ [(cls, hop)] }
    else { x with used := Tab.put 0 x.used (cls * 8 + hop) n }

/-- The buffer of the receiver that a message needs (8 × class + HOP); a message that is not routed needs none. -/
def msgBuf (ty : Nat) (body : List Nat) : Option Nat :=
  match ty with
  | 1 => some (msgHop ty body)
  | 2 => some (8 + msgHop ty body)
  | 6 => some (16 + msgHop ty body)
  | _ => none

/-- The buffer that a message needs. -/
def PMsg.buf (m : PMsg) : Option Nat := msgBuf m.ty m.body

/-- A received message leaves the buffer that it held, which returns the credit. -/
def State.credited (s : State) : Option (Nat × Nat × Nat) → State
  | none => s
  | some (p, cls, hop) => (s.consumed p cls hop).pisteNull p

/-- Has the receiver of port `p` a buffer free for a message? -/
def State.pisteCredit (s : State) (p : Nat) (m : PMsg) : Bool :=
  match m.buf with
  | none => true
  | some k => decide (Tab.get 0 (s.pp p).out k < s.bufs)

/-- May port `p` send a message now: the retry buffer has room and the receiver a buffer? -/
def State.pisteCan (s : State) (p : Nat) (m : PMsg) : Bool := decide ((s.pp p).retry.length < 256) && s.pisteCredit p m

/-- The EVENT messages that wait in a port fill its egress buffer. -/
def State.egressFull (s : State) (p : Nat) : Bool := decide (s.bufs ≤ ((s.pp p).wait.filter fun m => m.ty == 1).length)

/-- A wait that goes on exactly while `b` holds. -/
def State.waitWhile (s : State) (f : Fld) (i : Nat) (b : Bool) : State := if b then s.waitBegin f i else s.waitEnd f i

/-- The counters of what holds the port's messages back (R374, R387, R397): a full retry buffer, missing credit, and a full egress
buffer, which withholds SPK credit. -/
def State.pisteStalls (s : State) (p : Nat) : State :=
  let s := s.waitWhile PST.RETRY_FULL_CYCLES p (decide (256 ≤ (s.pp p).retry.length))
  let s := s.waitWhile PST.CREDIT_STALL p ((s.pp p).wait.any fun m => !s.pisteCredit p m)
  s.waitWhile FAB.EGRESS_STALL 0 ((List.range 6).any s.egressFull)

/-- A message takes the next SEQ and its buffer of the receiver, and leaves; its own receive buffer is free (R374, R377). -/
def State.pisteGo (s : State) (p : Nat) (m : PMsg) : State :=
  let x := s.pp p
  let s := s.upPp p fun x =>
    { x with txSeq := (x.txSeq + 1) % 1024, retry := x.retry ++ [(x.txSeq, m.ty, m.body)],
             out := match m.buf with | some k => Tab.put 0 x.out k (Tab.get 0 x.out k + 1) | none => x.out }
  (s.pisteEmit p x.txSeq m.ty m.body).credited m.src

/-- Send a message, or let it wait: a message never passes one that waits for the same buffer, and never waits for one of another
class (R374, R377). -/
def State.pisteSend (s : State) (p ty : Nat) (body : List Nat) (src : Option (Nat × Nat × Nat) := none) : State :=
  let m : PMsg := ⟨ty, body, src⟩
  let s :=
    if s.pisteCan p m && !(s.pp p).wait.any (fun w => w.buf == m.buf) then s.pisteGo p m
    else s.upPp p fun x => { x with wait := x.wait ++ [m] }
  s.pisteStalls p

/-- The first message that may go and that none waiting for the same buffer precedes, and the others. -/
def nextMsg (can : PMsg → Bool) (held : List (Option Nat)) : List PMsg → Option (PMsg × List PMsg)
  | [] => none
  | m :: r =>
    if can m && !held.contains m.buf then some (m, r)
    else (nextMsg can (m.buf :: held) r).map fun x => (x.1, m :: x.2)

/-- Waiting messages go while they may; `n` bounds their number. -/
def State.pistePump (s : State) (p : Nat) : Nat → State
  | 0 => s.pisteStalls p
  | n + 1 =>
    match nextMsg (s.pisteCan p) [] (s.pp p).wait with
    | none => s.pisteStalls p
    | some (m, rest) => ((s.upPp p fun x => { x with wait := rest }).pisteGo p m).pistePump p n

/-! ## Received spikes (R385, R387) -/

/-- The fabric group table entry of a GROUP (R384): the entry's index, or `none` for a miss. -/
def State.fgt (s : State) (group : Nat) : Option Nat :=
  let e := group % 1024
  if s.on FAB.FGT_VALID 0 e && s.rg FAB.FGT_TAG 0 e == group / 1024 then some e else none

/-- The spike copies that one received spike becomes: one for each cluster of FGT_CLUSTERS. -/
def State.spikeUnits (s : State) (e w0 group cls w : Nat) : List Flit :=
  let d := s.dtOfFt (rebuild (s.ft s.dt) (bitsAt w0 0 35))
  (clustersOf (s.rg FAB.FGT_CLUSTERS 0 e)).map fun k =>
    ⟨2, 1, k, 0, srcField 2 0 2, [st35 d ||| bitsAt w 32 29 <<< 35, bitsAt w 0 32 ||| group <<< 32 ||| cls <<< 48]⟩

/-- Deliver the received spikes of a flit whose word 0 is `w0` while the target clusters give SPK credit; the spikes that stay. -/
def State.spikesIn (s : State) (w0 : Nat) : List Nat → List Nat × State
  | [] => ([], s)
  | w :: ws =>
    let group := bitsAt w0 35 16
    match s.fgt group with
    | none => ((s.inc FAB.SPIKES_RX 0).inc FAB.FGT_MISS 0).spikesIn w0 ws
    | some e =>
      let us := s.spikeUnits e w0 group (bitsAt w0 51 1) w
      if us.all s.linkRoom then (us.foldl (fun s u => s.send u) (s.inc FAB.SPIKES_RX 0)).spikesIn w0 ws
      else (w :: ws, s)

/-- The ingress of a port: held flits go in order per buffer, and each gives its credit back once all its spikes are delivered. -/
def State.ingressFlits (s : State) (held : List (Option Nat)) : List PMsg → List PMsg × State
  | [] => ([], s)
  | m :: r =>
    if held.contains m.buf then let x := s.ingressFlits held r; (m :: x.1, x.2)
    else
      let w0 := m.body.getD 0 0
      let (left, s) := s.spikesIn w0 (m.body.drop 1)
      if left.isEmpty then (s.credited m.src).ingressFlits held r
      else let x := s.ingressFlits (m.buf :: held) r; ({ m with body := w0 :: left } :: x.1, x.2)

/-- The ingress of one port goes on. -/
def State.ingressPort (s : State) (p : Nat) : State :=
  let (l, n) := s.ingressFlits [] (s.pp p).rx
  n.upPp p fun x => { x with rx := l }

/-- INGRESS_STALL counts while a port holds spikes that wait. -/
def State.ingressStall (s : State) : State := s.waitWhile FAB.INGRESS_STALL 0 ((List.range 6).any fun p => !(s.pp p).rx.isEmpty)

/-- The ingress of every port that holds flits goes on. -/
def State.ingressGo (s : State) : State :=
  if (List.range 6).all fun p => (s.pp p).rx.isEmpty then s
  else
    ((List.range 6).foldl (fun s p => if (s.pp p).rx.isEmpty then s else s.ingressPort p) s).ingressStall

end Sys2Proof.Machine
end

