-- ==== Sys2Proof/Machine/Sliver.lean ====
section
/-!
DEFINITION. Sliver cores (chapter 05): the output port, the Turnstile, neurons, spikes, synapse walks, handler entry, the
closing steps of a tick, microcode faults.
-/
namespace Sys2Proof.Machine
open Regs

def State.core (s : State) (n : Nat) : Core := Tab.get Core.init s.cores n
def State.upCore (s : State) (n : Nat) (f : Core → Core) : State :=
  { s with cores := Tab.put Core.init s.cores n (f (s.core n)) }

/-- Neuron time NT and the next tick whose closing steps are due: neither lies before the tick in which the core's die was
released (R158, R410). -/
def State.ntOf (s : State) (n : Nat) : Nat := max (s.core n).nt (Tab.get 0 s.boot.dieFrom (n / 1024))
def State.stepOf (s : State) (n : Nat) : Nat :=
  max (s.core n).stepped (Tab.get 0 s.boot.dieFrom (n / 1024) + 1 - max (s.rg CLU.TS_WINDOW (n / 256)) 1)

/-- The core-group page of a core. -/
def cgPage (n : Nat) : Page := ⟨.cg, n / 16⟩

/-- A core runs while its page's CTRL.ENABLE and its RUN are 1 (R159) and it is not fenced (R157). -/
def State.coreOn (s : State) (n : Nat) : Bool :=
  s.on CGS.RUN n && s.on (Hdr.ENABLE .cg) (n / 16) && !s.coreFenced n

/-- ON_INIT has not issued a micro-op and waits until the core's group is enabled: a core runs while RUN and the page's CTRL.ENABLE
are 1 (R159, R179). -/
def State.initWaits (s : State) (n : Nat) (r : HRun) : Bool := r.kind == 6 && r.count == 0 && !s.on (Hdr.ENABLE .cg) (n / 16)

/-- A handler runs on the core. -/
def State.handlerRuns (s : State) (n : Nat) : Bool := match (s.core n).run with | some r => !s.initWaits n r | none => false

/-! ## The output port and its tags (R173, R236) -/

/-- Requests take a tag; spikes and progress reports take none. -/
def Flit.tagged (f : Flit) : Bool := f.ty == 3 || f.ty == 4 || f.ty == 6 || f.ty == 7

/-- Words waiting in the port. -/
def Core.portWords (c : Core) : Nat := (c.port.map fun f => f.words.length).sum

/-- Has the 16-word port room for `w` words (R173)? -/
def State.portRoom (s : State) (n w : Nat) : Bool := (s.core n).portWords + w ≤ 16

/-- The head of the port leaves. -/
def State.portSend (s : State) (n : Nat) (f : Flit) (r : List Flit) : State :=
  let s := if f.tagged then s.waitEnd MESH.TAG_STALL (n / 256) n else s
  let s := s.upCore n fun c => { c with port := r, tags := if f.tagged then c.tags + 1 else c.tags }
  (s.linkMoved f n).send f

/-- Move units from the port to the network while the head needs no tag or a tag is free, and every link of its path has a buffer of
its class; `n` bounds the moves (R173, R234, R236). -/
def State.drainPort (s : State) (n : Nat) : Nat → State
  | 0 => s
  | m + 1 =>
    match (s.core n).port with
    | [] => s
    | f :: r =>
      if f.tagged && 8 ≤ (s.core n).tags then s.waitBegin MESH.TAG_STALL (n / 256) n
      else if !s.linkRoom f then s.linkWait f n
      else (s.portSend n f r).drainPort n m

/-- The engine that tries to send stalls while it holds words that the 16-word port has no room for, and OUT_STALL_CYCLES counts it
(R130): the model keeps these words behind the port's. -/
def State.walkStall (s : State) (n : Nat) : State :=
  if s.portRoom n 0 then s.waitEnd CGS.OUT_STALL_CYCLES n 1 else s.waitBegin CGS.OUT_STALL_CYCLES n 1

/-- Drain the port as far as it goes. -/
def State.portGo (s : State) (n : Nat) : State := (s.drainPort n (s.core n).port.length).walkStall n

/-- Put a unit into the output port. -/
def State.portPut (s : State) (n : Nat) (f : Flit) : State := (s.upCore n fun c => { c with port := c.port ++ [f] }).portGo n

/-- Tags come back. -/
def State.tagsBack (s : State) (n k : Nat) : State := (s.upCore n fun c => { c with tags := c.tags - k }).portGo n

/-- A buffer of a link is free again: the ports that hold units send on (R232). -/
def State.portsGo (s : State) : State := s.cores.foldl (fun s e => if e.2.port.isEmpty then s else s.portGo e.1) s

/-- A unit is taken off the network, and the buffers it held are free: the ports that hold units and the Piste ingress go on. -/
def State.takeUnit (s : State) (p : Flit → Bool) : Option (Flit × State) :=
  (s.takeFlit p).map fun r => (r.1, r.2.portsGo.ingressGo)

/-! ## Neurons (R148, R149, R153) -/

/-- A neuron's state. -/
structure Neuron where
  v : Int
  t17 : Nat
  fired : Bool
deriving DecidableEq, Repr

/-- N64 format? -/
def State.n64 (s : State) (n : Nat) : Bool := s.on CGS.STATE_FMT n

/-- Neurons of the state format. -/
def State.nNeurons (s : State) (n : Nat) : Nat := if s.n64 n then 512 else 1024

/-- Width of V. -/
def State.vBits (s : State) (n : Nat) : Nat := if s.n64 n then 32 else 14

/-- Where the state word of neuron `i` lies in core memory, and its bytes (R148). -/
def State.neuronBytes (s : State) (n : Nat) : Nat := if s.n64 n then 8 else 4
def State.neuronAt (s : State) (n i : Nat) : Nat := 0x800 + s.neuronBytes n * i

/-- Read neuron `i` of core `n`. -/
def State.neuron (s : State) (n i : Nat) : Neuron :=
  if s.n64 n then
    let w := s.cmem n (0x800 + 8 * i) 8
    ⟨signed 32 w, bitsAt w 32 17, w.testBit 49⟩
  else
    let w := s.cmem n (0x800 + 4 * i) 4
    ⟨signed 14 w, bitsAt w 15 17, w.testBit 14⟩

/-- Write neuron `i`; USER of the N64 format is never touched. -/
def State.setNeuron (s : State) (n i : Nat) (x : Neuron) : State :=
  let fd := if x.fired then 1 else 0
  if s.n64 n then
    let w := s.cmem n (0x800 + 8 * i) 8
    s.setCmem n (0x800 + 8 * i) 8 (unsigned 32 x.v + x.t17 <<< 32 + fd <<< 49 + (w >>> 50) <<< 50)
  else s.setCmem n (0x800 + 4 * i) 4 (unsigned 14 x.v + fd <<< 14 + x.t17 <<< 15)

/-- Stored power `i` of core `n`. -/
def State.dpow (s : State) (n i : Nat) : Nat :=
  if i % 2 = 0 then s.rg (CGS.DPOW_E.nth (i / 2)) n else s.rg (CGS.DPOW_O.nth (i / 2)) n

/-- `leak` of R149. -/
def leakV (v : Int) (dt : Nat) (dpow : Nat → Nat) : Int :=
  if dt = 0 then v
  else if 65536 ≤ dt then 0
  else
    let p := (List.range 16).foldl (fun p i => if dt.testBit i then (p * dpow i + 0x8000) >>> 16 else p) 0x10000
    floorDiv (v * p + 0x8000) 65536

/-- Δt of a neuron at a tick (R149). -/
def dt17 (tick t17 : Nat) : Nat := (tick % 2 ^ 17 + 2 ^ 17 - t17) % 2 ^ 17

/-- The lazy leak at a tick. -/
def State.leak (s : State) (n : Nat) (x : Neuron) (tick : Nat) : Neuron :=
  let d := dt17 tick x.t17
  if d = 0 then x else ⟨leakV x.v d (s.dpow n), tick % 2 ^ 17, false⟩

/-- Bits set in a number below 2^n. -/
def popcount (n x : Nat) : Nat := ((List.range n).filter fun i => x.testBit i).length

/-- Micro-ops a leak counts in a walk: none when Δt = 0, one on the cheap path (R156). -/
def leakOps (d : Nat) : Nat := if d = 0 then 0 else if 65536 ≤ d then 1 else popcount 16 d + 1

/-- Saturate to the state format; each clamp increments SAT_EVENTS (R147). -/
def State.satV (s : State) (n : Nat) (x : Int) : Int × State :=
  let y := satS (s.vBits n) x
  (y, if y = x then s else s.inc CGS.SAT_EVENTS n)

/-- OVERDRIVE of a core and of its group (R159). -/
def State.overdrive (s : State) (n : Nat) : State := (s.inc CGS.OVERDRIVE n).inc ((Hdr.EVT_COUNT .cg).nth 1) (n / 16)

/-- The firing test (R153): the neuron after it, and whether it spikes. -/
def State.fireTest (s : State) (n : Nat) (x : Neuron) : Neuron × Bool × State :=
  let theta := signed 32 (s.rg CGS.THETA n)
  if x.v < theta then (x, false, s)
  else if x.fired then (x, false, s.overdrive n)
  else if s.on CGS.FIRE_LAW n then ({ x with v := 0, fired := true }, true, s)
  else
    let y := { x with v := x.v - theta, fired := true }
    (y, true, if theta ≤ y.v then s.overdrive n else s)

/-! ## Spikes (R139–R142) -/

/-- The route entry of neuron `i`: the lowest-numbered valid range that reaches it (R141). -/
def State.routeOf (s : State) (n i : Nat) : Option Nat :=
  ((List.range 8).find? fun r => s.on (CGS.RT_VALID.nth r) n && i ≤ s.rg (CGS.NEURON_HI.nth r) n).map fun r => s.rg (CGS.RT_INDEX.nth r) n

/-- A spike with a fan-out of 0 is dropped and counted (R141). -/
def State.fanoutZero (s : State) (n : Nat) : State := (s.inc CGS.FANOUT_ZERO n).inc ((Hdr.EVT_COUNT .cg).nth 3) (n / 16)

/-- Word 1 of a spike (R139). -/
def spikeWord1 (gna group : Nat) (cls : Bool) : Nat := gna ||| group <<< 32 ||| (if cls then 1 <<< 48 else 0)

/-- Neuron `i` of core `n` fires at effective tick `τ` (R140–R142). The unit that goes to the source cluster router carries the
CLUSTER_MASK and FABRIC of the route entry above the source in its tag (assumption 33). -/
def State.spike (s : State) (n i τ payload tag : Nat) : State :=
  match s.routeOf n i with
  | none => s.fanoutZero n
  | some e =>
    let k := n / 256
    let lo := s.rg CLU.RT_LO k e
    let hi := s.rg CLU.RT_HI k e
    let mask := bitsAt lo 0 16
    let fabric := lo.testBit 16
    if !hi.testBit 31 || (mask == 0 && !fabric) then s.fanoutZero n
    else
      let t := (τ + bitsAt lo 18 6) * 1024 - s.rg TIME.TICK_PHASE 0
      let gna := s.coreGna n ||| i <<< 4 ||| tag
      let w0 := st35 t ||| payload <<< 35
      let w1 := spikeWord1 gna (bitsAt hi 0 16) (lo.testBit 17)
      (s.inc CGS.SPIKES_OUT n).portPut n ⟨2, 1, k, 0, coreSrc n ||| bitsAt lo 0 17 <<< 14, [w0, w1]⟩

/-! ## Synapse walks (R145–R147) -/

/-- The neuron after the firing test is stored; a spike leaves. -/
def storeFired (n τ i : Nat) (r : Neuron × Bool × State) : State :=
  if r.2.1 then (r.2.2.setNeuron n i r.1).spike n i τ 0 0 else r.2.2.setNeuron n i r.1

/-- A neuron's new V is saturated, then tested (R149, R153). -/
def State.synStore (s : State) (n τ i : Nat) (x : Neuron) (v : Int) : State :=
  let r := s.satV n v
  storeFired n τ i (r.2.fireTest n { x with v := r.1 })

/-- One synaptic operation on neuron `i` at `τ`. -/
def State.synOp (s : State) (n τ i : Nat) (weight : Int) (wshift : Nat) : State :=
  if s.nNeurons n ≤ i then s
  else
    let x0 := s.neuron n i
    let x := s.leak n x0 τ
    ((s.inc CGS.SYN_OPS n).inc CGS.UOPS n (leakOps (dt17 τ x0.t17))).synStore n τ i x (x.v + weight * 2 ^ wshift)

/-- A fan-in entry: words 0 and 1. -/
def State.fanin (s : State) (n e : Nat) : Nat × Nat := (s.cmem n (0x5800 + 16 * e) 8, s.cmem n (0x5808 + 16 * e) 8)

/-- A signed byte of synapse memory. -/
def State.synByte (s : State) (n a : Nat) : Int := signed 8 (s.cmem n (0x1800 + a) 1)

/-- A 16-bit word of synapse memory. -/
def State.synWord (s : State) (n w : Nat) : Nat := s.cmem n (0x1800 + 2 * w) 2

/-- The entries that match a source GNA, in table order (R146). -/
def State.matching (s : State) (n gna : Nat) : List Nat :=
  (List.range (s.rg CGS.FANIN_COUNT n)).filter fun e =>
    let w := (s.fanin n e).1
    let m := bitsAt gna 4 10
    bitsAt w 0 18 == gna >>> 14 && decide (bitsAt w 18 10 ≤ m ∧ m ≤ bitsAt w 28 10)

/-- Walk one entry's synapses (R146). -/
def State.walkEntry (s : State) (n τ e gna : Nat) : State :=
  let (w0, w1) := s.fanin n e
  let j := bitsAt gna 4 10 - bitsAt w0 18 10
  let base := bitsAt w0 41 13
  let sh := bitsAt w0 54 4
  let fmt := bitsAt w0 38 3
  if fmt = 0 then
    let o := s.synWord n (base + j)
    (List.range (min (s.synWord n o) 1024)).foldl (fun s i =>
      s.synOp n τ (s.synWord n (o + 1 + 2 * i) % 1024) (signed 16 (s.synWord n (o + 2 + 2 * i))) sh) s
  else if fmt = 1 then
    let len := bitsAt w1 10 11
    (List.range len).foldl (fun s i => s.synOp n τ (bitsAt w1 0 10 + i) (s.synByte n (2 * base + j * len + i)) sh) s
  else if fmt = 2 then
    let kw := bitsAt w1 0 4
    let kh := bitsAt w1 4 4
    let st := if w1.testBit 8 then 2 else 1
    let srcW := bitsAt w1 15 7
    let tw := bitsAt w1 32 6
    let th := bitsAt w1 38 6
    let sx := if srcW = 0 then 0 else j % srcW
    let sy := if srcW = 0 then 0 else j / srcW
    (List.range (kh * kw)).foldl (fun s i =>
      let kx := i % kw
      let ky := i / kw
      let a := sx + bitsAt w1 9 3
      let b := sy + bitsAt w1 12 3
      if a < kx ∨ b < ky then s
      else
        let p := a - kx
        let q := b - ky
        if p % st ≠ 0 ∨ q % st ≠ 0 ∨ tw ≤ p / st ∨ th ≤ q / st then s
        else s.synOp n τ (bitsAt w1 22 10 + (q / st) * tw + p / st) (s.synByte n (2 * base + i)) sh) s
  else s

/-! ## Handlers (R179, R180) -/

/-- Which handler's entry word. -/
def State.entryOf (s : State) (n kind : Nat) : Nat :=
  match kind with
  | 0 => s.rg CGS.ENT_SENSOR n | 1 => s.rg CGS.ENT_LOCAL n | 2 => s.rg CGS.ENT_REMOTE n | 3 => s.rg CGS.ENT_REPLAY n
  | 4 => s.rg CGS.ENT_TICK n | 5 => s.rg CGS.ENT_SLOT n | _ => s.rg CGS.ENT_INIT n

/-- Enter a handler: flags and NL.VALID cleared, call stack emptied, special registers sampled, NT raised to HT (R161, R162, R180). -/
def State.enter (s : State) (n kind : Nat) (arr : Option Arr) (entry ht readTick recT slotN : Nat) : State :=
  let ht := max ht (s.ntOf n)
  let hp := (List.range 3).map fun i => s.rg (CGS.HPARAM.nth i) n
  s.upCore n fun c =>
    { c with
      nt := ht
      eng := { c.eng with fl := Flags.clear }
      nl := { c.nl with valid := false }
      run := some ⟨kind, arr, entry, ht, readTick, recT, slotN, hp, s.coreGna n, c.nl, s.entryOf n kind, [], 0, none⟩ }

/-! ## The Turnstile (R133–R137) -/

/-- Turnstile window W of a core's cluster. -/
def State.tsWindow (s : State) (n : Nat) : Nat := s.rg CLU.TS_WINDOW (n / 256)

/-- The number of closed ticks: the latest closed tick plus one. At the boundary into tick c, W ≥ 1 closes c − W (R134); with
W = 0 the tick that has just ended counts as closed (DEDUCED, assumption 31). -/
def State.closedTicks (s : State) (n : Nat) : Nat := s.tick + 1 - max (s.tsWindow n) 1

/-- Has a stamp's tick been closed? -/
def State.tickClosed (s : State) (n t : Nat) : Bool := s.tickOf t < s.closedTicks n

/-- Key order (R133): time, class, address. -/
def keyLt (a b : Arr) : Bool :=
  decide (a.t < b.t) || (a.t == b.t && (decide (a.cls < b.cls) || (a.cls == b.cls && decide (a.addr < b.addr))))

/-- The arrival with the smallest key. -/
def minArr : List Arr → Option Arr
  | [] => none
  | a :: r =>
    match minArr r with
    | some b => if keyLt b a then some b else some a
    | none => some a

/-- Copies on their way to a core. -/
def State.inbound (s : State) (n : Nat) : Nat :=
  (s.net.filter fun f => f.toCore 0 n || f.toCore 1 n || f.toCore 2 n).length

/-- Has the core's queue a free slot (R138)? A fenced core and a faulted core take everything and discard it. -/
def State.coreRoom (s : State) (n : Nat) : Bool :=
  s.coreFenced n || s.on CGS.UCODE_ERR n || (s.core n).queue.length + s.inbound n < 64

/-- FENCED_DROPS of a cluster and of a core's group (R157, R159). -/
def State.fencedDrop (s : State) (n : Nat) : State :=
  (s.inc CLU.FENCED_DROPS (n / 256)).inc ((Hdr.EVT_COUNT .cg).nth 2) (n / 16)

/-- The arrival a flit makes (R133): an EVENT, a REPLAY or a SPIKE. -/
def State.arrOf (s : State) (n : Nat) (f : Flit) : Arr :=
  let w := f.words.getD 0 0
  if f.ty = 0 then ⟨rebuild s.dt (wT w), 0, w >>> 35, 0, false⟩
  else if f.ty = 1 then ⟨wrap 64 (f.words.getD 1 0 + s.rg CLU.REPLAY_SHIFT (n / 256)), 3, w >>> 35, 0, false⟩
  else
    let w1 := f.words.getD 1 0
    ⟨rebuild s.dt (wT w), if w1.testBit 48 then 2 else 1, bitsAt w1 0 32, w >>> 35, false⟩

/-- A LATE arrival is counted, marked and interrupts (R134, R159). -/
def State.lateArrival (s : State) (n : Nat) (tick : Nat) : State :=
  let s := ((s.inc CGS.LATE_ARRIVALS n).rs CGS.LATE_TICK n tick).inc ((Hdr.EVT_COUNT .cg).nth 0) (n / 16)
  let s := s.rs CG.LATE_MASK (n / 16) (setBit (s.rg CG.LATE_MASK (n / 16)) (n % 16) true)
  s.irqSet (cgPage n) 8

/-- A flit enters the Turnstile queue (R133, R134, R138). -/
def State.enqueueArr (s : State) (n : Nat) (f : Flit) : State :=
  if s.coreFenced n then s.fencedDrop n
  else if s.on CGS.UCODE_ERR n then s.inc CGS.UC_DROPS n
  else
    let a := s.arrOf n f
    let late := 1 ≤ s.tsWindow n && s.tickClosed n a.t
    let s := if late then s.lateArrival n (s.tickOf a.t) else s
    let s := s.upCore n fun c => { c with queue := c.queue ++ [{ a with late := late }] }
    let l := (s.core n).queue.length
    let s := s.peak CGS.QUEUE_PEAK n l
    if l = 64 then s.waitBegin CGS.QFULL_CYCLES n else s

/-- The arrival the Turnstile releases next: a LATE one in order of arrival, else the smallest key among the eligible (R134,
R135). An arrival of a later tick waits for the closing steps of an earlier closed one (R137). -/
def State.nextArr (s : State) (n : Nat) : Option Arr :=
  let q := (s.core n).queue
  match q.find? (fun a => a.late) with
  | some a => some a
  | none =>
    if s.tsWindow n = 0 then minArr q
    else minArr (q.filter fun a => s.tickClosed n a.t && s.tickOf a.t ≤ s.stepOf n)

/-- Remove the first arrival equal to `a`. -/
def dropArr (a : Arr) : List Arr → List Arr
  | [] => []
  | b :: r => if a = b then r else b :: dropArr a r

/-- The queue has a free slot again: the credit comes back (R138). -/
def State.queueFreed (s : State) (n : Nat) : State := if (s.core n).queue.length < 64 then s.waitEnd CGS.QFULL_CYCLES n else s

/-- Count an arrival by class. -/
def arrCounter (cls : Nat) : Fld :=
  if cls = 0 then CGS.ARR_SENSOR else if cls = 1 then CGS.ARR_LOCAL else if cls = 2 then CGS.ARR_REMOTE else CGS.ARR_REPLAY

/-- Handle a released arrival: its effective tick (R136), its walks (R146), then its ON_EVENT handler (R130, R179). -/
def State.handle (s : State) (n : Nat) (a : Arr) : State :=
  let stamp := s.tickOf a.t
  let nt := s.ntOf n
  let τ := if a.late then max (s.closedTicks n - 1) nt else max stamp nt
  let s := s.inc (arrCounter a.cls) n
  let spikeArr := a.cls = 1 ∨ a.cls = 2
  let es := if spikeArr then s.matching n a.addr else []
  if spikeArr ∧ es = [] then (s.inc CGS.FANIN_MISS n).irqSet (cgPage n) 10
  else
    let s := s.upCore n fun c => { c with nt := τ }
    let s := es.foldl (fun s e => s.walkEntry n τ e a.addr) s
    if bit (s.rg CGS.EV_EN n) a.cls then
      let entry := match es.find? (fun e => bitsAt (s.fanin n e).1 38 3 == 3) with | some e => e | none => 0xFFFFFFFF
      s.enter n a.cls (some a) entry τ stamp a.t 0
    else s

/-- May the core release: it runs, is free, and its output port is not full (R234). -/
def State.coreFree (s : State) (n : Nat) : Bool := s.coreOn n && (s.core n).run.isNone && s.portRoom n 1 && !s.computeStopped

/-- Release the next arrival (R130, R134). -/
def State.release (s : State) (n : Nat) : State :=
  if !s.coreFree n then s
  else
    match s.nextArr n with
    | none => s
    | some a =>
      let s := s.upCore n fun c => { c with queue := dropArr a c.queue }
      (s.queueFreed n).handle n a

/-! ## The closing steps of a tick (R137, R151) -/

/-- Rest a neuron whose age is 65,536 ticks or more, and count it (R151). -/
def State.restNeuron (s : State) (n i h : Nat) : State :=
  let x := s.neuron n i
  if 65536 ≤ dt17 h x.t17 then (s.setNeuron n i ⟨0, h % 2 ^ 17, false⟩).inc CGS.SWEEP_RESTS n else s

/-- The sweep visit of closed tick `h`: after every 64th closed tick (128th in N64), taken as those with h mod 64 = 63 (mod 128 =
127); the phase is a DESIGN CHOICE (assumption 32). -/
def State.sweep (s : State) (n h : Nat) : State :=
  let d := if s.n64 n then 128 else 64
  if h % d = d - 1 then s.restNeuron n (h % 65536 / d) h else s

/-- The progress report for tick `h` + 1 goes to the cluster's Ledger bank (R137, R227). -/
def State.report (s : State) (n h : Nat) : State :=
  let s := s.rs CGS.PROGRESS n (h + 1)
  let s := s.upCore n fun c => { c with stepped := h + 1 }
  s.portPut n ⟨0xB, 1, n / 256, 1, coreSrc n, [wrap 48 (h + 1)]⟩

/-- The slot number of group `g` whose instant lies in tick `h`. -/
def State.slotIn (s : State) (g h : Nat) : Option Nat :=
  let c := s.sch g
  ((c.starts ++ c.next.toList).find? fun p => s.tickOf p.2 == h).map Prod.fst

/-- The last closing step of tick `h`: the sweep visit and the report (R137). -/
def State.closeReport (s : State) (n h : Nat) : State := (s.sweep n h).report n h

/-- From ON_SLOT on: its handler goes on with the report at its END (R181). -/
def State.closeSlot (s : State) (n h : Nat) : State :=
  match s.slotIn (s.rg CGS.SLOT_GROUP n) h with
  | some k =>
    if s.coreOn n && s.on CGS.SLOT_EN n then s.enter n 5 none 0xFFFFFFFF h h (h * 1024 - s.rg TIME.TICK_PHASE 0) k
    else s.closeReport n h
  | none => s.closeReport n h

/-- The closing steps of tick `h`, from ON_TICK on. -/
def State.closeTick (s : State) (n h : Nat) : State :=
  if s.coreOn n && s.on CGS.TICK_EN n then s.enter n 4 none 0xFFFFFFFF h h (h * 1024 - s.rg TIME.TICK_PHASE 0) 0
  else s.closeSlot n h

/-- May the closing steps of the core's next tick run: it is closed, no release of it is left, no handler runs, and the output port
has room for the report. -/
def State.closeDue (s : State) (n : Nat) : Bool :=
  let h := s.stepOf n
  decide (h < s.closedTicks n) && !s.computeStopped && !s.inReset (cgPage n) && !s.handlerRuns n && s.portRoom n 1 && !s.coreFenced n && !s.on CGS.UCODE_ERR n &&
    (if s.coreOn n then (s.core n).queue.all (fun a => !a.late && decide (h < s.tickOf a.t)) else (s.core n).queue.isEmpty)

/-- Once all releases of closed tick h are handled: ON_TICK, ON_SLOT, the sweep visit, the report. -/
def State.tickClose (s : State) (n : Nat) : State := if s.closeDue n then s.closeTick n (s.stepOf n) else s

/-! ## RUN, faults and pauses (R152, R179, R184) -/

/-- ON_INIT that is due is entered once no handler is in progress (R179). -/
def State.initEnter (s : State) (n : Nat) : State :=
  if (s.core n).initDue && (s.core n).run.isNone then
    (s.upCore n fun c => { c with initDue := false }).enter n 6 none 0xFFFFFFFF (s.ntOf n) 0 0 0
  else s

/-- RUN is written from 0 to 1: the core runs ON_INIT before any arrival, after a handler still in progress (R179). -/
def State.coreStart (s : State) (n : Nat) : State :=
  let s := s.rb CGS.RUN n true
  if s.on CGS.INIT_EN n then (s.upCore n fun c => { c with initDue := true }).initEnter n else s

/-- RUN becomes 0: an ON_INIT that has not begun does not run. -/
def State.runOff (s : State) (n : Nat) : State :=
  let c := s.core n
  let s := s.rb CGS.RUN n false
  if c.initDue || (match c.run with | some r => s.initWaits n r | none => false) then
    s.upCore n fun c => { c with initDue := false, run := c.run.filter fun r => !s.initWaits n r }
  else s

/-- A micro-op faults (R184). -/
def State.ucodeFault (s : State) (n code pc : Nat) : State :=
  let kind := match (s.core n).run with | some r => r.kind | none => 0
  let s := (s.rb CGS.UCODE_ERR n true).rb CGS.RUN n false
  let s := (((s.rs CGS.UC_PC n pc).rs CGS.UC_CODE n code).rs CGS.UC_HANDLER n kind).rb CGS.UC_VALID n true
  let s := s.irqSet (cgPage n) 9
  let s := s.inc CGS.UC_DROPS n (s.core n).queue.length
  (s.upCore n fun c => { c with queue := [], run := none, initDue := false }).queueFreed n

/-- The true age of a neuron at tick `h` after a pause that began at tick `r` (R152): the age at the pause plus the ticks paused. -/
def trueAge (r h t17 : Nat) : Nat := if r ≤ h then dt17 r t17 + (h - r) else dt17 h t17

/-- Rest a neuron whose true age is 65,536 ticks or more (R151, R152). -/
def State.restAged (s : State) (n r h i : Nat) : State :=
  if 65536 ≤ trueAge r h (s.neuron n i).t17 then (s.setNeuron n i ⟨0, h % 2 ^ 17, false⟩).inc CGS.SWEEP_RESTS n else s

/-- The full pass over all neurons at tick `h`, after a pause that began at tick `r` (R152). -/
def State.fullPass (s : State) (n r h : Nat) : State :=
  (List.range (s.nNeurons n)).foldl (fun s i => s.restAged n r h i) s

/-- The tick in which a core's pause began: the latest tick it has stepped or taken as NT. -/
def State.pausedAt (s : State) (n : Nat) : Nat := max (s.stepOf n) (s.ntOf n)

/-- A core is idle (R158). -/
def State.coreIdle (s : State) (n : Nat) : Bool :=
  s.coreFenced n || (!s.on CGS.RUN n && (s.core n).queue.isEmpty && (s.core n).run.isNone && (s.core n).port.isEmpty)

end Sys2Proof.Machine
end

