-- ==== Sys2Proof/Machine/Microcode.lean ====
section
/-!
DEFINITION. The micro-ops (chapter 06): one meaning per row over one shared issue operation.
-/
namespace Sys2Proof.Machine
open Regs

/-- What an ALU or ACC micro-op writes: register D, an accumulator, flags; `none` is ILLEGAL (R169, R170). -/
structure AluW where
  d : Option Nat
  acc : Option (Nat × Int)
  fl : FlagW
deriving DecidableEq, Repr

/-- Write only D, with flags. -/
def AluW.reg (v : Nat) (fl : FlagW) : Option AluW := some ⟨some v, none, fl⟩

/-- Why a micro-op cannot take effect now: it faults with a code of R184, it waits for a read (R175), or it stalls while the
output port has no room for its words (R130, R173). -/
inductive UStop where
  | fault (code : Nat)
  | wait
  | stall
deriving DecidableEq, Repr

/-- Fault codes of R184. -/
def ucIllegal : Nat := 1
def ucMem : Nat := 2
def ucPc : Nat := 3
def ucLimit : Nat := 4
def ucContext : Nat := 5
def ucStack : Nat := 6
def ucLatch : Nat := 7

/-- Is the word at PC + 1 issued with the word at PC (R167)? -/
def State.pairsWith (s : State) (n pc w : Nat) : Bool :=
  uP w && pc < 255 && opClass (uOp w) != some .ctl &&
    (let c := opClass (uOp (s.uword n (pc + 1)))
     c == some .alu || c == some .acc)

/-- Change the handler run of a core. -/
def State.upRun (s : State) (n : Nat) (f : HRun → HRun) : State := s.upCore n fun c => { c with run := c.run.map f }

/-- Count micro-ops of the run (R167, R185). -/
def State.countUops (s : State) (n k : Nat) : State := (s.inc CGS.UOPS n k).upRun n fun r => { r with count := r.count + k }

/-- Go on at `pc`; passing word 255 faults as PC (R174). -/
def State.goto (s : State) (n pc : Nat) : State := if 256 ≤ pc then s.ucodeFault n ucPc 255 else s.upRun n fun r => { r with pc := pc }

/-- After word `pc`: the next word issues as its lane-1 partner, which reads the engine as it stood before (R167), or follows as
usual. -/
def State.fallThrough (s : State) (n : Nat) (r : HRun) (w : Nat) (old : Eng) : State :=
  let s := s.upRun n fun x => { x with pair := if r.pair.isNone && s.pairsWith n r.pc w then some old else none }
  s.goto n (r.pc + 1)

/-- May the handler in progress issue: the page's CTRL.ENABLE is 1 (R159), and the walks before it have placed their spikes in the
16-word output port (R130). A handler in progress goes on to its END when RUN is cleared (assumption 149). -/
def State.handlerGoes (s : State) (n : Nat) : Bool := s.on (Hdr.ENABLE .cg) (n / 16) && s.portRoom n 0

/-- Issue the micro-op at PC if it is opcode `op`. `cost` is the micro-ops it counts and `body` its effect when COND holds, from
the core's run, the word and the engine as read; `body` sees the micro-op already counted. A faulting micro-op has no effect but the
fault; a waiting or stalled one tries again, and a stall counts in OUT_STALL_CYCLES. -/
def State.issue (s : State) (n op : Nat) (cost : State → HRun → Nat)
    (body : State → HRun → Nat → Eng → Except UStop State) : State :=
  match (s.core n).run with
  | none => s
  | some r =>
    let w := s.uword n r.pc
    if uOp w ≠ op || !s.handlerGoes n then s
    else
      let rd := r.pair.getD (s.core n).eng
      let late := match r.arr with | some a => a.late | none => false
      match condHolds (uCond w) rd.fl late with
      | none => s.ucodeFault n ucIllegal r.pc
      | some holds =>
        let c := if holds then cost s r else 1
        if s.rg CGS.UC_LIMIT n ≠ 0 ∧ s.rg CGS.UC_LIMIT n < r.count + c then s.ucodeFault n ucLimit r.pc
        else if !holds then (s.countUops n 1).fallThrough n r w rd
        else
          match body (s.countUops n c) r w rd with
          | .error (.fault code) => s.ucodeFault n code r.pc
          | .error .wait => s
          | .error .stall => s.waitBegin CGS.OUT_STALL_CYCLES n
          | .ok s' => s'.waitEnd CGS.OUT_STALL_CYCLES n

/-- One micro-op. -/
def cost1 (_s : State) (_r : HRun) : Nat := 1

/-- An ALU or ACC micro-op: results written over the current engine, so that lane 1's values stand (R167); flags only with SF,
or always (CMP). -/
def State.aluOp (s : State) (n op : Nat) (always : Bool) (f : State → HRun → Nat → Eng → Option AluW) : State :=
  s.issue n op cost1 fun s r w rd =>
    match f s r w rd with
    | none => .error (.fault ucIllegal)
    | some x =>
      let s := s.upCore n fun c =>
        let e := match x.d with | some v => c.eng.setReg (uD w) v | none => c.eng
        let e := match x.acc with | some (i, v) => e.setAcc i v | none => e
        { c with eng := if uSF w || always then { e with fl := e.fl.put x.fl } else e }
      .ok (s.fallThrough n r w rd)

/-- Apply register writes and flags of a lane-0 micro-op, then go on. -/
def State.uDone (s : State) (n : Nat) (r : HRun) (w : Nat) (rd : Eng) (regs : List (Nat × Nat)) (fl : FlagW) : State :=
  let s := s.upCore n fun c =>
    let e := regs.foldl (fun e p => e.setReg p.1 p.2) c.eng
    { c with eng := { e with fl := e.fl.put fl } }
  s.fallThrough n r w rd

/-- Flags that only SF = 1 writes. -/
def sfFlags (w : Nat) (fl : FlagW) : FlagW := if uSF w then fl else FlagW.none

/-! ## ALU (R169) -/

def w32 : Nat := 0x100000000
def not32 (x : Nat) : Nat := w32 - 1 - x % w32

def uNop (_ : State) (_ : HRun) (_ : Nat) (_ : Eng) : Option AluW := some ⟨none, none, FlagW.none⟩
def uLogic (f : Nat → Nat → Nat) (_ : State) (_ : HRun) (w : Nat) (e : Eng) : Option AluW :=
  let v := f (e.opA w) (e.opB w)
  AluW.reg v (flagsZN v)
def uMov (_ : State) (_ : HRun) (w : Nat) (e : Eng) : Option AluW := AluW.reg (e.opB w) (flagsZN (e.opB w))
def uAdd (_ : State) (_ : HRun) (w : Nat) (e : Eng) : Option AluW :=
  AluW.reg (wrap 32 (e.opA w + e.opB w)) (flagsAdd (e.opA w) (e.opB w))
def uSub (_ : State) (_ : HRun) (w : Nat) (e : Eng) : Option AluW :=
  AluW.reg (wrap 32 (e.opA w + w32 - e.opB w)) (flagsSub (e.opA w) (e.opB w))
def uCmp (_ : State) (_ : HRun) (w : Nat) (e : Eng) : Option AluW := some ⟨none, none, flagsSub (e.opA w) (e.opB w)⟩

/-- Shifts and rotates by B[4:0]. -/
def shl32 (a k : Nat) : Nat := wrap 32 (a <<< (k % 32))
def shr32 (a k : Nat) : Nat := a >>> (k % 32)
def sra32 (a k : Nat) : Nat := unsigned 32 (floorDiv (signed 32 a) (2 ^ (k % 32)))
def ror32 (a k : Nat) : Nat := wrap 32 (a >>> (k % 32) ||| a <<< ((32 - k % 32) % 32))

/-- Minimum (`mx` = false) or maximum; MOD[0] = 1 compares unsigned. -/
def uMinMax (mx : Bool) (_ : State) (_ : HRun) (w : Nat) (e : Eng) : Option AluW :=
  let a := e.opA w
  let b := e.opB w
  let lt := if uMod w % 2 = 1 then decide (a < b) else decide (signed 32 a < signed 32 b)
  let v := if lt == mx then b else a
  AluW.reg v (flagsZN v)

def uAbs (_ : State) (_ : HRun) (w : Nat) (e : Eng) : Option AluW :=
  let a := e.opA w
  if a = 0x80000000 then AluW.reg 0x7FFFFFFF ((flagsZN 0x7FFFFFFF).withV true)
  else
    let v := (signed 32 a).natAbs
    AluW.reg v ((flagsZN v).withV false)

def uPopc (_ : State) (_ : HRun) (w : Nat) (e : Eng) : Option AluW :=
  let v := popcount 32 (e.opA w)
  AluW.reg v { FlagW.none with z := some (v == 0) }

def uExt (_ : State) (_ : HRun) (w : Nat) (e : Eng) : Option AluW :=
  match extWidth w with
  | none => none
  | some (lsb, wd) =>
    let f := bitsAt (e.opA w) lsb wd
    let v := if (uMod w).testBit 5 then unsigned 32 (signed wd f) else f
    AluW.reg v (flagsZN v)

def uIns (_ : State) (_ : HRun) (w : Nat) (e : Eng) : Option AluW :=
  match extWidth w with
  | none => none
  | some (lsb, wd) =>
    let v := wrap 32 (setBitsAt (e.reg (uD w)) lsb wd (e.opA w))
    AluW.reg v (flagsZN v)

def uSat (_ : State) (_ : HRun) (w : Nat) (e : Eng) : Option AluW :=
  let wd := uImm w % 64
  if wd < 2 ∨ 32 < wd then none
  else
    let a := signed 32 (e.opA w)
    let v := unsigned 32 (satS wd a)
    AluW.reg v ((flagsZN v).withV (decide (satS wd a ≠ a)))

/-- MOVS reads a special register (R162). -/
def uMovs (_ : State) (r : HRun) (w : Nat) (_ : Eng) : Option AluW :=
  let v := r.special (uImm w % 32)
  AluW.reg v (flagsZN v)

def uMul (_ : State) (_ : HRun) (w : Nat) (e : Eng) : Option AluW :=
  let v := wrap 32 (e.opA w * e.opB w)
  AluW.reg v (flagsZN v)

/-- The time-surface test. -/
def uTsb (_ : State) (_ : HRun) (w : Nat) (e : Eng) : Option AluW :=
  let a := e.opA w % 65536
  let b := e.opB w % 65536
  let hit := decide (a ≤ b)
  let i := uMod w % 4
  let x := e.acc i + b - a
  let v := wrap 32 (e.reg (uD w) <<< 1) + (if hit then 1 else 0)
  some ⟨some v, if hit then some (i, sat40 x) else none,
    { FlagW.none with z := some (!hit), v := some (hit && decide (sat40 x ≠ x)) }⟩

/-! ## Accumulators (R170) -/

/-- Write accumulator `i` with the exact sum `x`, clamped once. -/
def AluW.accum (i : Nat) (x : Int) : Option AluW :=
  some ⟨none, some (i, sat40 x), (flagsAcc (sat40 x)).withV (decide (sat40 x ≠ x))⟩

def uAset (_ : State) (_ : HRun) (w : Nat) (_ : Eng) : Option AluW :=
  let x := signed 32 (uImm w)
  some ⟨none, some (uD w % 4, x), flagsAcc x⟩
def uMac (_ : State) (_ : HRun) (w : Nat) (e : Eng) : Option AluW :=
  let a := e.opA w % 65536
  let b := e.opB w % 65536
  AluW.accum (uD w % 4) (e.acc (uD w % 4) + (if uMod w % 2 = 1 then (a : Int) * b else signed 16 a * signed 16 b))
def uMac2 (_ : State) (_ : HRun) (w : Nat) (e : Eng) : Option AluW :=
  let a := e.opA w
  let b := e.opB w
  AluW.accum (uD w % 4) (e.acc (uD w % 4) + signed 16 a * signed 16 b + signed 16 (a >>> 16) * signed 16 (b >>> 16))
def uAadd (_ : State) (_ : HRun) (w : Nat) (e : Eng) : Option AluW :=
  AluW.accum (uD w % 4) (e.acc (uD w % 4) + signed 32 (e.opB w))
def uAget (_ : State) (_ : HRun) (w : Nat) (e : Eng) : Option AluW :=
  let x := floorDiv (e.acc (uA w % 4)) (2 ^ (uMod w % 32))
  let y := satS 32 x
  AluW.reg (unsigned 32 y) ((flagsZN (unsigned 32 y)).withV (decide (y ≠ x)))

/-! ## Memory (R163, R171, R175) -/

/-- Does an access touch the destination of an outstanding read? -/
def Core.nbrTouches (c : Core) (a size : Nat) : Bool :=
  match c.nbr with
  | some (d, r) => decide (a < d + 2 * (2 * r + 1) * (2 * r + 1) ∧ d < a + size)
  | none => false

/-- The post-increment of g[A]. -/
def postInc (w size : Nat) (e : Eng) : List (Nat × Nat) := if uMod w % 2 = 1 then [(uA w, e.opA w + size)] else []

/-- A load of `size` bytes. -/
def State.uLoad (n size : Nat) (s : State) (r : HRun) (w : Nat) (e : Eng) : Except UStop State :=
  let a := e.addr w
  if !memOk a size 0x6000 then .error (.fault ucMem)
  else if (s.core n).nbrTouches a size then .error .wait
  else
    let m := s.cmem n a size
    let v := if size = 2 ∧ (uMod w).testBit 1 then unsigned 32 (signed 16 m) else m
    .ok (s.uDone n r w e (postInc w size e ++ [(uD w, v)]) (sfFlags w (flagsZN v)))

/-- A store of `size` bytes. -/
def State.uStore (n size : Nat) (s : State) (r : HRun) (w : Nat) (e : Eng) : Except UStop State :=
  let a := e.addr w
  if uIB w then .error (.fault ucIllegal)
  else if !memOk a size 0x5800 then .error (.fault ucMem)
  else if (s.core n).nbrTouches a size then .error .wait
  else .ok ((s.setCmem n a size (e.reg (uB w))).uDone n r w e (postInc w size e) FlagW.none)

/-! ## Neurons (R172) -/

def State.uNld (n : Nat) (s : State) (r : HRun) (w : Nat) (e : Eng) : Except UStop State :=
  let i := wrap 32 ((if uMod w % 2 = 1 then r.special 5 else e.opA w) + uImm w)
  if s.nNeurons n ≤ i then .error (.fault ucMem)
  else if (s.core n).nbrTouches (s.neuronAt n i) (s.neuronBytes n) then .error .wait
  else
    let x := s.neuron n i
    .ok ((s.upCore n fun c => { c with nl := ⟨true, i, x.v, x.t17, x.fired⟩ }).uDone n r w e [] FlagW.none)

/-- A micro-op on a valid NL. -/
def State.withNl (s : State) (n : Nat) (f : NLatch → Except UStop State) : Except UStop State :=
  if (s.core n).nl.valid then f (s.core n).nl else .error (.fault ucLatch)

/-- Put a neuron into NL. -/
def State.setNl (s : State) (n : Nat) (x : Neuron) : State :=
  s.upCore n fun c => { c with nl := { c.nl with v := x.v, t17 := x.t17, fired := x.fired } }

def NLatch.neuron (l : NLatch) : Neuron := ⟨l.v, l.t17, l.fired⟩

def State.uNst (n : Nat) (s : State) (r : HRun) (w : Nat) (e : Eng) : Except UStop State :=
  s.withNl n fun l =>
    if (s.core n).nbrTouches (s.neuronAt n l.idx) (s.neuronBytes n) then .error .wait
    else .ok ((s.setNeuron n l.idx l.neuron).uDone n r w e [] FlagW.none)

/-- Micro-ops LEAK counts: popcount(Δt) + 1 for 1 ≤ Δt ≤ 65,535, otherwise 1. -/
def leakCost (n : Nat) (s : State) (r : HRun) : Nat :=
  let l := (s.core n).nl
  if l.valid then max 1 (leakOps (dt17 r.ht l.t17)) else 1

def State.uLeak (n : Nat) (s : State) (r : HRun) (w : Nat) (e : Eng) : Except UStop State :=
  s.withNl n fun l =>
    let x := s.leak n l.neuron r.ht
    let s := (s.setNl n x).upCore n fun c => { c with nt := max c.nt r.ht }
    .ok (s.uDone n r w e [] (sfFlags w { FlagW.none with z := some (decide (x.v = 0)) }))

def State.uNadd (n : Nat) (s : State) (r : HRun) (w : Nat) (e : Eng) : Except UStop State :=
  s.withNl n fun l =>
    let x := l.v + signed 64 (unsigned 64 (signed 32 (e.opB w) * 2 ^ (uMod w % 32)))
    let (v, s) := s.satV n x
    .ok ((s.setNl n { l.neuron with v := v }).uDone n r w e []
      (sfFlags w ((flagsAcc v).withV (decide (v ≠ x)))))

def State.uNget (n : Nat) (s : State) (r : HRun) (w : Nat) (e : Eng) : Except UStop State :=
  s.withNl n fun l =>
    let v := unsigned 32 l.v
    .ok (s.uDone n r w e [(uD w, v)] (sfFlags w (flagsZN v)))

def State.uNput (n : Nat) (s : State) (r : HRun) (w : Nat) (e : Eng) : Except UStop State :=
  s.withNl n fun l =>
    let x := signed 32 (e.opA w)
    let (v, s) := s.satV n x
    .ok ((s.setNl n { l.neuron with v := v }).uDone n r w e [] (sfFlags w { FlagW.none with v := some (decide (v ≠ x)) }))

/-- FIRE: the firing test on NL, and a spike with the PAYLOAD and tag of the word. -/
def State.uFire (n : Nat) (s : State) (r : HRun) (w : Nat) (e : Eng) : Except UStop State :=
  s.withNl n fun l =>
    if r.kind = 6 then .error (.fault ucContext)
    else if !s.portRoom n 2 then .error .stall
    else
      let (x, spk, s) := s.fireTest n l.neuron
      let s := s.setNl n x
      let payload := if uMod w % 2 = 1 then e.reg (uB w) % 2 ^ 29 else 0
      let s := if spk then s.spike n l.idx r.ht payload (uImm w % 16) else s
      .ok (s.uDone n r w e [] { FlagW.none with f := some spk })

def State.uNclr (n : Nat) (s : State) (r : HRun) (w : Nat) (e : Eng) : Except UStop State :=
  s.withNl n fun l =>
    let now := r.ht % 2 ^ 17
    .ok ((s.setNl n ⟨0, now, l.fired && l.t17 == now⟩).uDone n r w e [] FlagW.none)

/-! ## The port (R173, R175–R178, R180) -/

/-- An event arrival (SENSOR or REPLAY), whose x, y and stream a micro-op may use. -/
def HRun.event (r : HRun) : Option Arr := match r.arr with | some a => if r.kind = 0 ∨ r.kind = 3 then some a else none | none => none

/-- Stream, x and y of an arrival's u29 address. -/
def Arr.str (a : Arr) : Nat := bitsAt a.addr 23 6
def Arr.x (a : Arr) : Nat := bitsAt a.addr 12 11
def Arr.y (a : Arr) : Nat := bitsAt a.addr 1 11

def State.uNbr (n : Nat) (s : State) (r : HRun) (w : Nat) (e : Eng) : Except UStop State :=
  let md := uMod w
  let im := uImm w
  let rad := bitsAt md 2 3
  let dest := bitsAt im 16 16
  if r.kind = 6 ∨ (r.event.isNone ∧ md % 4 ≠ 0) then .error (.fault ucContext)
  else if bitsAt im 12 2 = 3 ∨ im.testBit 15 ∨ rad = 0 ∨ 4 < rad ∨ dest % 2 = 1 then .error (.fault ucIllegal)
  else if dest < 0x800 ∨ 0x5800 < dest + 2 * (2 * rad + 1) * (2 * rad + 1) then .error (.fault ucMem)
  else if (s.core n).nbr.isSome then .error .wait
  else if !s.portRoom n 2 then .error .stall
  else
    let ev : Arr := r.event.getD ⟨0, 0, 0, 0, false⟩
    let x := if md.testBit 0 then ev.x else e.reg (uA w) % 2048
    let y := if md.testBit 0 then ev.y else e.reg (uB w) % 2048
    let key := if md.testBit 1 then ev.str else bitsAt im 6 6
    let w0 := x ||| y <<< 11 ||| rad <<< 22 ||| bitsAt im 12 2 <<< 25 ||| bitsAt im 0 6 <<< 27 ||| key <<< 33 |||
      dest <<< 39 ||| bitsAt im 14 1 <<< 55
    let s := s.upCore n fun c => { c with nbr := some (dest, rad) }
    let s := s.portPut n ⟨4, 1, n / 256, 1, coreSrc n, [w0, wrap 64 r.readTick]⟩
    .ok (s.uDone n r w e [] FlagW.none)

def State.uWaitn (n : Nat) (s : State) (r : HRun) (w : Nat) (e : Eng) : Except UStop State :=
  if (s.core n).nbr.isSome then .error .wait else .ok (s.uDone n r w e [] FlagW.none)

def State.uCwr (n : Nat) (s : State) (r : HRun) (w : Nat) (e : Eng) : Except UStop State :=
  let md := uMod w
  if r.kind = 6 ∨ (r.event.isNone ∧ md.testBit 1) then .error (.fault ucContext)
  else if !s.portRoom n 1 then .error .stall
  else
    let ev : Arr := r.event.getD ⟨0, 0, 0, 0, false⟩
    let x := if md.testBit 1 then ev.x else e.reg (uA w) % 2048
    let y := if md.testBit 1 then ev.y else e.reg (uB w) % 2048
    let s := s.portPut n ⟨3, 1, n / 256, 1, cwriteAux n (bitsAt (uImm w) 0 6),
      [evWord (bitsAt (uImm w) 6 6) x y (md % 2) (st35 r.recT)]⟩
    .ok (s.uDone n r w e [] FlagW.none)

def State.uEmitt (n : Nat) (s : State) (r : HRun) (w : Nat) (e : Eng) : Except UStop State :=
  let a := e.addr w
  if r.kind = 6 then .error (.fault ucContext)
  else if a < 0x800 ∨ 0x5800 < a + 64 ∨ a % 64 ≠ 0 then .error (.fault ucMem)
  else if (s.core n).nbrTouches a 64 then .error .wait
  else if !s.portRoom n 8 then .error .stall
  else
    let ws := (List.range 8).map fun i => s.cmem n (a + 8 * i) 8
    let w0 := setBitsAt (ws.getD 0 0) 0 35 (st35 r.recT)
    let s := s.portPut n ⟨6, 1, n / 256, 2, coreSrc n, w0 :: ws.drop 1⟩
    .ok (s.uDone n r w e [] FlagW.none)

def State.uEmitf (n : Nat) (s : State) (r : HRun) (w : Nat) (e : Eng) : Except UStop State :=
  let own := (uMod w).testBit 0
  if r.kind = 6 ∨ (r.event.isNone ∧ !own) then .error (.fault ucContext)
  else if !s.portRoom n 2 then .error .stall
  else
    let addr := if own then e.reg (uD w) % 2 ^ 29 else (r.event.getD ⟨0, 0, 0, 0, false⟩).addr
    let s := s.portPut n ⟨7, 2, 0, 0, coreSrc n, [addr <<< 35 ||| st35 r.recT, e.reg (uA w) ||| e.reg (uB w) <<< 32]⟩
    .ok (s.uDone n r w e [] FlagW.none)

/-! ## Control (R174, R181) -/

/-- Branch to IMM[7:0]. -/
def State.branch (s : State) (n w : Nat) : State := s.upRun n fun r => { r with pc := uImm w % 256, pair := none }

def State.uB (n : Nat) (s : State) (_ : HRun) (w : Nat) (_ : Eng) : Except UStop State := .ok (s.branch n w)

def State.uCall (n : Nat) (s : State) (r : HRun) (w : Nat) (_ : Eng) : Except UStop State :=
  if 4 ≤ r.stack.length then .error (.fault ucStack)
  else .ok ((s.upRun n fun x => { x with stack := (r.pc + 1) :: r.stack }).branch n w)

def State.uRet (n : Nat) (s : State) (r : HRun) (_ : Nat) (_ : Eng) : Except UStop State :=
  match r.stack with
  | [] => .error (.fault ucStack)
  | a :: rest => .ok ((s.upRun n fun x => { x with stack := rest, pair := none }).goto n a)

def State.uLoop (n : Nat) (s : State) (r : HRun) (w : Nat) (e : Eng) : Except UStop State :=
  let v := wrap 32 (e.opA w + w32 - 1)
  if v = 0 then .ok (s.uDone n r w e [(uA w, v)] FlagW.none)
  else .ok ((s.upCore n fun c => { c with eng := c.eng.setReg (uA w) v }).branch n w)

/-- END: once no read is outstanding the handler ends; the core goes on with the next step of R137 after ON_TICK and ON_SLOT. -/
def State.uEnd (n : Nat) (s : State) (r : HRun) (_ : Nat) (_ : Eng) : Except UStop State :=
  if (s.core n).nbr.isSome then .error .wait
  else
    let s := s.upCore n fun c => { c with run := none, nt := max c.nt r.ht }
    .ok ((if r.kind = 4 then s.closeSlot n (s.stepOf n)
      else if r.kind = 5 then s.closeReport n (s.stepOf n) else s).initEnter n)

/-- A word whose opcode is not listed faults as ILLEGAL (R165). -/
def State.uUnlisted (s : State) (n : Nat) : State :=
  match (s.core n).run with
  | none => s
  | some r => if (opClass (uOp (s.uword n r.pc))).isNone && s.handlerGoes n then s.ucodeFault n ucIllegal r.pc else s

/-! ## Meanings -/

/-- NOP (R169). -/
def execUopNop (t : Nat) (core : Fin 4096) (s : State) : Res :=
  .next ((s.advance t).aluOp core 0x00 false uNop)

/-- MOV (R169). -/
def execUopMov (t : Nat) (core : Fin 4096) (s : State) : Res :=
  .next ((s.advance t).aluOp core 0x01 false uMov)

/-- ADD (R169). -/
def execUopAdd (t : Nat) (core : Fin 4096) (s : State) : Res :=
  .next ((s.advance t).aluOp core 0x02 false uAdd)

/-- SUB (R169). -/
def execUopSub (t : Nat) (core : Fin 4096) (s : State) : Res :=
  .next ((s.advance t).aluOp core 0x03 false uSub)

/-- AND (R169). -/
def execUopAnd (t : Nat) (core : Fin 4096) (s : State) : Res :=
  .next ((s.advance t).aluOp core 0x04 false (uLogic (· &&& ·)))

/-- OR (R169). -/
def execUopOr (t : Nat) (core : Fin 4096) (s : State) : Res :=
  .next ((s.advance t).aluOp core 0x05 false (uLogic (· ||| ·)))

/-- XOR (R169). -/
def execUopXor (t : Nat) (core : Fin 4096) (s : State) : Res :=
  .next ((s.advance t).aluOp core 0x06 false (uLogic (· ^^^ ·)))

/-- ANDN (R169). -/
def execUopAndn (t : Nat) (core : Fin 4096) (s : State) : Res :=
  .next ((s.advance t).aluOp core 0x07 false (uLogic fun a b => a &&& not32 b))

/-- SHL (R169). -/
def execUopShl (t : Nat) (core : Fin 4096) (s : State) : Res :=
  .next ((s.advance t).aluOp core 0x08 false (uLogic shl32))

/-- SHR (R169). -/
def execUopShr (t : Nat) (core : Fin 4096) (s : State) : Res :=
  .next ((s.advance t).aluOp core 0x09 false (uLogic shr32))

/-- SRA (R169). -/
def execUopSra (t : Nat) (core : Fin 4096) (s : State) : Res :=
  .next ((s.advance t).aluOp core 0x0A false (uLogic sra32))

/-- ROR (R169). -/
def execUopRor (t : Nat) (core : Fin 4096) (s : State) : Res :=
  .next ((s.advance t).aluOp core 0x0B false (uLogic ror32))

/-- MIN (R169). -/
def execUopMin (t : Nat) (core : Fin 4096) (s : State) : Res :=
  .next ((s.advance t).aluOp core 0x0C false (uMinMax false))

/-- MAX (R169). -/
def execUopMax (t : Nat) (core : Fin 4096) (s : State) : Res :=
  .next ((s.advance t).aluOp core 0x0D false (uMinMax true))

/-- ABS (R169). -/
def execUopAbs (t : Nat) (core : Fin 4096) (s : State) : Res :=
  .next ((s.advance t).aluOp core 0x0E false uAbs)

/-- POPC (R169). -/
def execUopPopc (t : Nat) (core : Fin 4096) (s : State) : Res :=
  .next ((s.advance t).aluOp core 0x0F false uPopc)

/-- CMP (R169). -/
def execUopCmp (t : Nat) (core : Fin 4096) (s : State) : Res :=
  .next ((s.advance t).aluOp core 0x10 true uCmp)

/-- EXT (R169). -/
def execUopExt (t : Nat) (core : Fin 4096) (s : State) : Res :=
  .next ((s.advance t).aluOp core 0x11 false uExt)

/-- INS (R169). -/
def execUopIns (t : Nat) (core : Fin 4096) (s : State) : Res :=
  .next ((s.advance t).aluOp core 0x12 false uIns)

/-- SAT (R169). -/
def execUopSat (t : Nat) (core : Fin 4096) (s : State) : Res :=
  .next ((s.advance t).aluOp core 0x13 false uSat)

/-- MOVS (R162). -/
def execUopMovs (t : Nat) (core : Fin 4096) (s : State) : Res :=
  .next ((s.advance t).aluOp core 0x14 false uMovs)

/-- MUL (R169). -/
def execUopMul (t : Nat) (core : Fin 4096) (s : State) : Res :=
  .next ((s.advance t).aluOp core 0x15 false uMul)

/-- TSB (R169). -/
def execUopTsb (t : Nat) (core : Fin 4096) (s : State) : Res :=
  .next ((s.advance t).aluOp core 0x16 false uTsb)

/-- ASET (R170). -/
def execUopAset (t : Nat) (core : Fin 4096) (s : State) : Res :=
  .next ((s.advance t).aluOp core 0x20 false uAset)

/-- MAC (R170). -/
def execUopMac (t : Nat) (core : Fin 4096) (s : State) : Res :=
  .next ((s.advance t).aluOp core 0x21 false uMac)

/-- MAC2 (R170). -/
def execUopMac2 (t : Nat) (core : Fin 4096) (s : State) : Res :=
  .next ((s.advance t).aluOp core 0x22 false uMac2)

/-- AADD (R170). -/
def execUopAadd (t : Nat) (core : Fin 4096) (s : State) : Res :=
  .next ((s.advance t).aluOp core 0x23 false uAadd)

/-- AGET (R170). -/
def execUopAget (t : Nat) (core : Fin 4096) (s : State) : Res :=
  .next ((s.advance t).aluOp core 0x24 false uAget)

/-- LD16 (R171). -/
def execUopLd16 (t : Nat) (core : Fin 4096) (s : State) : Res :=
  .next ((s.advance t).issue core 0x30 cost1 (State.uLoad core 2))

/-- LD32 (R171). -/
def execUopLd32 (t : Nat) (core : Fin 4096) (s : State) : Res :=
  .next ((s.advance t).issue core 0x31 cost1 (State.uLoad core 4))

/-- ST16 (R171). -/
def execUopSt16 (t : Nat) (core : Fin 4096) (s : State) : Res :=
  .next ((s.advance t).issue core 0x32 cost1 (State.uStore core 2))

/-- ST32 (R171). -/
def execUopSt32 (t : Nat) (core : Fin 4096) (s : State) : Res :=
  .next ((s.advance t).issue core 0x33 cost1 (State.uStore core 4))

/-- NLD (R172). -/
def execUopNld (t : Nat) (core : Fin 4096) (s : State) : Res :=
  .next ((s.advance t).issue core 0x40 cost1 (State.uNld core))

/-- NST (R172). -/
def execUopNst (t : Nat) (core : Fin 4096) (s : State) : Res :=
  .next ((s.advance t).issue core 0x41 cost1 (State.uNst core))

/-- LEAK (R149). -/
def execUopLeak (t : Nat) (core : Fin 4096) (s : State) : Res :=
  .next ((s.advance t).issue core 0x42 (leakCost core) (State.uLeak core))

/-- NADD (R172). -/
def execUopNadd (t : Nat) (core : Fin 4096) (s : State) : Res :=
  .next ((s.advance t).issue core 0x43 cost1 (State.uNadd core))

/-- NGET (R172). -/
def execUopNget (t : Nat) (core : Fin 4096) (s : State) : Res :=
  .next ((s.advance t).issue core 0x44 cost1 (State.uNget core))

/-- NPUT (R172). -/
def execUopNput (t : Nat) (core : Fin 4096) (s : State) : Res :=
  .next ((s.advance t).issue core 0x45 cost1 (State.uNput core))

/-- FIRE (R153). -/
def execUopFire (t : Nat) (core : Fin 4096) (s : State) : Res :=
  .next ((s.advance t).issue core 0x46 cost1 (State.uFire core))

/-- NCLR (R172). -/
def execUopNclr (t : Nat) (core : Fin 4096) (s : State) : Res :=
  .next ((s.advance t).issue core 0x47 cost1 (State.uNclr core))

/-- NBR (R175). -/
def execUopNbr (t : Nat) (core : Fin 4096) (s : State) : Res :=
  .next ((s.advance t).issue core 0x50 cost1 (State.uNbr core))

/-- WAITN (R175). -/
def execUopWaitn (t : Nat) (core : Fin 4096) (s : State) : Res :=
  .next ((s.advance t).issue core 0x51 cost1 (State.uWaitn core))

/-- CWR (R176). -/
def execUopCwr (t : Nat) (core : Fin 4096) (s : State) : Res :=
  .next ((s.advance t).issue core 0x52 cost1 (State.uCwr core))

/-- EMITT (R177). -/
def execUopEmitt (t : Nat) (core : Fin 4096) (s : State) : Res :=
  .next ((s.advance t).issue core 0x53 cost1 (State.uEmitt core))

/-- EMITF (R178). -/
def execUopEmitf (t : Nat) (core : Fin 4096) (s : State) : Res :=
  .next ((s.advance t).issue core 0x54 cost1 (State.uEmitf core))

/-- B (R174). -/
def execUopB (t : Nat) (core : Fin 4096) (s : State) : Res :=
  .next ((s.advance t).issue core 0x60 cost1 (State.uB core))

/-- CALL (R174). -/
def execUopCall (t : Nat) (core : Fin 4096) (s : State) : Res :=
  .next ((s.advance t).issue core 0x61 cost1 (State.uCall core))

/-- RET (R174). -/
def execUopRet (t : Nat) (core : Fin 4096) (s : State) : Res :=
  .next ((s.advance t).issue core 0x62 cost1 (State.uRet core))

/-- LOOP (R174). -/
def execUopLoop (t : Nat) (core : Fin 4096) (s : State) : Res :=
  .next ((s.advance t).issue core 0x63 cost1 (State.uLoop core))

/-- END (R181). -/
def execUopEnd (t : Nat) (core : Fin 4096) (s : State) : Res :=
  .next ((s.advance t).issue core 0x64 cost1 (State.uEnd core))

/-- UNLISTED_MICRO_OP (R165). -/
def execUnlistedMicroOp (t : Nat) (core : Fin 4096) (s : State) : Res := .next ((s.advance t).uUnlisted core)

end Sys2Proof.Machine
end

