-- ==== Sys2Proof/Machine/Cluster.lean ====
section
/-!
DEFINITION. Cluster routers and the commands of the Ledger bank, the Turnstile and the cluster registers (chapters 04, 05, 08).
-/
namespace Sys2Proof.Machine
open Regs

def State.router (s : State) (k : Nat) : Router := Tab.get Router.init s.routers k
def State.upRouter (s : State) (k : Nat) (f : Router → Router) : State :=
  { s with routers := Tab.put Router.init s.routers k (f (s.router k)) }

/-- The cluster page. -/
def cluPage (k : Nat) : Page := ⟨.clu, k⟩

/-! ## Subscriptions (R131) -/

/-- The cores an event word is delivered to; `none` counts in SUB_NOMATCH. -/
def State.subCores (s : State) (k w : Nat) : Option (List Nat) :=
  let i := wStr w
  let tx := wX w / 32
  let ty := wY w / 32
  let x0 := s.rg CLU.TX0 k i
  let y0 := s.rg CLU.TY0 k i
  let tw := s.rg CLU.TW k i
  if s.on CLU.WIN_EN k i && decide (x0 ≤ tx ∧ tx < x0 + tw ∧ y0 ≤ ty ∧ ty < y0 + s.rg CLU.TH k i) then
    let e := s.rg CLU.SUB_BASE k i + (ty - y0) * tw + (tx - x0)
    let all := s.rg CLU.SUB_LO k e + s.rg CLU.SUB_HI k e <<< 32
    some ((List.range (s.rg CLU.N k e)).map fun j => bitsAt all (8 * j) 8).eraseDups
  else none

/-- The core numbers of a delivery, device-wide. -/
def State.targets (s : State) (k w : Nat) (cores : Bool) : List Nat :=
  if cores then ((s.subCores k w).getD []).map fun c => 256 * k + c else []

/-- Send a copy to a core; a copy for a fenced core is discarded and counted (R157). -/
def State.copyTo (s : State) (n ty aux : Nat) (words : List Nat) : State :=
  if s.coreFenced n then s.fencedDrop n
  else s.send ⟨ty, 0, n / 256, n % 256, aux, words⟩

/-! ## Event delivery (R110, R131, R233) -/

/-- The entry that an EVENT or REPLAY flit makes in its stream queue (R226, R227). -/
def Flit.queued (f : Flit) : QFlit :=
  ⟨f.words.getD 0 0, bitsAt f.aux 8 6, f.aux.testBit 7, f.aux.testBit 6, if f.ty = 1 then f.words[1]? else none⟩

/-- A flit enters the stream queue of its stream (R233). -/
def State.queuePut (s : State) (k : Nat) (q : QFlit) : State :=
  let key := k * 36 + wStr q.word
  { s with rqueue := Tab.put [] s.rqueue key (Tab.get [] s.rqueue key ++ [q]) }

/-- An event flit enters its stream queue (R233). -/
def State.eventFlit (s : State) (k : Nat) : State :=
  match s.takeFlit fun f => f.toUnit 0 k 0 with
  | none => s
  | some (f, s) => s.queuePut k f.queued

/-- The descriptors that a queued flit writes: those of an event, or the shadow ones of a Ledger-flagged replay pair (R110, R125). -/
def State.queueDescs (s : State) (k : Nat) (q : QFlit) : List Nat :=
  if q.t.isNone then s.eventDescs k q else if q.ledger then s.replayDescs k q.word q.map else []

/-- May the router deliver a flit: every subscribed core has a queue slot, and the bank has a credit for each write the flit makes; a
Ledger-flagged flit needs one even when it makes none (R233). -/
def State.mayDeliver (s : State) (k : Nat) (q : QFlit) : Bool :=
  let n := (s.queueDescs k q).length
  (s.targets k q.word q.cores).all s.coreRoom && s.bankRoom k (if q.ledger then max 1 n else n)

/-- The Ledger side of a delivery: an event's writes, or a replay pair's with its full time (R110, R316). -/
def State.deliverLedger (s : State) (k : Nat) (q : QFlit) : State :=
  match q.t with
  | none => s.ledgerEvent k q
  | some t => if q.ledger then s.ledgerReplay k q.word t q.map else s

/-- Deliver a flit to the bank and the subscribed cores. The copies keep the flit's tag (R226). -/
def State.deliver (s : State) (k : Nat) (q : QFlit) : State :=
  let s := s.deliverLedger k q
  let s := if q.cores && (s.subCores k q.word).isNone then s.inc CLU.SUB_NOMATCH k else s
  let aux := evAux q.map q.ledger q.cores
  (s.targets k q.word q.cores).foldl (fun s n => s.copyTo n (if q.t.isNone then 0 else 1) aux (q.word :: q.t.toList)) s

/-- Deliver the head of a stream queue, or count its wait (R233). -/
def State.queueDeliver (s : State) (k i : Nat) : State :=
  let key := k * 36 + i
  match Tab.get [] s.rqueue key with
  | [] => s
  | q :: r =>
    if s.mayDeliver k q then
      let s := { s with rqueue := Tab.put [] s.rqueue key r }
      let s := s.setCredit k i (s.credit k i + 1)
      let s := s.rs CLU.STALL_STREAMS k (setBit (s.rg CLU.STALL_STREAMS k) i false)
      (if s.rg CLU.STALL_STREAMS k = 0 then s.waitEnd CLU.EVT_HOL_CYCLES k else s).deliver k q
    else
      (s.rs CLU.STALL_STREAMS k (setBit (s.rg CLU.STALL_STREAMS k) i true)).waitBegin CLU.EVT_HOL_CYCLES k

/-- A replay flit pair reaches the router: it enters its stream queue, and is delivered at once when it is the queue's head and its
targets have room (R110, R131, R233, R316). -/
def State.replayFlit (s : State) (k : Nat) : State :=
  match s.takeFlit fun f => f.toUnit 1 k 0 with
  | none => s
  | some (f, s) =>
    let i := wStr f.queued.word
    let head := (Tab.get [] s.rqueue (k * 36 + i)).isEmpty
    let s := s.queuePut k f.queued
    if head then s.queueDeliver k i else s

/-! ## Spikes (R143, R144, R235) -/

/-- Copies the escape ring can hold; 0 disables it. -/
def State.escCap (s : State) (k : Nat) : Nat := s.rg CLU.ESC_SIZE k / 16

/-- DDR4 address of a place of the escape ring. -/
def State.escAddr (s : State) (k i : Nat) : Nat := s.rg CLU.ESC_BASE k + 16 * (i % s.escCap k)

/-- A copy enters the escape ring: its two words, the target core in the 15 bits that word 1 leaves 0 (assumption 34). -/
def State.escPut (s : State) (k : Nat) (c : SpkCopy) : State :=
  let r := s.router k
  let a := s.escAddr k (r.escHead + r.escLevel)
  let m := Mem.wrLE (Mem.wrLE s.ddr4 a 8 c.w0) (a + 8) 8 (c.w1 + c.core <<< 49)
  let s := ({ s with ddr4 := m }).ddrL2 a 16
  let s := if r.escLevel = 0 then s.irqSet (cluPage k) 8 else s
  (s.inc CLU.ESCAPED k).upRouter k fun r => { r with escLevel := r.escLevel + 1 }

/-- The ring is full: delivery waits, counted, and ESC_FULL sets. -/
def State.escFull (s : State) (k : Nat) : State := (s.waitBegin CLU.ESC_FULL_CYCLES k).irqSet (cluPage k) 9

/-- A spike copy for a core of the cluster: into the ring while it holds any copy, else to the core, else it waits. A full ring holds
delivery waiting: a copy that finds no place waits for one, with no ESC_WAIT of its own, which the model notes as `since` 0 (R235). -/
def State.spikeCopy (s : State) (k : Nat) (c : SpkCopy) : State :=
  let n := 256 * k + c.core
  if s.coreFenced n then s.fencedDrop n
  else
    let r := s.router k
    if 0 < r.escLevel then
      if r.escLevel < s.escCap k && r.wait.all (fun d => d.since != 0) then s.escPut k c
      else
        let s := s.upRouter k fun r => { r with wait := r.wait ++ [⟨c.core, c.w0, c.w1, 0⟩] }
        if s.escCap k ≤ r.escLevel then s.escFull k else s
    else if s.coreRoom n && r.wait.all (fun d => d.core != c.core) then s.copyTo n 2 (srcField 1 k 0) [c.w0, c.w1]
    else s.upRouter k fun r => { r with wait := r.wait ++ [c] }

/-- Offer the waiting copies again, in order. While the ring holds a copy none of them passes it (R235). -/
def State.offerWaiting (s : State) (k : Nat) : State :=
  let r := s.router k
  if 0 < r.escLevel then s
  else r.wait.foldl (fun s c => s.spikeCopy k c) (s.upRouter k fun r => { r with wait := [] })

/-- A destination router reads its group table (R143). -/
def State.groupDeliver (s : State) (k w0 w1 : Nat) : State :=
  let g := bitsAt w1 32 16
  let e := g % 1024
  let cores := (List.range 256).filter fun n => bit (s.rg (CLU.GT_MASK.nth (n / 32)) k e) (n % 32)
  if !s.on CLU.GT_VALID k e || s.rg CLU.GT_TAG k e != g / 1024 || cores.isEmpty then s.inc CLU.GT_MISS k
  else cores.foldl (fun s n => s.spikeCopy k ⟨n, w0, w1, s.dt⟩) (s.inc CLU.SPIKES_IN k)

/-- The copies of a spike that its source router sends: one to each cluster of the CLUSTER_MASK and one to the fabric. A spike from a
source router carries no route (R142, R144; assumption 33). -/
def spikeCopies (k : Nat) (f : Flit) : List Flit :=
  let route := f.aux >>> 14
  (clustersOf (route % 65536)).map (fun c => ⟨2, 1, c, 0, srcField 1 k 0, f.words⟩) ++
    (if route.testBit 16 then [⟨2, 2, 0, 2, srcField 1 k 0, f.words⟩] else [])

/-- May router `k` take a spike: at its source router when the links of every copy have a buffer free, at a destination router while
the copies that wait there leave a buffer (R232, R234). -/
def State.spikeRoom (s : State) (k : Nat) (f : Flit) : Bool :=
  if f.aux >>> 14 = 0 then decide ((s.router k).wait.length < s.bufs) else (spikeCopies k f).all s.linkRoom

/-- The source router waits for a link with the copies of its oldest spike. -/
def State.spikeWait (s : State) (k : Nat) : State :=
  match s.net.find? fun f => f.toUnit 2 k 0 && f.aux >>> 14 != 0 with
  | some f => (spikeCopies k f).foldl (fun s c => s.linkWait c (4096 + k)) s
  | none => s

/-- A spike reaches a cluster router: at its source router, which knows CLUSTER_MASK and FABRIC, it is sent on to each cluster
of the mask and to the fabric; at a destination router it goes through the group table (R143, R144). -/
def State.spikeFlit (s : State) (k : Nat) : State :=
  match s.takeUnit fun f => f.toUnit 2 k 0 && s.spikeRoom k f with
  | none => s.spikeWait k
  | some (f, s) =>
    if f.aux >>> 14 = 0 then (s.offerWaiting k).groupDeliver k (f.words.getD 0 0) (f.words.getD 1 0)
    else (spikeCopies k f).foldl (fun s c => (s.linkMoved c (4096 + k)).send c) s

/-- Has a copy that waits at the router waited ESC_WAIT cycles, or does it wait for a place in the ring? -/
def State.escDue (s : State) (k : Nat) (c : SpkCopy) : Bool :=
  c.since == 0 || decide (c.since + (s.rg CLU.ESC_WAIT k * 10 + 10) / 11 ≤ s.dt)

/-- The first waiting copy that is due enters the ring (R235). -/
def State.escapeEntry (s : State) (k : Nat) : State :=
  match takeFirst (s.escDue k) (s.router k).wait with
  | none => s
  | some (c, rest) =>
    if s.escCap k = 0 then s
    else if s.escCap k ≤ (s.router k).escLevel then s.escFull k
    else (s.upRouter k fun r => { r with wait := rest }).escPut k c

/-- The copy at the head of the ring. -/
def State.escTop (s : State) (k : Nat) : SpkCopy :=
  let a := s.escAddr k (s.router k).escHead
  let w1 := Mem.rdLE s.ddr4 (a + 8) 8
  ⟨bitsAt w1 49 8, Mem.rdLE s.ddr4 a 8, w1 % 2 ^ 49, 0⟩

/-- A copy that waits for a place in the ring takes it. -/
def State.escNext (s : State) (k : Nat) : State :=
  match takeFirst (fun c : SpkCopy => c.since == 0) (s.router k).wait with
  | none => s
  | some (c, rest) => (s.upRouter k fun r => { r with wait := rest }).escPut k c

/-- Take the head of the ring off, and let a copy that waits for the place in. -/
def State.escPop (s : State) (k : Nat) : State :=
  ((s.upRouter k fun r => { r with escHead := (r.escHead + 1) % s.escCap k, escLevel := r.escLevel - 1 }).waitEnd
    CLU.ESC_FULL_CYCLES k).escNext k

/-- The router delivers the head of the ring when its target has credit (R235). -/
def State.escapeDrain (s : State) (k : Nat) : State :=
  if (s.router k).escLevel = 0 then s
  else
    let c := s.escTop k
    let n := 256 * k + c.core
    if s.coreRoom n then ((s.copyTo n 2 (srcField 1 k 0) [c.w0, c.w1]).escPop k).offerWaiting k else s

/-! ## Requests and responses at the bank and the cores -/

/-- An ACK control flit that returns one tag to a core (R236). -/
def State.ackTo (s : State) (n src : Nat) : State := s.send ⟨0xB, 0, n / 256, n % 256, src, [3 <<< 60 ||| 1]⟩

/-- A core write reaches the bank when the bank has a write credit (R110, R117). -/
def State.cwrite (s : State) (k : Nat) : State :=
  match s.takeUnit fun f => f.toUnit 3 k 1 with
  | none => s
  | some (f, s') =>
    let w := f.words.getD 0 0
    let map := bitsAt f.aux 8 6
    if s.bankRoom k (max 1 (s.coreDescs k w map).length) then
      (s'.ledgerCwrite k w map).ackTo (srcCore f.src) (srcField 1 k 1)
    else s

/-- A neighbourhood read request reaches the bank (R119, R227). -/
def State.nreq (s : State) (k : Nat) : State :=
  match s.takeUnit fun f => f.toUnit 4 k 1 with
  | none => s
  | some (f, s) =>
    let w := f.words.getD 0 0
    s.upBank k fun b =>
      { b with reqs := b.reqs ++ [⟨srcCore f.aux, bitsAt w 0 11, bitsAt w 11 11, bitsAt w 22 3, bitsAt w 25 2, bitsAt w 27 6,
        bitsAt w 33 6, w.testBit 55, bitsAt w 39 16, f.words.getD 1 0⟩] }

/-- A patch lands in core memory at DEST, and the read's tag comes back (R175, R236). -/
def State.nrsp (s : State) (n : Nat) : State :=
  match s.takeFlit fun f => f.toCore 5 n with
  | none => s
  | some (f, s) =>
    match (s.core n).nbr with
    | none => s
    | some (dest, r) =>
      let cnt := (2 * r + 1) * (2 * r + 1)
      let s := (List.range cnt).foldl (fun s i => s.setCmem n (dest + 2 * i) 2 (bitsAt (f.words.getD (i / 4) 0) (16 * (i % 4)) 16)) s
      (s.upCore n fun c => { c with nbr := none }).tagsBack n 1

/-- A progress report reaches the bank (R112, R137). -/
def State.progress (s : State) (k : Nat) : State :=
  match s.takeUnit fun f => f.toUnit 0xB k 1 && f.words.getD 0 0 >>> 60 == 0 with
  | none => s
  | some (f, s) =>
    let n := f.aux % 256
    s.upBank k fun b => { b with prog := Tab.put 0 b.prog n (f.words.getD 0 0) }

/-- An ACK returns tags to a core (R236). -/
def State.ack (s : State) (n : Nat) : State :=
  match s.takeFlit fun f => f.toCore 0xB n with
  | none => s
  | some (f, s) => (s.inc MESH.ACKS (n / 256)).tagsBack n (f.words.getD 0 0 % 16)

/-- A flit reaches a core's Turnstile queue (R133). -/
def State.arrive (s : State) (n : Nat) : State :=
  match s.takeFlit fun f => f.toCore 0 n || f.toCore 1 n || f.toCore 2 n with
  | none => s
  | some (f, s) => s.enqueueArr n f

/-! ## Ticks -/

/-- A waiting TICK_PHASE takes effect; a change sets the PHASE interrupt of the TIME page (R44, R49). -/
def State.phaseTake (s : State) (p : Nat) : State :=
  let n := { s with phasePend := none }.rs TIME.TICK_PHASE 0 p
  if p = s.rg TIME.TICK_PHASE 0 then n else n.irqSet ⟨.time, 0⟩ 9

/-- DT crosses a tick boundary: the Turnstiles close tick c − W, and a waiting TICK_PHASE change takes effect; the tick number
never decreases (R48, R49, R134). -/
def State.tickBoundary (s : State) : State :=
  let c := s.tickOf s.dt
  if c ≤ s.tick then s
  else
    let s := { s with tick := c }
    match s.phasePend with
    | none => s
    | some p => s.phaseTake p

/-! ## Cluster registers (R160) -/

/-- The index under which the staged half of a table entry is kept, above every entry's own. -/
def stageIdx : Nat := 0x10000

/-- A write of SUBWIN commits the window of the selected stream (R131, R160). -/
def State.subwinWrite (s : State) (k : Nat) (v : Word) : State :=
  let i := s.rg CLU.SUBWIN_INDEX k
  let tw := CLU.TW.of v
  let th := CLU.TH.of v
  let base := s.rg CLU.SUB_BASE k stageIdx
  if tw = 0 ∨ 64 < tw ∨ th = 0 ∨ 64 < th ∨ (CLU.WIN_EN.of v = 1 ∧ 4096 < base + tw * th) then s.errParam (cluPage k)
  else ([CLU.TX0, CLU.TY0, CLU.TW, CLU.TH, CLU.WIN_EN].foldl (fun s f => s.rs f k (f.of v) i) s).rs CLU.SUB_BASE k base i

/-- A write of SUB_HI commits the subscription entry. -/
def State.subHiWrite (s : State) (k : Nat) (v : Word) : State :=
  let e := s.rg CLU.SUB_INDEX k
  ((s.rs CLU.SUB_LO k (s.rg CLU.SUB_LO k stageIdx) e).rs CLU.SUB_HI k (CLU.SUB_HI.of v) e).rs CLU.N k (CLU.N.of v) e

/-- A write of RT_HI commits the route entry; an entry with DELAY = 0 cannot be committed (R142). -/
def State.rtHiWrite (s : State) (k : Nat) (v : Word) : State :=
  let lo := s.rg CLU.RT_LO k stageIdx
  let e := s.rg CLU.RT_INDEX k
  if bitsAt lo 18 6 = 0 then s.errParam (cluPage k)
  else (s.rs CLU.RT_LO k lo e).rs CLU.RT_HI k v.toNat e

/-- A write of GT_MASK7 commits the group entry with its TAG and VALID. -/
def State.gtMask7Write (s : State) (k : Nat) (v : Word) : State :=
  let e := s.rg CLU.GT_INDEX k
  let s := (s.rs CLU.GT_TAG k (s.rg CLU.GT_TAG k stageIdx) e).rs CLU.GT_VALID k (s.rg CLU.GT_VALID k stageIdx) e
  let s := (List.range 7).foldl (fun s j => s.rs (CLU.GT_MASK.nth j) k (s.rg (CLU.GT_MASK.nth j) k stageIdx) e) s
  s.rs (CLU.GT_MASK.nth 7) k v.toNat e

/-- A write of CORE_CTRL of a core's slot (R159, R179, R184): STATE_FMT cannot change while RUN is 1, and RUN = 1 is rejected
while UCODE_ERR is 1. The RUN of a fenced core stays 0 (R157). -/
def State.coreCtrl (s : State) (n : Nat) (v : Word) : State :=
  let run := CGS.RUN.of v = 1
  if (s.on CGS.RUN n && CGS.STATE_FMT.of v != s.rg CGS.STATE_FMT n) || (run && s.on CGS.UCODE_ERR n) then s.errParam (cgPage n)
  else
    let s' := [CGS.STATE_FMT, CGS.FIRE_LAW, CGS.TICK_EN, CGS.SLOT_EN, CGS.SLOT_GROUP].foldl (fun s f => s.rs f n (f.of v)) s
    if s.coreFenced n then s'
    else if run && !s.on CGS.RUN n then s'.coreStart n else if run then s' else s'.runOff n

/-- Offset of a core's slot in its core-group page (R35). -/
def slotOff (n : Nat) : Nat := 0x100 + (n % 16) * 0xE0

/-! ## Meanings -/

/-- TICK_BOUNDARY (R48, R49, R134). -/
def execTickBoundary (t : Nat) (s : State) : Res := .next (s.advance t).tickBoundary

/-- EVENT_FLIT (R233). -/
def execEventFlit (t : Nat) (k : Fin 16) (s : State) : Res := .next ((s.advance t).eventFlit k)

/-- STREAM_QUEUE_DELIVER (R233). -/
def execStreamQueueDeliver (t : Nat) (k : Fin 16) (str : Fin 36) (s : State) : Res := .next ((s.advance t).queueDeliver k str)

/-- REPLAY_FLIT (R316). -/
def execReplayFlit (t : Nat) (k : Fin 16) (s : State) : Res := .next ((s.advance t).replayFlit k)

/-- CWRITE (R110). -/
def execCwrite (t : Nat) (k : Fin 16) (s : State) : Res := .next ((s.advance t).cwrite k)

/-- SCRUB_VISIT (R52). -/
def execScrubVisit (t : Nat) (k : Fin 16) (ln : Nat) (s : State) : Res := .next ((s.advance t).scrubLine k ln)

/-- LEDGER_TICK_ADVANCE (R112). -/
def execLedgerTickAdvance (t : Nat) (k : Fin 16) (s : State) : Res := .next ((s.advance t).tickAdvance k)

/-- NREQ (R119). -/
def execNreq (t : Nat) (k : Fin 16) (s : State) : Res := .next ((s.advance t).nreq k)

/-- NBR_SERVE (R120). -/
def execNbrServe (t : Nat) (k : Fin 16) (s : State) : Res := .next ((s.advance t).nbrServe k)

/-- NRSP (R175). -/
def execNrsp (t : Nat) (core : Fin 4096) (s : State) : Res := .next ((s.advance t).nrsp core)

/-- FENCE_SETTLE (R115). -/
def execFenceSettle (t : Nat) (k : Fin 16) (d : Fin 64) (s : State) : Res := .next ((s.advance t).fenceSettle k d)

/-- FENCE_ADVANCE (R115). -/
def execFenceAdvance (t : Nat) (k : Fin 16) (d : Fin 64) (s : State) : Res := .next ((s.advance t).fenceAdvance k d)

/-- DESC_ENABLE (R126): a write of the descriptor register. -/
def execDescEnable (t : Nat) (c : Req) (k : Fin 16) (v : Word) (s : State) : Res :=
  s.cmdWrite t c ⟨.ldb, k⟩ 0x050 fun s => s.descCtrl k v

/-- DESC_DISABLE (R126): a write of the descriptor register. -/
def execDescDisable (t : Nat) (c : Req) (k : Fin 16) (v : Word) (s : State) : Res :=
  s.cmdWrite t c ⟨.ldb, k⟩ 0x050 fun s => s.descCtrl k v

/-- LEDGER_CACHE_FILL (R108): a fill of a line that is not cached completes, or the write-back of a dirty one. -/
def execLedgerCacheFill (t : Nat) (k : Fin 16) (ln : Nat) (s : State) : Res :=
  let s := s.advance t
  let backed := (s.descs k).any fun d => s.on LDB.BACKED k d &&
    decide (s.rg LDB.DDR_BASE k d / 64 ≤ ln ∧ ln < s.rg LDB.DDR_BASE k d / 64 + (s.region k d).lines)
  .next (
    match s.cached k ln with
    | some l => (s.writeBack k l).upBank k fun b => { b with cache := b.cache.map fun x => if x.addr = ln then { x with dirty := false } else x }
    | none => if backed then s.cacheFill k ln else s)

/-- PROGRESS (R137). -/
def execProgress (t : Nat) (k : Fin 16) (s : State) : Res := .next ((s.advance t).progress k)

/-- ARRIVAL_ENQUEUE (R133). -/
def execArrivalEnqueue (t : Nat) (core : Fin 4096) (s : State) : Res := .next ((s.advance t).arrive core)

/-- ARRIVAL_RELEASE (R130): the slot it frees lets waiting spike copies in. -/
def execArrivalRelease (t : Nat) (core : Fin 4096) (s : State) : Res :=
  .next (((s.advance t).release core).offerWaiting (core.val / 256))

/-- TICK_CLOSE_STEPS (R137). -/
def execTickCloseSteps (t : Nat) (core : Fin 4096) (s : State) : Res := .next ((s.advance t).tickClose core)

/-- RUN_WRITE (R179): a write of CORE_CTRL. -/
def execRunWrite (t : Nat) (c : Req) (core : Fin 4096) (v : Word) (s : State) : Res :=
  s.cmdWrite t c (cgPage core) (slotOff core) fun s => s.coreCtrl core v

/-- SPIKE_FLIT (R143). -/
def execSpikeFlit (t : Nat) (k : Fin 16) (s : State) : Res := .next ((s.advance t).spikeFlit k)

/-- ESCAPE_ENTRY (R235). -/
def execEscapeEntry (t : Nat) (k : Fin 16) (s : State) : Res := .next ((s.advance t).escapeEntry k)

/-- ESCAPE_DRAIN (R235). -/
def execEscapeDrain (t : Nat) (k : Fin 16) (s : State) : Res := .next ((s.advance t).escapeDrain k)

/-- SUBWIN_WRITE (R160). -/
def execSubwinWrite (t : Nat) (c : Req) (k : Fin 16) (v : Word) (s : State) : Res :=
  s.cmdWrite t c ⟨.clu, k⟩ 0x210 fun s => s.subwinWrite k v

/-- SUB_HI_WRITE (R160). -/
def execSubHiWrite (t : Nat) (c : Req) (k : Fin 16) (v : Word) (s : State) : Res :=
  s.cmdWrite t c ⟨.clu, k⟩ 0x220 fun s => s.subHiWrite k v

/-- RT_HI_WRITE (R142, R160). -/
def execRtHiWrite (t : Nat) (c : Req) (k : Fin 16) (v : Word) (s : State) : Res :=
  s.cmdWrite t c ⟨.clu, k⟩ 0x22C fun s => s.rtHiWrite k v

/-- GT_MASK7_WRITE (R160). -/
def execGtMask7Write (t : Nat) (c : Req) (k : Fin 16) (v : Word) (s : State) : Res :=
  s.cmdWrite t c ⟨.clu, k⟩ 0x254 fun s => s.gtMask7Write k v

/-- ACK (R236). -/
def execAck (t : Nat) (core : Fin 4096) (s : State) : Res := .next ((s.advance t).ack core)

end Sys2Proof.Machine
end

