-- ==== Sys2Proof/Machine/Float.lean ====
section
/-!
DEFINITION. Exact floating point (R190–R194): binary formats, FP32 arithmetic with round-to-nearest-even and subnormals, the
conversions, and the piecewise-linear functions. Values are carried as their bit patterns.
-/
namespace Sys2Proof.Machine

/-! ## Formats -/

/-- A binary format: exponent bits, mantissa bits, the largest finite magnitude pattern, and whether it has infinities. -/
structure FFmt where
  eb : Nat
  mb : Nat
  top : Nat
  inf : Bool
deriving DecidableEq, Repr

def fp32 : FFmt := ⟨8, 23, 0x7F7FFFFF, true⟩
def bf16 : FFmt := ⟨8, 7, 0x7F7F, true⟩
def fp16 : FFmt := ⟨5, 10, 0x7BFF, true⟩
def e4m3 : FFmt := ⟨4, 3, 0x7E, false⟩
def e5m2 : FFmt := ⟨5, 2, 0x7B, true⟩

/-- Exponent bias. -/
def FFmt.bias (f : FFmt) : Nat := 2 ^ (f.eb - 1) - 1
/-- The sign bit. -/
def FFmt.sign (f : FFmt) : Nat := 2 ^ (f.eb + f.mb)
/-- The pattern of +Inf (for E4M3, of the only NaN). -/
def FFmt.infBits (f : FFmt) : Nat := if f.inf then (2 ^ f.eb - 1) * 2 ^ f.mb else f.top + 1
/-- The canonical NaN (R192). -/
def FFmt.nan (f : FFmt) : Nat := if f.inf then (2 ^ f.eb - 1) * 2 ^ f.mb + 2 ^ (f.mb - 1) else 0x7F

/-- A decoded value: NaN, an infinity, or (−1)^neg · m · 2^e. -/
inductive FVal where
  | nan
  | inf (neg : Bool)
  | fin (neg : Bool) (m : Nat) (e : Int)
deriving DecidableEq, Repr

/-- Decode a pattern. -/
def FFmt.dec (f : FFmt) (b : Nat) : FVal :=
  let neg := b.testBit (f.eb + f.mb)
  let mag := b % f.sign
  if f.inf ∧ mag = f.infBits then .inf neg
  else if f.top < mag then .nan
  else
    let ex := mag / 2 ^ f.mb
    let fr := mag % 2 ^ f.mb
    if ex = 0 then .fin neg fr (1 - (f.bias : Int) - f.mb)
    else .fin neg (fr + 2 ^ f.mb) ((ex : Int) - f.bias - f.mb)

/-- m / 2^k rounded to nearest, ties to even. -/
def rneShift (m k : Nat) : Nat :=
  let q := m >>> k
  let r := m % 2 ^ k
  if k = 0 then m else if 2 ^ (k - 1) < r ∨ (r = 2 ^ (k - 1) ∧ q % 2 = 1) then q + 1 else q

/-- The magnitude pattern of m · 2^e rounded to nearest even; a pattern above `top` has overflowed. -/
def FFmt.roundMag (f : FFmt) (m : Nat) (e : Int) : Nat :=
  if m = 0 then 0
  else
    let emin : Int := 1 - (f.bias : Int)
    let ex : Int := max ((Nat.log2 m : Int) + e) emin
    let q : Int := ex - f.mb
    let n := if q ≤ e then m <<< (e - q).toNat else rneShift m (q - e).toNat
    (ex - emin).toNat * 2 ^ f.mb + n

/-- Round a value to the format; overflow gives an infinity, a NaN the canonical one (R192). -/
def FFmt.enc (f : FFmt) (v : FVal) : Nat :=
  match v with
  | .nan => f.nan
  | .inf neg => (if neg then f.sign else 0) + f.infBits
  | .fin neg m e => (if neg then f.sign else 0) + min (f.roundMag m e) f.infBits

/-- Convert to the format with saturation (R192): the pattern, whether a finite value was clamped, whether it is a NaN. -/
def FFmt.conv (f : FFmt) (v : FVal) : Nat × Bool × Bool :=
  match v with
  | .nan => (f.nan, false, true)
  | .inf neg => ((if neg then f.sign else 0) + (if f = e4m3 ∨ f = e5m2 then f.top else f.infBits), false, false)
  | .fin neg m e =>
    let b := f.roundMag m e
    ((if neg then f.sign else 0) + min b f.top, decide (f.top < b), false)

/-! ## FP32 arithmetic -/

/-- An FP32 pattern. -/
abbrev F32 := Nat

def f32dec (a : F32) : FVal := fp32.dec a
def f32enc (v : FVal) : F32 := fp32.enc v

/-- A signed number times 2^e, with the sign an exact zero takes. -/
def finOf (x : Int) (e : Int) (zneg : Bool) : FVal := if x = 0 then .fin zneg 0 0 else .fin (decide (x < 0)) x.natAbs e

/-- The signed significand. -/
def sgn (neg : Bool) (m : Nat) : Int := if neg then -(m : Int) else m

def FVal.neg : FVal → FVal
  | .nan => .nan
  | .inf n => .inf (!n)
  | .fin n m e => .fin (!n) m e

/-- Exact sum. -/
def FVal.add : FVal → FVal → FVal
  | .nan, _ | _, .nan => .nan
  | .inf a, .inf b => if a = b then .inf a else .nan
  | .inf a, _ | _, .inf a => .inf a
  | .fin a m e, .fin b n f =>
    let lo := min e f
    let x := sgn a m * 2 ^ (e - lo).toNat + sgn b n * 2 ^ (f - lo).toNat
    finOf x lo (a && b && m == 0 && n == 0)

/-- Exact product. -/
def FVal.mul : FVal → FVal → FVal
  | .nan, _ | _, .nan => .nan
  | .inf a, .inf b => .inf (a != b)
  | .inf a, .fin b n _ | .fin b n _, .inf a => if n = 0 then .nan else .inf (a != b)
  | .fin a m e, .fin b n f => .fin (a != b) (m * n) (e + f)

/-- Quotient, to 80 more bits than FP32 keeps, the last bit sticky. -/
def FVal.div : FVal → FVal → FVal
  | .nan, _ | _, .nan => .nan
  | .inf _, .inf _ => .nan
  | .inf a, .fin b _ _ => .inf (a != b)
  | .fin a _ _, .inf b => .fin (a != b) 0 0
  | .fin a m e, .fin b n f =>
    if n = 0 then (if m = 0 then .nan else .inf (a != b))
    else
      let num := m <<< 400
      let q := num / n
      .fin (a != b) (2 * q + (if num % n = 0 then 0 else 1)) (e - f - 401)

/-- ⌊√n⌋. -/
def natSqrt (n : Nat) : Nat :=
  (List.range (Nat.log2 n / 2 + 1)).foldr (fun b r => if (r + 2 ^ b) * (r + 2 ^ b) ≤ n then r + 2 ^ b else r) 0

/-- Square root, with a sticky last bit; NaN below zero. -/
def FVal.sqrt : FVal → FVal
  | .nan => .nan
  | .inf n => if n then .nan else .inf false
  | .fin n m e =>
    if m = 0 then .fin n 0 0
    else if n then .nan
    else
      let (m', e') := if e % 2 = 0 then (m, e) else (2 * m, e - 1)
      let x := m' <<< 200
      let r := natSqrt x
      .fin false (2 * r + (if r * r = x then 0 else 1)) (e' / 2 - 101)

/-- Exact comparison: `none` when either is NaN. -/
def FVal.cmp : FVal → FVal → Option Ordering
  | .nan, _ | _, .nan => none
  | .inf a, .inf b => some (if a = b then .eq else if a then .lt else .gt)
  | .inf a, .fin _ _ _ => some (if a then .lt else .gt)
  | .fin _ _ _, .inf b => some (if b then .gt else .lt)
  | .fin a m e, .fin b n f =>
    let lo := min e f
    some (compare (sgn a m * 2 ^ (e - lo).toNat) (sgn b n * 2 ^ (f - lo).toNat))

def f32add (a b : F32) : F32 := f32enc ((f32dec a).add (f32dec b))
def f32sub (a b : F32) : F32 := f32enc ((f32dec a).add (f32dec b).neg)
def f32mul (a b : F32) : F32 := f32enc ((f32dec a).mul (f32dec b))
def f32div (a b : F32) : F32 := f32enc ((f32dec a).div (f32dec b))
def f32sqrt (a : F32) : F32 := f32enc (f32dec a).sqrt
def f32neg (a : F32) : F32 := f32enc (f32dec a).neg
def f32abs (a : F32) : F32 := a % 2 ^ 31
def f32lt (a b : F32) : Bool := (f32dec a).cmp (f32dec b) == some .lt
def f32le (a b : F32) : Bool := let o := (f32dec a).cmp (f32dec b); o == some .lt || o == some .eq
def f32nan (a : F32) : Bool := f32dec a == .nan
/-- Is a value above 0? -/
def f32pos (a : F32) : Bool := f32lt 0 a

/-- 1 / √a correctly rounded. -/
def f32rsqrt (a : F32) : F32 :=
  match f32dec a with
  | .nan => fp32.nan
  | .inf n => if n then fp32.nan else 0
  | .fin n m e =>
    if m = 0 then f32enc (.inf n)
    else if n then fp32.nan
    else
      -- 1/√(m·2^e) with e even: √(2^400 / m) · 2^(−200 − e/2), rounded with a sticky bit
      let (m', e') := if e % 2 = 0 then (m, e) else (2 * m, e - 1)
      let x := 2 ^ 400 / m'
      let r := natSqrt x
      f32enc (.fin false (2 * r + (if r * r * m' = 2 ^ 400 then 0 else 1)) (-201 - e' / 2))

/-- Maximum and minimum; NaN if either operand is NaN (R201). -/
def f32max (a b : F32) : F32 := if f32nan a || f32nan b then fp32.nan else if f32lt a b then b else a
def f32min (a b : F32) : F32 := if f32nan a || f32nan b then fp32.nan else if f32lt b a then b else a

/-- An integer as FP32, rounded. -/
def f32ofInt (x : Int) : F32 := f32enc (finOf x 0 false)

/-- A ratio of integers rounded once to FP32. -/
def f32ofRatio (a b : Int) : F32 := f32enc ((finOf a 0 false).div (finOf b 0 false))

/-- Round a value to an integer, ties to even. -/
def FVal.toInt : FVal → Int
  | .fin n m e => sgn n (if 0 ≤ e then m <<< e.toNat else rneShift m (-e).toNat)
  | _ => 0

/-- Convert to a signed integer of `n` bits (R192): value, finite clamp. -/
def FVal.toIntSat (n : Nat) : FVal → Int × Bool
  | .nan => (0, false)
  | .inf neg => (if neg then -(2 ^ (n - 1)) else 2 ^ (n - 1) - 1, false)
  | v => let x := v.toInt; (satS n x, decide (satS n x ≠ x))

/-! ## Functions of R194 -/

/-- 2^(−i/256) in units of 2^−240, by exact square roots. -/
def exp2Fix (i : Nat) : Nat :=
  let one := 2 ^ 240
  if 256 ≤ i then one / 2
  else
    let step (r : Nat × Nat) (b : Nat) : Nat × Nat :=
      let root := natSqrt (r.1 * one)
      (root, if (i >>> (7 - b)) % 2 = 1 then r.2 * root / one else r.2)
    ((List.range 8).foldl step (one / 2, one)).2

/-- T[j] = 2^(−j/256) correctly rounded to FP32; T[256] = 0.5. -/
def expT (j : Nat) : F32 := f32enc (.fin false (exp2Fix j) (-240))

/-- The exponential of softmax (`clamp`) and of ELTWISE EXP. -/
def f32exp (clamp : Bool) (x : F32) : F32 :=
  let u := f32mul x 0x3FB8AA3B
  match f32dec u with
  | .nan => fp32.nan
  | v =>
    let u := if clamp && f32lt 0 u then 0 else u
    let v := if clamp && f32lt 0 u then FVal.fin false 0 0 else v
    if !clamp && f32le 0x43000000 u then f32enc (.inf false)
    else if f32lt u 0xC2FC0000 then 0
    else
      match v with
      | .fin n m e =>
        -- −u in units of 2^−200, then −u = q + f with 0 ≤ f < 1
        let w : Int := -(sgn n m)
        let fx : Int := if 0 ≤ e + 200 then w * 2 ^ (e + 200).toNat else floorDiv w (2 ^ (-(e + 200)).toNat)
        let q : Int := floorDiv fx (2 ^ 200)
        let f := (fx - q * 2 ^ 200).toNat
        let i := (256 * f) >>> 200
        let r := f32enc (.fin false (256 * f - i <<< 200) (-200))
        let y := f32add (expT i) (f32mul (f32sub (expT (i + 1)) (expT i)) r)
        f32enc ((f32dec y).mul (.fin false 1 (-q)))
      | _ => fp32.nan

/-- Fixed-point precision of the knot values. -/
def kp : Nat := 400

/-- exp(x/16) in units of 2^−400 for 0 ≤ x ≤ 256, by the Taylor series of exp(1/16) and powers of it. -/
def expFix16 (x : Nat) : Nat :=
  let one := 2 ^ kp
  let base := ((List.range 80).foldl (fun (a : Nat × Nat) i => (a.1 + a.2, a.2 / (16 * (i + 1)))) (0, one)).1
  (List.range x).foldl (fun a _ => a * base / one) one

/-- ∫ of the standard normal density from 0 to x/16, times √(2π), in units of 2^−400, by its alternating series. -/
def normFix16 (x : Nat) : Int :=
  -- Σ (−1)^n z^(2n+1) / (2^n n! (2n+1)), z = x/16
  let one : Nat := 2 ^ kp
  let z2 := x * x * one / 256
  let step (a : Int × Nat) (n : Nat) : Int × Nat :=
    let term : Int := (a.2 / (2 * n + 1) : Nat)
    ((if n % 2 = 0 then a.1 + term else a.1 - term), a.2 * z2 / one / (2 * (n + 1)))
  ((List.range 250).foldl step (0, x * one / 16)).1

/-- √(2π) in units of 2^−400, with π from Machin's formula. -/
def sqrt2pi : Nat :=
  let one : Nat := 2 ^ (2 * kp)
  let atanInv (k : Nat) : Int :=
    ((List.range 600).foldl (fun (a : Int × Nat) n =>
      ((if n % 2 = 0 then a.1 + (a.2 / (2 * n + 1) : Nat) else a.1 - (a.2 / (2 * n + 1) : Nat)), a.2 / (k * k))) (0, one / k)).1
  let pi := (4 * (4 * atanInv 5 - atanInv 239)).toNat
  natSqrt (2 * pi)

/-- A knot value f(−8 + i/16) in units of 2^−400, signed: GELU 3 (x·Φ(x)), SiLU 4, sigmoid 5, tanh 6. -/
def knotFix (act i : Nat) : Int :=
  let one : Int := 2 ^ kp
  let x : Int := (i : Int) - 128
  let a := x.natAbs
  let sigm : Int :=
    let e : Int := expFix16 a
    if 0 ≤ x then one * e / (one + e) else one * one / (one + e)
  if act = 5 then sigm
  else if act = 4 then x * sigm / 16
  else if act = 6 then
    let e : Int := expFix16 (2 * a)
    let t : Int := one * (e - one) / (e + one)
    if 0 ≤ x then t else -t
  else
    let half : Int := normFix16 a * one / sqrt2pi
    let phi : Int := if 0 ≤ x then one / 2 + half else one / 2 - half
    x * phi / 16

/-- A knot value correctly rounded to FP32. -/
def knot (act i : Nat) : F32 := f32enc (finOf (knotFix act i) (-(kp : Int)) false)

/-- An activation code of R194 on an FP32 value. -/
def f32act (act : Nat) (x : F32) : F32 :=
  if act = 0 then x
  else if f32nan x then fp32.nan
  else if act = 1 then (if f32lt x 0 then 0 else x)
  else if act = 2 then (if f32lt x 0 then 0 else if f32lt 0x40C00000 x then 0x40C00000 else x)
  else if f32lt x 0xC1000000 then
    (if act = 5 then 0 else if act = 6 then 0xBF800000 else 0x80000000)
  else if f32le 0x41000000 x then (if act = 5 ∨ act = 6 then 0x3F800000 else x)
  else
    match f32dec x with
    | .fin n m e =>
      -- the segment: ⌊16 (x + 8)⌋
      let fx : Int := sgn n m
      let t : Int := if 0 ≤ e + 4 then fx * 2 ^ (e + 4).toNat else floorDiv fx (2 ^ (-(e + 4)).toNat)
      let i := (t + 128).toNat
      let xi := f32ofRatio ((i : Int) - 128) 16
      let y0 := knot act i
      let y1 := knot act (i + 1)
      f32add y0 (f32mul (f32sub y1 y0) (f32mul (f32sub x xi) 0x41800000))
    | _ => fp32.nan

end Sys2Proof.Machine
end

