-- ==== Sys2Proof/Machine/Matrix.lean ====
section
/-!
DEFINITION. Matrix arithmetic (chapter 07): element types, the order of accumulation, and what each descriptor computes
(R190–R204). A descriptor answers the new state, or the code of its fault (R205).
-/
namespace Sys2Proof.Machine
open Regs

/-- The outcome of a descriptor: a fault code of R205, or the state with its results. -/
abbrev DRes := Except Nat State

/-- Fault codes (R205). -/
def fOpcode : Nat := 1
def fType : Nat := 2
def fBounds : Nat := 3
def fParam : Nat := 4
def fSpace : Nat := 5

/-- Bytes of a matrix core's local SRAM. -/
def mxSize : Nat := 0x200000

/-- BAR2 address of matrix core `m`'s local SRAM (R39). -/
def mxBase (m : Nat) : Nat := (m / 8) * 0x03800000 + 0x01800000 + (m % 8) * 0x200000

/-- An absent operand. -/
def absent : Nat := 0xFFFFFFFF

/-! ## Elements (R190) -/

/-- Bits of an element of a type. -/
def tyBits (ty : Nat) : Nat := [8, 4, 8, 8, 16, 16, 32, 32].getD ty 32

/-- Integer types. -/
def tyInt (ty : Nat) : Bool := ty == 0 || ty == 1 || ty == 7

/-- The format of a floating-point type. -/
def tyFmt (ty : Nat) : FFmt := [fp32, fp32, e4m3, e5m2, bf16, fp16].getD ty fp32

/-- Bytes that `n` contiguous elements take. -/
def tyBytes (ty n : Nat) : Nat := (tyBits ty * n + 7) / 8

/-- The pattern of element `i` of an array at `a`; INT4 holds two per byte, low nibble first. -/
def Mem.el (m : Mem) (ty a i : Nat) : Nat :=
  if ty = 1 then bitsAt (m.rd (a + i / 2)).toNat (4 * (i % 2)) 4 else m.rdLE (a + tyBytes ty 1 * i) (tyBytes ty 1)

/-- Write the pattern of element `i`. -/
def Mem.setEl (m : Mem) (ty a i v : Nat) : Mem :=
  if ty = 1 then m.wr (a + i / 2) (BitVec.ofNat 8 (setBitsAt (m.rd (a + i / 2)).toNat (4 * (i % 2)) 4 v))
  else m.wrLE (a + tyBytes ty 1 * i) (tyBytes ty 1) v

/-- The value of a pattern. -/
def tyVal (ty v : Nat) : FVal := if tyInt ty then finOf (signed (tyBits ty) v) 0 false else (tyFmt ty).dec v

/-- Convert a value to a type (R192): the pattern, whether a finite value was clamped, whether a NaN was written. -/
def tyConv (ty : Nat) (v : FVal) : Nat × Bool × Bool :=
  if tyInt ty then
    let r := v.toIntSat (tyBits ty)
    (unsigned (tyBits ty) r.1, r.2, false)
  else (tyFmt ty).conv v

/-- May two types meet in the engines (R190)? -/
def pairOk (a b : Nat) : Bool :=
  (a ≤ 1 && b ≤ 1) || ((a == 2 || a == 3) && (b == 2 || b == 3)) || (a == b && (a == 4 || a == 5))

/-- Engine operand types. -/
def engTy (a : Nat) : Bool := a ≤ 5

/-- The matrix page. -/
def mxPage (m : Nat) : Page := ⟨.mxc, m⟩

/-- Count a converted output (R192). -/
def State.countOut (s : State) (m : Nat) (r : Nat × Bool × Bool) : State :=
  let s := if r.2.1 then s.inc MXC.SAT_OUT m else s
  if r.2.2 then (s.inc MXC.NAN_OUT m).irqSet (mxPage m) 11 else s

/-- Write values as elements of a type: array base, element index, value. -/
def State.putVals (s : State) (m ty : Nat) (l : List (Nat × Nat × FVal)) : State :=
  l.foldl (fun s e =>
    let r := tyConv ty e.2.2
    State.countOut { s with sram := s.sram.setEl ty e.1 e.2.1 r.1 } m r) s

/-! ## Descriptor fields (R195) -/

/-- `n` bytes at an offset of the descriptor at BAR2 address `a`. -/
def State.dsc (s : State) (a off n : Nat) : Nat := s.sram.rdLE (a + off) n
def State.dOp (s : State) (a : Nat) : Nat := s.dsc a 0 1
def State.dTA (s : State) (a : Nat) : Nat := bitsAt (s.dsc a 2 1) 0 4
def State.dTB (s : State) (a : Nat) : Nat := bitsAt (s.dsc a 2 1) 4 4
def State.dTO (s : State) (a : Nat) : Nat := bitsAt (s.dsc a 3 1) 0 4
def State.dAcc (s : State) (a : Nat) : Bool := (s.dsc a 3 1).testBit 4
def State.dAct (s : State) (a : Nat) : Nat := bitsAt (s.dsc a 3 1) 5 3
def State.dWait (s : State) (a : Nat) : Nat := s.dsc a 4 2
def State.dSignal (s : State) (a : Nat) : Nat := s.dsc a 6 2
def State.dScale (s : State) (a : Nat) : F32 := s.dsc a 0xC 4
def State.dRelease (s : State) (a : Nat) : Bool := (s.dsc a 1 1).testBit 0
def State.dSkim (s : State) (a : Nat) : Bool := (s.dsc a 1 1).testBit 1
def State.dAccum (s : State) (a : Nat) : Bool := (s.dsc a 1 1).testBit 2
def State.dIrq (s : State) (a : Nat) : Bool := (s.dsc a 1 1).testBit 3

/-- Are all bytes of 0x10–0x7F outside the listed ranges 0? -/
def State.zerosOutside (s : State) (a : Nat) (used : List (Nat × Nat)) : Bool :=
  (List.range 0x70).all fun i => used.any (fun r => decide (r.1 ≤ 0x10 + i ∧ 0x10 + i < r.2)) || s.dsc a (0x10 + i) 1 == 0

/-- The common checks: flags that the OP does not have (mask of the low 4 bits it has), ACT 7, non-zero unused bytes (PARAM);
INT32 accumulation outside GEMM and CONV (R193), an unlisted code in TA, TB or TO (R190), which fault as TYPE. -/
def State.dCheck (s : State) (a flags : Nat) (used : List (Nat × Nat)) : Except Nat Unit :=
  if s.dsc a 1 1 &&& (0xF7 - flags) ≠ 0 ∨ s.dAct a = 7 ∨ !s.zerosOutside a used then .error fParam
  else if 7 < s.dTA a ∨ 7 < s.dTB a ∨ 7 < s.dTO a ∨ (s.dAcc a ∧ s.dOp a ≠ 1 ∧ s.dOp a ≠ 2) then .error fType
  else .ok ()

/-- Does a block of rows lie in the 2 MB: offset, rows, stride, bytes of a row? -/
def inMx (off rows ld bytes : Nat) : Bool := rows == 0 || bytes == 0 || off + (rows - 1) * ld + bytes ≤ mxSize

/-! ## The order of accumulation (R193) -/

/-- Kc. -/
def kc (k : Nat) : Nat := 32 * ((k + 127) / 128)

/-- The reduction indices of engine `e`. -/
def engRange (k e : Nat) : List Nat := (List.range (min k ((e + 1) * kc k) - e * kc k)).map (· + e * kc k)

/-- Sum of the four partials. -/
def f32sum4 (p : Nat → F32) : F32 := f32add (f32add (p 0) (p 1)) (f32add (p 2) (p 3))

/-- A reduction in FP32, over products formed exactly. -/
def dotF (k : Nat) (a b : Nat → FVal) : F32 :=
  f32sum4 fun e => (engRange k e).foldl (fun acc i => f32enc ((f32dec acc).add ((a i).mul (b i)))) 0

/-- A reduction with block scales. -/
def dotS (k : Nat) (a b : Nat → Int) (sa sb : Nat → F32) : F32 :=
  f32sum4 fun e =>
    ((engRange k e).filter fun i => i % 32 == 0).foldl (fun acc i =>
      let d := ((List.range 32).map fun j => a (i + j) * b (i + j)).sum
      f32add acc (f32mul (f32ofInt d) (f32mul (sa (i / 32)) (sb (i / 32))))) 0

/-- Saturation at ±(2^31 − 1), with the count of clamps. -/
def clampI (x : Int) : Int × Nat :=
  let y := max (-(2 ^ 31 - 1)) (min (2 ^ 31 - 1) x)
  (y, if y = x then 0 else 1)

/-- A reduction in INT32: exact partials, saturating sums, and the clamps made. -/
def dotI (k : Nat) (a b : Nat → Int) : Int × Nat :=
  let p := fun e => ((engRange k e).map fun i => a i * b i).sum
  let x := clampI (p 0 + p 1)
  let y := clampI (p 2 + p 3)
  let z := clampI (x.1 + y.1)
  (z.1, x.2 + y.2 + z.2)

/-- Step 6: OSCALE and ACT. -/
def State.dFinish (s : State) (a : Nat) (r : F32) : FVal := f32dec (f32act (s.dAct a) (f32mul r (s.dScale a)))

/-- Steps 5 and 6 of an FP32 accumulation: the destination's element, the bias, then step 6. -/
def State.dStep5 (s : State) (a : Nat) (c b : Option F32) (r : F32) : FVal :=
  let r := match c with | some x => f32add r x | none => r
  let r := match b with | some x => f32add r x | none => r
  s.dFinish a r

/-- Steps 5 and 6 of an INT32 accumulation, with the clamps made. -/
def State.dStep5I (s : State) (a : Nat) (c b : Option Int) (r : Int × Nat) : FVal × Nat :=
  let r := match c with | some x => let y := clampI (r.1 + x); (y.1, r.2 + y.2) | none => r
  let r := match b with | some x => let y := clampI (r.1 + x); (y.1, r.2 + y.2) | none => r
  (s.dFinish a (f32ofInt r.1), r.2)

/-- Count MACs. -/
def State.macs (s : State) (m n : Nat) : State := s.inc MXC.MACS m n

/-- How an output element is formed: its reduction, and where its scales are. -/
structure Red where
  k : Nat
  a : Nat → Nat
  b : Nat → Nat
  sa : Option (Nat → F32)
  sb : Option (Nat → F32)

/-- One output element (R193): operand patterns, the destination's present value, the bias pattern; value and clamps. -/
def State.redOut (s : State) (d : Nat) (r : Red) (c : Option FVal) (bias : Option Nat) : FVal × Nat :=
  let ta := s.dTA d
  let tb := s.dTB d
  if s.dAcc d then
    s.dStep5I d (c.map fun v => (v.toIntSat 32).1) (bias.map (signed 32))
      (dotI r.k (fun i => signed (tyBits ta) (r.a i)) (fun i => signed (tyBits tb) (r.b i)))
  else
    let c := c.map f32enc
    let sum :=
      if r.sa.isNone && r.sb.isNone then dotF r.k (fun i => tyVal ta (r.a i)) (fun i => tyVal tb (r.b i))
      else
        let one : Nat → F32 := fun _ => 0x3F800000
        dotS r.k (fun i => signed (tyBits ta) (r.a i)) (fun i => signed (tyBits tb) (r.b i)) (r.sa.getD one) (r.sb.getD one)
    (s.dStep5 d c bias sum, 0)

/-- Type checks of an engine pair (R190, R191, R193). -/
def State.engCheck (s : State) (d : Nat) (scaled : Bool) : Except Nat Unit :=
  let ok := pairOk (s.dTA d) (s.dTB d)
  if !ok || (scaled && 1 < s.dTA d) || (s.dAcc d && (scaled || 1 < s.dTA d)) then .error fType else .ok ()

/-- Write reduced elements and their clamps. -/
def State.putRed (s : State) (m d : Nat) (l : List (Nat × Nat × FVal × Nat)) : State :=
  let s' := s.putVals m (s.dTO d) (l.map fun e => (e.1, e.2.1, e.2.2.1))
  s'.inc MXC.ACC_SAT m ((l.map fun e => e.2.2.2).sum)

/-! ## GEMM (R196) -/

/-- GEMM at descriptor `d` of matrix core `m`. -/
def State.gemm (s : State) (m d : Nat) : DRes := do
  s.dCheck d 4 [(0x10, 0x2E), (0x30, 0x3C)]
  let f := fun o => s.dsc d o 4
  let base := mxBase m
  let (ao, bo, co, bias, sa, sb) := (f 0x10, f 0x14, f 0x18, f 0x1C, f 0x20, f 0x24)
  let (mm, nn, kk) := (s.dsc d 0x28 2, s.dsc d 0x2A 2, s.dsc d 0x2C 2)
  let (lda, ldb, ldc) := (f 0x30, f 0x34, f 0x38)
  let scaled := sa != absent || sb != absent
  s.engCheck d scaled
  if scaled && kk % 32 != 0 then .error fParam
  else if mm = 0 ∨ nn = 0 then .ok s
  else if !(inMx ao mm lda (tyBytes (s.dTA d) kk) && inMx bo nn ldb (tyBytes (s.dTB d) kk) &&
      inMx co mm ldc (tyBytes (s.dTO d) nn) && (bias == absent || inMx bias nn 4 4) &&
      (sa == absent || inMx sa mm (kk / 8) (kk / 8)) && (sb == absent || inMx sb nn (kk / 8) (kk / 8))) then .error fBounds
  else
    let sc := fun o r => if o = absent then none else some fun b => s.sram.rdLE (base + o + 4 * (r * (kk / 32) + b)) 4
    let outs := (List.range mm).flatMap fun i => (List.range nn).map fun j =>
      let r : Red := ⟨kk, s.sram.el (s.dTA d) (base + ao + i * lda), s.sram.el (s.dTB d) (base + bo + j * ldb), sc sa i, sc sb j⟩
      let row := base + co + i * ldc
      let c := if s.dAccum d then some (tyVal (s.dTO d) (s.sram.el (s.dTO d) row j)) else none
      let b := if bias = absent then none else some (s.sram.rdLE (base + bias + 4 * j) 4)
      (row, j, s.redOut d r c b)
    .ok ((s.putRed m d outs).macs m (mm * nn * kk))

/-! ## CONV (R197) -/

/-- The shape of a CONV descriptor. -/
structure Conv where
  h : Nat
  w : Nat
  cin : Nat
  cout : Nat
  kh : Nat
  kw : Nat
  sy : Nat
  sx : Nat
  dy : Nat
  dx : Nat
  pt : Nat
  pl : Nat
  pb : Nat
  pr : Nat
  groups : Nat
  mode : Nat
deriving DecidableEq, Repr

/-- The shape a descriptor gives. -/
def State.convShape (s : State) (d : Nat) : Conv :=
  let b := fun o => s.dsc d o 1
  ⟨s.dsc d 0x28 2, s.dsc d 0x2A 2, s.dsc d 0x2C 2, s.dsc d 0x2E 2, b 0x30, b 0x31, b 0x32 % 16, b 0x32 / 16, b 0x33 % 16,
    b 0x33 / 16, b 0x34, b 0x35, b 0x36, b 0x37, s.dsc d 0x38 2, b 0x3A⟩

/-- OH and OW. -/
def Conv.oh (c : Conv) : Int := ((c.h + c.pt + c.pb : Int) - c.dy * (c.kh - 1) - 1).fdiv c.sy + 1
def Conv.ow (c : Conv) : Int := ((c.w + c.pl + c.pr : Int) - c.dx * (c.kw - 1) - 1).fdiv c.sx + 1

/-- Are all fields in range? -/
def Conv.ok (c : Conv) : Bool :=
  let r := fun x lo hi => decide (lo ≤ x ∧ x ≤ hi)
  r c.h 1 4096 && r c.w 1 4096 && r c.cin 1 4096 && r c.cout 1 4096 && r c.kh 1 15 && r c.kw 1 15 && r c.sy 1 4 && r c.sx 1 4 &&
    r c.dy 1 4 && r c.dx 1 4 && r c.pt 0 15 && r c.pl 0 15 && r c.pb 0 15 && r c.pr 0 15 && c.groups != 0 &&
    c.cin % c.groups == 0 && c.cout % c.groups == 0 && c.mode ≤ 2 && decide (1 ≤ c.oh) && decide (1 ≤ c.ow) &&
    (c.mode == 0 || c.cin == c.cout)

/-- The input element index of output position (oy, ox), window position (ky, kx), channel ch; `none` in the padding. -/
def Conv.at (c : Conv) (oy ox ky kx ch : Nat) : Option Nat :=
  let y : Int := (oy * c.sy + ky * c.dy : Nat) - (c.pt : Int)
  let x : Int := (ox * c.sx + kx * c.dx : Nat) - (c.pl : Int)
  if 0 ≤ y ∧ y < c.h ∧ 0 ≤ x ∧ x < c.w then some ((y.toNat * c.w + x.toNat) * c.cin + ch) else none

/-- Reduction length of a group. -/
def Conv.k (c : Conv) : Nat := c.kh * c.kw * (c.cin / c.groups)

/-- The input element of reduction index `i` for output (oy, ox, co). -/
def Conv.redAt (c : Conv) (oy ox co i : Nat) : Option Nat :=
  let cg := c.cin / c.groups
  let g := co / (c.cout / c.groups)
  c.at oy ox (i / cg / c.kw) (i / cg % c.kw) (g * cg + i % cg)

/-- The FP32 value of an input element of a pooling, with its block scale. -/
def State.poolVal (s : State) (d inp scale i : Nat) : FVal :=
  let v := tyVal (s.dTA d) (s.sram.el (s.dTA d) inp i)
  if scale = absent then v else f32dec (f32enc (v.mul (f32dec (s.sram.rdLE (scale + 4 * (i / 32)) 4))))

/-- A pooled value: the window's maximum (first in k order on ties, NaN wins), or its sum times 1/(KH × KW). -/
def Conv.pool (c : Conv) (get : Nat → FVal) (oy ox ch : Nat) : F32 :=
  let win := (List.range (c.kh * c.kw)).map fun i => (c.at oy ox (i / c.kw) (i % c.kw) ch).map get
  if c.mode = 1 then
    (win.map fun v => f32enc (v.getD (.inf true))).foldl (fun m x => if f32nan m || f32nan x then fp32.nan else if f32lt m x then x else m)
      (f32enc (.inf true))
  else
    let sum := (win.map fun v => f32enc (v.getD (.fin false 0 0))).foldl f32add 0
    f32mul sum (f32ofRatio 1 ((c.kh * c.kw : Nat) : Int))

/-- CONV at descriptor `d`. -/
def State.conv (s : State) (m d : Nat) : DRes := do
  s.dCheck d 4 [(0x10, 0x3B)]
  let f := fun o => s.dsc d o 4
  let base := mxBase m
  let (io, wo, oo, bias, si, sw) := (f 0x10, f 0x14, f 0x18, f 0x1C, f 0x20, f 0x24)
  let c := s.convShape d
  let scaled := si != absent || sw != absent
  if c.mode = 0 then s.engCheck d scaled
  else if !engTy (s.dTA d) || s.dAcc d || (scaled && 1 < s.dTA d) then .error fType else .ok ()
  let k := c.k
  let nb := c.cin / c.groups
  if !c.ok || (c.mode != 0 && wo != absent) ||
      (si != absent && nb % 32 != 0) || (c.mode == 0 && scaled && k % 32 != 0) then .error fParam
  else
    let oh := c.oh.toNat
    let ow := c.ow.toNat
    let whole := fun o ty n => inMx o 1 0 (tyBytes ty n)
    if !(whole io (s.dTA d) (c.h * c.w * c.cin) && (c.mode != 0 || whole wo (s.dTB d) (c.cout * k)) &&
        whole oo (s.dTO d) (oh * ow * c.cout) && (bias == absent || whole bias 6 c.cout) &&
        (si == absent || whole si 6 (c.h * c.w * c.cin / 32)) && (sw == absent || whole sw 6 (c.cout * k / 32))) then .error fBounds
    else
      let outs := (List.range (oh * ow * c.cout)).map fun e =>
        let co := e % c.cout
        let oy := e / c.cout / ow
        let ox := e / c.cout % ow
        let cin := if s.dAccum d then some (tyVal (s.dTO d) (s.sram.el (s.dTO d) (base + oo) e)) else none
        let b := if bias = absent then none else some (s.sram.rdLE (base + bias + 4 * co) 4)
        if c.mode = 0 then
          let r : Red := ⟨k, fun i => match c.redAt oy ox co i with
              | some j => s.sram.el (s.dTA d) (base + io) j
              | none => 0,
            fun i => s.sram.el (s.dTB d) (base + wo) (co * k + i),
            if si = absent then none else some fun bk => match c.redAt oy ox co (32 * bk) with
              | some j => s.sram.rdLE (base + si + 4 * (j / 32)) 4
              | none => 0,
            if sw = absent then none else some fun bk => s.sram.rdLE (base + sw + 4 * (co * (k / 32) + bk)) 4⟩
          (base + oo, e, s.redOut d r cin b)
        else
          let v := c.pool (s.poolVal d (base + io) (if si = absent then absent else base + si)) oy ox co
          (base + oo, e, s.dStep5 d (cin.map f32enc) b v, 0)
      let s' := s.putRed m d outs
      .ok (if c.mode = 0 then s'.macs m (oh * ow * c.cout * k) else s')

/-! ## ATTN (R200, R216) -/

/-- One query of one head: τ_eff and the removal by distance are given; scores by key, then the value row. -/
structure Head where
  nk : Nat
  d : Nat
  score : Nat → F32
  v : Nat → Nat → FVal
  far : Nat → Bool
  tau : Option F32

/-- The largest of a list, NaN if any is NaN. -/
def maxF : List F32 → F32
  | [] => 0xFF800000
  | x :: xs => xs.foldl f32max x

/-- A query's outputs over its `d` columns (none where no position remains), and how many keys the distance and the score test removed (R200 steps 1–7). -/
def Head.run (h : Head) (kcap pty : Nat) (keys : List Nat) : List F32 × Nat × Nat :=
  let near := keys.filter fun j => !h.far j
  let sc : List (Nat × F32) := near.map fun j => (j, h.score j)
  let m := maxF (sc.map Prod.snd)
  let c : List (Nat × F32) := sc.map fun p => (p.1, f32sub p.2 m)
  let kept : List (Nat × F32) := match h.tau with
    | some τ => c.filter fun p : Nat × F32 => !f32lt p.2 τ
    | none => c
  let e : List (Nat × F32) := kept.map fun p => (p.1, f32exp true p.2)
  let sum := (e.map (·.2)).foldl f32add 0
  let p : List (Nat × Nat) := e.map fun x => (x.1, (tyConv pty (f32dec (f32div x.2 sum))).1)
  let val := fun col =>
    f32sum4 fun eng =>
      (p.filter fun x => decide (eng * kc kcap ≤ x.1 ∧ x.1 < (eng + 1) * kc kcap)).foldl
        (fun acc x => f32enc ((f32dec acc).add ((tyVal pty x.2).mul (h.v x.1 col)))) 0
  let outs := if kept.isEmpty then [] else (List.range h.d).map val
  (outs, keys.length - near.length, near.length - kept.length)

/-- Is key POS word `k` farther than RHO tiles from query POS word `q` (R216)? -/
def posFar (rho q k : Nat) : Bool :=
  let dist := fun a b : Nat => max (a - b) (b - a)
  let dx := dist (bitsAt q 5 6) (bitsAt k 5 6)
  let dy := dist (bitsAt q 16 6) (bitsAt k 16 6)
  rho < 255 && (bitsAt q 22 6 != bitsAt k 22 6 || decide (rho < max dx dy))

/-- ATTN at descriptor `d`, with the core's τ_eff for it. -/
def State.attn (s : State) (m d : Nat) (tau : F32) : DRes := do
  s.dCheck d 2 [(0x10, 0x37), (0x38, 0x44)]
  let f := fun o => s.dsc d o 4
  let base := mxBase m
  let fp := fun t => decide (2 ≤ t ∧ t ≤ 5)
  if !fp (s.dTA d) || !fp (s.dTB d) || s.dAcc d then .error fType
  else
    let (qo, ko, vo, oo, pq, pk, cq, ck) := (f 0x10, f 0x14, f 0x18, f 0x1C, f 0x20, f 0x24, f 0x28, f 0x2C)
    let (nq, nk, heads, dd, rho) := (s.dsc d 0x30 2, s.dsc d 0x32 2, s.dsc d 0x34 1, s.dsc d 0x35 1, s.dsc d 0x36 1)
    let skim := s.dSkim d
    let dist := skim && rho != 255
    if nq = 0 ∨ 4096 < nq ∨ nk = 0 ∨ 4096 < nk ∨ heads = 0 ∨ 16 < heads ∨ dd < 16 ∨ 128 < dd ∨ dd % 16 ≠ 0 ∨
        (dist && (pq == absent || pk == absent)) = true then .error fParam
    else
      let row := heads * dd
      let whole := fun o ty n => inMx o 1 0 (tyBytes ty n)
      let opt := fun o n => o == absent || inMx o 1 0 (4 * n)
      let vq := if cq = absent then nq else s.sram.rdLE (base + cq) 4
      let vk := if ck = absent then nk else s.sram.rdLE (base + ck) 4
      if !(whole qo (s.dTA d) (nq * row) && whole ko (s.dTA d) (nk * row) && whole vo (s.dTB d) (nk * row) &&
          whole oo (s.dTO d) (nq * row) && (!dist || opt pq nq && opt pk nk) && opt cq 1 && opt ck 1) || nq < vq || nk < vk then
        .error fBounds
      else
        let pty := if s.dTB d = 5 then 5 else 4
        let el := fun ty o i h c => tyVal ty (s.sram.el ty (base + o) (i * row + h * dd + c))
        let pos := fun o i => s.sram.rdLE (base + o + 4 * i) 4
        let res := (List.range nq).flatMap fun i => (List.range heads).map fun h =>
          if vq ≤ i then ([], 0, 0)
          else
            let hd : Head := ⟨vk, dd,
              fun j => f32mul (dotF dd (el (s.dTA d) qo i h) (el (s.dTA d) ko j h)) (f 0x38),
              fun j c => el (s.dTB d) vo j h c,
              fun j => dist && posFar rho (pos pq i) (pos pk j),
              if skim then some tau else none⟩
            hd.run nk pty (List.range vk)
        let vals := (List.range (nq * heads)).flatMap fun r =>
          let x := res.getD r ([], 0, 0)
          (List.range dd).map fun c =>
            (base + oo, r * dd + c, ((x.1[c]?).map (s.dFinish d)).getD (.fin false 0 0))
        let gone := (res.map fun x => x.2.1 * 2 * dd + x.2.2 * dd).sum
        let s' := (s.putVals m (s.dTO d) vals).macs m (heads * vq * vk * 2 * dd - gone)
        .ok (s'.inc MXC.SKIM_SKIPPED m gone)

/-! ## ELTWISE and REDUCE (R201, R202) -/

/-- A vector-unit input, converted to FP32. -/
def State.vecIn (s : State) (ty a i : Nat) : F32 := f32enc (tyVal ty (s.sram.el ty a i))

/-- ELTWISE at descriptor `d`. -/
def State.eltwise (s : State) (m d : Nat) : DRes := do
  s.dCheck d 0 [(0x10, 0x28)]
  let f := fun o => s.dsc d o 4
  let base := mxBase m
  let (xo, yo, oo, len, fn, bc, row, imm) := (f 0x10, f 0x14, f 0x18, f 0x1C, s.dsc d 0x20 1, s.dsc d 0x21 1, s.dsc d 0x22 2, f 0x24)
  let two := fn ≤ 4
  if 7 < s.dTA d ∨ (two && bc ≤ 1 && 7 < s.dTB d) = true ∨ s.dAcc d = true then .error fType
  else if 7 < fn ∨ 2 < bc ∨ (bc = 1 ∧ row = 0) then .error fParam
  else if len = 0 then .ok s
  else
    let ny := if bc = 0 then len else min len row
    if !(inMx xo 1 0 (tyBytes (s.dTA d) len) && inMx oo 1 0 (tyBytes (s.dTO d) len) &&
        (!two || bc == 2 || inMx yo 1 0 (tyBytes (s.dTB d) ny))) then .error fBounds
    else
      let vals := (List.range len).map fun e =>
        let x := s.vecIn (s.dTA d) (base + xo) e
        let y := if bc = 2 then imm else s.vecIn (s.dTB d) (base + yo) (if bc = 1 then e % row else e)
        let r := match fn with
          | 0 => f32add x y | 1 => f32sub x y | 2 => f32mul x y | 3 => f32max x y | 4 => f32min x y
          | 5 => x | 6 => f32rsqrt x | _ => f32exp false x
        (base + oo, e, s.dFinish d r)
      .ok (s.putVals m (s.dTO d) vals)

/-- NaN ranks below −Inf. -/
def rankLt (a b : F32) : Bool := if f32nan b then false else if f32nan a then true else f32lt a b

/-- Index and value of the highest-ranked element, ties to the lowest index. -/
def argMax : List (Nat × F32) → Option (Nat × F32)
  | [] => none
  | x :: xs => some (xs.foldl (fun m y => if rankLt m.2 y.2 then y else m) x)

/-- The `n` highest-ranked elements in descending order. -/
def topK : Nat → List (Nat × F32) → List (Nat × F32)
  | 0, _ => []
  | n + 1, l =>
    match argMax l with
    | none => []
    | some x => x :: topK n (l.filter fun y => y.1 != x.1)

/-- The row results of REDUCE other than ARGMAX and TOPK. -/
def reduceRow (fn : Nat) (l : List F32) : F32 :=
  match fn with
  | 0 => l.foldl f32add 0
  | 1 => if l.isEmpty then 0 else f32div (l.foldl f32add 0) (f32ofInt l.length)
  | 2 => maxF l
  | 3 => (match l with | [] => 0 | x :: xs => xs.foldl f32min x)
  | _ => l.foldl (fun acc x => f32add acc (f32mul x x)) 0

/-- Write 32-bit words. -/
def State.putWords (s : State) (l : List (Nat × Nat)) : State :=
  l.foldl (fun s e => { s with sram := s.sram.wrLE e.1 4 e.2 }) s

/-- TOPK of a row: values and indices; beyond the row's COLS elements the manual states none, so they are free values. -/
def State.topRow (s : State) (m d vals idxs ktop r : Nat) (l : List F32) : State :=
  let t := topK ktop ((List.range l.length).zip l)
  (List.range ktop).foldl (fun s j =>
    match t[j]? with
    | some x =>
      let s := s.putVals m (s.dTO d) [(vals, r * ktop + j, s.dFinish d x.2)]
      s.putWords [(idxs + 4 * (r * ktop + j), x.1)]
    | none =>
      let (v, s) := s.takeFree
      let (i, s) := s.takeFree
      let s : State := { s with sram := s.sram.setEl (s.dTO d) vals (r * ktop + j) (v % 2 ^ tyBits (s.dTO d)) }
      s.putWords [(idxs + 4 * (r * ktop + j), i)]) s

/-- REDUCE at descriptor `d`. -/
def State.reduce (s : State) (m d : Nat) : DRes := do
  s.dCheck d 0 [(0x10, 0x21), (0x22, 0x28)]
  let f := fun o => s.dsc d o 4
  let base := mxBase m
  let (xo, oo, rows, cols, fn, ktop, ix) := (f 0x10, f 0x14, f 0x18, f 0x1C, s.dsc d 0x20 1, s.dsc d 0x22 2, f 0x24)
  if 7 < s.dTA d ∨ s.dAcc d = true then .error fType
  else if 6 < fn ∨ (fn = 5 ∧ (ktop = 0 ∨ 256 < ktop)) ∨ (fn ≠ 5 ∧ (ktop ≠ 0 ∨ ix ≠ 0)) then .error fParam
  else if rows = 0 then .ok s
  else if cols = 0 ∧ fn ≠ 0 ∧ fn ≠ 1 ∧ fn ≠ 6 then .error fParam
  else
    let per := if fn = 5 then ktop else 1
    let ob := if fn = 4 then 4 * rows else tyBytes (s.dTO d) (rows * per)
    if !(inMx xo 1 0 (tyBytes (s.dTA d) (rows * cols)) && inMx oo 1 0 ob && (fn != 5 || inMx ix 1 0 (4 * rows * ktop))) then
      .error fBounds
    else
      let line := fun r => (List.range cols).map fun c => s.vecIn (s.dTA d) (base + xo) (r * cols + c)
      if fn = 4 then
        .ok (s.putWords ((List.range rows).map fun r =>
          (base + oo + 4 * r, ((argMax ((List.range cols).zip (line r))).getD (0, 0)).1)))
      else if fn = 5 then
        .ok ((List.range rows).foldl (fun s' r => s'.topRow m d (base + oo) (base + ix) ktop r (line r)) s)
      else
        .ok (s.putVals m (s.dTO d) ((List.range rows).map fun r =>
          (base + oo, r, if cols = 0 then .fin false 0 0 else s.dFinish d (reduceRow fn (line r)))))

end Sys2Proof.Machine
end

