-- ==== Sys2Proof/Machine/MatrixCore.lean ====
section
/-!
DEFINITION. Matrix cores and TOK units (chapter 07): the slot sequencer, the queue and its semaphores, gathers, DMA and its
flits, results, token records and their fences, and the commands of these.
-/
namespace Sys2Proof.Machine
open Regs

def State.mxc (s : State) (m : Nat) : Mx := Tab.get Mx.init s.mx m
def State.upMx (s : State) (m : Nat) (f : Mx → Mx) : State := { s with mx := Tab.put Mx.init s.mx m (f (s.mxc m)) }
def State.tk (s : State) (k : Nat) : Tok := Tab.get Tok.init s.tok k
def State.upTok (s : State) (k : Nat) (f : Tok → Tok) : State := { s with tok := Tab.put Tok.init s.tok k (f (s.tk k)) }

/-- The TOK page. -/
def tokPage (k : Nat) : Page := ⟨.tok, k⟩

/-- The source field of a matrix core. -/
def mxSrc (m : Nat) : Nat := srcField 1 (m / 2) (3 + m % 2)

/-- The matrix core a source field names. -/
def srcMx (aux : Nat) : Nat := 2 * bitsAt aux 8 4 + (bitsAt aux 0 8 - 3)

/-! ## Token buffers (R206–R209) -/

/-- Fields of a token record: word 0 and the POS word. -/
def tokBuf (w0 : Nat) : Nat := 16 * bitsAt w0 39 1 + bitsAt w0 35 4

/-- The cell of a record in buffer `b`, `none` when it lies outside (R207). -/
def State.tokCell (s : State) (k b pos : Nat) : Option Nat :=
  let st := bitsAt pos 22 6
  let x := bitsAt pos 0 11
  let y := bitsAt pos 11 11
  let sh := s.rg TOK.CELL_SHIFT k b
  let gw := s.rg TOK.GW k b
  let gh := s.rg TOK.GH k b
  let s0 := s.rg TOK.S0 k b
  let x0 := s.rg TOK.X0 k b
  let y0 := s.rg TOK.Y0 k b
  let cx := (x - x0) >>> sh
  let cy := (y - y0) >>> sh
  if st < s0 ∨ x < x0 ∨ y < y0 ∨ s.rg TOK.NS k b ≤ st - s0 ∨ gw ≤ cx ∨ gh ≤ cy then none
  else some (((st - s0) * gh + cy) * gw + cx)

/-- BAR2 address of a cell. -/
def State.tokAddr (s : State) (k b q : Nat) : Nat := mxBase (2 * k + b / 16) + s.rg TOK.BASE k b + 64 * q

/-- Store a record in its cell, or count it in OLDER (R207). -/
def State.tokStore (s : State) (k : Nat) (p : TokPend) : State :=
  let old := Tab.get none (s.tk k).cells (p.buf * 4096 + p.cell)
  let ok := match old with
    | none => true
    | some (t, c) => decide (t < p.t ∨ (t = p.t ∧ p.core ≤ c))
  if !ok then s.inc TOK.OLDER k
  else
    let s := if old.isSome then s.inc TOK.REPLACED k else s
    let s := s.upTok k fun u => { u with cells := Tab.put none u.cells (p.buf * 4096 + p.cell) (some (p.t, p.core)) }
    let a := s.tokAddr k p.buf p.cell
    { s with sram := (List.range 8).foldl (fun m i => m.wrLE (a + 8 * i) 8 (p.words.getD i 0)) s.sram }

/-- The fence of buffer `b`. -/
def State.tokFence (s : State) (k b : Nat) : Option Fence := Tab.get none (s.tk k).fences b
def State.setTokFence (s : State) (k b : Nat) (f : Option Fence) : State :=
  s.upTok k fun u => { u with fences := Tab.put none u.fences b f }

/-- Must a record of time `t` wait for the fence of buffer `b`? -/
def State.tokWaits (s : State) (k b t : Nat) : Bool :=
  match s.tokFence k b with
  | some f => s.on TOK.FENCED_EN k b && decide (f.f < t)
  | none => false

/-- A record that may be stored now: LATE when its slot's read phase is open (R208). -/
def State.tokApply (s : State) (k : Nat) (p : TokPend) : State :=
  let late := match s.tokFence k p.buf with
    | some f => s.on TOK.FENCED_EN k p.buf && f.opened
    | none => false
  let s := if late then (s.inc TOK.TOK_LATE k).irqSet (tokPage k) 8 else s
  s.tokStore k p

/-- What the TOK unit does with a record it has taken: discard and count it, store it, or let it wait for its buffer's fence. -/
def State.tokTake (s : State) (k core : Nat) (ws : List Nat) : State :=
  let w0 := ws.getD 0 0
  let b := tokBuf w0
  let t := rebuild s.dt (bitsAt w0 0 35)
  if 6 ≤ bitsAt w0 40 3 then s.inc TOK.BAD_REC k
  else if !s.on TOK.BUF_EN k b then s.inc TOK.NO_BUF k
  else
    match s.tokCell k b (ws.getD 1 0 % 2 ^ 32) with
    | none => s.inc TOK.OUTSIDE k
    | some q =>
      if s.tokWaits k b t then s.upTok k fun u => { u with pend := u.pend ++ [⟨b, q, t, core, ws⟩] }
      else s.tokApply k ⟨b, q, t, core, ws⟩

/-- A token record reaches the TOK unit (R206–R209): none is taken while the pending queue is full. -/
def State.tokenIn (s : State) (k : Nat) : State :=
  if 1024 ≤ (s.tk k).pend.length then
    (if s.net.any fun f => f.toUnit 6 k 2 then s.waitBegin TOK.PEND_STALL k else s)
  else
    match s.takeUnit fun f => f.toUnit 6 k 2 with
    | none => s
    | some (f, s) =>
      ((s.inc TOK.RECORDS_IN k).ackTo (srcCore f.aux) (srcField 1 k 2)).tokTake k (srcCore f.aux) f.words

/-- Is the fence of a token buffer settled (R115, R208)? -/
def State.tokSettled (s : State) (k b : Nat) (f : Fence) : Bool := f.f + 1024 * s.rg TOK.SETTLE k b ≤ s.dt

/-- The pending queue has room: the TOK unit's credit is back (R209). -/
def State.tokFreed (s : State) (k : Nat) : State := if (s.tk k).pend.length < 1024 then s.waitEnd TOK.PEND_STALL k else s

/-- Apply the waiting records of buffer `b` that satisfy `p`. -/
def State.tokPendApply (s : State) (k : Nat) (p : TokPend → Bool) : State :=
  let q := (s.tk k).pend
  (q.filter p).foldl (fun s x => s.tokApply k x) ((s.upTok k fun u => { u with pend := q.filter fun x => !p x }).tokFreed k)

/-- A buffer's fence advances when all its release marks are in or DT has reached the next slot instant (R115, R208). -/
def State.tokAdvance (s : State) (k b : Nat) : State :=
  match s.tokFence k b with
  | none => s
  | some f =>
    match s.slotAfter (s.rg TOK.GROUP k b) f.n with
    | none => s
    | some (n', f') =>
      let marked := s.rg TOK.FENCE_READERS k b ≤ f.marks
      if !marked && s.dt < f' then s
      else
        let s := if marked then s else (s.inc TOK.FORCED k).irqSet (tokPage k) 9
        let s := s.setTokFence k b (some ⟨n', f', false, false, 0⟩)
        s.tokPendApply k fun x => x.buf == b && x.t ≤ f'

/-- Has buffer `b` a fence of group `g`: it is enabled and FENCED_EN is 1 (R208, R222)? -/
def State.tokBound (s : State) (k b g : Nat) : Bool := s.on TOK.BUF_EN k b && s.on TOK.FENCED_EN k b && s.rg TOK.GROUP k b == g

/-- Group `g` is enabled or disabled: the fences of its token buffers start or end (R115, R208). -/
def State.tokFencesStart (s : State) (g n f : Nat) : State :=
  (List.range 512).foldl (fun s i =>
    if s.tokBound (i / 32) (i % 32) g then
      s.setTokFence (i / 32) (i % 32) (some ⟨n, f, false, false, 0⟩)
    else s) s
def State.tokFencesStop (s : State) (g : Nat) : State :=
  (List.range 512).foldl (fun s i =>
    if s.tokBound (i / 32) (i % 32) g then
      (s.setTokFence (i / 32) (i % 32) none).tokPendApply (i / 32) fun x => x.buf == i % 32
    else s) s

/-- Empty the cells of the buffers that satisfy `p`. -/
def State.tokEmpty (s : State) (k : Nat) (p : Nat → Bool) : State :=
  s.upTok k fun u => { u with cells := u.cells.keep fun i => !p (i / 4096) }

/-- Buffer `b` is disabled: its fence and its waiting records go, and its cells are empty. -/
def State.tokDisable (s : State) (k b : Nat) : State :=
  ((((s.setTokFence k b none).tokEmpty k (· == b)).upTok k fun u => { u with pend := u.pend.filter fun x => x.buf != b })).tokFreed k

/-- A write of the register at 0x044 for the selected buffer (R222). -/
def State.tokCtrl (s : State) (k : Nat) (v : Word) : State :=
  let b := s.rg TOK.BUF_INDEX k
  let en := TOK.BUF_EN.of v = 1
  if s.on TOK.BUF_EN k b && en then s.errParam (tokPage k)
  else if 5 < TOK.CELL_SHIFT.of v ∨ 35 < TOK.S0.of v ∨ TOK.NS.of v = 0 ∨ 36 < TOK.NS.of v ∨
      (en ∧ 4096 < TOK.NS.of v * s.rg TOK.GW k b * s.rg TOK.GH k b) then s.errParam (tokPage k)
  else
    let was := s.on TOK.BUF_EN k b
    let s := [TOK.GROUP, TOK.FENCED_EN, TOK.CELL_SHIFT, TOK.S0, TOK.NS, TOK.BUF_EN].foldl (fun s f => s.rs f k (f.of v) b) s
    if !en then (if was then s.tokDisable k b else s)
    else
      let s := s.tokEmpty k (· == b)
      let g := s.rg TOK.GROUP k b
      match (if s.tokBound k b g && s.groupOn g then (s.sch g).starts.head?.or (s.sch g).next else none) with
      | some (n, f) => s.setTokFence k b (some ⟨n, f, false, false, 0⟩)
      | none => s

/-! ## Release marks (R115, R198, R199) -/

/-- The word of a RELEASE flit: map and, for the Ledger, source and key above the fields of R227; or a buffer with bit 6; or a
single descriptor with bit 20 (assumption 42). -/
def releaseWord (buf : Option Nat) (map : Nat) (src : Bool) (key : Nat) : Nat :=
  match buf with
  | some b => 1 <<< 60 ||| 64 ||| b
  | none => 1 <<< 60 ||| map ||| (if src then 128 else 0) ||| key <<< 8

/-- The word of a release mark for one descriptor (R277). -/
def releaseOne (map d : Nat) : Nat := 1 <<< 60 ||| map ||| d <<< 14 ||| 1 <<< 20

/-- A release mark reaches the Ledger bank or the TOK unit of cluster `k`. -/
def State.releaseIn (s : State) (k : Nat) : State :=
  match s.takeFlit fun f => (f.toUnit 0xB k 1 || f.toUnit 0xB k 2) && f.words.getD 0 0 >>> 60 == 1 with
  | none => s
  | some (f, s) =>
    let w := f.words.getD 0 0
    if w.testBit 6 then
      match s.tokFence k (bitsAt w 0 5) with
      | some g => s.setTokFence k (bitsAt w 0 5) (some { g with marks := g.marks + 1 })
      | none => s
    else if w.testBit 20 then
      match s.fence k (bitsAt w 14 6) with
      | some g => s.setFence k (bitsAt w 14 6) (some { g with marks := g.marks + 1 })
      | none => s
    else s.ledgerRelease k (bitsAt w 0 6) (w.testBit 7) (bitsAt w 8 6)

/-! ## Gathers (R198, R199) -/

/-- The SLOT descriptors a Ledger gather's fence rests on. -/
def State.gatherDescs (s : State) (k map key : Nat) (src : Bool) : List Nat :=
  (s.descs k).filter fun d => s.rg LDB.MAP k d == map && s.on LDB.SOURCE k d == src && s.rg LDB.KEY k d == key

/-- Is the fence read phase of slot `n` open for the descriptors of a gather? -/
def State.gatherReady (s : State) (k n g : Nat) (ds : List Nat) : Bool :=
  ds.all fun d => !s.on LDB.DISCIPLINE k d || s.rg LDB.FENCE_GROUP k d != g ||
    (match s.fence k d with | some f => f.n == n && f.settled | none => false)

/-- v of a gathered element converted to the output type, as a value (R124). -/
def gatherVal (ty : Nat) (v : Int) : FVal :=
  if ty = 0 then finOf (divNearestEven (v * 127) 32768) 0 false else finOf v (-15) false

/-- The elements of a Ledger gather, in order, and the DDR4 lines BACKED ones touch. -/
def State.gatherElems (s : State) (k : Nat) (ds : List Nat) (sel f : Nat) (tOff x0 y0 : Int) (w h step : Nat) :
    List (List Int × List Nat) :=
  (List.range (h * w)).map fun i =>
    let x : Int := x0 + (i % w * step : Nat)
    let y : Int := y0 + (i / w * step : Nat)
    match (ds.find? fun d => s.inRect k d x y).or (ds.find? fun d => (s.region k d).holds x y) with
    | none => (if sel = 2 then [0, 0] else [0], [])
    | some d =>
      let t := unsigned 64 ((f : Int) - s.rg LDB.TIME_SHIFT k d + tOff)
      let r := s.region k d
      (s.polElems k d x y sel t,
        if s.on LDB.BACKED k d then [s.entryAddr k d (r.index x y 0) / 64] else [])

/-- GATHER MODE 0 at descriptor `d` for slot `n` at `f`; `none` while its read phase is not open. -/
def State.gatherLedger (s : State) (m d n f : Nat) : Except Nat (Option State) := do
  s.dCheck d 1 [(0x10, 0x25), (0x28, 0x2C)]
  let k := m / 2
  let ty := s.dTO d
  let b := fun o => s.dsc d o 1
  let (oo, so, w, h) := (s.dsc d 0x10 4, s.dsc d 0x14 4, s.dsc d 0x20 2, s.dsc d 0x22 2)
  let src := (b 0x1B).testBit 0
  let sel := bitsAt (b 0x1B) 1 3
  let c := if sel = 2 then 2 else 1
  let st := b 0x24
  if !(ty == 0 || ty == 2 || ty == 3 || ty == 4) || s.dAcc d then .error fType
  else if b 0x18 ≠ 0 ∨ 63 < b 0x19 ∨ 63 < b 0x1A ∨ 15 < b 0x1B ∨ 4 < sel ∨ 2 < st ∨ w = 0 ∨ 2048 < w ∨ h = 0 ∨ 2048 < h ∨
      (ty = 0 ∧ w * c % 32 ≠ 0) then .error fParam
  else if !(inMx oo 1 0 (tyBytes ty (w * h * c)) && (ty != 0 || so == absent || inMx so 1 0 (w * h * c / 8))) then .error fBounds
  else
    let ds := s.gatherDescs k (b 0x19) (b 0x1A) src
    if !s.gatherReady k n (s.rg MXC.GROUP m) ds then .ok none
    else
      let es := s.gatherElems k ds sel f (signed 32 (s.dsc d 0x28 4)) (signed 16 (s.dsc d 0x1C 2)) (signed 16 (s.dsc d 0x1E 2)) w h
        (2 ^ st)
      let flat : List Int := es.flatMap fun e => e.1
      let s := ds.foldl (fun s d => if s.on LDB.DISCIPLINE k d then s.fenceRead k d else s) s
      let s := (es.flatMap fun e => e.2).foldl (fun s l => s.cacheUse k l) s
      let s := s.putVals m ty ((List.range flat.length).map fun i => (mxBase m + oo, i, gatherVal ty (flat.getD i 0)))
      let s := if ty = 0 ∧ so ≠ absent then
          s.putWords ((List.range (w * h * c / 32)).map fun i => (mxBase m + so + 4 * i, 0x3C010204)) else s
      .ok (some (s.inc LDB.GATHER_ELEMENTS k (w * h * c)))

/-- The valid cells of buffer `b` at slot instant `f`, in ascending order (R208). -/
def State.validCells (s : State) (k b f : Nat) : List Nat :=
  (List.range 4096).filter fun q =>
    match Tab.get none (s.tk k).cells (b * 4096 + q) with
    | none => false
    | some (t, _) => s.rg TOK.TTL_NS k b == 0 || f < t + s.rg TOK.TTL_NS k b

/-- GATHER MODE 1 at descriptor `d` for slot `n` at `f`. -/
def State.gatherTokens (s : State) (m d n f : Nat) : Except Nat (Option State) := do
  s.dCheck d 1 [(0x10, 0x1A), (0x1C, 0x26)]
  let k := m / 2
  let b := s.dsc d 0x19 1
  let (oo, so, po, co, nmax) := (s.dsc d 0x10 4, s.dsc d 0x14 4, s.dsc d 0x1C 4, s.dsc d 0x20 4, s.dsc d 0x24 2)
  if 31 < b ∨ b / 16 ≠ m % 2 ∨ nmax = 0 ∨ 4096 < nmax ∨ s.dsc d 0x18 1 ≠ 1 then .error fParam
  else if !(inMx oo 1 0 (48 * nmax) && inMx so 1 0 (4 * nmax) && inMx po 1 0 (4 * nmax) && inMx co 1 0 4) then .error fBounds
  else
    let ready := !s.on TOK.FENCED_EN k b ||
      (match s.tokFence k b with | some g => g.n == n && s.tokSettled k b g | none => !s.on TOK.BUF_EN k b)
    if !ready then .ok none
    else
      let s := match s.tokFence k b with
        | some g => s.setTokFence k b (some { g with opened := true })
        | none => s
      let all := if s.on TOK.BUF_EN k b then s.validCells k b f else []
      let cells := all.take nmax
      let base := mxBase m
      let copy := fun (mem : Mem) t =>
        match cells[t]? with
        | some q =>
          let a := s.tokAddr k b q
          ((mem.wrBytes (base + oo + 48 * t) (s.sram.rdBytes (a + 16) 48)).wrLE (base + po + 4 * t) 4 (s.sram.rdLE (a + 8) 4)).wrLE
            (base + so + 4 * t) 4 (s.sram.rdLE (a + 12) 4)
        | none =>
          ((mem.wrBytes (base + oo + 48 * t) (List.replicate 48 0)).wrLE (base + po + 4 * t) 4 0).wrLE (base + so + 4 * t) 4 0
      let mem := ((List.range nmax).foldl copy s.sram).wrLE (base + co) 4 cells.length
      .ok (some ({ s with sram := mem }.inc MXC.TOK_OVER m (all.length - cells.length)))

/-! ## DMA (R203, R236, R237) -/

/-- Space and offset of an address in the form of R203. -/
def spaceOf (a : Nat) : Nat := bitsAt a 60 4

/-- The DDR4 allocation of the partition that owns cluster `k` (R203): base and size. -/
def State.ddrAlloc (s : State) (k : Nat) : Nat × Nat :=
  match s.host.parts.find? fun e => bit e.2.clusters k with
  | some e => (e.2.ddrBase, e.2.ddrSize)
  | none => (0, 0)

/-- Check `rows` rows of `bytes` bytes at an address (R203, R205). -/
def State.dmaCheck (s : State) (k a rows ld bytes : Nat) : Except Nat Unit :=
  let last := (rows - 1) * ld + bytes
  let o := a % 2 ^ 60
  match spaceOf a with
  | 0 => if 2 ^ 21 ≤ o then .error fSpace else if mxSize < o + last then .error fBounds else .ok ()
  | 1 => if 2 ^ 26 ≤ o then .error fSpace else if mxSize < o % 2 ^ 21 + last then .error fBounds else .ok ()
  | 2 =>
    let al := s.ddrAlloc k
    if 2 ^ 40 ≤ o ∨ o < al.1 ∨ al.1 + al.2 < o + last then .error fSpace else .ok ()
  | _ => .error fSpace

/-- A free tag of matrix core `m`. -/
def State.freeTag (s : State) (m : Nat) : Option Nat :=
  (List.range 512).find? fun t => !(s.mxc m).reqs.any fun r => r.tag == t

/-- The unit that carries a WRITE (8) or READ (9) of matrix core `m` to where an address lies: another matrix core, or the DDR4
controllers (R227). `side` stands above the 14 tag bits: the request's tag and its byte count, which D has no place for
(assumption 40). -/
def reqFlit (ty m a side : Nat) (data : List Nat) : Flit :=
  let aux := mxSrc m ||| side <<< 14
  if spaceOf a = 2 then ⟨ty, 2, 0, 1, aux, a :: data⟩
  else
    let x := bitsAt a 21 5
    ⟨ty, 1, x / 2, 3 + x % 2, aux, a :: data⟩

/-- The side data of a request, and its parts. -/
def reqSide (tag len : Nat) : Nat := tag ||| len <<< 9
def Flit.reqTag (f : Flit) : Nat := bitsAt f.aux 14 9
def Flit.reqLen (f : Flit) : Nat := bitsAt f.aux 23 7

/-- The 64 data bytes of a WRITE or READRSP unit, as 8 words; bytes past the end are 0. -/
def wideWords (data : List Byte) : List Nat := (List.range 8).map fun i => leNat ((data.drop (8 * i)).take 8)

/-- The first `len` bytes that a unit's data words carry. -/
def wideBytes (len : Nat) (ws : List Nat) : List Byte := (ws.flatMap (leBytes 8)).take len

/-- Bytes reach their destination: the own SRAM at once, else a WRITE flit under the tag. -/
def State.dmaPut (s : State) (m tag dst : Nat) (data : List Byte) : State :=
  if spaceOf dst = 0 then
    ({ s with sram := s.sram.wrBytes (mxBase m + dst % 2 ^ 21) data }.upMx m fun x =>
      { x with reqs := x.reqs.filter fun r => r.tag != tag }).inc MXC.DMA_BYTES m data.length
  else
    let s := s.upMx m fun x => { x with reqs := (x.reqs.filter fun r => r.tag != tag) ++ [⟨tag, dst, data.length, true⟩] }
    s.send (reqFlit 8 m dst (reqSide tag data.length) (wideWords data))

/-- The first unit that a DMA request sends: a READ of a remote source, else a WRITE to a remote destination. -/
def dmaFirst (m src dst : Nat) : Option Flit :=
  if spaceOf src ≠ 0 then some (reqFlit 9 m src 0 [])
  else if spaceOf dst ≠ 0 then some (reqFlit 8 m dst 0 []) else none

/-- Issue one DMA request of `len` bytes under a tag. -/
def State.dmaOne (s : State) (m tag src dst len : Nat) : State :=
  let s := match dmaFirst m src dst with | some f => s.linkMoved f (8192 + m) | none => s
  if spaceOf src = 0 then s.dmaPut m tag dst (s.sram.rdBytes (mxBase m + src % 2 ^ 21) len)
  else
    let s := s.upMx m fun x => { x with reqs := x.reqs ++ [⟨tag, dst, len, false⟩] }
    s.send (reqFlit 9 m src (reqSide tag len) [])

/-- The next request of a DMA job: source, destination, bytes, and the job after it. -/
def DmaJob.next (j : DmaJob) : Nat × Nat × Nat × DmaJob :=
  let len := min 64 (j.rowBytes - j.off)
  (j.src + j.row * j.ss + j.off, j.dst + j.row * j.ds + j.off, len,
    if j.off + len < j.rowBytes then { j with off := j.off + len } else { j with off := 0, row := j.row + 1 })

/-- Issue requests of the DMA job while tags and link buffers are free; `n` bounds the requests. -/
def State.dmaIssue (s : State) (m : Nat) : Nat → State
  | 0 => s
  | n + 1 =>
    match (s.mxc m).job, s.freeTag m with
    | some j, some tag =>
      if j.rows ≤ j.row then s
      else
        let x := j.next
        match (dmaFirst m x.1 x.2.1).filter fun f => !s.linkRoom f with
        | some f => s.linkWait f (8192 + m)
        | none => ((s.upMx m fun y => { y with job := some x.2.2.2 }).dmaOne m tag x.1 x.2.1 x.2.2.1).dmaIssue m n
    | _, _ => s

/-- The DMA job has moved every byte: its descriptor's results are visible. -/
def State.dmaSettle (s : State) (m : Nat) : State :=
  match (s.mxc m).job with
  | some j =>
    if j.rows ≤ j.row && (s.mxc m).reqs.isEmpty then
      s.upMx m fun x => { x with job := none, run := x.run.map fun r => { r with dma := some (j.idx, true) } }
    else s
  | none => s

/-- A request has completed: its tag is free, and further requests issue. -/
def State.dmaMore (s : State) (m : Nat) : State := (s.dmaIssue m 512).dmaSettle m

/-- A buffer of a link is free again: the DMA jobs issue on. -/
def State.mxGo (s : State) : State := s.mx.foldl (fun s e => if e.2.job.isSome then s.dmaMore e.1 else s) s

/-- The write under a tag is visible. -/
def State.dmaLand (s : State) (m tag : Nat) : State :=
  match (s.mxc m).reqs.find? fun r => r.tag == tag with
  | none => s
  | some r => ((s.upMx m fun x => { x with reqs := x.reqs.filter fun r => r.tag != tag }).inc MXC.DMA_BYTES m r.len).dmaMore m

/-- DMA at descriptor `d` with index `i`: the state with its requests issued. -/
def State.dma (s : State) (m d i : Nat) : DRes := do
  s.dCheck d 0 [(0x10, 0x32)]
  let (src, dst, bytes, rows, ss, ds) :=
    (s.dsc d 0x10 8, s.dsc d 0x18 8, s.dsc d 0x20 4, s.dsc d 0x24 4, s.dsc d 0x28 4, s.dsc d 0x2C 4)
  if s.dAcc d then .error fType
  else if rows = 0 ∨ bytes = 0 then
    .ok (s.upMx m fun x => { x with run := x.run.map fun r => { r with dma := some (i, true) } })
  else
    s.dmaCheck (m / 2) src rows ss bytes
    s.dmaCheck (m / 2) dst rows ds bytes
    let s := s.upMx m fun x => { x with job := some ⟨i, src, dst, bytes, rows, ss, ds, 0, 0⟩ }
    .ok ((s.dmaIssue m (rows * ((bytes + 63) / 64))).dmaSettle m)

/-- The units of a RESULT transfer (R204): WRITE units back to back to the fusion complex, with the source address of each 64 bytes
and the transfer's tags (group, KIND, SENSOR, slot) above the 14 tag bits; its MX number is the unit's source (assumption 41). -/
def resultFlit (m so group slot kind sensor : Nat) (data : List Byte) : Flit :=
  ⟨8, 2, 0, 0, mxSrc m ||| (group ||| kind <<< 2 ||| sensor <<< 10 ||| slot <<< 18) <<< 14,
    (List.range (data.length / 64)).flatMap fun i => (1 <<< 60 ||| m <<< 21 ||| (so + 64 * i)) :: wideWords (data.drop (64 * i))⟩

/-- A RESULT transfer on its way to the fusion complex. -/
def Flit.isResult (f : Flit) : Bool := f.toHub 8 0

/-- The bytes of a RESULT transfer. -/
def resultBytes (ws : List Nat) : List Byte :=
  (List.range (ws.length / 9)).flatMap fun i => wideBytes 64 ((ws.drop (9 * i + 1)).take 8)

/-- RESULT at descriptor `d` (R204): the transfer goes to the fusion complex with its tags. -/
def State.resultSend (s : State) (m d : Nat) (slot : Nat) : DRes := do
  s.dCheck d 0 [(0x10, 0x1A)]
  let (so, len, kind, sensor) := (s.dsc d 0x10 4, s.dsc d 0x14 4, s.dsc d 0x18 1, s.dsc d 0x19 1)
  if s.dAcc d then .error fType
  else if len % 64 ≠ 0 ∨ (35 < sensor ∧ sensor ≠ 0xFF) then .error fParam
  else if !inMx so 1 0 len then .error fBounds
  else if len = 0 then .ok s
  else .ok (s.send (resultFlit m so (s.rg MXC.GROUP m) slot kind sensor (s.sram.rdBytes (mxBase m + so) len)))

/-! ## The slot sequencer (R188, R211–R213, R217) -/

/-- A matrix core works: its page is enabled and it is not fenced. -/
def State.mxOn (s : State) (m : Nat) : Bool := s.on (Hdr.ENABLE .mxc) m && !s.mxFenced m && !s.inReset (mxPage m)

/-- Address of descriptor `i` of the program. -/
def State.descAt (s : State) (m i : Nat) : Nat := mxBase m + s.rg MXC.PROG_BASE m + 128 * i

/-- Semaphores as SEM_INIT gives them. -/
def State.semInit (s : State) (m : Nat) : List Nat :=
  (List.range 16).map fun i => bitsAt (s.rg (MXC.SEM_INIT.nth (i / 2)) m) (16 * (i % 2)) 16

/-- τ_eff of a TAU_BASE and SKIM_MAX under the terms fixed at the slot start (R217). -/
def Mx.tauEff (x : Mx) (base skimMax : F32) : F32 :=
  f32min skimMax (if x.gov then f32add (f32add base x.skA) x.skB else base)

/-- Descriptors enter the queue in order, up to 64. -/
def State.fillQueue (s : State) (m : Nat) : State :=
  s.upMx m fun x => { x with run := x.run.map fun r =>
    let n := min (64 - r.queue.length) (s.rg MXC.PROG_LEN m - r.next)
    { r with queue := r.queue ++ (List.range n).map (· + r.next), next := r.next + n } }

/-- Start the slot program (R211 step 1): τ_eff terms, semaphores, queue. `tj` in °C, `d` droop events. -/
def State.mxBegin (s : State) (m : Nat) (slot : Option Nat) (f : Nat) (tj : Int) (d : Nat) : State :=
  let excess : Int := max 0 (tj - signed 8 (s.rg GOV.T_KNEE 0))
  let a := f32mul (s.rg GOV.G_T 0) (f32ofInt excess)
  let b := f32mul (s.rg GOV.G_D 0) (f32ofInt d)
  let x : Mx := { s.mxc m with run := some ⟨slot, f, 0, [], none, none, none, 0⟩, sem := s.semInit m, job := none,
                               last := slot.or (s.mxc m).last, gov := s.on GOV.SKIM_GOV_EN 0, skA := a, skB := b }
  let s := (s.upMx m fun _ => x).rb MXC.SLOT_RUNNING m true
  let s := match slot with | some n => s.rs MXC.SLOT_N m n | none => s
  let s := match (List.range (s.rg MXC.PROG_LEN m)).reverse.find? fun i => s.dOp (s.descAt m i) == 4 with
    | some i =>
      let da := s.descAt m i
      ((s.rs MXC.TAU_LAST m (x.tauEff (s.dsc da 0x3C 4) (s.dsc da 0x40 4))).rs MXC.TJ_LAST m (unsigned 8 tj)).rs MXC.DROOP_LAST m d
    | none => s
  s.fillQueue m

/-- End the program with a status: the queue is discarded, and a SLOT_DONE marker goes to the fusion complex. -/
def State.mxEnd (s : State) (m st : Nat) : State :=
  match (s.mxc m).run with
  | none => s
  | some r =>
    let s := (s.upMx m fun x => { x with run := none, job := none }).rb MXC.SLOT_RUNNING m false
    let s := s.rs MXC.LAST_STATUS m st
    match r.slot with
    | some n => s.send ⟨0xB, 2, 0, 0, mxSrc m, [2 <<< 60 ||| (n % 2 ^ 46) <<< 2 ||| st]⟩
    | none => s

/-- A descriptor faults (R205). -/
def State.mxFault (s : State) (m i code : Nat) : State :=
  let s := ((s.rs MXC.CF_INDEX m i).rs MXC.CF_CODE m code).rb MXC.CF_VALID m true
  ((s.inc MXC.CMD_FAULTS m).irqSet (mxPage m) 10).mxEnd m 2

/-- The newest slot of the core's group whose instant DT has reached and that the core has not started. -/
def State.mxSlotDue (s : State) (m : Nat) : Option (Nat × Nat) :=
  let c := s.sch (s.rg MXC.GROUP m)
  let all := (c.next.toList ++ c.starts).filter fun p => decide (p.2 ≤ s.dt)
  match all.head? with
  | some p => if (match (s.mxc m).last with | some l => l == p.1 | none => false) then none else some p
  | none => none

/-- Abort a program that is not complete (R212). -/
def State.mxAbort (s : State) (m : Nat) : State :=
  if (s.mxc m).run.isNone then s else ((s.inc MXC.SLOT_OVERRUNS m).irqSet (mxPage m) 9).mxEnd m 1

/-- DT reaches F_n for a bound core (R211); the loader holds the cores of a cluster that it applies (R342). -/
def State.mxSlotStart (s : State) (m : Nat) (tj : Int) (d : Nat) : State :=
  if s.heldMx.any (fun e => e.1 == m) || !s.mxOn m || !s.on MXC.BOUND m || s.rg MXC.PROG_LEN m == 0 || !s.groupOn (s.rg MXC.GROUP m) then s
  else
    match s.mxSlotDue m with
    | none => s
    | some (n, f) => (s.mxAbort m).mxBegin m (some n) f tj d

/-- Which unit runs an OP (R188): 0 COMPUTE, 1 GATHER, 2 DMA. -/
def unitOf (op : Nat) : Nat := if op = 3 then 1 else if op = 7 ∨ op = 8 then 2 else 0

/-- The descriptor a unit runs. -/
def MxRun.unit (r : MxRun) (u : Nat) : Option (Nat × Bool) := if u = 0 then r.comp else if u = 1 then r.gath else r.dma
def MxRun.setUnit (r : MxRun) (u : Nat) (v : Option (Nat × Bool)) : MxRun :=
  if u = 0 then { r with comp := v } else if u = 1 then { r with gath := v } else { r with dma := v }

/-- Are all semaphores of a mask non-zero? -/
def semsUp (sem : List Nat) (mask : Nat) : Bool := (List.range 16).all fun i => !bit mask i || sem.getD i 0 != 0

/-- Decrement the semaphores of a mask. -/
def semsTake (sem : List Nat) (mask : Nat) : List Nat := (List.range 16).map fun i => sem.getD i 0 - (if bit mask i then 1 else 0)

/-- Increment the semaphores of a mask, saturating at 65,535, which SEM_SAT counts. -/
def State.semsGive (s : State) (m mask : Nat) : State :=
  let sem := (s.mxc m).sem
  let sat := ((List.range 16).filter fun i => bit mask i && sem.getD i 0 == 65535).length
  (s.upMx m fun x => { x with sem := (List.range 16).map fun i => min 65535 (sem.getD i 0 + (if bit mask i then 1 else 0)) }).inc
    MXC.SEM_SAT m sat

/-- Dispatch the head of the queue when its unit is free and its WAIT semaphores are up (R188). -/
def State.mxDispatch (s : State) (m : Nat) : State :=
  match (s.mxc m).run with
  | none => s
  | some r =>
    match r.queue with
    | [] => s
    | i :: q =>
      let a := s.descAt m i
      if mxSize < s.rg MXC.PROG_BASE m + 128 * (i + 1) then s.mxFault m i fBounds
      else
        let u := unitOf (s.dOp a)
        if (r.unit u).isSome || !semsUp (s.mxc m).sem (s.dWait a) then s
        else
          (s.upMx m fun x => { x with sem := semsTake x.sem (s.dWait a),
                                      run := some ({ r with queue := q }.setUnit u (some (i, false))) }).fillQueue m

/-- The descriptor that a unit has been dispatched and has not carried out, if it satisfies `p`. -/
def State.mxCurrent (s : State) (m u : Nat) (p : Nat → Bool) : Option Nat :=
  match (s.mxc m).run with
  | some r => (match r.unit u with | some (i, false) => if p (s.descAt m i) then some i else none | _ => none)
  | none => none

/-- A descriptor's results are visible. -/
def State.mxVisible (s : State) (m u i : Nat) : State :=
  s.upMx m fun x => { x with run := x.run.map fun r => r.setUnit u (some (i, true)) }

/-- Carry out the dispatched descriptor of OP `op`, if a unit holds one: its effect, or its fault. -/
def State.mxRun (s : State) (m op : Nat) (f : Nat → DRes) : State :=
  match s.mxCurrent m (unitOf op) fun a => s.dOp a == op with
  | none => s
  | some i =>
    match f (s.descAt m i) with
    | .ok s' => s'.mxVisible m (unitOf op) i
    | .error c => s.mxFault m i c

/-- Carry out a dispatched GATHER of a mode: it waits while its read phase is not open; in a run by START it faults as PARAM. -/
def State.mxGather (s : State) (m mode : Nat) (f : Nat → Nat → Nat → Except Nat (Option State)) : State :=
  match s.mxCurrent m 1 fun a => (s.dsc a 0x18 1 == 1) == (mode == 1) with
  | none => s
  | some i =>
    match (s.mxc m).run with
    | some ⟨some n, t, _, _, _, _, _, _⟩ =>
      match f (s.descAt m i) n t with
      | .ok (some s') => s'.mxVisible m 1 i
      | .ok none => s
      | .error c => s.mxFault m i c
    | _ => s.mxFault m i fParam

/-- Send the release marks of a completed GATHER (R198, R199). -/
def State.sendRelease (s : State) (m a : Nat) : State :=
  if s.dOp a != 3 || !s.dRelease a then s
  else
    let k := m / 2
    let b := s.dsc a 0x19 1
    if s.dsc a 0x18 1 = 1 then s.send ⟨0xB, 1, k, 2, mxSrc m, [releaseWord (some b) 0 false 0]⟩
    else s.send ⟨0xB, 1, k, 1, mxSrc m, [releaseWord none b ((s.dsc a 0x1B 1).testBit 0) (s.dsc a 0x1A 1)]⟩

/-- A completed DMA signals the destination core (R203). -/
def State.peerSignal (s : State) (m a : Nat) : State :=
  let dst := s.dsc a 0x18 8
  let mask := s.dsc a 0x30 2
  if s.dOp a != 7 || mask == 0 then s
  else if spaceOf dst = 1 then s.semsGive (bitsAt dst 21 5) mask
  else if spaceOf dst = 0 then s.semsGive m mask
  else s

/-- The finished unit with the smallest descriptor index. -/
def MxRun.finished (r : MxRun) : Option (Nat × Nat) :=
  ((List.range 3).filterMap fun u => match r.unit u with | some (i, true) => some (i, u) | _ => none).foldl
    (fun b x => match b with | none => some x | some y => if x.1 < y.1 then some x else some y) none

/-- A descriptor completes: SIGNAL, SEQ_LAST, CMD_DONE, and after the last one the marker with status OK (R188, R211). -/
def State.mxDone (s : State) (m : Nat) : State :=
  match (s.mxc m).run with
  | none => s
  | some r =>
    match r.finished with
    | none => s
    | some (i, u) =>
      let a := s.descAt m i
      let s := s.upMx m fun x => { x with run := some ({ r with done := r.done + 1 }.setUnit u none) }
      let s := ((s.semsGive m (s.dSignal a)).rs MXC.SEQ_LAST m (s.dsc a 8 4)).sendRelease m a
      let s := s.peerSignal m a
      let s := if s.dIrq a then s.irqSet (mxPage m) 8 else s
      if r.done + 1 = s.rg MXC.PROG_LEN m then (s.inc MXC.SLOTS_RUN m).mxEnd m 0 else s

/-- DT has reached the deadline, or the next slot instant (R212). -/
def State.mxOverdue (s : State) (m : Nat) : Bool :=
  match (s.mxc m).run with
  | none => false
  | some r =>
    decide (r.f + s.rg MXC.DEADLINE_NS m ≤ s.dt) ||
      (match r.slot with
       | some n => (match s.slotAfter (s.rg MXC.GROUP m) n with | some p => decide (p.2 ≤ s.dt) | none => false)
       | none => false)

/-- A write of START (R221). -/
def State.mxStartWrite (s : State) (m : Nat) (v : Word) : State :=
  if MXC.START.of v = 0 then s
  else if s.on MXC.BOUND m || s.on MXC.SLOT_RUNNING m then s.errParam (mxPage m)
  else if !s.mxOn m || s.rg MXC.PROG_LEN m == 0 then s
  else
    let (d, s) := s.takeFree
    s.mxBegin m none s.dt (signed 8 (bitsAt (s.rg GOV.TJ_DIE 0) (8 * (m / 8)) 8)) (d % 256)

/-- IDLE of a matrix page (R220): no program, an empty queue, no DMA request, no write into its SRAM in flight. -/
def State.mxIdle (s : State) (m : Nat) : Bool :=
  (s.mxc m).run.isNone && (s.mxc m).reqs.isEmpty && !s.net.any fun f => f.toUnit 8 (m / 2) (3 + m % 2)

/-- What a block reset of a matrix page does beyond its fields (R220): the SRAM is zeroed and the records of its token buffers
are discarded. -/
def State.mxReset (s : State) (m : Nat) : State :=
  let s := { s with sram := Tab.keep (fun a => !(decide (mxBase m ≤ a ∧ a < mxBase m + mxSize))) s.sram,
                    mx := Tab.put Mx.init s.mx m Mx.init }
  s.tokEmpty (m / 2) fun b => b / 16 == m % 2

/-! ## Flits of the matrix cores and DDR4 (R227, R236, R237) -/

/-- Put a request into the queue of its channel. -/
def State.ddrAsk (s : State) (r : DdrReq) : State :=
  match s.channelOf r.addr with
  | none => s
  | some c => { s with ddrq := Tab.put [] s.ddrq c (Tab.get [] s.ddrq c ++ [r]) }

/-- A WRITE flit reaches its destination memory, or the DDR4 controllers' queue. -/
def State.writeFlit (s : State) : State :=
  match s.takeUnit fun f => f.ty == 8 && !f.isResult with
  | none => s
  | some (f, s) =>
    let a := f.words.getD 0 0
    let data := wideBytes f.reqLen (f.words.drop 1)
    (if f.dk = 2 then s.ddrAsk ⟨2, a % 2 ^ 40, some data, data.length, srcMx f.src, f.reqTag⟩
      else { s with sram := s.sram.wrBytes (mxBase (2 * f.dcl + (f.dep - 3)) + a % 2 ^ 21) data }.dmaLand (srcMx f.src) f.reqTag).mxGo

/-- A response to a read: from the memory's unit to the requester (R226, R227). -/
def State.readAnswer (s : State) (src m tag : Nat) (data : List Byte) : State :=
  s.send ⟨0xA, 1, m / 2, 3 + m % 2, src, tag :: wideWords data⟩

/-- A READ flit reaches its destination. -/
def State.readFlit (s : State) : State :=
  match s.takeUnit fun f => f.ty == 9 with
  | none => s
  | some (f, s) =>
    let a := f.words.getD 0 0
    (if f.dk = 2 then s.ddrAsk ⟨2, a % 2 ^ 40, none, f.reqLen, srcMx f.src, f.reqTag⟩
      else s.readAnswer (srcField 1 f.dcl f.dep) (srcMx f.src) f.reqTag
        (s.sram.rdBytes (mxBase (2 * f.dcl + (f.dep - 3)) + a % 2 ^ 21) f.reqLen)).mxGo

/-- A READRSP flit reaches the core that asked: the bytes go on to their destination. -/
def State.readRsp (s : State) : State :=
  match s.takeFlit fun f => f.ty == 0xA && f.dk == 1 with
  | none => s
  | some (f, s) =>
    let m := 2 * f.dcl + (f.dep - 3)
    let tag := f.words.getD 0 0
    match (s.mxc m).reqs.find? fun r => r.tag == tag && !r.wr with
    | none => s
    | some r => (s.dmaPut m tag r.dst (wideBytes r.len (f.words.drop 1))).dmaMore m

/-- A request leaves its channel's queue and is carried out. -/
def State.ddrDo (s : State) (r : DdrReq) : State :=
  match r.data with
  | some data => { s with ddr4 := s.ddr4.wrBytes r.addr data }.dmaLand r.mx r.tag
  | none => s.readAnswer (srcField 2 0 1) r.mx r.tag (s.ddr4.rdBytes r.addr r.len)

/-- A channel serves the oldest request of its highest-priority waiting level (R237). -/
def State.ddrServe (s : State) (c : Nat) : State :=
  let q := Tab.get [] s.ddrq c
  let s := if q.any (fun r => r.level == 2) && s.dt < Tab.get 0 s.ddrNext c then s.waitBegin DDR.L2_CAP_STALL c else s
  match s.ddrLevel c with
  | none => s
  | some l =>
    match takeFirst (fun r : DdrReq => r.level == l) q with
    | none => s
    | some (r, rest) =>
      let s : State := { s with ddrq := Tab.put [] s.ddrq c rest }
      (if l = 2 then (s.l2Serve c r.len).waitEnd DDR.L2_CAP_STALL c else s).ddrDo r

/-! ## Meanings -/

/-- RELEASE (R115). -/
def execRelease (t : Nat) (k : Fin 16) (s : State) : Res := .next ((s.advance t).releaseIn k)

/-- TOKEN (R207). -/
def execToken (t : Nat) (k : Fin 16) (s : State) : Res := .next ((s.advance t).tokenIn k)

/-- TOK_FENCE_ADVANCE (R208). -/
def execTokFenceAdvance (t : Nat) (k : Fin 16) (tb : Fin 32) (s : State) : Res := .next ((s.advance t).tokAdvance k tb)

/-- MX_SLOT_START (R211): the die's hottest sensor in °C and its droop events of the previous slot come from outside. -/
def execMxSlotStart (t : Nat) (m : Fin 32) (tj droop : BitVec 8) (s : State) : Res :=
  let s := s.advance t
  let d := m.val / 8
  let s := s.rs GOV.TJ_DIE 0 (setBitsAt (s.rg GOV.TJ_DIE 0) (8 * d) 8 tj.toNat)
  .next (s.mxSlotStart m tj.toInt droop.toNat)

/-- MX_DISPATCH (R188). -/
def execMxDispatch (t : Nat) (m : Fin 32) (s : State) : Res := .next ((s.advance t).mxDispatch m)

/-- GEMM (R196). -/
def execGemm (t : Nat) (m : Fin 32) (s : State) : Res :=
  let s := s.advance t
  .next (s.mxRun m 1 fun a => s.gemm m a)

/-- CONV (R197). -/
def execConv (t : Nat) (m : Fin 32) (s : State) : Res :=
  let s := s.advance t
  .next (s.mxRun m 2 fun a => s.conv m a)

/-- GATHER_LEDGER (R198). -/
def execGatherLedger (t : Nat) (m : Fin 32) (s : State) : Res :=
  let s := s.advance t
  .next (s.mxGather m 0 fun a n f => s.gatherLedger m a n f)

/-- GATHER_TOKENS (R199). -/
def execGatherTokens (t : Nat) (m : Fin 32) (s : State) : Res :=
  let s := s.advance t
  .next (s.mxGather m 1 fun a n f => s.gatherTokens m a n f)

/-- ATTN (R200). -/
def execAttn (t : Nat) (m : Fin 32) (s : State) : Res :=
  let s := s.advance t
  .next (s.mxRun m 4 fun a => s.attn m a ((s.mxc m).tauEff (s.dsc a 0x3C 4) (s.dsc a 0x40 4)))

/-- ELTWISE (R201). -/
def execEltwise (t : Nat) (m : Fin 32) (s : State) : Res :=
  let s := s.advance t
  .next (s.mxRun m 5 fun a => s.eltwise m a)

/-- REDUCE (R202). -/
def execReduce (t : Nat) (m : Fin 32) (s : State) : Res :=
  let s := s.advance t
  .next (s.mxRun m 6 fun a => s.reduce m a)

/-- DMA (R203): requests issue; the descriptor's results are visible when the last byte has landed. -/
def execDma (t : Nat) (m : Fin 32) (s : State) : Res :=
  let s := s.advance t
  .next (match s.mxCurrent m 2 fun a => s.dOp a == 7 with
    | none => s
    | some i => if (s.mxc m).job.isSome then s else
      match s.dma m (s.descAt m i) i with
      | .ok s' => s'
      | .error c => s.mxFault m i c)

/-- RESULT (R204). -/
def execResult (t : Nat) (m : Fin 32) (s : State) : Res :=
  let s := s.advance t
  .next (s.mxRun m 8 fun a => s.resultSend m a (s.rg MXC.SLOT_N m))

/-- MX_NOP (R195). -/
def execMxNop (t : Nat) (m : Fin 32) (s : State) : Res :=
  let s := s.advance t
  .next (s.mxRun m 9 fun a => (s.dCheck a 0 []).map fun _ => s)

/-- MX_DESCRIPTOR_DONE (R188). -/
def execMxDescriptorDone (t : Nat) (m : Fin 32) (s : State) : Res := .next ((s.advance t).mxDone m)

/-- MX_SLOT_ABORT (R212). -/
def execMxSlotAbort (t : Nat) (m : Fin 32) (s : State) : Res :=
  let s := s.advance t
  .next (if s.mxOverdue m then s.mxAbort m else s)

/-- MX_START (R221): a write of START. -/
def execMxStart (t : Nat) (c : Req) (m : Fin 32) (v : Word) (s : State) : Res :=
  s.cmdWrite t c (mxPage m) 0x0F0 fun s => s.mxStartWrite m v

/-- UNLISTED_DESCRIPTOR_OP (R195, R205): a dispatched descriptor whose OP is not listed faults as OPCODE. -/
def execUnlistedDescriptorOp (t : Nat) (m : Fin 32) (s : State) : Res :=
  let s := s.advance t
  .next (match s.mxCurrent m 0 fun a => !(decide (1 ≤ s.dOp a ∧ s.dOp a ≤ 9)) with
    | none => s
    | some i => s.mxFault m i fOpcode)

/-- WRITE_FLIT (R227). -/
def execWriteFlit (t : Nat) (s : State) : Res := .next (s.advance t).writeFlit

/-- READ_FLIT (R227). -/
def execReadFlit (t : Nat) (s : State) : Res := .next (s.advance t).readFlit

/-- READRSP (R227). -/
def execReadrsp (t : Nat) (s : State) : Res := .next (s.advance t).readRsp

/-- DDR_REQUEST_SERVE (R237). -/
def execDdrRequestServe (t : Nat) (ddr : Fin 6) (s : State) : Res := .next ((s.advance t).ddrServe ddr)

end Sys2Proof.Machine
end

