-- ==== Sys2Proof/Machine/Fusion.lean ====
section
/-!
DEFINITION. The arithmetic of the fusion complex (chapter 10): FP32 vectors and matrices, the calibration map, ego-motion, and
the track filter. Within a formula of the manual, operations run left to right as it is written (assumption 51).
-/
namespace Sys2Proof.Machine
open Regs

/-! ## FP32 vectors and matrices, as lists of patterns -/

def fOne : F32 := 0x3F800000
def fAt (l : List F32) (i : Nat) : F32 := l.getD i 0
def vMap (f : F32 → F32 → F32) (a b : List F32) : List F32 := List.zipWith f a b
def vAdd := vMap f32add
def vSub := vMap f32sub
def vScale (k : F32) (a : List F32) : List F32 := a.map (f32mul k)
def vNeg (a : List F32) : List F32 := a.map f32neg
def fSum (l : List F32) : F32 := l.foldl f32add 0
def vDot (a b : List F32) : F32 := fSum (vMap f32mul a b)
def vNorm (a : List F32) : F32 := f32sqrt (vDot a a)
def vDiv (a : List F32) (k : F32) : List F32 := a.map fun x => f32div x k
def vCross (a b : List F32) : List F32 :=
  let c := fun i j => f32sub (f32mul (fAt a i) (fAt b j)) (f32mul (fAt a j) (fAt b i))
  [c 1 2, c 2 0, c 0 1]
def zero3 : List F32 := [0, 0, 0]

/-- Entry (i, j) of a row-major matrix with `c` columns. -/
def mAt (c : Nat) (m : List F32) (i j : Nat) : F32 := fAt m (c * i + j)

/-- A row-major matrix from its entries. -/
def mat (r c : Nat) (f : Nat → Nat → F32) : List F32 := (List.range r).flatMap fun i => (List.range c).map fun j => f i j

/-- Product of an r × k and a k × c matrix. -/
def mMul (r k c : Nat) (a b : List F32) : List F32 :=
  mat r c fun i j => fSum ((List.range k).map fun t => f32mul (mAt k a i t) (mAt c b t j))

/-- Transpose of an r × c matrix. -/
def mT (r c : Nat) (a : List F32) : List F32 := mat c r fun i j => mAt c a j i

/-- The 3 × 3 matrix of the map x ↦ w × x. -/
def skew (w : List F32) : List F32 :=
  [0, f32neg (fAt w 2), fAt w 1, fAt w 2, 0, f32neg (fAt w 0), f32neg (fAt w 1), fAt w 0, 0]

/-- Solve a symmetric positive 3 × 3 system by Cholesky in FP32 (R283). -/
def chol3 (a b : List F32) : List F32 :=
  let l00 := f32sqrt (mAt 3 a 0 0)
  let l10 := f32div (mAt 3 a 1 0) l00
  let l20 := f32div (mAt 3 a 2 0) l00
  let l11 := f32sqrt (f32sub (mAt 3 a 1 1) (f32mul l10 l10))
  let l21 := f32div (f32sub (mAt 3 a 2 1) (f32mul l20 l10)) l11
  let l22 := f32sqrt (f32sub (f32sub (mAt 3 a 2 2) (f32mul l20 l20)) (f32mul l21 l21))
  let y0 := f32div (fAt b 0) l00
  let y1 := f32div (f32sub (fAt b 1) (f32mul l10 y0)) l11
  let y2 := f32div (f32sub (f32sub (fAt b 2) (f32mul l20 y0)) (f32mul l21 y1)) l22
  let x2 := f32div y2 l22
  let x1 := f32div (f32sub y1 (f32mul l21 x2)) l11
  let x0 := f32div (f32sub (f32sub y0 (f32mul l10 x1)) (f32mul l20 x2)) l00
  [x0, x1, x2]

/-- The mean diagonal of k × N⁻¹, square root (R285). -/
def sigmaOf (rms : F32) (n : List F32) : F32 :=
  let r2 := f32mul rms rms
  let d := fun i => f32mul r2 (fAt (chol3 n ((List.range 3).map fun j => if i = j then fOne else 0)) i)
  f32sqrt (f32div (f32add (f32add (d 0) (d 1)) (d 2)) (f32ofInt 3))

/-- Insert in order; `before` says that the first goes before the second. -/
def insertBy {α : Type} (before : α → α → Bool) (x : α) : List α → List α
  | [] => [x]
  | y :: ys => if before y x then y :: insertBy before x ys else x :: y :: ys

/-- Sort, stable. -/
def sortBy {α : Type} (before : α → α → Bool) (l : List α) : List α := l.foldl (fun acc x => insertBy (fun a b => !before b a) x acc) []

/-! ## Calibration (R278, R279) -/

/-- Words of a bank. -/
def calWords : Nat := 78984

/-- Word `w` of stream `i` in bank `b`. -/
def State.calWord (s : State) (b i w : Nat) : Nat := Tab.get 0 s.cal (b * calWords + i * 2194 + w)

/-- R_s, t_s and VALID. -/
def State.calR (s : State) (b i : Nat) : List F32 := mat 3 3 fun r c => s.calWord b i (4 * r + c)
def State.calT (s : State) (b i : Nat) : List F32 := (List.range 3).map fun r => s.calWord b i (4 * r + 3)
def State.calValid (s : State) (b i : Nat) : Bool := (s.calWord b i 12).testBit 0

/-- A grid node. -/
def State.node (s : State) (b i gi gj : Nat) : List F32 :=
  let k := 33 * gj + gi
  [s.calWord b i (16 + 2 * k), s.calWord b i (17 + 2 * k)]

/-- Width and height of a stream in pixels. -/
def State.width (s : State) (i : Nat) : Nat := s.rg STREAM.WIDTH_M1 i + 1
def State.height (s : State) (i : Nat) : Nat := s.rg STREAM.HEIGHT_M1 i + 1

/-- The integer part of a clamped grid coordinate. -/
def gridFloor (g : F32) : Nat :=
  match f32dec g with
  | .fin false m e => min 31 (if 0 ≤ e then m <<< e.toNat else m >>> (-e).toNat)
  | .inf false => 31
  | _ => 0

/-- Clamp to [0, 32]. -/
def gridClamp (g : F32) : F32 := f32min (f32max g 0) (f32ofInt 32)

/-- The normalised position of a pixel and its Jacobian, row-major 2 × 2 (R279). -/
def State.normal (s : State) (b i : Nat) (u v : F32) : List F32 × List F32 :=
  let sw := f32div (f32ofInt 32) (f32ofInt (s.width i))
  let sh := f32div (f32ofInt 32) (f32ofInt (s.height i))
  let gx := gridClamp (f32div (f32mul u (f32ofInt 32)) (f32ofInt (s.width i)))
  let gy := gridClamp (f32div (f32mul v (f32ofInt 32)) (f32ofInt (s.height i)))
  let gi := gridFloor gx
  let gj := gridFloor gy
  let fx := f32sub gx (f32ofInt gi)
  let fy := f32sub gy (f32ofInt gj)
  let n00 := s.node b i gi gj
  let n10 := s.node b i (gi + 1) gj
  let n01 := s.node b i gi (gj + 1)
  let n11 := s.node b i (gi + 1) (gj + 1)
  let top := vAdd n00 (vScale fx (vSub n10 n00))
  let bot := vAdd n01 (vScale fx (vSub n11 n01))
  let p := vAdd top (vScale fy (vSub bot top))
  let dx := vScale sw (vSub n10 n00)
  let dy := vScale sh (vSub n01 n00)
  (p, [fAt dx 0, fAt dy 0, fAt dx 1, fAt dy 1])

/-- The rig-frame bearing of a normalised position: (R_s x) / |x|, from left to right (R279). -/
def bearing (r p : List F32) : List F32 :=
  let x := [fAt p 0, fAt p 1, fOne]
  vDiv (mMul 3 3 1 r x) (vNorm x)

/-! ## Ego-motion (R282–R285) -/

/-- A valid bin as the estimate uses it: stream, region, weight, bearing, ray rate, inverse depth. -/
structure EgoBin where
  str : Nat
  reg : Nat
  w : F32
  b : List F32
  m : List F32
  rho : Option F32
deriving DecidableEq, Repr

/-- Build it from a bin's exact quotients (R272, R282). -/
def State.egoBin (s : State) (bank i reg : Nat) (x : Bin) (rho : Option F32) : EgoBin :=
  let r := s.calR bank i
  let fx := f32ofRatio x.sx (256 * x.w : Nat)
  let fy := f32ofRatio x.sy (256 * x.w : Nat)
  let (p, j) := s.normal bank i (f32ofRatio x.px x.w) (f32ofRatio x.py x.w)
  let jf := mMul 2 2 1 j [fx, fy]
  let rd := [f32mul (fAt jf 0) (f32ofInt 1000), f32mul (fAt jf 1) (f32ofInt 1000), 0]
  let ray := [fAt p 0, fAt p 1, fOne]
  let n := vNorm ray
  let bh := vDiv ray n
  let m := vDiv (mMul 3 3 1 r (vSub rd (vScale (vDot bh rd) bh))) n
  ⟨i, reg, f32ofInt x.w, bearing r p, m, rho⟩

/-- e = m + ω × b. -/
def EgoBin.res (x : EgoBin) (w : List F32) : List F32 := vAdd x.m (vCross w x.b)

/-- I − b bᵀ, with |b|² for the diagonal's 1 in the ω system. -/
def projMat (d : F32) (b : List F32) : List F32 :=
  mat 3 3 fun i j => f32sub (if i = j then d else 0) (f32mul (fAt b i) (fAt b j))

/-- Sum of matrices or vectors of `n` entries. -/
def vSum (n : Nat) (l : List (List F32)) : List F32 := l.foldl vAdd (List.replicate n 0)

/-- One weighted solve for ω: the solution and its normal matrix. -/
def omegaSolve (l : List (F32 × EgoBin)) : List F32 × List F32 :=
  let a := vSum 9 (l.map fun x => vScale x.1 (projMat (vDot x.2.b x.2.b) x.2.b))
  let r := vSum 3 (l.map fun x => vScale x.1 (vCross x.2.m x.2.b))
  (chol3 a r, a)

/-- Five passes (R283). -/
def omega (huber : F32) (l : List EgoBin) : Nat → List F32 × List F32 → List F32 × List F32
  | 0, r => r
  | n + 1, r =>
    let w := fun x : EgoBin => f32mul x.w (f32min fOne (f32div huber (vNorm (x.res r.1))))
    omega huber l n (omegaSolve (l.map fun x => (w x, x)))

/-- The weighted RMS of |e|. -/
def wrms (l : List (F32 × List F32)) : F32 :=
  f32sqrt (f32div (fSum (l.map fun x => f32mul x.1 (vDot x.2 x.2))) (fSum (l.map (·.1))))

/-- A slot's ego-motion: EGO_VALID, SCALE_VALID, ω, v, SIGMA_W, SIGMA_V, RMS, bins, bins with depth, residuals by bin. -/
structure Ego where
  valid : Bool
  scale : Bool
  w : List F32
  v : List F32
  sw : F32
  sv : F32
  rms : F32
  bins : Nat
  dbins : Nat
  res : List (EgoBin × List F32)
deriving DecidableEq, Repr

/-- v by least squares where inverse depths exist (R284). -/
def velScale (l : List (EgoBin × List F32)) (ts : Nat → List F32) (w : List F32) : List F32 × List F32 :=
  let pick := l.filterMap fun x => x.1.rho.map fun r => (x.1, x.2, r)
  let a := vSum 9 (pick.map fun x => vScale (f32mul x.1.w (f32mul x.2.2 x.2.2)) (projMat fOne x.1.b))
  let r := vSum 3 (pick.map fun x =>
    let p := projMat fOne x.1.b
    let c := vCross w (ts x.1.str)
    vScale (f32mul x.1.w x.2.2) (vNeg (vAdd (mMul 3 3 1 p x.2.1) (vScale x.2.2 (mMul 3 3 1 p c)))))
  (chol3 a r, a)

/-! ### The unit eigenvector of R284, on exact integers -/

/-- A symmetric 3 × 3 integer matrix, by its entries 00, 01, 02, 11, 12, 22. -/
structure Sym3 where
  a : Int
  b : Int
  c : Int
  d : Int
  e : Int
  f : Int

/-- M − x I. -/
def Sym3.sub (m : Sym3) (x : Int) : Sym3 := { m with a := m.a - x, d := m.d - x, f := m.f - x }

/-- The adjugate. -/
def Sym3.adj (m : Sym3) : Sym3 :=
  ⟨m.d * m.f - m.e * m.e, m.c * m.e - m.b * m.f, m.b * m.e - m.c * m.d, m.a * m.f - m.c * m.c, m.b * m.c - m.a * m.e,
    m.a * m.d - m.b * m.b⟩

def Sym3.det (m : Sym3) : Int := m.a * m.adj.a + m.b * m.adj.b + m.c * m.adj.c
def Sym3.tr (m : Sym3) : Int := m.a + m.d + m.f

/-- Are all its eigenvalues at least 0 (every principal minor is)? -/
def Sym3.nonneg (m : Sym3) : Bool :=
  let n := m.adj
  decide (0 ≤ m.a ∧ 0 ≤ m.d ∧ 0 ≤ m.f ∧ 0 ≤ n.a ∧ 0 ≤ n.d ∧ 0 ≤ n.f ∧ 0 ≤ m.det)

/-- The column with the largest diagonal entry. -/
def Sym3.column (m : Sym3) : List Int :=
  if m.d ≤ m.a ∧ m.f ≤ m.a then [m.a, m.b, m.c] else if m.f ≤ m.d then [m.b, m.d, m.e] else [m.c, m.e, m.f]

/-- The floor of the smallest eigenvalue, between `lo` (at most it) and `lo + 2^n`. -/
def Sym3.least (m : Sym3) : Nat → Int → Int
  | 0, lo => lo
  | n + 1, lo =>
    let hi := lo + ((1 <<< n : Nat) : Int)
    m.least n (if (m.sub hi).nonneg then hi else lo)

/-- A vector of integers at unit length, each component rounded once to FP32. -/
def unitVec (v : List Int) : List F32 :=
  let k := Nat.log2 ((v.map Int.natAbs).foldl max 0) - 320
  let v := v.map fun x => x / ((1 <<< k : Nat) : Int)
  let n := natSqrt ((v.map fun x => x.natAbs * x.natAbs).sum <<< 512)
  v.map fun x => f32ofRatio (x * ((1 <<< 256 : Nat) : Int)) n

/-- Cross product of integer vectors. -/
def crossInt (u v : List Int) : List Int :=
  let g := fun (l : List Int) i => l.getD i 0
  let c := fun i j => g u i * g v j - g u j * g v i
  [c 1 2, c 2 0, c 0 1]

/-- The unit eigenvector of the smallest eigenvalue of a symmetric 3 × 3 matrix of FP32 entries 00, 01, 02, 11, 12, 22, exact and
rounded once by component. Where that eigenvalue is repeated, the manual does not say which unit vector of its space: one that the free
direction picks. An entry that is not finite gives NaN (assumption 50). -/
def minEigvec (l : List F32) : List F32 :=
  let vals := l.map f32dec
  if vals.any fun v => match v with | .fin _ _ _ => false | _ => true then List.replicate 3 0x7FC00000
  else
    let z := fun i : Nat => match vals[i]? with | some (.fin n m e) => sgn n (m <<< (e + 149).toNat) | _ => 0
    let m : Sym3 := ⟨z 0, z 1, z 2, z 3, z 4, z 5⟩
    let t := m.tr
    let c := m.adj.tr
    let d := m.det
    let p := t * t - 3 * c
    let q := t * c - 9 * d
    let free := (List.range 3).map fun i =>
      let x := (Config.minEigvec l).getD i 0
      if x % 2 = 0 then (x / 2 : Int) else -((x / 2 : Nat) : Int)
    let pick := fun (vs : List (List Int)) => unitVec ((vs.find? fun v => v.any (· != 0)).getD [1, 0, 0])
    if p = 0 then pick [free]
    else if t * t * c * c - 4 * c * c * c - 4 * t * t * t * d + 18 * t * c * d - 27 * d * d = 0 ∧ 3 * q < 2 * t * p then
      -- the smallest eigenvalue q / (2 p) is double: its space is orthogonal to the columns of 2 p M − q I
      let n := (Sym3.sub ⟨2 * p * m.a, 2 * p * m.b, 2 * p * m.c, 2 * p * m.d, 2 * p * m.e, 2 * p * m.f⟩ q).column
      pick [crossInt n free, crossInt n [1, 0, 0], crossInt n [0, 1, 0]]
    else
      let k : Int := ((1 <<< 1024 : Nat) : Int)
      let m : Sym3 := ⟨k * m.a, k * m.b, k * m.c, k * m.d, k * m.e, k * m.f⟩
      let r := m.a.natAbs + m.b.natAbs + m.c.natAbs + m.d.natAbs + m.e.natAbs + m.f.natAbs
      pick [(m.sub (m.least (Nat.log2 r + 2) (-r))).adj.column]

/-- v without scale: the eigenvector's sign makes Σ w (e · v) at most 0 (R284). -/
def velDir (l : List (EgoBin × List F32)) : List F32 :=
  let m := vSum 9 (l.map fun x =>
    let c := vCross x.1.b x.2
    vScale x.1.w (mat 3 3 fun i j => f32mul (fAt c i) (fAt c j)))
  let v := minEigvec [mAt 3 m 0 0, mAt 3 m 0 1, mAt 3 m 0 2, mAt 3 m 1 1, mAt 3 m 1 2, mAt 3 m 2 2]
  if f32pos (fSum (l.map fun x => f32mul x.1.w (vDot x.2 v))) then vNeg v else v

/-- The estimate. Without scale the manual names no solve for SIGMA_V: a free value of the weights, residuals and bearings. -/
def egoSolve (l : List EgoBin) (huber : F32) (minBins : Nat) (ts : Nat → List F32) : Ego :=
  let dl := (l.filter fun x => x.rho.isSome).length
  if l.length < minBins then ⟨false, false, zero3, zero3, 0, 0, 0, l.length, dl, l.map fun x => (x, x.m)⟩
  else
    let w := omega huber l 4 (omegaSolve (l.map fun x => (x.w, x)))
    let res := l.map fun x => (x, x.res w.1)
    let rms := wrms (res.map fun x => (x.1.w, x.2))
    if 3 ≤ dl then
      let v := velScale res ts w.1
      ⟨true, true, w.1, v.1, sigmaOf rms w.2, sigmaOf rms v.2, rms, l.length, dl, res⟩
    else
      let free := Config.sigmaV (res.flatMap fun x => x.1.w :: (x.1.b ++ x.2)) % 2 ^ 32
      ⟨true, false, w.1, velDir res, sigmaOf rms w.2, free, rms, l.length, dl, res⟩

/-! ## Detections at F_n (R281) -/

/-- A detection placed at F_n, and how many were dropped. -/
def placeDets (f maxEx look : Nat) (kept : List Result) : List Det × Nat :=
  let newest := fun (l : List Result) (better : Result → Result → Bool) =>
    l.foldl (fun b x => match b with | none => some x | some y => if better x y then some x else some y) none
  let e := newest (kept.filter fun r => decide (r.tm ≤ f)) fun x y => decide (y.tm < x.tm ∨ (y.tm = x.tm ∧ x.mx < y.mx))
  let l := newest (kept.filter fun r => decide (f < r.tm ∧ r.tm ≤ f + look)) fun x y => decide (x.tm < y.tm ∨ (x.tm = y.tm ∧ x.mx < y.mx))
  let ms := fun n : Nat => f32ofRatio n 1000000
  let firstOf := fun (ds : List Det) (o : Nat) => (ds.findIdx? fun d => d.obj == o)
  let eds := match e with | some r => r.dets | none => []
  let lds := match l with | some r => r.dets | none => []
  let tE := match e with | some r => r.tm | none => 0
  let tL := match l with | some r => r.tm | none => 0
  let mate := fun (i : Nat) (d : Det) =>
    if d.obj = 0 ∨ firstOf eds d.obj ≠ some i then none else (firstOf lds d.obj).bind fun j => lds[j]?
  let lerp := fun a b => f32add a (f32div (f32mul (f32sub b a) (f32ofInt (f - tE : Nat))) (f32ofInt (tL - tE : Nat)))
  let move := fun (d : Det) (k : F32) => { d with u := f32add d.u (f32mul d.du k), v := f32add d.v (f32mul d.dv k) }
  let ePart := ((List.range eds.length).zip eds).filterMap fun x =>
    match mate x.1 x.2 with
    | some b => some { x.2 with u := lerp x.2.u b.u, v := lerp x.2.v b.v, w := lerp x.2.w b.w, h := lerp x.2.h b.h }
    | none => if maxEx < f - tE then none else some (move x.2 (ms (f - tE)))
  let lPart := ((List.range lds.length).zip lds).filterMap fun x =>
    let paired := x.2.obj != 0 && firstOf lds x.2.obj == some x.1 && (firstOf eds x.2.obj).isSome
    if paired then none else some (move x.2 (f32neg (ms (tL - f))))
  let both := match e, l with
    | some a, some b => if a.mx ≤ b.mx then ePart ++ lPart else lPart ++ ePart
    | _, _ => ePart ++ lPart
  (both, eds.length - ePart.length)

/-! ## Track filter (R291, R292) -/

/-- Prediction over dt seconds with ω, v_ego and the acceleration term q (R291). -/
def Track.predict (x : Track) (dt q : F32) (w v : List F32) : Track :=
  let p := vAdd x.p (vScale dt (vSub (vSub x.u v) (vCross w x.p)))
  let u := vSub x.u (vScale dt (vCross w x.u))
  let k := skew w
  let f := mat 6 6 fun i j =>
    let same := f32sub (if i % 3 = j % 3 then fOne else 0) (f32mul dt (mAt 3 k (i % 3) (j % 3)))
    if i / 3 = j / 3 then same else if i < 3 ∧ i + 3 = j then dt else 0
  let fp := mMul 6 6 6 (mMul 6 6 6 f x.cov) (mT 6 6 f)
  let d2 := f32mul dt dt
  let d3 := f32mul d2 dt
  let cov := mat 6 6 fun i j =>
    let add := if i = j then (if i < 3 then f32mul q (f32div d3 (f32ofInt 3)) else f32mul q dt)
      else if i % 3 = j % 3 then f32mul q (f32div d2 (f32ofInt 2)) else 0
    f32add (mAt 6 fp i j) add
  { x with p := p, u := u, cov := cov }

/-- The prediction in a sensor: q and z; `none` when q_z is not above 0. -/
def Track.project (x : Track) (r t : List F32) : Option (List F32 × List F32) :=
  let q := mMul 3 3 1 (mT 3 3 r) (vSub x.p t)
  if f32pos (fAt q 2) then some (q, [f32div (fAt q 0) (fAt q 2), f32div (fAt q 1) (fAt q 2)]) else none

/-- H of the bearing observation, 2 × 6. -/
def bearingH (r q : List F32) : List F32 :=
  let z := fAt q 2
  let z2 := f32mul z z
  let hq := [f32div fOne z, 0, f32neg (f32div (fAt q 0) z2), 0, f32div fOne z, f32neg (f32div (fAt q 1) z2)]
  let h3 := mMul 2 3 3 hq (mT 3 3 r)
  mat 2 6 fun i j => if j < 3 then mAt 3 h3 i j else 0

/-- P Hᵀ and S of a 2-row observation with noise σ. -/
def obsS (cov h : List F32) (sigma : F32) : List F32 × List F32 :=
  let ph := mMul 6 6 2 cov (mT 2 6 h)
  let s := mMul 2 6 2 h ph
  let n := f32mul sigma sigma
  (ph, [f32add (fAt s 0) n, fAt s 1, fAt s 2, f32add (fAt s 3) n])

/-- Inverse of a 2 × 2 matrix. -/
def inv2 (s : List F32) : List F32 :=
  let d := f32sub (f32mul (fAt s 0) (fAt s 3)) (f32mul (fAt s 1) (fAt s 2))
  [f32div (fAt s 3) d, f32neg (f32div (fAt s 1) d), f32neg (f32div (fAt s 2) d), f32div (fAt s 0) d]

/-- d² = yᵀ S⁻¹ y. -/
def gate2 (y s : List F32) : F32 := vDot y (mMul 2 2 1 (inv2 s) y)

/-- A Kalman correction with gain K (6 × n), innovation y and observation matrix H (n × 6): P ← (I − K H) P, then its symmetric
part. -/
def Track.correct (x : Track) (n : Nat) (k y h : List F32) : Track :=
  let dx := mMul 6 n 1 k y
  let kh := mMul 6 n 6 k h
  let ikh := mat 6 6 fun i j => f32sub (if i = j then fOne else 0) (mAt 6 kh i j)
  let p := mMul 6 6 6 ikh x.cov
  let cov := mat 6 6 fun i j => f32div (f32add (mAt 6 p i j) (mAt 6 p j i)) (f32ofInt 2)
  { x with p := vAdd x.p (dx.take 3), u := vAdd x.u (dx.drop 3), cov := cov }

/-- An observed detection: its normalised position, noise σ, local scale, W, H, RANGE (0: none), class. -/
structure Obs where
  z : List F32
  sigma : F32
  s : F32
  w : F32
  h : F32
  range : Option F32
  cls : Nat
deriving DecidableEq, Repr

/-- d² of a track and an observation; `none` when the prediction is not in front of the sensor. -/
def Track.dist2 (x : Track) (r t : List F32) (o : Obs) : Option F32 :=
  (x.project r t).map fun qz => gate2 (vSub o.z qz.2) (obsS x.cov (bearingH r qz.1) o.sigma).2

/-- The update of a track by a detection (R292). -/
def Track.update (x : Track) (r t : List F32) (o : Obs) : Track :=
  match x.project r t with
  | none => x
  | some (q, z) =>
    let h := bearingH r q
    let (ph, s) := obsS x.cov h o.sigma
    let x := x.correct 2 (mMul 6 2 2 ph (inv2 s)) (vSub o.z z) h
    let x := match o.range with
      | none => x
      | some rg =>
        let d := vSub x.p t
        let n := vNorm d
        let h := vDiv d n ++ zero3
        let ph := mMul 6 6 1 x.cov h
        let sg := f32mul (f32ofRatio 1 20) rg
        let sv := f32add (vDot h ph) (f32mul sg sg)
        { x.correct 1 (ph.map fun a => f32div a sv) [f32sub rg n] h with ranged := true }
    let ext := vScale (vNorm (vSub x.p t)) (vScale o.s [o.w, o.h, o.w])
    { x with e := vAdd x.e (vDiv (vSub ext x.e) (f32ofInt 4)), cls := o.cls }

/-- The state of a new track from a detection (R294): distance along the bearing, its standard deviation, σ across. -/
def birthCov (b : List F32) (along across : F32) : List F32 :=
  let a2 := f32mul along along
  let c2 := f32mul across across
  mat 6 6 fun i j =>
    if i < 3 ∧ j < 3 then
      let bb := f32mul (fAt b i) (fAt b j)
      f32add (f32mul a2 bb) (f32mul c2 (f32sub (if i = j then fOne else 0) bb))
    else if i = j then f32ofInt 100 else 0

end Sys2Proof.Machine
end

