-- ==== Sys2Proof/Machine/Slots.lean ====
section
/-!
DEFINITION. Fusion groups (chapter 10): enabling, slot instants, inputs, the cutoff's processing, health, conflicts, tracks and
the report; calibration switches, zones and track deletion.
-/
namespace Sys2Proof.Machine
open Regs

def State.upGr (s : State) (g : Nat) (f : Grp → Grp) : State := { s with grp := Tab.put Grp.init s.grp g (f (s.gr g)) }
def State.upSch (s : State) (g : Nat) (f : Sched → Sched) : State := { s with sched := Tab.put Sched.init s.sched g (f (s.sch g)) }
def State.hl (s : State) (i : Nat) : Health := Tab.get Health.init s.health i
def State.upHl (s : State) (i : Nat) (f : Health → Health) : State := { s with health := Tab.put Health.init s.health i (f (s.hl i)) }
def State.track (s : State) (i : Nat) : Option Track := Tab.get none s.tracks i
def State.setTrack (s : State) (i : Nat) (x : Option Track) : State := { s with tracks := Tab.put none s.tracks i x }

def fusePage : Page := ⟨.fuse, 0⟩
def fgPage (g : Nat) : Page := ⟨.fg, g⟩
def calPage : Page := ⟨.cal, 0⟩

/-- The streams of a group's set, ascending. -/
def State.sensors (s : State) (g : Nat) : List Nat := (List.range 36).filter (bit (s.rg FG.SENS_SET g))

/-- The home group of a stream (R287). -/
def State.homeOf (s : State) (i : Nat) : Option Nat :=
  (List.range 4).find? fun g => s.groupOn g && bit (s.setOf g) i

/-! ## Slot instants (R265, R266) -/

/-- F_n. -/
def State.slotInstant (s : State) (g n : Nat) : Option Nat :=
  let target := s.rg FG.ANCHOR g + n * s.rg FG.PERIOD_NS g
  if s.on FG.TIMEBASE g then s.wtTarget target else some target

/-- The smallest n whose F_n lies after the present DT. -/
def State.firstSlot (s : State) (g : Nat) : Nat :=
  let now := if s.on FG.TIMEBASE g then s.wt s.activeDom s.dt else s.dt
  let a := s.rg FG.ANCHOR g
  if now < a then 0 else (now - a) / s.rg FG.PERIOD_NS g + 1

/-- A slot's output time, in ns of WT under TIMEBASE WT and of DT otherwise (R265). -/
def State.outTarget (s : State) (g n f : Nat) : Nat :=
  (if s.on FG.TIMEBASE g then s.rg FG.ANCHOR g + n * s.rg FG.PERIOD_NS g else f) + s.rg FG.SLOT_LATENCY_NS g

/-- The DT of an output time (R265). -/
def State.releaseDT (s : State) (world : Bool) (target : Nat) : Option Nat :=
  if world then s.wtTarget target else some target

/-- A change of the active domain's parameters or a switch of domain: a WT group recomputes F_n of its next slot, and skips the
slots that would lie in the past (R266). -/
def State.fgRetime (s : State) (g : Nat) : State :=
  if !s.groupOn g || !s.on FG.TIMEBASE g then s
  else
    -- a rate of 0 may have left the next slot without an instant
    let n := match (s.sch g).next, (s.sch g).starts.head? with
      | some p, _ => p.1
      | none, some p => p.1 + 1
      | none, none => s.firstSlot g
    let n' := match s.slotInstant g n with
      | some f => if s.dt < f then n else max n (s.firstSlot g)
      | none => n
    let s := s.inc FG.SLOTS_SKIPPED g (n' - n)
    s.upSch g fun c => { c with next := (s.slotInstant g n').map fun f => (n', f) }

/-- `n` bytes of a byte string at `o`, little-endian. -/
def leAt (d : List Byte) (o n : Nat) : Nat := leNat ((d.drop o).take n)
/-- Replace bytes from offset `o`. -/
def patch (l : List Byte) (o : Nat) (b : List Byte) : List Byte := l.take o ++ b ++ l.drop (o + b.length)

/-- STEP of a report already in a launch queue. -/
def State.launchStep (s : State) (g n : Nat) : State :=
  (List.range 2).foldl (fun s p => { s with launch := Tab.put [] s.launch p ((Tab.get [] s.launch p).map fun e =>
    if e.q = g ∧ e.n = n then { e with bytes := patch e.bytes 0x1C (leBytes 4 (leAt e.bytes 0x1C 4 ||| 128)) } else e) }) s

/-- OFFSET was stepped: the report of the group's first slot released after it sets STEP. It is the oldest one that waits, or the next
to be built (R266). -/
def State.stepReport (s : State) (g : Nat) : State :=
  match (s.gr g).reports with
  | r :: rs => if r.world then (s.upGr g fun x => { x with reports := { r with step := true } :: rs }).launchStep g r.n else s
  | [] => if s.groupOn g && s.on FG.TIMEBASE g then s.upGr g fun x => { x with step := true } else s

/-- Every WT group follows the active domain; `stepped` says that OFFSET was stepped. -/
def State.wtChanged (s : State) (stepped : Bool) : State :=
  (List.range 4).foldl (fun s g => let s := s.fgRetime g; if stepped then s.stepReport g else s) s

/-! ## Bounds (R268, R298) -/

/-- Round up to 64. -/
def up64 (n : Nat) : Nat := (n + 63) / 64 * 64

/-- REPORT_MAX. -/
def State.reportMax (s : State) (g : Nat) : Nat :=
  let ns := (s.sensors g).length
  128 + up64 (8 * ns) + 64 * s.rg FG.TRK_NUM g + up64 (12 * ns * s.rg FG.CORNER_MAX g) + 768 +
    (if s.on FG.ACT_EN g then 64 * ns else 0) + up64 (2 * s.rg FG.SAMPLE_COUNT g) + 64 * s.rg FG.USER_MAX g

/-- B. -/
def State.boundCyc (s : State) (g : Nat) : Nat :=
  let ns := (s.sensors g).length
  let z := ((List.range 64).filter fun z => s.on FUSE.ZONE_EN 0 z && s.rg FUSE.ZONE_GROUP 0 z == g).length
  let t := s.rg FG.TRK_NUM g
  let d := s.rg FG.DET_MAX g
  let up16 := fun n => (n + 15) / 16
  5000 + 40 * s.rg FG.SAMPLE_COUNT g + (1000 + 240 * up16 (32 * ns)) + (200 * ns + 400 * z) + 20 * ns * d +
    (30 * t + 8 * ns * up16 t) + ns * (2 * up16 (t * d) + 40 * d) + 60 * ns * d + (s.reportMax g + 63) / 64

/-- Bytes of report buffers of a group with a period. -/
def State.bufBytes (s : State) (g period : Nat) : Nat :=
  ((s.rg FG.SLOT_LATENCY_NS g - s.rg FG.COLLECT_NS g + period - 1) / period + 1) * s.reportMax g

/-- Does an enable of group `g` with a period pass R268? -/
def State.fgOk (s : State) (g period : Nat) : Bool :=
  let b := s.boundCyc g
  let bufs := ((List.range 4).map fun h => if h = g then s.bufBytes g period else
    if s.groupOn h then s.bufBytes h (s.rg FG.PERIOD_NS h) else 0).sum
  decide ((s.rg FG.COLLECT_NS g + 5000) * 11 + b * 20 ≤ s.rg FG.SLOT_LATENCY_NS g * 11 ∧ b * 20 ≤ period * 11 ∧ bufs ≤ 4194304)

/-- Does the group's track range stand below index 4,096 and apart from those of the enabled groups (R291)? -/
def State.tracksOk (s : State) (g : Nat) : Bool :=
  let a := s.rg FG.TRK_FIRST g
  let n := s.rg FG.TRK_NUM g
  decide (a + n ≤ 4096) &&
    (List.range 4).all fun h => h == g || !s.groupOn h || n == 0 || s.rg FG.TRK_NUM h == 0 ||
      decide (a + n ≤ s.rg FG.TRK_FIRST h ∨ s.rg FG.TRK_FIRST h + s.rg FG.TRK_NUM h ≤ a)

/-! ## Calibration banks (R280) -/

/-- The bank a group that has latched nothing newer uses. -/
def State.activeBank (s : State) : Nat := s.rg CAL.ACTIVE_BANK 0

/-- When every enabled group has latched the new bank, the switch completes. -/
def State.calFinish (s : State) : State :=
  if s.on CAL.PENDING 0 && (List.range 4).all fun g => !s.groupOn g || (s.gr g).latched then
    let s := ((s.rs CAL.ACTIVE_BANK 0 (1 - s.activeBank)).rs CAL.GEN 0 (s.rg CAL.PEND_GEN 0)).rb CAL.PENDING 0 false
    let s := (s.inc CAL.SWITCHES 0).irqSet calPage 8
    (List.range 4).foldl (fun s g => s.upGr g fun x => { x with latched := false }) s
  else s

/-- A write of CAL_SWITCH. -/
def State.calSwitch (s : State) (v : Word) : State :=
  if CAL.CAL_SWITCH.of v = 0 then s
  else if s.on CAL.PENDING 0 || !newer 8 (s.rg CAL.CAL_REQ_GEN 0) (s.rg CAL.GEN 0) then
    (s.inc CAL.SWITCHES_REFUSED 0).irqSet calPage 9
  else ((s.rb CAL.PENDING 0 true).rs CAL.PEND_GEN 0 (s.rg CAL.CAL_REQ_GEN 0)).calFinish

/-- A write of CAL_DATA sets the selected word of the inactive bank; CAL_WORD advances (R278). -/
def State.calWrite (s : State) (v : Word) : State :=
  let w := s.rg CAL.CAL_WORD 0
  let a := (1 - s.activeBank) * calWords + s.rg CAL.CAL_SENSOR 0 * 2194 + w
  if s.on CAL.PENDING 0 then s.errParam calPage
  else { s with cal := Tab.put 0 s.cal a v.toNat }.rs CAL.CAL_WORD 0 (if w + 1 < 2194 then w + 1 else 0)

/-! ## Enabling and disabling (R264, R268, R287) -/

/-- The stream's decoder and CRC counters. -/
def State.decSeen (s : State) (i : Nat) : List Nat := [s.rg STREAM.DEC_NOMATCH i, s.rg STREAM.DEC_ERR i, s.rg STREAM.CRC_WORDS i]

/-- Streams that join an enabled group for the first time take INIT_HEALTH; their counters' rise counts from then on (R287). -/
def State.joinHealth (s : State) (g : Nat) : State :=
  (s.sensors g).foldl (fun s i =>
    if (s.hl i).joined then s
    else (s.upHl i fun h => { h with joined := true, seen := s.decSeen i }).rs (FUSE.HEALTH.nth i) 0 (s.rg FUSE.INIT_HEALTH 0)) s

/-- A stream that no enabled group holds has no reasons and no dispute (R286). -/
def State.clearReasons (s : State) : State :=
  (List.range 36).foldl (fun s i =>
    if (s.homeOf i).isSome then s else (s.rs (FUSE.REASONS.nth i) 0 0).rb (FUSE.DISPUTED.nth i) 0 false) s

/-- The streams of a group's set change to `l`: the reasons of one that leaves end, which is a change where it had any (R286). -/
def State.leaveSet (s : State) (g : Nat) (l : List Nat) : State :=
  let gone := (s.gr g).why.filter fun e => !l.contains e.1
  let s := s.upGr g fun x => { x with why := x.why.filter fun e => l.contains e.1 }
  (if gone.isEmpty then s else s.irqSet fusePage 9).clearReasons

/-- SENS_SET and LOOKAHEAD_NS as written take effect (R270); a stream may lose or gain its alignment limit (R66). -/
def State.latchSet (s : State) (g : Nat) : State :=
  ((s.upGr g fun x => { x with sens := s.rg FG.SENS_SET g, look := s.rg FG.LOOKAHEAD_NS g }).leaveSet g (s.sensors g)).alignAll

/-- Disable a group: its fences end. Slots already processed are released. -/
def State.fgDisable (s : State) (g : Nat) : State :=
  let s := s.rs FG.PERIOD_NS g 0
  let s := (s.fencesStop g).tokFencesStop g
  let s := (s.upSch g fun _ => Sched.init).upGr g fun x => { x with slots := [], cut := none, banks := [], latched := false }
  ((s.leaveSet g []).calFinish).alignAll

/-- A write of PERIOD_NS. -/
def State.periodWrite (s : State) (g : Nat) (v : Word) : State :=
  let p := v.toNat
  if p = 0 then (if s.groupOn g then s.fgDisable g else s)
  else if s.groupOn g ∨ p < 100000 ∨ 100000000 < p then s.errParam (fgPage g)
  else if !s.fgOk g p then (s.errParam (fgPage g)).rb FG.ENABLE_REFUSED g true
  else if !s.tracksOk g then (s.errParam (fgPage g)).rb FG.ENABLE_REFUSED g false
  else
    let s := (s.rs FG.PERIOD_NS g p).rb FG.ENABLE_REFUSED g false
    let n := s.firstSlot g
    let before := if n = 0 then s.rg FG.ANCHOR g - p else ((s.slotInstant g (n - 1)).getD 0)
    let s := s.upSch g fun _ => ⟨(s.slotInstant g n).map fun f => (n, f), [], s.dt, before⟩
    let s := (s.latchSet g).joinHealth g
    match (s.sch g).next with
    | some (n, f) => (s.fencesStart g n f).tokFencesStart g n f
    | none => s

/-- Has slot `n`'s cutoff passed? -/
def Grp.past (x : Grp) (n : Nat) : Bool := match x.cut with | some c => decide (n ≤ c) | none => false

/-- The slots still collecting, and the last 64 past. -/
def Grp.live {α : Type} (x : Grp) (key : α → Nat) (l : List α) : List α :=
  l.filter (fun a => !x.past (key a)) ++ (l.filter fun a => x.past (key a)).take 64

/-- DT reaches F_n (R267 step 1): the slot starts, and the group latches a pending bank. -/
def State.slotStart (s : State) (g : Nat) : State :=
  match (s.sch g).next with
  | none => s
  | some (n, f) =>
    if s.dt < f then s
    else
      let s := s.upSch g fun c => { c with next := (s.slotInstant g (n + 1)).map fun f' => (n + 1, f'), starts := (s.gr g).live (·.1) ((n, f) :: c.starts) }
      let s := s.rs FG.SLOT_N g n
      let x := s.gr g
      let new := s.on CAL.PENDING 0 && !x.latched
      let late := s.on CAL.PENDING 0
      let b := if late then 1 - s.activeBank else s.activeBank
      let gen := if late then s.rg CAL.PEND_GEN 0 else s.rg CAL.GEN 0
      let s := s.upGr g fun x => { x with banks := x.live (·.1) ((n, b, gen, new) :: x.banks), latched := x.latched || new,
                                              known := ((n, f) :: x.known).take 128 }
      s.calFinish

/-! ## Inputs (R271–R274) -/

/-- Change what a group collects for slot `n`. -/
def State.upSlot (s : State) (g n : Nat) (f : SlotIn → SlotIn) : State :=
  s.upGr g fun x =>
    match x.slots.find? fun y => y.n == n with
    | some y => { x with slots := x.slots.map fun z => if z.n = n then f y else z }
    | none => { x with slots := x.slots ++ [f ⟨n, [], [], [], []⟩] }

/-- The slot a record of time `t` belongs to: `none` early, `some none` late. -/
def State.slotOf (s : State) (g t : Nat) : Option (Option Nat) :=
  let c := s.sch g
  let known := c.starts.reverse ++ c.next.toList
  match known.find? fun p => decide (t ≤ p.2) with
  | none => none
  | some (n, _) =>
    let first := match known.head? with | some p => p.1 == n | none => true
    if (s.gr g).past n || (first && t ≤ c.before) then some none else some (some n)

/-- A FLOW record's contribution (R272). -/
def Bin.add (b : Bin) (w1 x y : Nat) : Bin :=
  let c := bitsAt w1 48 16
  ⟨b.w + c, b.sx + c * signed 16 (bitsAt w1 16 16), b.sy + c * signed 16 (bitsAt w1 32 16), b.px + c * x, b.py + c * y⟩

/-- A record enters a group's slot. -/
def State.featureTo (s : State) (g w0 w1 t : Nat) : State :=
  match s.slotOf g t with
  | none => s.inc FUSE.FEAT_EARLY 0
  | some none => (s.inc FUSE.FEAT_LATE 0).upGr g fun x => { x with late := true }
  | some (some n) =>
    let i := wStr w0
    if w1 % 16 = 2 then
      let key := 32 * i + s.regionOf i (wX w0) (wY w0)
      s.upSlot g n fun y => { y with bins := Tab.put ⟨0, 0, 0, 0, 0⟩ y.bins key ((Tab.get ⟨0, 0, 0, 0, 0⟩ y.bins key).add w1 (wX w0) (wY w0)) }
    else if w1 % 16 = 1 then
      s.upSlot g n fun y => { y with corners := y.corners ++ [⟨i, w0 >>> 35, bitsAt w1 16 16, bitsAt w1 32 16, t⟩] }
    else s.inc FUSE.FEAT_OTHER 0

/-- A unit is taken by the fusion complex: the link buffers that it held are free, for the DMA jobs too (R232). -/
def State.takeHub (s : State) (p : Flit → Bool) : Option (Flit × State) := (s.takeUnit p).map fun r => (r.1, r.2.mxGo)

/-- A FEATURE record reaches the fusion complex (R271); 11 records are taken in 10 ns, one per EVCLK cycle. -/
def State.featureIn (s : State) : State :=
  match s.takeHub fun f => f.toHub 7 0 with
  | none => s
  | some (f, s) =>
    let s := (s.inc FUSE.FEAT_IN 0).ackTo (srcCore f.aux) (srcField 2 0 0)
    let recent := s.featCap.filter fun d => s.dt < d + 10
    if 11 ≤ recent.length then s.inc FUSE.FEAT_OVER 0
    else
      let s : State := { s with featCap := recent ++ [s.dt] }
      let w0 := f.words.getD 0 0
      let t := rebuild s.dt (w0 % 2 ^ 35)
      (List.range 4).foldl (fun s g =>
        if s.groupOn g && bit (s.setOf g) (wStr w0) then s.featureTo g w0 (f.words.getD 1 0) t else s) s

/-- A SLOT_DONE marker of a matrix core (R274). -/
def State.slotDoneIn (s : State) : State :=
  match s.takeFlit fun f => f.toHub 0xB 0 && f.words.getD 0 0 >>> 60 == 2 with
  | none => s
  | some (f, s) =>
    let w := f.words.getD 0 0
    let m := srcMx f.aux
    let g := s.rg MXC.GROUP m
    let low := bitsAt w 2 46
    match (s.sch g).starts.find? fun p => p.1 % 2 ^ 46 == low with
    | some (n, _) => if (s.gr g).past n then s else s.upSlot g n fun y => { y with done := y.done ++ [(m, w % 4)] }
    | none => s

/-- A detection record (R275). -/
def detOf (b : List Byte) : Det :=
  let f := fun o n => leNat ((b.drop o).take n)
  ⟨f 0 4, f 4 4, f 8 4, f 12 4, f 16 4, f 20 4, f 24 4, f 28 1, f 29 1, f 30 2⟩

/-- Keep the last four results. -/
def keep4 (r : Result) (l : List Result) : List Result := (r :: l).take 4

/-- F_n of a slot whose number a result names: as the slot started with it; for one that is no longer kept, by R265 with the present
mapping. `none` where the group is disabled or has not started it (assumption 152). -/
def State.srcInstant (s : State) (g n : Nat) : Option Nat :=
  match (s.gr g).known.find? fun p => p.1 == n with
  | some p => some p.2
  | none => if s.groupOn g && n ≤ s.rg FG.SLOT_N g then s.slotInstant g n else none

/-- A RESULT transfer reaches the fusion complex (R274). -/
def State.resultIn (s : State) : State :=
  match s.takeHub Flit.isResult with
  | none => s
  | some (f, s) =>
    let g := bitsAt f.aux 14 2
    let n := f.aux >>> 32
    let mx := srcMx f.src
    let data := resultBytes f.words
    let kind := bitsAt f.aux 16 8
    let i := bitsAt f.aux 24 8
    let bad := s.inc FUSE.BAD_RESULT 0
    let sets := (List.range 4).filter fun h => bit (s.setOf h) i
    let groups := sets.filter s.groupOn
    let count := leNat (data.take 4)
    let per := if kind = 1 then 32 else 4
    if kind = 3 then
      if !s.groupOn g || (s.gr g).past n then s else s.upSlot g n fun y => { y with user := y.user ++ [(mx, data)] }
    else if kind ≠ 1 ∧ kind ≠ 2 then bad
    else if data.length < 64 ∨ (if kind = 1 then 256 else 32) < count ∨ data.length < 64 + per * count ∨ sets.isEmpty then bad
    else
      match s.srcInstant g n with
      | none => bad
      | some src =>
        let tm := ((src : Int) + signed 32 (leNat ((data.drop 4).take 4))).toNat
        let body := data.drop 64
        let r : Result := ⟨tm, mx,
          if kind = 1 then (List.range count).map fun j => detOf (body.drop (32 * j)) else [],
          if kind = 2 then (List.range count).map fun j => leNat ((body.drop (4 * j)).take 4) else []⟩
        groups.foldl (fun s h =>
          let s := if kind = 1 then s.upGr h fun x => { x with dets := Tab.put [] x.dets i (keep4 r (Tab.get [] x.dets i)) }
            else s.upGr h fun x => { x with depth := Tab.put [] x.depth i (keep4 r (Tab.get [] x.depth i)) }
          match (s.gr h).prev, (s.gr h).cut with
          | some fc, some _ =>
            if tm ≤ fc + (s.gr h).look then (s.inc FUSE.RESULT_LATE 0).upGr h fun x => { x with late := true } else s
          | _, _ => s) s

/-! ## Ledger samples (R277) -/

/-- The sample table of a group (R277). -/
def State.smpTable (s : State) (g : Nat) : List Smp :=
  (List.range (s.rg FG.SAMPLE_COUNT g)).map fun e => ⟨s.rg FG.S_MAP g e, s.on FG.S_SRC g e, s.rg FG.S_KEY g e, s.rg FG.S_X g e,
    s.rg FG.S_Y g e, s.rg FG.S_POL g e, s.rg FG.SAMPLE_T_OFFSET g e⟩

/-- The bank and SLOT descriptor that holds a sample point: its own tiles before a halo (R277). -/
def State.smpDesc (s : State) (g : Nat) (p : Smp) : Option (Nat × Nat) :=
  let mine := fun k d => s.rg LDB.MAP k d == p.map && s.on LDB.SOURCE k d == p.core && s.rg LDB.KEY k d == p.key &&
    s.on LDB.DISCIPLINE k d && s.rg LDB.FENCE_GROUP k d == g
  let all := (List.range 16).flatMap fun k => ((s.descs k).filter (mine k)).map fun d => (k, d)
  (all.find? fun q => s.inRect q.1 q.2 p.x p.y).or (all.find? fun q => (s.region q.1 q.2).holds p.x p.y)

/-- May a sample point of slot `n`, instant `f`, be read: DT has reached F_n + SETTLE ticks, and the fence of its descriptor has reached
the slot (R115, R121)? -/
def State.smpReady (s : State) (g n f : Nat) (p : Smp) : Bool :=
  match s.smpDesc g p with
  | none => true
  | some (k, d) => decide (f + 1024 * s.rg LDB.SETTLE k d ≤ s.dt) && (match s.fence k d with | some c => decide (n ≤ c.n) | none => true)

/-- Read a sample point for slot `n`, instant `f`: the value and the descriptor read. -/
def State.sampleOne (s : State) (g n f : Nat) (p : Smp) : Nat × Option (Nat × Nat) × State :=
  match s.smpDesc g p with
  | none => (0, none, s)
  | some (k, d) =>
    let t : Int := (f : Int) - s.rg LDB.TIME_SHIFT k d + signed 32 p.off
    if !s.inWindow k d f t then (0, some (k, d), s.inc FUSE.SAMPLE_RANGE 0)
    else
      let v := (s.polElems k d p.x p.y p.pol (unsigned 64 t)).getD 0 0
      let s := if (s.fence k d).any fun c => c.n == n then s.fenceRead k d else s
      let s := (s.entryUse k d ((s.region k d).index p.x p.y 0)).inc LDB.GATHER_ELEMENTS k
      -- +1.0 does not fit the i16 form of POL_SEL 4: the manual states no value (free)
      (if p.pol = 4 ∧ v = 32768 then Config.sampleOne [p.map, p.key, p.x, p.y] % 65536 else unsigned 16 v, some (k, d), s)

/-- All sample points of slot `n`, and the release marks after them where `rel` says so. -/
def State.samples (s : State) (g n f : Nat) (l : List Smp) (rel : Bool) : List Nat × State :=
  let r := l.foldl (fun (acc : List Nat × List (Nat × Nat) × State) p =>
    let (v, d, s) := acc.2.2.sampleOne g n f p
    (acc.1 ++ [v], acc.2.1 ++ d.toList, s)) ([], [], s)
  let s := r.2.2
  (r.1, if rel then
    r.2.1.eraseDups.foldl (fun s p => s.send ⟨0xB, 1, p.1, 1, srcField 2 0 0, [releaseOne (s.rg LDB.MAP p.1 p.2) p.2]⟩) s else s)

/-! ## Sensors at the cutoff (R276, R286) -/

/-- The coarse outputs of a stream's 32 channels at tick `v`. -/
def State.coarseOf (s : State) (i v : Nat) : List Nat × State :=
  (List.range 32).foldl (fun acc r =>
    let (o, s) := acc.2.outputAt (32 * i + r) v
    (acc.1 ++ [o.coarse], s)) ([], s)

/-- STALE (R276). -/
def State.staleFor (s : State) (g i f : Nat) : Bool :=
  match (Tab.get [] s.rateAct i).find? fun u => decide (u ≤ s.tickOf f ∧ s.tickOf (s.sch g).enabledAt ≤ u) with
  | none => true
  | some u => s.rg FG.MAX_EXTRAP_NS g < f - min f (s.tickEnd u)

/-- Has an output time come: in WT, or in DT (R265)? -/
def State.outPast (s : State) (o : Bool × Nat) : Bool := (s.releaseDT o.1 o.2).any fun d => decide (d ≤ s.dt)

/-- Health and HEALTH as group `g` sees them at its cutoff (R288). -/
def State.healthFor (s : State) (g i : Nat) : Nat × Bool :=
  let now := (s.rg (FUSE.HEALTH.nth i) 0, (s.hl i).masked)
  if s.homeOf i = some g then now
  else match (s.hl i).hist.find? fun h => s.outPast h.1 with
    | some h => h.2
    | none => (match (s.hl i).hist.getLast? with | some _ => (s.rg FUSE.INIT_HEALTH 0, false) | none => now)

/-- Reasons of R286 other than OUTVOTED, as the report's bits. -/
def State.reasons (s : State) (g i bank f : Nat) : Nat :=
  (if bit (s.rg FUSE.SW_MASK 0) i then 1 else 0) + (if s.unaligned i then 2 else 0) + (if s.staleFor g i f then 4 else 0) +
    (if s.calValid bank i then 0 else 8) + (if (s.healthFor g i).2 then 16 else 0)

/-- A sensor in a slot: stream, reasons, coarse outputs, detections used, depth values, valid bins (region, bin). -/
structure Sens where
  i : Nat
  reasons : Nat
  coarse : List Nat
  dets : List Det
  bins : List (Nat × Bin)
  depth : List Nat
deriving DecidableEq, Repr

/-- The sensors of a slot. -/
def State.sensSlot (s : State) (g bank f : Nat) (y : SlotIn) : List Sens × State :=
  (s.sensors g).foldl (fun acc i =>
    let s := acc.2
    let (co, s) := s.coarseOf i (s.tickOf f - 18)
    let rs := s.reasons g i bank f
    if rs ≠ 0 then (acc.1 ++ [⟨i, rs, co, [], [], []⟩], s)
    else
      let x := s.gr g
      let mx := s.rg FG.MAX_EXTRAP_NS g
      let (ds, drop) := placeDets f mx (s.rg FG.LOOKAHEAD_NS g) (Tab.get [] x.dets i)
      let dm := s.rg FG.DET_MAX g
      let s := s.inc FG.EXTRAP_DROP g (drop + (ds.length - dm))
      let bins := (List.range 32).filterMap fun r =>
        let b := Tab.get ⟨0, 0, 0, 0, 0⟩ y.bins (32 * i + r)
        if s.rg FUSE.BIN_MIN 0 ≤ b.w then some (r, b) else none
      let dep := (Tab.get [] x.depth i).foldl (fun (b : Option Result) r =>
        if f < r.tm then b else match b with | none => some r | some o => if o.tm < r.tm then some r else b) none
      let dep := match dep with | some r => if f - r.tm ≤ mx then r.depth else [] | none => []
      (acc.1 ++ [⟨i, 0, co, ds.take dm, bins, dep⟩], s)) ([], s)

/-- The bins of unmasked sensors in order of stream, then region (R282). -/
def State.egoBins (s : State) (bank : Nat) (l : List Sens) : List EgoBin :=
  l.flatMap fun x => x.bins.map fun b =>
    let d := x.depth.getD b.1 0
    s.egoBin bank x.i b.1 b.2 (if f32pos d then some d else none)

/-! ## Zones (R289, R290) -/

/-- The index under which ZONE_MEM holds what ZONE_CFG has committed for a zone; under the zone's own number it holds what was
written last (R302). -/
def zoneIdx (z : Nat) : Nat := 64 + z

/-- Valid members of a zone: stream and region, by ascending stream. -/
def State.zoneMembers (s : State) (z : Nat) : List (Nat × Nat) :=
  let ms := (List.range 8).filterMap fun j =>
    let w := bitsAt (s.rg (FUSE.ZONE_MEM.nth (j / 2)) 0 (zoneIdx z)) (16 * (j % 2)) 16
    if w.testBit 15 then some (bitsAt w 0 6, bitsAt w 6 5) else none
  sortBy (fun a b => a.1 < b.1) ms

/-- A conflicting pair of a zone: zone, streams, KIND bits, RATIO, EGO_DIFF. -/
structure Conf where
  z : Nat
  a : Nat
  b : Nat
  kind : Nat
  ratio : F32
  diff : F32
deriving DecidableEq, Repr

/-- The member residual (R285): weighted RMS over the member's valid bins in its region; `none` without one. -/
def memberRes (e : Ego) (m : Nat × Nat) : Option F32 :=
  let l := e.res.filter fun x => x.1.str == m.1 && x.1.reg == m.2
  if l.isEmpty then none else some (wrms (l.map fun x => (x.1.w, x.2)))

/-- Test a pair of members (R289). -/
def State.pairTest (s : State) (e : Ego) (coarse : Nat × Nat → Nat) (z : Nat) (a b : Nat × Nat) : Option Conf :=
  let hi := max (coarse a) (coarse b)
  let lo := min (coarse a) (coarse b)
  let rate := s.rg FUSE.RATE_FLOOR 0 ≤ hi && lo * s.rg FUSE.RATE_GATE 0 < hi * 16
  let (diff, ego) := match memberRes e a, memberRes e b with
    | some x, some y => let d := f32abs (f32sub x y); (d, f32lt (s.rg FUSE.EGO_GATE 0) d)
    | _, _ => (0, false)
  if rate || ego then
    some ⟨z, a.1, b.1, (if rate then 1 else 0) + (if ego then 2 else 0), if lo = 0 then 0x7F800000 else f32ofRatio hi lo, diff⟩
  else none

/-- The outcome of a zone: conflicting pairs, outvoted and disputed members. -/
def State.zoneTest (s : State) (e : Ego) (l : List Sens) (z : Nat) : List Conf × List (Nat × Nat) × List (Nat × Nat) :=
  let ok := fun i => l.any fun x => x.i == i && x.reasons == 0
  let ms := (s.zoneMembers z).filter fun m => ok m.1
  let coarse := fun m : Nat × Nat => match l.find? fun x => x.i == m.1 with | some x => x.coarse.getD m.2 0 | none => 0
  let pairs := (List.range ms.length).flatMap fun i => (List.range ms.length).filterMap fun j =>
    if i < j then (match ms[i]?, ms[j]? with | some a, some b => s.pairTest e coarse z a b | _, _ => none) else none
  let c := fun m : Nat × Nat => (pairs.filter fun p => p.a == m.1 || p.b == m.1).length
  let out := ms.filter fun m => ms.length - 1 < 2 * c m
  let fight := ms.filter fun m => 0 < c m
  let disputed := (ms.length == 2 && !pairs.isEmpty) || (!ms.isEmpty && out.length == ms.length)
  let pairs := if disputed then pairs.map fun p => { p with kind := p.kind + 4 } else pairs
  if disputed then (pairs, [], fight) else (pairs, out, [])

/-- All enabled zones of a group. -/
def State.zones (s : State) (g : Nat) (e : Ego) (l : List Sens) : List Conf × List (Nat × Nat) × List (Nat × Nat) :=
  ((List.range 64).filter fun z => s.on FUSE.ZONE_EN 0 z && s.rg FUSE.ZONE_GROUP 0 z == g).foldl (fun acc z =>
    let r := s.zoneTest e l z
    (acc.1 ++ r.1, acc.2.1 ++ r.2.1, acc.2.2 ++ r.2.2)) ([], [], [])

/-! ## Health (R287, R288) -/

/-- Health after the steps of R287 in order. -/
def State.healthStep (s : State) (i h : Nat) (coarse : List Nat) (conflict : Bool) : Nat :=
  let dec := (List.zip (s.decSeen i) (s.hl i).seen).any fun c => newer 32 c.1 c.2
  let lim := s.limit10 i
  let align := !s.aerStream i &&
    (s.on STREAM.UNALIGNED i || (lim != 0 && decide (lim < 20 * (signed 32 (s.rg STREAM.RESIDUAL i)).natAbs)))
  let sum := coarse.sum
  let rate := decide (sum < s.rg FUSE.RATE_LO 0 ∨ s.rg FUSE.RATE_HI 0 < sum)
  let h := if dec then h - s.rg FUSE.P_DEC 0 else h
  let h := if align then h - s.rg FUSE.P_ALIGN 0 else h
  let h := if rate then h - s.rg FUSE.P_RATE 0 else h
  let h := if conflict then max (h - s.rg FUSE.P_CONF 0) (min h (s.rg FUSE.MASK_LEVEL 0)) else h
  if !dec && !align && !rate && !conflict then min 255 (h + s.rg FUSE.HEAL 0) else h

/-- Evaluate a stream in its home group's slot, whose output time is `out`; `hit` says that a zone of this group found against it. Of
the states after evaluations, the latest whose output time has come and all later ones are kept (R288). -/
def State.evalHealth (s : State) (x : Sens) (hit : Bool) (out : Bool × Nat) : State :=
  let i := x.i
  let due := (s.hl i).zones.filter fun t => (s.releaseDT t.1 t.2).any fun d => decide (d < s.dt)
  let h := s.healthStep i (s.rg (FUSE.HEALTH.nth i) 0) x.coarse (hit || !due.isEmpty)
  let masked := if h < s.rg FUSE.MASK_LEVEL 0 then true else if s.rg FUSE.UNMASK_LEVEL 0 ≤ h then false else (s.hl i).masked
  let s := s.rs (FUSE.HEALTH.nth i) 0 h
  s.upHl i fun y => { y with masked := masked, seen := s.decSeen i, zones := y.zones.filter fun t => !due.contains t,
                             hist := (out, h, masked) :: (y.hist.filter (fun e => !s.outPast e.1) ++
                               (y.hist.filter fun e => s.outPast e.1).take 1) }

/-- Health, REASONS and DISPUTED of a slot's sensors; a change of a set of reasons sets MASK_CHANGE, in every group that holds the
stream (R286). -/
def State.healthPass (s : State) (g : Nat) (out : Bool × Nat) (l : List Sens) (outv disp : List (Nat × Nat)) : State :=
  l.foldl (fun s x =>
    let o := outv.any fun m => m.1 == x.i
    let d := disp.any fun m => m.1 == x.i
    let r := x.reasons + (if o then 32 else 0)
    let s := if Tab.get 0 (s.gr g).why x.i != r then s.irqSet fusePage 9 else s
    let s := s.upGr g fun y => { y with why := Tab.put 0 y.why x.i r }
    let s := match s.homeOf x.i with
      | some h =>
        if h = g then
          let s := s.evalHealth x (o || d) out
          ((((s.rs (FUSE.REASONS.nth x.i) 0 r).rb (FUSE.DISPUTED.nth x.i) 0 d).rs (FUSE.HOME.nth x.i) 0 g)).rb
            (FUSE.HOME_VALID.nth x.i) 0 true
        else if o || d then s.upHl x.i fun y => { y with zones := y.zones ++ [out] } else s
      | none => s
    s) s

/-! ## Tracks (R291–R296) -/

/-- A track in the slot's processing: index, state, hit, HELD, streams that updated it, born in this slot. -/
structure Tw where
  i : Nat
  x : Track
  hit : Bool
  held : Bool
  mask : Nat
  born : Bool
deriving DecidableEq, Repr

/-- Bounding box of a set of grid nodes, as (min, max) per axis, and whether a position lies in it. -/
def inBox (nodes : List (List F32)) (z : List F32) : Bool :=
  match nodes with
  | [] => false
  | n :: ns =>
    (List.range 2).all fun a =>
      let lo := ns.foldl (fun m p => f32min m (fAt p a)) (fAt n a)
      let hi := ns.foldl (fun m p => f32max m (fAt p a)) (fAt n a)
      f32le lo (fAt z a) && f32le (fAt z a) hi

/-- All nodes of a sensor's grid. -/
def State.allNodes (s : State) (b i : Nat) : List (List F32) := (List.range 1089).map fun k => s.node b i (k % 33) (k / 33)

/-- Nodes of a rate region's part of the grid (8 × 4 regions over 32 × 32 cells). -/
def State.regionNodes (s : State) (b i r : Nat) : List (List F32) :=
  (List.range 45).map fun k => s.node b i (4 * (r % 8) + k % 5) (8 * (r / 8) + k / 5)

/-- Does a track's prediction lie in a member's zone region? -/
def State.inRegion (s : State) (b : Nat) (x : Track) (m : Nat × Nat) : Bool :=
  match x.project (s.calR b m.1) (s.calT b m.1) with
  | some (_, z) => inBox (s.regionNodes b m.1 m.2) z
  | none => false

/-- A detection as observed (R292). -/
def State.obs (s : State) (g b i : Nat) (d : Det) : Obs :=
  let (p, j) := s.normal b i d.u d.v
  ⟨p, f32mul (s.rg FG.SIGMA_PIX g) (fAt j 0), fAt j 0, d.w, d.h, if f32pos d.range then some d.range else none, d.cls⟩

/-- The integer part of a pixel coordinate. -/
def pixFloor (x : F32) : Nat :=
  match f32dec x with
  | .fin false m e => if 0 ≤ e then m <<< e.toNat else m >>> (-e).toNat
  | _ => 0

/-- Is a detection usable: not in the zone region of a disputed member of its stream (R290)? -/
def State.usable (s : State) (i : Nat) (d : Det) (disp : List (Nat × Nat)) : Bool :=
  let r := s.regionOf i (min (pixFloor d.u) (s.width i - 1)) (min (pixFloor d.v) (s.height i - 1))
  !disp.any fun m => m == (i, r)

/-- A gated pair: d², track index, detection index. -/
abbrev Pair := F32 × Nat × Nat

/-- The order of R293: d², then track, then detection. -/
def pairLt (a b : Pair) : Bool :=
  f32lt a.1 b.1 || (!f32lt b.1 a.1 && (decide (a.2.1 < b.2.1) || (a.2.1 == b.2.1 && decide (a.2.2 < b.2.2))))

/-- Take pairs in order, each track and detection once. -/
def takePairs : List Pair → List Nat → List Nat → List Pair
  | [], _, _ => []
  | p :: ps, ts, ds =>
    if ts.contains p.2.1 || ds.contains p.2.2 then takePairs ps ts ds else p :: takePairs ps (p.2.1 :: ts) (p.2.2 :: ds)

/-- Apply a detection to a working track. -/
def Tw.apply (w : Tw) (r t : List F32) (i : Nat) (o : Obs) : Tw :=
  { w with x := w.x.update r t o, hit := true, mask := w.mask ||| 2 ^ i }

/-- Associate and update with one sensor (R293): the tracks, and the indices of the detections taken. -/
def State.associate (s : State) (g b : Nat) (ws : List Tw) (i : Nat) (os : List (Nat × Obs)) : List Tw × List Nat :=
  let r := s.calR b i
  let t := s.calT b i
  let box := s.allNodes b i
  let gate := s.rg FG.GATE2 g
  let cand := ws.flatMap fun w =>
    if w.held then []
    else match w.x.project r t with
      | none => []
      | some (_, z) =>
        if !inBox box z then []
        else os.filterMap fun o => (w.x.dist2 r t o.2).bind fun d => if f32le d gate then some ((d, w.i, o.1) : Pair) else none
  let taken := takePairs (sortBy pairLt cand) [] []
  (ws.map fun w =>
    match taken.find? fun p => p.2.1 == w.i with
    | some p => (match os.find? fun o => o.1 == p.2.2 with | some o => w.apply r t i o.2 | none => w)
    | none => w,
   taken.map fun p => p.2.2)

/-- A detection not taken: it updates a track born in this slot, or gives birth, or is counted in BIRTH_FULL (R294). The extent
of a new track is stated nowhere: free values of the detection and the sensor's tables. -/
def State.birth (s : State) (g b : Nat) (ws : List Tw) (i : Nat) (o : Obs) : List Tw × State :=
  let r := s.calR b i
  let t := s.calT b i
  let box := s.allNodes b i
  let born := ws.filterMap fun w =>
    if w.born && (w.x.project r t).any (fun q => inBox box q.2) then
      (w.x.dist2 r t o).bind fun d => if f32le d (s.rg FG.GATE2 g) then some ((d, w.i, 0) : Pair) else none
    else none
  match sortBy pairLt born with
  | p :: _ => (ws.map fun w => if w.i = p.2.1 then w.apply r t i o else w, s)
  | [] =>
    let base := s.rg FG.TRK_FIRST g
    let free := (List.range (s.rg FG.TRK_NUM g)).find? fun j => !ws.any fun w => w.i == base + j
    match free with
    | none => (ws, (s.inc FG.BIRTH_FULL g).irqSet (fgPage g) 11)
    | some j =>
      let rg0 := s.rg FG.RANGE0 g
      let range := o.range.getD rg0
      let bv := bearing r o.z
      let along := match o.range with | some x => f32mul (f32ofRatio 1 20) x | none => rg0
      let e := (List.range 3).map fun a => Config.birthExtent (o.z ++ [o.sigma, o.s, o.w, o.h, range] ++ r ++ t) a % 2 ^ 32
      let x : Track := ⟨1, (s.gr g).uid, s.rg FG.INIT_CONF g, o.cls, 0, [], 0, 0, vAdd t (vScale range bv), zero3,
        e, birthCov bv along (f32mul range o.sigma), o.range.isSome, []⟩
      let s := (s.inc FG.BIRTHS g).upGr g fun y => { y with uid := (y.uid + 1) % 2 ^ 32 }
      (ws ++ [⟨base + j, x, true, false, 2 ^ i, true⟩], s)

/-- A track's move at the end of the slot (R295): the track, its report STATE, whether it stays. -/
def State.trackEnd (s : State) (g : Nat) (w : Tw) (killed : Bool) : Track × Nat × Bool :=
  let x := w.x
  let n := s.rg FG.CONF_N g
  let x := if w.held then x else
    { x with hist := (w.hit :: x.hist).take 8, free := x.free + 1,
             conf := if w.hit then min 255 (x.conf + s.rg FG.HIT_GAIN g) else x.conf - s.rg FG.MISS_LOSS g }
  let x := if w.born then x else { x with age := x.age + 1 }
  let hits := ((x.hist.take n).filter id).length
  let (st, misses) :=
    if w.held then (x.st, x.misses)
    else if x.st = 1 then (if s.rg FG.CONF_M g ≤ hits then (2, 0) else if n ≤ x.free then (0, x.misses) else (1, x.misses))
    else if x.st = 2 then (if w.hit then (2, x.misses) else if s.rg FG.DEL_K g = 1 then (0, 1) else (3, 1))
    else if w.hit then (2, 0)
    else if s.rg FG.DEL_K g ≤ x.misses + 1 then (0, x.misses + 1) else (3, x.misses + 1)
  let gone := st == 0 || x.conf < s.rg FG.DEL_FLOOR g || killed
  ({ x with st := if gone then x.st else st, misses := misses }, if gone then 4 else st, !gone)

/-- √(trace / 3) of a 3 × 3 block of the covariance. -/
def blockSigma (cov : List F32) (o : Nat) : F32 :=
  f32sqrt (f32div (f32add (f32add (mAt 6 cov o o) (mAt 6 cov (o + 1) (o + 1))) (mAt 6 cov (o + 2) (o + 2))) (f32ofInt 3))

/-- A track record (R300). -/
def State.trackRec (s : State) (g : Nat) (w : Tw) (x : Track) (st : Nat) : List Byte :=
  let hits := ((x.hist.take (s.rg FG.CONF_N g)).filter id).length
  let flags := (if w.hit then 1 else 0) + (if w.held then 2 else 0) + (if x.ranged then 4 else 0) + (bitsAt w.mask 32 4) * 16
  let f3 := fun l => (List.range 3).flatMap fun i => leBytes 4 (fAt l i)
  leBytes 4 x.uid ++ leBytes 2 w.i ++ leBytes 1 st ++ leBytes 1 x.conf ++ leBytes 1 x.cls ++ leBytes 1 x.misses ++ leBytes 1 hits ++
    leBytes 1 flags ++ leBytes 4 x.age ++ f3 x.p ++ f3 x.u ++ f3 x.e ++ leBytes 4 (blockSigma x.cov 0) ++
    leBytes 4 (blockSigma x.cov 3) ++ leBytes 4 w.mask

/-- The group's tracks predicted to the slot (R291, R292), each with whether a masked region of two sensors holds it. -/
def State.trackPredict (s : State) (g f bank : Nat) (e : Ego) (disp : List (Nat × Nat)) : List Tw :=
  let base := s.rg FG.TRK_FIRST g
  let dt := f32ofRatio ((f - (s.gr g).prev.getD f : Nat) : Int) 1000000000
  let q := if e.scale then s.rg FG.Q_ACC g else f32mul (s.rg FG.Q_ACC g) (f32ofInt 4)
  (List.range (s.rg FG.TRK_NUM g)).filterMap fun j => (s.track (base + j)).map fun x =>
    let x := x.predict dt q e.w (if e.scale then e.v else zero3)
    let held := 2 ≤ ((disp.eraseDups.filter fun m => s.inRegion bank x m).map Prod.fst).eraseDups.length
    (⟨base + j, x, false, held, 0, false⟩ : Tw)

/-- The usable detections of the slot's sensors, with their scores (R290). -/
def State.trackObs (s : State) (g bank : Nat) (l : List Sens) (outv disp : List (Nat × Nat)) : List (Nat × List (Nat × Nat × Obs)) :=
  let use := l.filter fun x => x.reasons == 0 && !outv.any fun m => m.1 == x.i
  use.map fun x => (x.i, ((List.range x.dets.length).zip x.dets).filterMap fun d =>
    if s.usable x.i d.2 disp then some (d.1, d.2.score, s.obs g bank x.i d.2) else none)

/-- The associations (R293, R294): the tracks after them, and the detections left that may start a track. -/
def State.trackMatch (s : State) (g bank : Nat) (obs : List (Nat × List (Nat × Nat × Obs))) (ws : List Tw) :
    List Tw × List (Nat × Obs) :=
  obs.foldl (fun acc x =>
    let r := s.associate g bank acc.1 x.1 (x.2.map fun o => (o.1, o.2.2))
    (r.1, acc.2 ++ (x.2.filter fun o => !r.2.contains o.1 && s.rg FG.BIRTH_MIN g ≤ o.2.1).map fun o => (x.1, o.2.2))) (ws, [])

/-- The births (R295). -/
def State.births (s : State) (g bank : Nat) (ws : List Tw) (left : List (Nat × Obs)) : List Tw × State :=
  left.foldl (fun acc x => acc.2.birth g bank acc.1 x.1 x.2) (ws, s)

/-- One track at the end of the slot (R296): its status, its record, its place in the table; the records so far. -/
def State.trackOut (s : State) (g : Nat) (recs : List (List Byte)) (w : Tw) : List (List Byte) × State :=
  let r := s.trackEnd g w (s.kills.contains w.i)
  let recd := s.trackRec g w r.1 r.2.1
  let s := if r.2.1 = 2 ∧ w.x.st = 1 then s.inc FG.CONFIRMS g else s
  let s := if r.2.2 then s else s.inc FG.DELETES g
  (if r.2.1 = 1 && !s.on FG.REPORT_TENT g then recs else recs ++ [recd],
    s.setTrack w.i (if r.2.2 then some { r.1 with recd := recd } else none))

/-- The tracks of a slot (R291–R296): the records reported, and whether a birth found no FREE index. -/
def State.trackPass (s : State) (g f bank : Nat) (e : Ego) (l : List Sens) (outv disp : List (Nat × Nat)) :
    List (List Byte) × Bool × State :=
  let base := s.rg FG.TRK_FIRST g
  let full := s.rg FG.BIRTH_FULL g
  let m := s.trackMatch g bank (s.trackObs g bank l outv disp) (s.trackPredict g f bank e disp)
  let b := s.births g bank m.1 m.2
  let r := (sortBy (fun a b => a.i < b.i) b.1).foldl (fun (acc : List (List Byte) × State) w => acc.2.trackOut g acc.1 w) ([], b.2)
  (r.1, b.2.rg FG.BIRTH_FULL g != full,
    { r.2 with kills := r.2.kills.filter fun i => !(decide (base ≤ i ∧ i < base + s.rg FG.TRK_NUM g)) })

/-! ## The report (R298–R300) -/

/-- Zero-pad to a multiple of 64 bytes. -/
def pad64 (b : List Byte) : List Byte := b ++ List.replicate (up64 b.length - b.length) 0

/-- The corners kept for a sensor (R273), and the number dropped. What R286 takes from a masked sensor does not name corners: they
stay (assumption 153). -/
def keepCorners (mx : Nat) (l : List Corner) : List Corner × Nat :=
  let lt := fun (a b : Corner) =>
    decide (b.score < a.score ∨ (a.score = b.score ∧ (a.addr < b.addr ∨ (a.addr = b.addr ∧ a.t < b.t))))
  ((sortBy lt l).take mx, l.length - mx)

/-- A corner entry. -/
def cornerBytes (c : Corner) : List Byte :=
  let w := c.addr <<< 35
  leBytes 2 (wX w) ++ leBytes 2 (wY w) ++ leBytes 1 c.str ++ leBytes 1 (wP w) ++ leBytes 2 c.score ++ leBytes 2 c.arc ++ leBytes 2 0

/-- The sections after the ego section: their bytes, and their offsets in units of 64 bytes (0 for an absent one). -/
def layOut : List (List Byte) → Nat → List Byte × List Nat
  | [], _ => ([], [])
  | b :: bs, at_ =>
    if b.isEmpty then let r := layOut bs at_; (r.1, 0 :: r.2)
    else
      let p := pad64 b
      let r := layOut bs (at_ + p.length / 64)
      (p ++ r.1, at_ :: r.2)

/-- The ego section. -/
def egoBytes (e : Ego) : List Byte :=
  let f3 := fun l => (List.range 3).flatMap fun i => leBytes 4 (fAt l i)
  pad64 (f3 e.w ++ f3 e.v ++ leBytes 4 e.sw ++ leBytes 4 e.sv ++ leBytes 4 e.rms ++ leBytes 2 e.bins ++ leBytes 2 e.dbins ++
    leBytes 4 ((if e.valid then 1 else 0) + (if e.scale then 2 else 0)))

/-- The USER bytes of a slot, cut to the limit, and whether they passed it (R274). -/
def userBytes (limit : Nat) (l : List (Nat × List Byte)) : List Byte × Bool :=
  let all := (sortBy (fun (a b : Nat × List Byte) => a.1 < b.1) l).flatMap fun x => x.2
  (all.take limit, limit < all.length)

/-- Assemble a report with the output time, DOMAIN, HOLDOVER and STEP still to be filled in at the release. -/
def reportBytes (g n flags calGen : Nat) (e : Ego) (sens : List Byte) (nSens : Nat) (trk : List (List Byte)) (corners : List Corner)
    (confs : List Conf) (act : List Byte) (smp : List Nat) (user : List Byte) : List Byte :=
  let cb := (confs.take 64).flatMap fun c =>
    leBytes 1 c.z ++ leBytes 1 c.a ++ leBytes 1 c.b ++ leBytes 1 c.kind ++ leBytes 4 c.ratio ++ leBytes 4 c.diff
  let (body, offs) := layOut [sens, trk.flatten, corners.flatMap cornerBytes, cb, act, smp.flatMap (leBytes 2 ·), user] 2
  let len := 128 + body.length
  leBytes 2 0x5846 ++ leBytes 1 1 ++ leBytes 1 g ++ leBytes 4 len ++ leBytes 8 n ++ leBytes 8 0 ++ leBytes 4 0 ++ leBytes 4 flags ++
    leBytes 1 calGen ++ leBytes 3 0 ++ leBytes 2 nSens ++ leBytes 2 trk.length ++ leBytes 2 corners.length ++
    leBytes 2 (min 64 confs.length) ++ leBytes 2 smp.length ++ leBytes 2 (up64 user.length / 64) ++
    (List.range 7).flatMap (fun i => leBytes 2 (offs.getD i 0)) ++ leBytes 2 0 ++ egoBytes e ++ body

/-- Slot `n` is DEGRADED (R274). -/
def State.degraded (s : State) (g : Nat) (done : List (Nat × Nat)) : Bool :=
  s.heldMx.any (fun e => e.2 == g) || (List.range 32).any fun m =>
    s.on MXC.BOUND m && s.rg MXC.GROUP m == g && s.rg MXC.PROG_LEN m != 0 &&
      (s.mxFenced m || !done.any fun d => d.1 == m && d.2 == 0)

/-- The slot that has reached its cutoff. -/
def State.cutDue (s : State) (g : Nat) : Option (Nat × Nat) :=
  (((s.sch g).starts.filter fun p => !(s.gr g).past p.1).getLast?).filter fun p => decide (p.2 + s.rg FG.COLLECT_NS g ≤ s.dt)

/-- The sample points of a slot read at the cutoff, where all their fences allow it; else each is 0 until they do (R115, R121). -/
def State.cutSamples (s : State) (g n f : Nat) (table : List Smp) (ready : Bool) : List Nat × State :=
  if ready then s.samples g n f table (s.on FG.SAMPLE_RELEASE g) else (table.map fun _ => 0, s)

/-- A slot whose streams conflict counts and raises its interrupts (R287, R304). -/
def State.cutConflict (s : State) (g : Nat) (conflict : Bool) : State :=
  if conflict then ((s.inc FG.CONFLICT_SLOTS g).irqSet (fgPage g) 10).irqSet fusePage 8 else s

/-- What the registers of the group say of the slot processed at the cutoff (R267, R303). -/
def State.cutMarks (s : State) (g : Nat) (trunc deg late : Bool) (e : Ego) : State :=
  let s := if trunc then s.inc FG.USER_TRUNC g else s
  let s := s.rb (Hdr.DEGRADED .fg) g deg
  let s := if deg then ((s.inc FG.DEGRADED_SLOTS g).irqSet (fgPage g) 9).irqSet fusePage 10 else s
  let s := if late then s.inc FG.LATE_INPUT_SLOTS g else s
  (((s.rb FG.LAST_LATE_INPUT g late).rb FG.SCALE_VALID g e.scale).rb FG.EGO_VALID g e.valid).rb FG.RUNNING g true

/-- The cutoff (R267 step 2). -/
def State.fusionCutoff (s : State) (g : Nat) : State :=
  match s.cutDue g with
  | none => s
  | some (n, f) =>
    let s := (s.latchSet g).joinHealth g
    let y := ((s.gr g).slots.find? fun y => y.n == n).getD ⟨n, [], [], [], []⟩
    let (_, bank, gen, switched) := ((s.gr g).banks.find? fun b => b.1 == n).getD (n, s.activeBank, s.rg CAL.GEN 0, false)
    let table := s.smpTable g
    let ready := table.all (s.smpReady g n f)
    let (smp, s) := s.cutSamples g n f table ready
    let (l, s) := s.sensSlot g bank f y
    let e := egoSolve (s.egoBins bank l) (s.rg FUSE.EGO_HUBER 0) (s.rg FUSE.EGO_MIN_BINS 0) (s.calT bank)
    let (confs, outv, disp) := s.zones g e l
    let world := s.on FG.TIMEBASE g
    let target := s.outTarget g n f
    let s := s.healthPass g (world, target) l outv disp
    let conflict := !outv.isEmpty || !disp.isEmpty
    let s := s.cutConflict g conflict
    let (trk, full, s) := s.trackPass g f bank e l outv disp
    let masked := fun x : Sens => x.reasons != 0 || outv.any fun m => m.1 == x.i
    let kept := l.map fun x => keepCorners (s.rg FG.CORNER_MAX g) (y.corners.filter fun c => c.str == x.i)
    let s := s.inc FUSE.CORNER_DROP 0 ((kept.map fun k => k.2).sum)
    let sens := l.flatMap fun x =>
      let o := outv.any fun m => m.1 == x.i
      let d := disp.any fun m => m.1 == x.i
      leBytes 1 x.i ++ leBytes 1 (s.healthFor g x.i).1 ++ leBytes 1 (x.reasons + (if o then 32 else 0)) ++ leBytes 1 (if d then 1 else 0) ++
        leBytes 2 (if masked x then 0 else x.dets.length) ++ leBytes 2 (if masked x then 0 else x.bins.length)
    let act := if s.on FG.ACT_EN g then l.flatMap fun x => x.coarse.flatMap (leBytes 2 ·) else []
    let (user, trunc) := userBytes (64 * s.rg FG.USER_MAX g) y.user
    let deg := s.degraded g y.done || (s.gr g).degr
    let late := (s.gr g).late
    let s := s.cutMarks g trunc deg late e
    let flags := (if deg then 1 else 0) + (if late then 2 else 0) + (if e.scale then 4 else 0) + (if e.valid then 8 else 0) +
      (if conflict then 16 else 0) + (if switched then 256 else 0) + (if full then 512 else 0)
    let bytes := reportBytes g n flags gen e sens l.length trk (kept.flatMap fun k => k.1) confs act smp user
    s.upGr g fun x => { x with slots := x.slots.filter (fun z => decide (n < z.n)), cut := some n, prev := some f, late := false,
                               degr := false, step := false, reports := x.reports ++ [⟨n, f, false, bytes, s.dt, s.rg FG.DEST g, world,
                                 target, x.step, if ready then [] else table, s.on FG.SAMPLE_RELEASE g⟩] }

/-- The sample points of a report that waited for their fences are read once all may be, into its samples section (R115, R121). -/
def State.lateSamples (s : State) (g : Nat) (r : Report) : State × Report :=
  if r.pend.isEmpty || !r.pend.all (s.smpReady g r.n r.f) then (s, r)
  else
    let (v, s) := s.samples g r.n r.f r.pend r.rel
    (s, { r with pend := [], bytes := patch r.bytes (64 * leAt r.bytes 0x3A 2) (v.flatMap (leBytes 2 ·)) })

/-! ## Zones, kills, resets -/

/-- A write of ZONE_CFG commits the selected zone (R302). -/
def State.zoneCfg (s : State) (v : Word) : State :=
  let z := s.rg FUSE.ZONE_INDEX 0
  let ms := (List.range 8).filterMap fun j =>
    let w := bitsAt (s.rg (FUSE.ZONE_MEM.nth (j / 2)) 0 z) (16 * (j % 2)) 16
    if w.testBit 15 then some (bitsAt w 0 6) else none
  if FUSE.ZONE_EN.of v = 1 ∧ (ms.length < 2 ∨ ms.eraseDups.length < ms.length) then s.errParam fusePage
  else
    let s := (List.range 4).foldl (fun s j => s.rs (FUSE.ZONE_MEM.nth j) 0 (s.rg (FUSE.ZONE_MEM.nth j) 0 z) (zoneIdx z)) s
    (s.rs FUSE.ZONE_EN 0 (FUSE.ZONE_EN.of v) z).rs FUSE.ZONE_GROUP 0 (FUSE.ZONE_GROUP.of v) z

/-- A write of KILL (R295, R304). -/
def State.trkKill (s : State) (v : Word) : State :=
  if TRK.KILL.of v = 1 then { s with kills := s.kills ++ [TRK.KILL_INDEX.of v] } else s

/-- What a block reset of an FG page does beyond its fields (R301). -/
def State.fgReset (s : State) (g : Nat) : State :=
  let base := s.rg FG.TRK_FIRST g
  let n := s.rg FG.TRK_NUM g
  { s with tracks := Tab.keep (fun i => !(decide (base ≤ i ∧ i < base + n))) s.tracks,
           grp := Tab.put Grp.init s.grp g Grp.init, sched := Tab.put Sched.init s.sched g Sched.init }.alignAll

/-- IDLE of an FG page: disabled and its engine idle (R301). -/
def State.fgIdle (s : State) (g : Nat) : Bool := !s.groupOn g && !s.on FG.RUNNING g

/-! ## Meanings -/

/-- FEATURE (R271). -/
def execFeature (t : Nat) (s : State) : Res := .next (s.advance t).featureIn

/-- SLOT_DONE (R274). -/
def execSlotDone (t : Nat) (s : State) : Res := .next (s.advance t).slotDoneIn

/-- RESULT_RECEIVE (R274). -/
def execResultReceive (t : Nat) (s : State) : Res := .next (s.advance t).resultIn

/-- FG_ENABLE (R268): a write of PERIOD_NS. -/
def execFgEnable (t : Nat) (c : Req) (g : Fin 4) (v : Word) (s : State) : Res :=
  s.cmdWrite t c (fgPage g) 0x040 fun s => s.periodWrite g v

/-- FUSION_SLOT_INSTANT (R267). -/
def execFusionSlotInstant (t : Nat) (g : Fin 4) (s : State) : Res := .next ((s.advance t).slotStart g)

/-- FUSION_CUTOFF (R267). -/
def execFusionCutoff (t : Nat) (g : Fin 4) (s : State) : Res := .next ((s.advance t).fusionCutoff g)

/-- CAL_SWITCH (R280). -/
def execCalSwitch (t : Nat) (c : Req) (v : Word) (s : State) : Res :=
  s.cmdWrite t c calPage 0x050 fun s => s.calSwitch v

/-- ZONE_CFG_WRITE (R302). -/
def execZoneCfgWrite (t : Nat) (c : Req) (v : Word) (s : State) : Res :=
  s.cmdWrite t c fusePage 0x07C fun s => s.zoneCfg v

/-- TRK_KILL (R295). -/
def execTrkKill (t : Nat) (c : Req) (v : Word) (s : State) : Res :=
  s.cmdWrite t c ⟨.trk, 0⟩ 0x044 fun s => s.trkKill v

end Sys2Proof.Machine
end

