-- ==== Sys2Proof/Machine/Faults.lean ====
section
/-!
DEFINITION. Faults and fencing (chapter 16): fences and their cost, the job stop, REPLACE_REQUEST, the
fault log, the classification of SRAM, DDR4 and link errors.
-/
namespace Sys2Proof.Machine
open Regs

/-! ## Memory contents that become undefined -/

/-- A memory of given bytes, in canonical form. -/
def Mem.ofList (l : List (Nat × Byte)) : Mem := l.foldl (fun m c => Mem.wr m c.1 c.2) []

/-- Every DDR4 byte becomes undefined: a free content (R402, R434). -/
def State.ddrLost (s : State) : State := { s with ddr4 := Mem.ofList (Config.freeMem s.free), free := s.free + 1 }

/-! ## Units (R433) -/

/-- The UNIT word of a unit (R439): AREA [15:12], PAGE [9:0], core slot [23:20]. -/
def unitWord (p : Page) (slot : Nat) : Nat := slot <<< 20 ||| (p.addr / 1024) <<< 12 ||| p.addr % 1024

/-- The page of a unit. A die's page is its DIE page. -/
def FUnit.page : FUnit → Page
  | .core n => ⟨.cg, n / 16⟩
  | .mx m => ⟨.mxc, m⟩
  | .cluster k => ⟨.clu, k⟩
  | .die d => ⟨.die, d⟩
  | .ddr c => ⟨.ddr, c⟩
  | .piste p => ⟨.pst, p⟩
  | .eth e => ⟨.eth, e⟩

/-- The UNIT word of a unit. -/
def FUnit.word : FUnit → Nat
  | .core n => unitWord ⟨.cg, n / 16⟩ (n % 16)
  | u => unitWord u.page 0

/-- The unit a UNIT word names. -/
def FUnit.ofWord (w : Nat) : Option FUnit :=
  match Page.ofAddr (bitsAt w 12 4 * 1024 + bitsAt w 0 10) with
  | some ⟨.cg, i⟩ => some (.core (16 * i + bitsAt w 20 4))
  | some ⟨.mxc, m⟩ => some (.mx m)
  | some ⟨.clu, k⟩ => some (.cluster k)
  | some ⟨.die, d⟩ => some (.die d)
  | some ⟨.ddr, c⟩ => some (.ddr c)
  | some ⟨.pst, p⟩ => some (.piste p)
  | some ⟨.eth, e⟩ => some (.eth e)
  | _ => none

/-- Is a unit of this number in the device? -/
def FUnit.real : FUnit → Bool
  | .core n => decide (n < 4096)
  | .mx m => decide (m < 32)
  | .cluster k => decide (k < 16)
  | .die d => decide (d < 4)
  | .ddr c => decide (c < 6)
  | .piste p => decide (p < 6)
  | .eth e => decide (e < 2)

/-! ## HUB.HEALTH (R460) -/

/-- Fenced clusters, cores and matrix cores, those within fenced clusters and dies included. -/
def State.fencedClusters (s : State) : Nat := ((List.range 16).filter s.clusterFenced).length
def State.fencedCores (s : State) : Nat :=
  256 * s.fencedClusters + (s.fenced.filter fun u => match u with | .core n => !s.clusterFenced (n / 256) | _ => false).length
def State.fencedMx (s : State) : Nat := ((List.range 32).filter s.mxFenced).length

/-- HEALTH as the notice carries it: the word at 0x040. -/
def State.healthWord (s : State) : Nat :=
  s.rg HUB.REPLACE_REQUEST 0 ||| s.rg HUB.RR_CAUSE 0 <<< 1 ||| s.rg HUB.JOB_STOPPED 0 <<< 6 ||| s.rg HUB.LOG_FAIL 0 <<< 7 |||
    s.rg HUB.LOG_READ_ERR 0 <<< 8 ||| s.rg HUB.FENCED_SC 0 <<< 16

/-- The counts of HEALTH follow the fences (R432). -/
def State.healthCounts (s : State) : State :=
  let s := (s.rs HUB.FENCED_SC 0 s.fencedCores).rs HUB.FENCED_MX 0 s.fencedMx
  let s := (s.rs HUB.FENCED_CLUSTERS 0 s.fencedClusters).rs HUB.FENCED_DIES 0 ((List.range 4).filter s.dieFenced).length
  ((s.rs HUB.FENCED_DDR 0 ((List.range 6).filter s.ddrFenced).length).rs HUB.FENCED_PISTE 0
    ((List.range 6).filter s.pisteFenced).length).rs HUB.FENCED_ETH 0 ((List.range 2).filter s.ethFenced).length

/-! ## ALERT_N (R438, R476) -/

/-- ALERT_N is low while REPLACE_REQUEST is 1 or Tj exceeds TJ_WARN. -/
def State.alertUpdate (s : State) : State :=
  let a := s.on HUB.REPLACE_REQUEST 0 || s.sec.hot
  if a == s.sec.alert then s
  else ({ s with sec := { s.sec with alert := a } }).emit (.pin "ALERT_N" (!a))

/-- A package reset releases ALERT_N (R480). -/
def State.alertOff (s : State) : State :=
  if s.sec.alert then ({ s with sec := { s.sec with alert := false } }).emit (.pin "ALERT_N" true) else s

/-! ## Work owed by firmware -/

/-- Insert an action: by DT, and at one DT by unit (R437). -/
def insertAct (a : FaultAct) : List FaultAct → List FaultAct
  | [] => [a]
  | b :: bs =>
    let key := fun x : FaultAct => (bitsAt x.unit 12 4 * 1024 + bitsAt x.unit 0 10) * 16 + bitsAt x.unit 20 4
    if a.dt = b.dt ∧ a.kind = 1 ∧ b.kind = 1 ∧ key a < key b then a :: b :: bs else b :: insertAct a bs

/-- Firmware owes the notice of an action. -/
def State.owe (s : State) (a : FaultAct) : State := { s with sec := { s.sec with notices := insertAct a s.sec.notices } }

/-- Firmware owes the log entry of an action. -/
def State.oweLog (s : State) (a : FaultAct) : State := { s with sec := { s.sec with logs := insertAct a s.sec.logs } }

/-! ## REPLACE_REQUEST (R438) -/

/-- REPLACE_REQUEST sets, or a further cause of it is reached. -/
def State.replaceRequest (s : State) (cause : Nat) : State :=
  let was := s.on HUB.REPLACE_REQUEST 0
  let s := s.rs HUB.RR_CAUSE 0 (setBit (s.rg HUB.RR_CAUSE 0) cause true)
  if was then s
  else
    let s := ((s.rb HUB.REPLACE_REQUEST 0 true).irqSet ⟨.hub, 0⟩ 8).alertUpdate
    let a : FaultAct := ⟨2, s.rg HUB.RR_CAUSE 0 <<< 1, 0, s.dt⟩
    (s.owe a).oweLog a

/-- The causes that the fences give. -/
def State.replaceCheck (s : State) : State :=
  let s := if 0 < s.rg HUB.FENCED_DIES 0 then s.replaceRequest 0 else s
  let s := if 0 < s.rg HUB.FENCED_DDR 0 then s.replaceRequest 1 else s
  let s := if 0 < s.rg HUB.FENCED_MX 0 then s.replaceRequest 2 else s
  if 8 ≤ s.rg HUB.FENCED_SC 0 then s.replaceRequest 3 else s

/-! ## Stopping units (R157, R213, R433) -/

/-- A fenced core runs nothing further: its queued arrivals are discarded and counted (R157). -/
def State.coreStop (s : State) (n : Nat) : State :=
  let c := s.core n
  let s := (List.range c.queue.length).foldl (fun s _ => s.fencedDrop n) s
  let s := if s.on CGS.RUN n then s.rb CGS.RUN n false else s
  if c = Core.init then s
  else
    let s := s.upCore n fun c => { c with queue := [], run := none, initDue := false, port := [], tags := 0, nbr := none }
    (s.queueFreed n).walkStall n

/-- The router discards, and counts, the spike copies that wait for fenced cores (R157). -/
def State.routerDrop (s : State) (k : Nat) : State :=
  let gone := (s.router k).wait.filter fun c => s.coreFenced (256 * k + c.core)
  if gone.isEmpty then s
  else gone.foldl (fun s c => s.fencedDrop (256 * k + c.core))
    (s.upRouter k fun r => { r with wait := r.wait.filter fun c => !s.coreFenced (256 * k + c.core) })

/-- A fenced matrix core runs nothing and sends no marker (R213). -/
def State.mxStop (s : State) (m : Nat) : State :=
  (s.rb MXC.SLOT_RUNNING m false).upMx m fun x => { x with run := none, job := none, reqs := [] }

/-- A fenced cluster: its cores, matrix cores, bank, router and TOK unit. -/
def State.clusterStop (s : State) (k : Nat) : State :=
  let s := ((List.range 256).filter fun j => s.on CGS.RUN (256 * k + j) || decide (s.core (256 * k + j) ≠ Core.init)).foldl
    (fun s j => s.coreStop (256 * k + j)) s
  let s := (s.mxStop (2 * k)).mxStop (2 * k + 1)
  let s := s.upBank k fun b => { b with queue := [], reqs := [], clears := [], fences := [], prog := [] }
  (s.upTok k fun u => { u with pend := [], fences := [] }).routerDrop k

/-! ## The job stop (R434) -/

/-- What hardware does at once. -/
def State.jobStopHw (s : State) : State :=
  let s := s.rs DIST.CLUSTER_GATE 0 0xFFFF
  let s := ((List.range 4096).filter fun n => s.on CGS.RUN n).foldl (fun s n => s.runOff n) s
  ((List.range 32).filter fun m => s.on MXC.BOUND m).foldl (fun s m => s.rb MXC.BOUND m false) s

/-- What the loss of a DDR4 channel adds. -/
def State.ddrStop (s : State) : State :=
  let s := (List.range 36).foldl (fun s i =>
    if s.on (Hdr.ENABLE .jstr) i then (s.rb (Hdr.ENABLE .jstr) i false).upJr i fun j => { Jrn.init with gap := j.gap } else s) s
  let s := (List.range 4).foldl (fun s ch => if s.replaying ch then s.replayEnd ch 6 false else s) s
  let s := s.rb FAB.INBOX_EN 0 false
  let s := (List.range 16).foldl (fun s k => (s.rs CLU.ESC_SIZE k 0).upRouter k fun r => { r with escHead := 0, escLevel := 0 }) s
  ({ s with ddrq := [] }).ddrLost

/-- A job stop of a cause (1 compute die or its link, 2 DDR4 channel): hardware's part now, firmware's part owed (a load in
progress ends with its job stopped, R343). -/
def State.jobStop (s : State) (cause num : Nat) : State :=
  let s := s.jobStopHw
  let s := if cause = 2 then s.ddrStop else s
  let s := { s with host := { s.host with cmd := s.host.cmd.map fun (c : CmdRun) => { c with jobStop := true } } }
  s.owe ⟨3, cause, num, s.dt⟩

/-! ## Fencing (R432) -/

/-- Take a unit out of service: FENCED, the unit stops, HEALTH follows; firmware owes the notice and, but for Piste and Ethernet
ports, the log entry (R436). -/
def State.fenceUnit (s : State) (u : FUnit) (code : Nat) : State :=
  if s.fenced.contains u then s
  else
    let s := { s with fenced := u :: s.fenced }
    let s := match u with
      | .core n => (s.coreStop n).routerDrop (n / 256)
      | .mx m => s.mxStop m
      | .cluster k => s.clusterStop k
      | .die d => (List.range 4).foldl (fun s c => s.clusterStop (4 * d + c)) s
      | _ => s
    let s := { s with host := { s.host with cmd := s.host.cmd.map fun (c : CmdRun) => { c with fenceSeen := true } } }
    let a : FaultAct := ⟨1, u.word, code, s.dt⟩
    let s := s.healthCounts.owe a
    let s := match u with | .piste _ | .eth _ => s | _ => s.oweLog a
    let s := match u with
      | .die d => s.jobStop 1 d
      | .ddr c => s.jobStop 2 c
      | _ => s
    s.replaceCheck

/-- A lasting fault of a unit: counted and logged on the unit's page, then the fence. -/
def State.lastingFault (s : State) (u : FUnit) (p : Page) (code where_ : Nat) : State :=
  (s.logFault p true code where_).fenceUnit u code

/-- A fault that is transient when its retry was good (`ok`), lasting otherwise (R427). -/
def State.classFault (s : State) (u : FUnit) (p : Page) (ok : Bool) (code where_ : Nat) : State :=
  if ok then s.logFault p false code where_ else s.lastingFault u p code where_

/-- A link leaves the active state (R239). -/
def State.moduleDown (s : State) (u : Nat) : State :=
  if s.on UCIE.LINK_UP u then (s.rb UCIE.LINK_UP u false).irqSet ⟨.ucie, u⟩ 8 else s

/-- A link is fenced at both ends (R230). -/
def State.linkFence (s : State) (u : Nat) : State := if u % 4 < 2 then s.moduleDown u else (s.moduleDown u).moduleDown (ringPeer u)

/-! ## SRAM errors (R428, R431, R435) -/

/-- A lasting error in hub SRAM: counted on HUB, REPLACE_REQUEST (R435, R438). -/
def State.hubLost (s : State) (p : Page) (code w : Nat) : State :=
  ((s.logFault p true code w).inc ((Hdr.EVT_COUNT .hub).nth 0) 0).replaceRequest 4

/-- What a lost line held: events, flags of the GAP records, and the DT of its first lost event. -/
structure LostLine where
  lost : Nat
  cap : Bool
  dt : Option Nat
  skip : Nat
  base : Nat
deriving DecidableEq, Repr

/-- One more word of a lost line: EVENT records are lost events, and GAP records stand for more of them. -/
def LostLine.word (l : LostLine) (w : Nat) : LostLine :=
  match l.skip with
  | 1 => { l with skip := 0, base := w }
  | 2 => { l with skip := 0, dt := l.dt.or (some w) }
  | _ =>
    if recKind w < 36 then
      let t := rebuild l.base (wT w)
      { l with lost := l.lost + 1, dt := l.dt.or (some t), base := t }
    else if recKind w = 62 then { l with skip := 1 }
    else if recKind w = 63 then { l with lost := l.lost + w % 2 ^ 32, cap := l.cap || w.testBit 32, skip := 2 }
    else l

/-- The words that stand in a lost line's place: the second word of a record of the line before, one GAP record with STAGE, PAD words,
and at the end the first word of a record that goes on in the next line, or the TIME record of the EVENT that follows (R308–R310). -/
def lostWords (c : Bool) (ws : List Nat) (next : Option Nat) (l : LostLine) : List Nat :=
  let head := if c then ws.take 1 else []
  let body := head ++ gapRec l.lost l.cap true (l.dt.getD l.base)
  let tail := if recTail c ws then ws.drop 7
    else match next with | some w => if recKind w < 36 then timeRec (rebuild l.base (wT w)) else [] | none => []
  body ++ List.replicate (8 - body.length - tail.length) padWord ++ tail

/-- A staged Journal line is lost: a GAP record with STAGE covers its events in its place, and a TIME record precedes the next EVENT
(R309, R310, R435). -/
def State.stageLost (s : State) (i ln : Nat) : State :=
  let j := s.jr i
  match j.lines[ln]? with
  | none => s
  | some ws =>
    let c := recTail j.cont (j.flight ++ j.lines.take ln).flatten
    let next := ((j.lines.drop (ln + 1)).flatten ++ j.part).head?
    let l := ws.foldl LostLine.word ⟨0, false, none, if c then 1 else 0, s.dt⟩
    (s.inc JSTR.GAPS i).upJr i fun j =>
      { j with lines := j.lines.set ln (lostWords c ws next l), needTime := j.needTime || next.isNone }

/-- The watchdog reloads (R403). -/
def State.wdogReload (s : State) : State :=
  { s with boot := { s.boot with wdogEnd := s.dt + 1000000 * s.rg RSTC.WDOG_PERIOD_MS 0, wdogPer := s.rg RSTC.WDOG_PERIOD_MS 0 } }

/-- The report that a lost word of the report buffers held: the oldest not released; no destination gets it (R435). -/
def State.reportLost (s : State) (g : Nat) : State :=
  let s := s.inc ((Hdr.EVT_COUNT .hub).nth 1) 0
  match (s.gr g).reports with
  | [] => s
  | r :: rest =>
    let s := (s.upGr g fun x => { x with reports := rest }).rb FG.RUNNING g (rest.any fun y => !y.done)
    (List.range 2).foldl (fun s p =>
      let l := Tab.get [] s.launch p
      if l.any fun e => e.q == g && e.n == r.n then
        { s with launch := Tab.put [] s.launch p (l.filter fun e => !(e.q == g && e.n == r.n)) }
      else s) s

/-- The loss a lasting hub error causes. -/
def State.hubLoss (s : State) : SramSite → State
  | .ingest i _ => s.streamCtrl i 0
  | .staging i ln _ => s.stageLost i ln
  | .fusion g trk _ =>
    let s := s.upGr g fun x => { x with degr := true }
    match trk with | some i => { s with kills := s.kills ++ [i.val] } | none => s
  | .report g _ => s.reportLost g
  | .filter c _ => s.upChan c fun c => if c.run then { c with pend := true } else c
  | .trace w => ({ s with sram := Mem.wrLE s.sram (traceBase + w / 2 % 131072 * 16) 16 0 }).inc TRACE.LOST 0
  | .mgmt _ => { s.wdogReload with host := { s.host with fwDown := true } }
  | _ => s

/-- The page that owns a hub memory, and the word. -/
def hubSite : SramSite → Page × Nat
  | .ingest _ w => (⟨.ingest, 0⟩, w)
  | .staging _ _ w => (⟨.jrnl, 0⟩, w)
  | .fusion _ _ w => (⟨.fuse, 0⟩, w)
  | .report _ w => (⟨.fuse, 0⟩, w)
  | .filter _ w => (⟨.rfb, 0⟩, w)
  | .trace w => (⟨.trace, 0⟩, w)
  | .mgmt w => (⟨.mgmt, 0⟩, w)
  | _ => (⟨.hub, 0⟩, 0)

/-- An SRAM error: single (`dbl` false) or double bit, its retry good or not. -/
def State.sramError (s : State) (site : SramSite) (dbl ok : Bool) : State :=
  let code := if dbl then 2 else 1
  match site with
  | .sliver n w => s.classFault (.core n) ⟨.cg, n / 16⟩ ok code ((n.val % 16) <<< 20 ||| w.val)
  | .matrix m w => s.classFault (.mx m) ⟨.mxc, m⟩ ok code w
  | .ledger k w => s.classFault (.cluster k) ⟨.ldb, k⟩ ok code w
  | .router k w => s.classFault (.cluster k) ⟨.clu, k⟩ ok code w
  | .dieSwitch d w => s.classFault (.die d) ⟨.die, d⟩ ok code w
  | h =>
    let (p, w) := hubSite h
    if ok then s.logFault p false code w else (s.hubLost p code w).hubLoss h

/-! ## DDR4 errors (R429, R466) -/

/-- A DDR4 error at a channel's byte address. -/
def State.ddrError (s : State) (c a : Nat) (dbl ok : Bool) (syn : Nat) (rank : Bool) (bank : Nat) : State :=
  let s := (s.inc DDR.FIRST_ERRORS c).rs DDR.LAST_ERR_ADDR c a
  let s := ((s.rs DDR.SYNDROME c syn).rb DDR.UNCORRECTABLE c dbl).rb DDR.LASTING c (!ok)
  let s := (s.rb DDR.RANK c rank).rs DDR.BANK c bank
  s.classFault (.ddr c) ⟨.ddr, c⟩ ok (if dbl then 4 else 3) (a >>> 16)

/-- The patrol scrub reads the next 64 bytes of the channel; past its capacity a pass is complete. -/
def State.patrol (s : State) (c : Nat) : State :=
  let cap := s.rg DDR.CAPACITY_MB c * 1048576
  if s.rg DDR.TRAIN_STATE c != 2 || s.ddrFenced c || cap = 0 then s
  else
    let n := Tab.get 0 s.sec.scrub c + 64
    let s := if cap ≤ n then s.inc DDR.SCRUB_PASSES c else s
    { s with sec := { s.sec with scrub := Tab.put 0 s.sec.scrub c (if cap ≤ n then 0 else n) } }

/-! ## The fault log (R439, R440) -/

/-- A log entry. -/
def logEntry (a : FaultAct) : List Byte :=
  let b := leBytes 2 0x4654 ++ leBytes 1 a.kind ++ leBytes 1 a.code ++ leBytes 4 a.unit ++ leBytes 6 a.dt
  b ++ leBytes 2 (crc32 b)

/-- Byte offset of the log in the boot flash. -/
def logBase : Nat := 0xFE0000

/-- Append the oldest entry owed; a failed append or a full log sets LOG_FAIL. -/
def State.logAppend (s : State) (ok : Bool) : State :=
  match s.sec.logs with
  | [] => s
  | a :: rest =>
    if s.host.fwDown then s
    else
      let e := logEntry a
      let n := s.sec.flog.length
      let s := { s with sec := { s.sec with logs := rest } }
      if s.sec.flog.any fun x => leNat ((x.drop 2).take 1) == a.kind && (a.kind == 2 || leNat ((x.drop 4).take 4) == a.unit) then s
      else if ok && decide (n < 8192) then
        (({ s with sec := { s.sec with flog := s.sec.flog ++ [e] } }).rs HUB.LOG_ENTRIES 0 (s.rg HUB.LOG_ENTRIES 0 + 1)).emit
          (.flash (logBase + 16 * n) e)
      else (s.rb HUB.LOG_FAIL 0 true).irqSet ⟨.hub, 0⟩ 10

/-- One entry read back at boot or SLEEP exit: its unit is fenced again with CODE REFENCED and LASTING; a bad entry counts. -/
def State.logReplay (s : State) (i : Nat) (e : List Byte) : State :=
  if leNat (e.take 2) != 0x4654 || leNat (e.drop 14) != crc32 (e.take 14) % 65536 then s.inc HUB.LOG_BAD 0
  else
    let s := s.rs HUB.LOG_ENTRIES 0 (s.rg HUB.LOG_ENTRIES 0 + 1)
    let unit := leNat ((e.drop 4).take 4)
    if leNat ((e.drop 2).take 1) = 1 then
      match FUnit.ofWord unit with
      | none => s
      | some u =>
        let p := u.page
        let s := (((s.rb (Hdr.LOG_VALID p.pk) p.inst true).rb (Hdr.LOG_LASTING p.pk) p.inst true).rs (Hdr.LOG_CODE p.pk) p.inst 8).rs
          (Hdr.LOG_WHERE p.pk) p.inst i
        { s with fenced := if s.fenced.contains u then s.fenced else u :: s.fenced }
    else (s.rb HUB.REPLACE_REQUEST 0 true).rs HUB.RR_CAUSE 0 (s.rg HUB.RR_CAUSE 0 ||| unit >>> 1)

/-- Every entry of the log is read again, up to the first erased one (R440). -/
def State.logReplayAll (s : State) (ok : Bool) : State :=
  if !ok then s.rb HUB.LOG_READ_ERR 0 true
  else
    let s := s.rs HUB.LOG_ENTRIES 0 0
    let s := ((List.range s.sec.flog.length).zip s.sec.flog).foldl (fun s e => s.logReplay e.1 e.2) s
    s.healthCounts.alertUpdate

/-! ## Meanings -/

/-- SRAM_ECC_ERROR (R428). -/
def execSramEccError (t : Nat) (site : SramSite) (dbl ok : Bool) (s : State) : Res := .next ((s.advance t).sramError site dbl ok)

/-- DDR_ECC_ERROR (R429). -/
def execDdrEccError (t : Nat) (c : Fin 6) (a : BitVec 40) (dbl ok : Bool) (syn : BitVec 8) (rank : Bool) (bank : BitVec 4)
    (s : State) : Res := .next ((s.advance t).ddrError c a.toNat dbl ok syn.toNat rank bank.toNat)

/-- PATROL_SCRUB (R429). -/
def execPatrolScrub (t : Nat) (c : Fin 6) (s : State) : Res := .next ((s.advance t).patrol c)

/-- MESH_PARITY_RESEND (R430). -/
def execMeshParityResend (t : Nat) (k row : Fin 16) (ok : Bool) (s : State) : Res :=
  .next ((s.advance t).classFault (.cluster k) ⟨.mesh, k⟩ ok 5 row)

/-- UCIE_CRC_RETRY (R230): a second failure fences the link and its die. -/
def execUcieCrcRetry (t : Nat) (u : Fin 16) (ok : Bool) (s : State) : Res :=
  let s := ((s.advance t).inc UCIE.CRC_ERR u).classFault (.die (u.val / 4)) ⟨.ucie, u⟩ ok 5 0
  .next (if ok then s else s.linkFence u)

/-- FAULT_LOG_APPEND (R440). -/
def execFaultLogAppend (t : Nat) (ok : Bool) (s : State) : Res := .next ((s.advance t).logAppend ok)

end Sys2Proof.Machine
end

