-- ==== Sys2Proof/Machine/Ptp.lean ====
section
/-!
DEFINITION. Network time and scheduled launch (chapter 13): the Ethernet ports, the PTP domains with their servo, jumps and
steps, the active domain, PPS, and the launch queues.
-/
namespace Sys2Proof.Machine
open Regs

/-! ## Pages and tables -/

def ptpPage : Page := ⟨.ptp, 0⟩
def ptpdPage (d : Nat) : Page := ⟨.ptpd, d⟩
def ethPage (p : Nat) : Page := ⟨.eth, p⟩
def lnchPage (p : Nat) : Page := ⟨.lnch, p⟩

/-- Domain `d`. -/
def State.dm (s : State) (d : Nat) : Dom := Tab.get Dom.init s.dom d
/-- Change domain `d`. -/
def State.upDm (s : State) (d : Nat) (f : Dom → Dom) : State := { s with dom := Tab.put Dom.init s.dom d (f (s.dm d)) }

/-! ## Big-endian bytes of network frames -/

/-- `n` bytes of `v`, most significant first. -/
def beBytes (n v : Nat) : List Byte := (leBytes n v).reverse
/-- The number a big-endian byte list spells. -/
def beNat (l : List Byte) : Nat := leNat l.reverse
/-- `n` bytes from offset `o`. -/
def slice (l : List Byte) (o n : Nat) : List Byte := (l.drop o).take n

/-- The ones' complement checksum of 16-bit words. -/
def ipSum : List Byte → Nat
  | a :: b :: r => a.toNat * 256 + b.toNat + ipSum r
  | [a] => a.toNat * 256
  | [] => 0
def ipCheck (l : List Byte) : Nat :=
  let x := ipSum l
  let y := x % 65536 + x / 65536
  65535 - (y % 65536 + y / 65536)

/-! ## The wire (R347, R365) -/

/-- The link of a port is up. -/
def State.ethUp (s : State) (p : Nat) : Bool := s.on ETH.LINK_UP p

/-- ns that `n` bytes take on the wire. -/
def State.wireNs (s : State) (p n : Nat) : Nat := if s.on ETH.MODE p then (8 * n + 24) / 25 else (8 * n + 9) / 10

/-- The entries of a port. -/
def State.entries (s : State) (p : Nat) : List LEntry := Tab.get [] s.launch p

/-- May a frame of `n` bytes that is not scheduled start now: the link is up, the wire is free and no launch DT is overlapped? -/
def State.maySend (s : State) (p n : Nat) : Bool :=
  let fin := s.dt + s.wireNs p (n + 24)
  s.ethUp p && decide (Tab.get 0 s.wireEnd p ≤ s.dt) &&
    !(s.entries p).any fun e => e.dt.any fun d => decide (d ≤ fin)

/-- Send a frame, given without its FCS, at DT `at_`. -/
def State.sendFrame (s : State) (p at_ : Nat) (f : List Byte) : State :=
  let s := (s.emit (.ethTx p (f ++ leBytes 4 (crc32 f)))).inc ETH.TX_FRAMES p
  { s with wireEnd := Tab.put 0 s.wireEnd p (max at_ (Tab.get 0 s.wireEnd p) + s.wireNs p (f.length + 24)) }

/-! ## Launch queues (R363–R365) -/

/-- The template of queue `i` (4 × port + queue). -/
def State.template (s : State) (i : Nat) : List Byte :=
  ((List.range 16).flatMap fun w => leBytes 4 (s.rg LNQ.TPL_DATA i w)).take (s.rg LNQ.TPL_LEN i)

/-- Fill the IPv4 total length and header checksum, the UDP length, and a UDP checksum of 0 (R364). -/
def ipFill (f : List Byte) : List Byte :=
  let ip := if beNat (slice f 12 2) = 0x8100 then 18 else 14
  let h := 4 * (beNat (slice f ip 1) % 16)
  let len := f.length - ip
  let f := patch (patch f (ip + 2) (beBytes 2 len)) (ip + 10) (beBytes 2 0)
  let f := patch f (ip + 10) (beBytes 2 (ipCheck (slice f ip h)))
  patch f (ip + h + 4) (beBytes 2 (len - h) ++ beBytes 2 0)

/-- The number of frames of a report. -/
def State.nFrag (s : State) (i len : Nat) : Nat := let b := s.rg LNQ.FRAG_BYTES i; if b = 0 then 0 else (len + b - 1) / b

/-- Frame `k` of an entry's train, without its FCS. -/
def State.trainFrame (s : State) (i : Nat) (e : LEntry) (k : Nat) : List Byte :=
  let b := s.rg LNQ.FRAG_BYTES i
  let hdr := leBytes 2 0x4C46 ++ leBytes 1 e.q ++ leBytes 1 k ++ leBytes 1 (s.nFrag i e.bytes.length) ++ leBytes 3 0 ++ leBytes 8 e.n
  let f := s.template i ++ hdr ++ slice e.bytes (k * b) b
  if s.on LNQ.IPV4_UDP i then ipFill f else f

/-- Send an entry's train from DT `at_`; LAST_LAUNCH_DT records `rec_`. -/
def State.sendTrain (s : State) (p : Nat) (e : LEntry) (at_ rec_ : Nat) : State :=
  let i := 4 * p + e.q
  let s := { s with wireEnd := Tab.put 0 s.wireEnd p at_ }
  ((List.range (s.nFrag i e.bytes.length)).foldl (fun s k => s.sendFrame p at_ (s.trainFrame i e k)) s).rs LNQ.LAST_LAUNCH_DT i rec_

/-- A LATE entry: sent at once, or dropped, as its queue says. -/
def State.lateEntry (s : State) (p : Nat) (e : LEntry) : State :=
  let i := 4 * p + e.q
  let s := s.irqSet (lnchPage p) 8
  if !s.on LNQ.LATE_SEND i then s.inc LNQ.LATE_DROPS i
  else if !s.ethUp p then s.inc LNQ.LINK_DROPS i
  else
    let a := max s.dt (Tab.get 0 s.wireEnd p)
    (s.sendTrain p e a a).inc LNQ.LATE_SENT i

/-- Keep an entry, or handle it as LATE when its launch DT has passed. -/
def State.placeEntry (s : State) (p : Nat) (e : LEntry) : State :=
  if e.dt.any fun d => decide (d < s.dt) then s.lateEntry p e
  else { s with launch := Tab.put [] s.launch p (s.entries p ++ [e]) }

/-- Post a report of group `q` to a port (R363). -/
def State.launchPost (s : State) (p q n target : Nat) (bytes : List Byte) : State :=
  let i := 4 * p + q
  if !s.on LNQ.Q_EN i then s.inc LNQ.FULL_DROPS i
  else if 255 < s.nFrag i bytes.length then s.inc LNQ.TOO_BIG i
  else if 64 ≤ (s.entries p).length then (s.inc LNQ.FULL_DROPS i).irqSet (lnchPage p) 9
  else s.placeEntry p ⟨q, n, target, s.wtTarget target, bytes⟩

/-- Every entry is converted again (R363). -/
def State.launchRetime (s : State) : State :=
  (List.range 2).foldl (fun s p =>
    let es := s.entries p
    es.foldl (fun s e => s.placeEntry p { e with dt := s.wtTarget e.target }) { s with launch := Tab.put [] s.launch p [] }) s

/-- Does entry `a` start before entry `b`: by launch DT, then in queue order? -/
def LEntry.before (a b : LEntry) : Bool :=
  match a.dt, b.dt with
  | some x, some y => decide (x < y) || (x == y && decide (a.q < b.q))
  | some _, none => true
  | none, _ => false

/-- The first entry to start. -/
def firstEntry : List LEntry → Option LEntry
  | [] => none
  | e :: es => match firstEntry es with
    | none => some e
    | some f => if f.before e then some f else some e

/-- At an entry's launch DT: on time, LATE behind a train still on the wire, or dropped for a link that is down (R365). The
first frame leaves within 16 ns of the launch DT: a free value. -/
def State.launchStart (s : State) (p : Nat) : State :=
  match firstEntry (s.entries p) with
  | none => s
  | some e =>
    match e.dt with
    | none => s
    | some d =>
      if s.dt < d then s
      else
        let s := { s with launch := Tab.put [] s.launch p ((s.entries p).erase e) }
        let i := 4 * p + e.q
        if !s.ethUp p then s.inc LNQ.LINK_DROPS i
        else if d < Tab.get 0 s.wireEnd p then s.lateEntry p e
        else
          let (v, s) := s.takeFree
          (s.sendTrain p e d (d + v % 33 - 16)).inc LNQ.LAUNCHED i

/-- A write of TPL_DATA (R370). -/
def State.tplWrite (s : State) (i : Nat) (v : Word) : State :=
  if s.on LNQ.Q_EN i then s.errParam (lnchPage (i / 4))
  else
    let w := s.rg LNQ.TPL_WORD i
    (s.rs LNQ.TPL_DATA i v.toNat w).rs LNQ.TPL_WORD i (w + 1)

/-- A write of a queue's control word (R370): range checks, and no change of TPL_LEN, IPV4_UDP or FRAG_BYTES while Q_EN is 1. -/
def State.lnqCtrl (s : State) (i : Nat) (v : Word) : State :=
  let tl := LNQ.TPL_LEN.of v
  let fb := LNQ.FRAG_BYTES.of v
  let cfg := [LNQ.TPL_LEN, LNQ.IPV4_UDP, LNQ.FRAG_BYTES]
  if tl < 14 ∨ 62 < tl ∨ fb < 64 ∨ 8896 < fb ∨ fb % 64 ≠ 0 ∨ (s.on LNQ.Q_EN i ∧ cfg.any fun f => f.of v != s.rg f i) then
    s.errParam (lnchPage (i / 4))
  else ([LNQ.Q_EN, LNQ.LATE_SEND] ++ cfg).foldl (fun s f => s.rs f i (f.of v)) s

/-! ## PPS (R361, R362) -/

/-- The signed PPS_OFFSET_NS. -/
def State.ppsOff (s : State) : Int := signed 32 (s.rg PTP.PPS_OFFSET_NS 0)

/-- The latest whole second k with WT at least k s + PPS_OFFSET_NS. -/
def State.ppsSecond (s : State) : Int := floorDiv ((s.wt s.activeDom s.dt : Int) - s.ppsOff) 1000000000

/-- Drive PPS_OUT low. -/
def State.ppsLow (s : State) : State :=
  if s.pps.high then ({ s with pps := { s.pps with high := false } }).emit (.pin "PPS_OUT" false) else s

/-- After a step or a switch the seconds passed over are counted and not emitted. -/
def State.ppsJump (s : State) : State :=
  let k := floorDiv ((s.wt s.activeDom s.dt : Int) - s.ppsOff - 1) 1000000000
  if s.on PTP.PPS_EN 0 && decide (s.pps.base < k) then
    (({ s with pps := { s.pps with base := k } }).inc PTP.PPS_SKIPPED 0 (k - s.pps.base).toNat).irqSet ptpPage 10
  else s

/-- The edge of the next whole second: emitted unless PPS_GATE holds the pin low. -/
def State.ppsEdge (s : State) : State :=
  let k := s.ppsSecond
  if !s.on PTP.PPS_EN 0 || s.asleep || !s.boot.hubUp || decide (k ≤ s.pps.base) then s
  else
    let gated := s.on PTP.PPS_GATE 0 && s.rg PTPD.STATE s.activeDom != 3
    let s := { s with pps := { s.pps with base := k } }
    if gated then s
    else
      let w := s.rg PTP.PPS_WIDTH_MS 0 * 1000000
      ({ s with pps := { s.pps with high := true, fallAt := s.dt + w } }).emit (.pin "PPS_OUT" true)

/-! ## A change of the active mapping (R266, R363, R361) -/

/-- Everything that follows WT of the active domain is recomputed. -/
def State.timeChanged (s : State) (stepped jumped : Bool) : State :=
  let s := (s.wtChanged stepped).launchRetime
  if jumped then s.ppsJump else s

/-- The parameters of domain `d` have changed. -/
def State.paramChanged (s : State) (d : Nat) (stepped : Bool) : State :=
  if d = s.activeDom then s.timeChanged stepped stepped else s

/-! ## Domain states (R353, R357) -/

/-- RATE_HELD. -/
def State.heldNow (s : State) (d : Nat) : Bool :=
  let st := s.rg PTPD.STATE d
  st == 0 || st == 1 || st == 4 || s.on PTPD.JUDGING d || s.on PTPD.SUSPECT d || s.on PTPD.STEP_PENDING d

/-- Bits [7:0] of the STATE register. -/
def State.domBits (s : State) (d : Nat) : Nat :=
  s.rg PTPD.STATE d + 8 * s.rg PTPD.SUSPECT d + 16 * s.rg PTPD.STEP_PENDING d + 32 * s.rg PTPD.JUDGING d +
    64 * s.rg PTPD.SLEWING d + 128 * s.rg PTPD.REROUTE d

/-- Switch the active domain at the present DT (R357). -/
def State.switchTo (s : State) (d : Nat) : State :=
  if d = s.activeDom then s
  else (((s.rs PTP.ACTIVE 0 d).inc PTP.SWITCHES 0).irqSet ptpPage 9).timeChanged false true

/-- An automatic switch: the active domain has become RATE_HELD while the other is LOCKED and not RATE_HELD, and neither is
STEP_PENDING (R357, R359). -/
def State.autoSwitch (s : State) (d : Nat) : State :=
  let o := 1 - d
  if s.on PTP.AUTO_SWITCH 0 && d == s.activeDom && s.rg PTPD.STATE o == 3 && !s.heldNow o &&
      !s.on PTPD.STEP_PENDING d && !s.on PTPD.STEP_PENDING o then s.switchTo o
  else s

/-- Set an interrupt bit if something holds. -/
def State.irqIf (s : State) (c : Bool) (p : Page) (b : Nat) : State := if c then s.irqSet p b else s

/-- The interrupts that a domain's new status bits and STATE raise. -/
def State.domRaise (s : State) (d old now st st' : Nat) : State :=
  ((((s.irqIf (bit now 4 && !bit old 4) (ptpdPage d) 9).irqIf (bit now 3 && !bit old 3) (ptpdPage d) 10).irqIf
    (bit now 7 && !bit old 7) (ptpdPage d) 13).irqIf (st' == 4 && st != 4) (ptpdPage d) 11).irqIf (st' == 3 && st != 3)
    (ptpdPage d) 12

/-- The trace record of a change of a domain's status bits. -/
def State.domTrace (s : State) (d old now : Nat) : State :=
  if now != old then s.trace (ptpdPage d) 6 now (s.rg PTPD.LAST_OFFSET d) else s

/-- A domain that becomes held may switch the active one. -/
def State.domHeld (s : State) (d : Nat) (was : Bool) : State := if s.heldNow d && !was then s.autoSwitch d else s

/-- Change a domain's state and apply what follows: RATE_HELD, the interrupts that rise, the trace record, an automatic switch. -/
def State.domChange (s : State) (d : Nat) (f : State → State) : State :=
  (((((f s).rb PTPD.RATE_HELD d ((f s).heldNow d)).domRaise d (s.domBits d) ((f s).domBits d) (s.rg PTPD.STATE d)
    ((f s).rg PTPD.STATE d))).domTrace d (s.domBits d) ((f s).domBits d)).domHeld d (s.heldNow d)

/-- Set a domain's STATE. -/
def State.setDomState (s : State) (d st : Nat) : State := s.domChange d fun s => s.rs PTPD.STATE d st

/-! ## Rates and steps (R69, R356) -/

/-- RATE_d changes at the present DT, OFFSET_d keeping WT continuous (R69). -/
def State.setRate (s : State) (d rate : Nat) : State :=
  let off := s.wtO d + (s.dt : Int) * ((s.wtR d : Int) - rate)
  ({ s with wtRate := Tab.put rateOne s.wtRate d rate, wtOff := Tab.put 0 s.wtOff d off }).paramChanged d false

/-- Is a RATE within 1.0 ± 500 ppm? -/
def rateOk (r : Nat) : Bool := decide (2 ^ 32 - 2147483 ≤ r ∧ r ≤ 2 ^ 32 + 2147483)

/-- `clamp_ppm(x, 500)`. -/
def clampRate (x : Int) : Nat := (max (2 ^ 32 - 2147483) (min (2 ^ 32 + 2147483) x)).toNat

/-- A step to a new OFFSET, in 2^-32 ns (R356). -/
def State.stepTo (s : State) (d : Nat) (off : Int) : State :=
  let s := { s with wtOff := Tab.put 0 s.wtOff d off }
  let s := ((s.inc PTPD.STEPS d).irqSet (ptpdPage d) 8).notice 4 d 0
  let s := s.upDm d fun x => { x with run := 0, jumpAt := none }
  let s := s.domChange d fun s => ((s.rb PTPD.JUDGING d false).rb PTPD.SUSPECT d false).rb PTPD.STEP_PENDING d false
  let s := if d = s.activeDom then s.irqSet ptpPage 8 else s
  s.paramChanged d true

/-- A step by an offset sample `o` in ns. -/
def State.stepBy (s : State) (d : Nat) (o : Int) : State := s.stepTo d (s.wtO d - o * 2 ^ 32)

/-! ## Jumps (R355) -/

/-- A jump is detected: the other domain decides. -/
def State.jump (s : State) (d : Nat) (o mpd : Int) : State :=
  let s := (s.rs PTPD.JUMP_OFFSET d (unsigned 64 o)).inc PTPD.JUMPS d
  let route := decide ((s.rg PTPD.PATH_TOL d : Int) < (mpd - (s.dm d).mpd0).natAbs)
  let s := if route then (s.inc PTPD.REROUTES d).domChange d fun s => s.rb PTPD.REROUTE d true else s
  let w := s.rg PTPD.JUMP_WINDOW_NS d
  let other := 1 - d
  let near := match (s.dm other).jumpAt with
    | some j => decide (s.dt ≤ j + w) || (s.on PTPD.JUDGING other && decide (s.dt ≤ (s.dm other).judgeEnd))
    | none => false
  let s := s.upDm d fun x => { x with jumpAt := some s.dt, judgeEnd := s.dt + w }
  let pend := fun (s : State) (x : Nat) => s.domChange x fun s => (s.rb PTPD.STEP_PENDING x true).rb PTPD.JUDGING x false
  if near then pend (pend s other) d
  else if s.rg PTPD.STATE other != 3 || s.heldNow other then pend s d
  else s.domChange d fun s => s.rb PTPD.JUDGING d true

/-- `judge`: a candidate joins the run, which ends otherwise; nothing is applied. -/
def State.judge (s : State) (d : Nat) (o mpd : Int) : State :=
  if s.rg PTPD.SLEW_LIMIT d < o.natAbs then
    let r := (s.dm d).run + 1
    let s := s.upDm d fun x => { x with run := r }
    if r = s.rg PTPD.JUMP_CONFIRM d then s.jump d o mpd else s
  else (s.inc PTPD.OUTLIERS d (s.dm d).run).upDm d fun x => { x with run := 0 }

/-! ## The servo (R354) -/

/-- LOCK_COUNT and LOCK_NS after an applied sample (R353). -/
def State.lockRule (s : State) (d : Nat) (o : Int) : State :=
  let lim := s.rg PTPD.LOCK_NS d
  let run := if o.natAbs ≤ lim then (s.dm d).lockRun + 1 else 0
  let s := s.upDm d fun x => { x with lockRun := run, applied := some s.dt }
  if s.rg PTPD.STATE d == 2 && decide (s.rg PTPD.LOCK_COUNT d ≤ run) then
    s.domChange d fun s => (s.rs PTPD.STATE d 3).rb PTPD.EVER_LOCKED d true
  else if s.rg PTPD.STATE d == 3 && decide (4 * lim < o.natAbs) then
    (s.upDm d fun x => { x with lockRun := 0 }).setDomState d 2
  else s

/-- SUSPECT and REROUTE clear after JUMP_CONFIRM consecutive samples within SLEW_LIMIT (R355). -/
def State.goodRule (s : State) (d : Nat) (o : Int) : State :=
  let n := if o.natAbs ≤ s.rg PTPD.SLEW_LIMIT d then (s.dm d).good + 1 else 0
  let s := s.upDm d fun x => { x with good := n }
  if decide (s.rg PTPD.JUMP_CONFIRM d ≤ n) && (s.on PTPD.SUSPECT d || s.on PTPD.REROUTE d) then
    let s := if s.on PTPD.SUSPECT d then s.upDm d fun x => { x with jumpAt := none } else s
    s.domChange d fun s => (s.rb PTPD.SUSPECT d false).rb PTPD.REROUTE d false
  else s

/-- `(c << 16) / n` of the servo, and RATE from it. `n` is free where the domain has applied no sample yet, and the quotient is
where `n` is 0. -/
def servoRate (c : Int) (n : Nat) (v : Nat) : Nat :=
  if n = 0 then clampRate (2 ^ 32 - 2147483 + (v % 4294967 : Nat)) else clampRate (2 ^ 32 - Int.tdiv (c * 65536) n)

/-- A normal sample: the integral and the rate. -/
def State.servoApply (s : State) (d : Nat) (o : Int) : State :=
  let x := s.dm d
  let (v, s) := s.takeFree
  let n := match x.applied with | some a => s.dt - a | none => v + 1
  let i := satS 48 (x.iAcc + o)
  let s := (s.inc PTPD.OUTLIERS d x.run).upDm d fun x => { x with run := 0, iAcc := i }
  s.setRate d (servoRate (o * s.rg PTPD.KP d + i * s.rg PTPD.KI d) n v)

/-- `ppb_q32`: x × 2^32 / 10^9; how it rounds is open. -/
def ppbQ32 (x v : Nat) : Nat := x * 2 ^ 32 / 1000000000 + v % 2

/-- `servo_sample` (R354). -/
def State.servo (s : State) (d : Nat) (o mpd : Int) : State :=
  let lim := s.rg PTPD.SLEW_LIMIT d
  let big := decide (lim < o.natAbs)
  let x := s.dm d
  let s := if x.run = 0 then s.upDm d fun y => { y with mpd0 := (signed 32 (s.rg PTPD.MEAN_PATH d)) } else s
  let s := s.rs PTPD.MEAN_PATH d (unsigned 32 mpd)
  if !s.on PTPD.EVER_LOCKED d && big then ((s.stepBy d o).lockRule d o).goodRule d o
  else if s.on PTPD.SLEWING d && big then
    let (v, s) := s.takeFree
    let q : Int := ppbQ32 (s.rg PTPD.SLEW_MAX_PPB d) v
    let r : Int := (s.dm d).held + (if 0 < o then -q else q)
    ((s.setRate d r.toNat).lockRule d o).goodRule d o
  else
    let slew := s.on PTPD.SLEWING d
    let s := if slew then s.domChange d fun s => s.rb PTPD.SLEWING d false else s
    if !slew && (big || s.heldNow d) then (s.judge d o mpd).goodRule d o
    else ((s.servoApply d o).lockRule d o).goodRule d o

/-- A sample of the selected time transmitter (R352): t1 and the correction in ns, t2 the ingress stamp. -/
def State.ptpSample (s : State) (d : Nat) (t1 : Nat) (corr : Int) (t2 : Nat) (mpd : Int) (iv : Nat) : State :=
  let st := s.rg PTPD.STATE d
  if s.host.fwDown || !(st == 2 || st == 3) then s
  else
    let o : Int := (s.wt d t2 : Int) - (t1 + corr + mpd + signed 32 (s.rg PTPD.ASYM_CORR d))
    let s := s.upDm d fun x => { x with syncAt := s.dt, syncIv := iv }
    let s := (s.inc PTPD.SYNCS d).rs PTPD.LAST_OFFSET d (unsigned 32 (satS 32 o))
    if s.on PTPD.SERVO_EN d then s.servo d o mpd else s.rs PTPD.MEAN_PATH d (unsigned 32 mpd)

/-! ## Selection, timeouts, moves (R353, R360) -/

/-- The BMCA selects a time transmitter. -/
def State.selectGm (s : State) (d gm : Nat) : State :=
  let s := (s.rs PTPD.GM_ID d gm).upDm d fun x => { x with annAt := s.dt, syncAt := s.dt }
  let st := s.rg PTPD.STATE d
  if st == 1 || st == 4 then (s.upDm d fun x => { x with lockRun := 0 }).setDomState d 2 else s

/-- An Announce message; `sel` is the BMCA's decision for its sender. -/
def State.announce (s : State) (d gm : Nat) (sel : Bool) (utc : Nat) (utcOk : Bool) (iv : Nat) : State :=
  if s.host.fwDown || s.rg PTPD.STATE d == 0 then s
  else
    let s := if sel then s.selectGm d gm else s
    if s.rg PTPD.GM_ID d = gm ∧ 2 ≤ s.rg PTPD.STATE d then
      ((s.rs PTPD.UTC_OFFSET d utc).rb PTPD.UTC_VALID d utcOk).upDm d fun x => { x with annAt := s.dt, annIv := iv }
    else s

/-- Has ANN_TIMEOUT or SYNC_TIMEOUT run out? -/
def State.ptpLate (s : State) (d : Nat) : Bool :=
  let x := s.dm d
  decide (x.annAt + s.rg PTPD.ANN_TIMEOUT d * x.annIv ≤ s.dt) || decide (x.syncAt + s.rg PTPD.SYNC_TIMEOUT d * x.syncIv ≤ s.dt)

/-- A timeout: HOLDOVER, or TRACKING of another transmitter that qualifies. Suspended while firmware restarts (R453). -/
def State.ptpTimeout (s : State) (d : Nat) (alt : Option (BitVec 64)) : State :=
  let st := s.rg PTPD.STATE d
  if s.host.fwDown || !(st == 2 || st == 3) || !s.ptpLate d then s
  else
    let s := (s.inc PTPD.TIMEOUTS d).upDm d fun x => { x with lockRun := 0 }
    match alt with
    | none => s.setDomState d 4
    | some g => (s.selectGm d g.toNat).setDomState d 2

/-- A domain moves to a port: it re-runs its selection there. -/
def State.domMove (s : State) (d p : Nat) : State :=
  ((s.rs PTPD.ON_PORT d p).upDm d fun x => { x with lockRun := 0 }).setDomState d 1

/-- A port's link falls: LINK_DOWN, and FAILOVER domains move when the other port is up (R360). -/
def State.ethDown (s : State) (p : Nat) : State :=
  if !s.ethUp p then s
  else
    let s := (s.rb ETH.LINK_UP p false).irqSet (ethPage p) 8
    (List.range 2).foldl (fun s d =>
      if s.on PTPD.DOM_EN d && s.on PTPD.FAILOVER d && s.rg PTPD.ON_PORT d == p && s.ethUp (1 - p) then
        (s.inc PTPD.PORT_MOVES d).domMove d (1 - p)
      else s) s

/-- The end of a JUDGING window (R355). -/
def State.judgeOver (s : State) (d : Nat) : State :=
  if s.on PTPD.JUDGING d && decide ((s.dm d).judgeEnd ≤ s.dt) then
    s.domChange d fun s => (s.rb PTPD.JUDGING d false).rb PTPD.SUSPECT d true
  else s

/-! ## Register writes (R368, R369) -/

/-- A write of the domain's control word. -/
def State.domCtrl (s : State) (d : Nat) (v : Word) : State :=
  let frozen := [PTPD.PROFILE, PTPD.DELAY_MECH, PTPD.TRANSPORT, PTPD.DOMAIN_NUM]
  let bad := fun f : Fld => decide (f.of v < 2 ∨ 10 < f.of v)
  let was := s.on PTPD.DOM_EN d
  if PTPD.JUMP_CONFIRM.of v = 0 ∨ bad PTPD.ANN_TIMEOUT ∨ bad PTPD.SYNC_TIMEOUT ∨ (was ∧ frozen.any fun f => f.of v != s.rg f d) then
    s.errParam (ptpdPage d)
  else
    let s := (frozen ++ [PTPD.PORT, PTPD.FAILOVER, PTPD.SERVO_EN, PTPD.ANN_TIMEOUT, PTPD.SYNC_TIMEOUT, PTPD.JUMP_CONFIRM,
      PTPD.DOM_EN]).foldl (fun s f => s.rs f d (f.of v)) s
    let p := PTPD.PORT.of v
    let en := PTPD.DOM_EN.of v == 1
    if en && !was then
      let s := (s.rs PTPD.ON_PORT d p).upDm d fun x => { x with lockRun := 0 }
      s.domChange d fun s => (s.rs PTPD.STATE d 1).rb PTPD.EVER_LOCKED d false
    else if !en && was then s.setDomState d 0
    else if en && s.rg PTPD.ON_PORT d != p then s.domMove d p
    else s

/-- A write of RATE's high word applies RATE (R69); outside 1.0 ± 500 ppm it is rejected. -/
def State.rateHigh (s : State) (d : Nat) (v : Word) : State :=
  let r := v.toNat * 2 ^ 32 + s.rg PTPD.RATE d % 2 ^ 32
  if rateOk r then s.setRate d r else s.errParam (ptpdPage d)

/-- A write of CMD: each bit in turn. -/
def State.domCmd (s : State) (d : Nat) (v : Word) : State :=
  let s := if PTPD.SET_OFFSET.of v = 1 then s.stepTo d (signed 128 (s.rg PTPD.OFFSET d)) else s
  let open_ := fun s : State => s.on PTPD.STEP_PENDING d || s.on PTPD.SUSPECT d
  let s := if PTPD.RESOLVE_STEP.of v = 1 then
      (if open_ s then s.stepBy d (signed 64 (s.rg PTPD.JUMP_OFFSET d)) else s.errParam (ptpdPage d))
    else s
  let s := if PTPD.RESOLVE_SLEW.of v = 1 then
      (if open_ s then
        let s := s.upDm d fun x => { x with held := s.wtR d, run := 0, jumpAt := none }
        s.domChange d fun s => ((s.rb PTPD.SLEWING d true).rb PTPD.STEP_PENDING d false).rb PTPD.SUSPECT d false
      else s.errParam (ptpdPage d))
    else s
  if PTPD.CLEAR_INTEGRAL.of v = 1 then s.upDm d fun x => { x with iAcc := 0 } else s

/-- A write of the PTP page's control word. -/
def State.ptpCtrl (s : State) (v : Word) : State :=
  let w := PTP.PPS_WIDTH_MS.of v
  if w = 0 ∨ 999 < w then s.errParam ptpPage
  else
    let was := s.on PTP.PPS_EN 0
    let s := [PTP.AUTO_SWITCH, PTP.PPS_EN, PTP.PPS_GATE, PTP.PPS_WIDTH_MS].foldl (fun s f => s.rs f 0 (f.of v)) s
    let s := s.switchTo (PTP.ACTIVE.of v)
    if s.on PTP.PPS_EN 0 && !was then { s with pps := { s.pps with base := s.ppsSecond } }
    else if !s.on PTP.PPS_EN 0 then s.ppsLow
    else s

/-! ## Received frames (R347, R348, R350) -/

/-- Offset of a frame's payload: behind the EtherType, and behind one VLAN tag. -/
def payloadAt (f : List Byte) : Nat := if beNat (slice f 12 2) = 0x8100 then 18 else 14
def etherType (f : List Byte) : Nat := beNat (slice f (payloadAt f - 2) 2)

/-- Offset of a PTP message in a frame, and whether it comes over UDP (R348; layouts of assumption 61). -/
def State.ptpAt (s : State) (p : Nat) (f : List Byte) : Option (Nat × Bool) :=
  let l := payloadAt f
  let h := 4 * (beNat (slice f l 1) % 16)
  let port := beNat (slice f (l + h + 2) 2)
  if etherType f = 0x88F7 then some (l, false)
  else if etherType f = 0x0800 ∧ beNat (slice f (l + 9) 1) = 17 ∧ (port = 319 ∨ port = 320) ∧ s.rg ETH.IPV4_ADDR p ≠ 0 ∧
      beNat (slice f (l + 16) 4) = s.rg ETH.IPV4_ADDR p then some (l + h + 8, true)
  else none

/-- Is the frame a PTP message of an enabled domain on this port, under its transport? -/
def State.ptpFor (s : State) (p : Nat) (f : List Byte) : Option Nat :=
  match s.ptpAt p f with
  | none => none
  | some (o, udp) =>
    if (List.range 2).any fun d => s.on PTPD.DOM_EN d && s.rg PTPD.ON_PORT d == p &&
        (s.on PTPD.TRANSPORT d && !s.on PTPD.PROFILE d) == udp && s.rg PTPD.DOMAIN_NUM d == beNat (slice f (o + 4) 1)
    then some (beNat (slice f o 1) % 16) else none

/-- The MAC address of a port, in wire order. -/
def State.macOf (s : State) (p : Nat) : List Byte := beBytes 6 (s.rg ETH.MAC_ADDR p)

/-- Is a frame for management firmware: to MAC_ADDR, broadcast or a PTP multicast address? -/
def State.forFirmware (s : State) (p : Nat) (f : List Byte) : Bool :=
  let d := slice f 0 6
  d == s.macOf p || d == beBytes 6 0xFFFFFFFFFFFF || d == beBytes 6 0x011B19000000 || d == beBytes 6 0x0180C200000E ||
    d == beBytes 6 0x01005E000181 || d == beBytes 6 0x01005E00006B

/-- Firmware's ARP or ICMP echo reply to a frame (assumption 61). -/
def State.fwReply (s : State) (p : Nat) (f : List Byte) : Option (List Byte) :=
  let l := payloadAt f
  let ip := beBytes 4 (s.rg ETH.IPV4_ADDR p)
  let head := slice f 6 6 ++ s.macOf p ++ slice f 12 (l - 12)
  let h := 4 * (beNat (slice f l 1) % 16)
  if s.rg ETH.IPV4_ADDR p = 0 then none
  else if etherType f = 0x0806 ∧ beNat (slice f (l + 6) 2) = 1 ∧ slice f (l + 24) 4 = ip then
    let a := slice f l 6 ++ beBytes 2 2 ++ s.macOf p ++ ip ++ slice f (l + 8) 10
    some (head ++ a ++ List.replicate (60 - (head.length + a.length)) 0)
  else if etherType f = 0x0800 ∧ beNat (slice f (l + 9) 1) = 1 ∧ slice f (l + 16) 4 = ip ∧ beNat (slice f (l + h) 1) = 8 then
    let body := slice f (l + h) (beNat (slice f (l + 2) 2) - h)
    let icmp := beBytes 1 0 ++ slice body 1 1 ++ beBytes 2 0 ++ body.drop 4
    let hdr := patch (patch (slice f l h) 12 (ip ++ slice f (l + 12) 4)) 10 (beBytes 2 0)
    some (head ++ patch hdr 10 (beBytes 2 (ipCheck hdr)) ++ patch icmp 2 (beBytes 2 (ipCheck icmp)))
  else none

/-- Firmware takes the frames held for it, in order, while their replies may be sent. -/
def State.fwFrames (s : State) : Nat → State
  | 0 => s
  | n + 1 =>
    match s.rxHeld with
    | [] => s
    | (p, f) :: rest =>
      match s.fwReply p f with
      | none => ({ s with rxHeld := rest }).fwFrames n
      | some r => if s.maySend p r.length then (({ s with rxHeld := rest }).sendFrame p s.dt r).fwFrames n else s

/-- A received frame, with its FCS. -/
def State.ethRx (s : State) (p : Nat) (f : List Byte) (ok : Bool) : State :=
  if !s.ethUp p || f.length < 64 then s
  else if 9022 < f.length then s.inc ETH.RX_LONG p
  else if !ok then s.inc ETH.RX_FCS_ERR p
  else
    let s := s.inc ETH.RX_FRAMES p
    let f := f.take (f.length - 4)
    if etherType f = 0x8808 then s.inc ETH.RX_PAUSE p
    else
      match s.ptpFor p f with
      | some ty => if ty ≤ 3 then s.inc ETH.PTP_RX p else if ty = 13 then s.inc ETH.MGMT_MSGS p else s
      | none =>
        if s.forFirmware p f then
          let s := if s.host.fwDown then s.inc ETH.RX_LATE_STAMP p else s
          let s := { s with rxHeld := s.rxHeld ++ [(p, f)] }
          if s.host.fwDown then s else s.fwFrames s.rxHeld.length
        else s.inc ETH.RX_NO_CONSUMER p

/-- Send the device's own PTP message, stamped on egress when it is an event message. -/
def State.sendPtp (s : State) (p kind : Nat) (args : List Nat) (req : List Byte) : State :=
  let s := s.sendFrame p s.dt (Config.ptpFrame kind args req)
  if kind ≤ 2 then s.inc ETH.PTP_TX p else s

/-- A received Pdelay_Req is answered two-step (R351). -/
def State.pdelayAnswer (s : State) (p : Nat) (f : List Byte) : State :=
  let on := (List.range 2).any fun d => s.on PTPD.DOM_EN d && s.rg PTPD.ON_PORT d == p
  let n := (Config.ptpFrame 2 [s.dt] f).length + (Config.ptpFrame 3 [s.dt] f).length + 24
  if s.host.fwDown || !on || !s.maySend p n then s
  else (s.sendPtp p 2 [s.dt] f).sendPtp p 3 [s.dt] f

/-- A domain's delay measurement: Delay_Req under E2E, Pdelay_Req under P2P (R351). -/
def State.delayReq (s : State) (d : Nat) : State :=
  let p := s.rg PTPD.ON_PORT d
  let kind := if s.on PTPD.PROFILE d || s.on PTPD.DELAY_MECH d then 1 else 0
  if s.host.fwDown || !s.on PTPD.DOM_EN d || !s.maySend p (Config.ptpFrame kind [d, s.dt] []).length then s
  else s.sendPtp p kind [d, s.dt] []

/-- A rising edge on PPS_IN (R362). -/
def State.ppsIn (s : State) : State :=
  let s := ((s.rs TIME.PPS_IN_DT 0 s.dt).inc TIME.PPS_IN_COUNT 0).irqSet ⟨.time, 0⟩ 8
  (List.range 2).foldl (fun s d =>
    if s.on PTPD.DOM_EN d then
      let r := s.wt d s.dt % 1000000000
      s.rs PTPD.PPS_IN_ERR d (unsigned 32 (if r ≤ 500000000 then (r : Int) else (r : Int) - 1000000000))
    else s) s

/-! ## Idle and reset of the pages (R366) -/

/-- IDLE of an ETH page. -/
def State.ethIdle (s : State) (p : Nat) : Bool :=
  decide (Tab.get 0 s.wireEnd p ≤ s.dt) && (s.entries p).isEmpty &&
    !(List.range 2).any fun d => s.on PTPD.DOM_EN d && s.rg PTPD.ON_PORT d == p

/-- IDLE of an LNCH page. -/
def State.lnchIdle (s : State) (p : Nat) : Bool := (s.entries p).isEmpty && !(List.range 4).any fun q => s.on LNQ.Q_EN (4 * p + q)

/-! ## Meanings -/

/-- PPS_IN_EDGE (R362). -/
def execPpsInEdge (t : Nat) (s : State) : Res :=
  let s := s.advance t
  .next (if s.aonRun then s.ppsIn else s)

/-- ETH_FRAME_RX (R348). -/
def execEthFrameRx (t : Nat) (p : Fin 2) (f : List Byte) (ok : Bool) (s : State) : Res := .next ((s.advance t).ethRx p f ok)

/-- PTP_SYNC (R352). -/
def execPtpSync (t : Nat) (d : Fin 2) (t1 : Nat) (corr : Int) (t2 : Nat) (mpd : Int) (iv : Nat) (s : State) : Res :=
  .next ((s.advance t).ptpSample d t1 corr t2 mpd iv)

/-- PTP_ANNOUNCE (R353). -/
def execPtpAnnounce (t : Nat) (d : Fin 2) (gm : BitVec 64) (sel : Bool) (utc : BitVec 16) (utcOk : Bool) (iv : Nat) (s : State) :
    Res := .next ((s.advance t).announce d gm.toNat sel utc.toNat utcOk iv)

/-- PDELAY_REQ (R351). -/
def execPdelayReq (t : Nat) (p : Fin 2) (f : List Byte) (s : State) : Res := .next ((s.advance t).pdelayAnswer p f)

/-- DELAY_REQ_TIMER (R351). -/
def execDelayReqTimer (t : Nat) (d : Fin 2) (s : State) : Res := .next ((s.advance t).delayReq d)

/-- PTP_TIMEOUT (R353). -/
def execPtpTimeout (t : Nat) (d : Fin 2) (alt : Option (BitVec 64)) (s : State) : Res := .next ((s.advance t).ptpTimeout d alt)

/-- JUMP_WINDOW_EXPIRY (R355). -/
def execJumpWindowExpiry (t : Nat) (d : Fin 2) (s : State) : Res := .next ((s.advance t).judgeOver d)

/-- ETH_LINK_DOWN (R360). -/
def execEthLinkDown (t : Nat) (p : Fin 2) (s : State) : Res := .next ((s.advance t).ethDown p)

/-- ETH_LINK_UP (R360): the port is enabled, clocked and not fenced. -/
def execEthLinkUp (t : Nat) (p : Fin 2) (s : State) : Res :=
  let s := s.advance t
  .next (if s.on (Hdr.ENABLE .eth) p && !s.ethFenced p && s.clkGood (ethPage p) && !s.inReset (ethPage p) && !s.asleep then
    s.rb ETH.LINK_UP p true else s)

/-- DOM_EN_WRITE (R353). -/
def execDomEnWrite (t : Nat) (c : Req) (d : Fin 2) (v : Word) (s : State) : Res :=
  s.cmdWrite t c (ptpdPage d) 0x040 fun s => s.domCtrl d v

/-- RATE_WRITE (R69): a write of RATE's high word. -/
def execRateWrite (t : Nat) (c : Req) (d : Fin 2) (v : Word) (s : State) : Res :=
  s.cmdWrite t c (ptpdPage d) 0x064 fun s => s.rateHigh d v

/-- SET_OFFSET (R356). -/
def execSetOffset (t : Nat) (c : Req) (d : Fin 2) (v : Word) (s : State) : Res :=
  s.cmdWrite t c (ptpdPage d) 0x078 fun s => s.domCmd d v

/-- RESOLVE_STEP (R358). -/
def execResolveStep (t : Nat) (c : Req) (d : Fin 2) (v : Word) (s : State) : Res :=
  s.cmdWrite t c (ptpdPage d) 0x078 fun s => s.domCmd d v

/-- RESOLVE_SLEW (R358). -/
def execResolveSlew (t : Nat) (c : Req) (d : Fin 2) (v : Word) (s : State) : Res :=
  s.cmdWrite t c (ptpdPage d) 0x078 fun s => s.domCmd d v

/-- CLEAR_INTEGRAL (R369). -/
def execClearIntegral (t : Nat) (c : Req) (d : Fin 2) (v : Word) (s : State) : Res :=
  s.cmdWrite t c (ptpdPage d) 0x078 fun s => s.domCmd d v

/-- ACTIVE_WRITE (R357). -/
def execActiveWrite (t : Nat) (c : Req) (v : Word) (s : State) : Res :=
  s.cmdWrite t c ptpPage 0x040 fun s => s.ptpCtrl v

/-- PPS_OUT_EDGE (R361). -/
def execPpsOutEdge (t : Nat) (s : State) : Res := .next (s.advance t).ppsEdge

/-- PPS_OUT_FALL (R361). -/
def execPpsOutFall (t : Nat) (s : State) : Res :=
  let s := s.advance t
  .next (if s.pps.fallAt ≤ s.dt then s.ppsLow else s)

/-- LAUNCH_START (R365). -/
def execLaunchStart (t : Nat) (p : Fin 2) (s : State) : Res := .next ((s.advance t).launchStart p)

/-- TPL_DATA_WRITE (R370). -/
def execTplDataWrite (t : Nat) (c : Req) (p : Fin 2) (q : Fin 4) (v : Word) (s : State) : Res :=
  s.cmdWrite t c (lnchPage p) (0x108 + 0x40 * q.val) fun s => s.tplWrite (4 * p.val + q.val) v

end Sys2Proof.Machine
end

