-- ==== Sys2Proof/Machine/Piste.lean ====
section
/-!
DEFINITION. The Piste fabric (chapter 14): the receiver of the ports, membership and routes, spikes and reports between
devices, remote register access, fabric time.
-/
namespace Sys2Proof.Machine
open Regs

/-- May the device send and forward routed messages? Not while REFUSED (R380). -/
def State.mayRoute (s : State) : Bool := s.rg FAB.MSTATE 0 != 3

/-- The port a routed message to `dest` leaves by: the primary, or the alternate when the primary is not UP (R382). -/
def State.routePort (s : State) (dest : Nat) : Option Nat :=
  let p := s.rg FAB.PRIMARY 0 dest
  let a := s.rg FAB.ALT 0 dest
  if !s.mayRoute then none
  else if s.on FAB.P_VALID 0 dest && s.linkUp p then some p
  else if s.on FAB.A_VALID 0 dest && s.linkUp a then some a
  else none

/-- Send a routed message, which may still hold the receive buffer `src`; one with no usable port is dropped and counted. -/
def State.sendRouted (s : State) (ty : Nat) (body : List Nat) (src : Option (Nat × Nat × Nat) := none) : State :=
  match s.routePort (msgDest ty body) with
  | some p => s.pisteSend p ty body src
  | none => (s.inc FAB.UNREACH_DROPS 0).credited src

/-- Forward a message: HOP increments, and a message can only enter a buffer with HOP up to 6 (R377). -/
def State.forward (s : State) (ty : Nat) (body : List Nat) (src : Option (Nat × Nat × Nat)) : State :=
  let h := msgHop ty body + 1
  if 6 < h then (s.inc FAB.UNREACH_DROPS 0).credited src else s.sendRouted ty (setHop ty body h) src

/-! ## Membership (R378–R380) -/

/-- The lock of FT starts again (R391, R393). -/
def State.ftUnlock (s : State) : State :=
  let s := s.rb FAB.FT_LOCKED 0 false
  { s with fab := { s.fab with ftSamples := [], ftBad := [], ftGood := 0, ftLast := none, iAcc := 0 } }

/-- TICK_PHASE returns to 0 at the next tick boundary, where it is not 0 already (R48, R49). -/
def State.phaseZero (s : State) : State := { s with phasePend := if s.rg TIME.TICK_PHASE 0 = 0 then none else some 0 }

/-- FT is DT, and the tick DT >> 10 from the next tick boundary: on the root and on a device that is no member (R48, R49, R71). -/
def State.ftToDT (s : State) : State :=
  ((s.ftUnlock.rs FAB.FAB_OFFSET 0 0).rs FAB.FAB_RATE 0 rateOne).phaseZero

/-- FT starts again: as DT, or under the mapping in force until it locks to another root. -/
def State.ftRestart (s : State) (toDT : Bool) : State := if toDT then s.ftToDT else s.ftUnlock

/-- A change of MSTATE sets MEMBERSHIP; a device that is no member any more has FT = DT (R71, R380). -/
def State.setMState (s : State) (m : Nat) : State :=
  if s.rg FAB.MSTATE 0 = m then s
  else
    let n := (s.rs FAB.MSTATE 0 m).irqSet fabPage 8
    if s.rg FAB.MSTATE 0 = 2 then n.ftToDT else n

/-- A change of the device's own number sets NUM_CHANGED. -/
def State.setDevNum (s : State) (n : Nat) : State :=
  let s := { s with fab := { s.fab with numOk := true } }
  if s.devNum = n then s else (s.rs FAB.DEV_NUM 0 n).irqSet fabPage 9

/-- Numbers that other members are known to hold: those with a route, and the neighbours'. -/
def State.numsTaken (s : State) : List Nat :=
  ((List.range 64).filter fun d => s.on FAB.REACHABLE 0 d) ++
    (s.upPorts.filter fun p => s.on PST.NBR_VALID p).map fun p => s.rg PST.NBR_DEV p

/-- The lowest free number. -/
def State.freeNum (s : State) : Nat := ((List.range 64).find? fun d => !s.numsTaken.contains d).getD 0

/-- Adopt a root: the pinned one with the lowest UID, else the lowest UID. -/
def State.adoptRoot (s : State) (uid dev : Nat) (pin : Bool) : State :=
  let cur := s.rg FAB.ROOT_UID 0
  let better := (pin && !s.fab.rootPin) || (pin == s.fab.rootPin && decide (uid < cur))
  if better then
    let s := { (s.rs FAB.ROOT_UID 0 uid).rs FAB.ROOT_DEV 0 dev with fab := { s.fab with rootPin := pin } }
    let me := uid == s.rg FAB.UID 0
    (s.rb FAB.IS_ROOT 0 me).ftRestart me
  else if uid = cur then s.rs FAB.ROOT_DEV 0 dev else s

/-- Set the offset of FT, in whole ns. -/
def State.setFabOffset (s : State) (ns : Int) : State := s.rs FAB.FAB_OFFSET 0 (unsigned 128 (ns * 2 ^ 32))

/-- FT_MODE_ACTIVE follows the root's FT_MODE; a change starts the lock of FT again (R391). SHARED holds FAB_RATE at 1.0 and the offset
in whole ns, of the FT of this moment (assumption 147); in INDEPENDENT TICK_PHASE stays 0 (R73, R392). -/
def State.setFtMode (s : State) (shared : Bool) : State :=
  if s.on FAB.FT_MODE_ACTIVE 0 = shared then s
  else
    let n := (s.rb FAB.FT_MODE_ACTIVE 0 shared).ftUnlock
    if shared then (n.setFabOffset ((s.ft s.dt : Int) - s.dt)).rs FAB.FAB_RATE 0 rateOne else n.phaseZero

/-- A root follows its own FT_MODE (R391). -/
def State.rootMode (s : State) : State := if s.on FAB.IS_ROOT 0 then s.setFtMode (s.on FAB.FT_MODE 0) else s

/-- This device takes itself as root until it sees a better one. -/
def State.selfRoot (s : State) : State :=
  let pin := s.on FAB.PIN_ROOT 0
  let s := { (s.rs FAB.ROOT_UID 0 (s.rg FAB.UID 0)).rs FAB.ROOT_DEV 0 s.devNum with fab := { s.fab with rootPin := pin } }
  ((s.rb FAB.IS_ROOT 0 true).ftRestart true).rootMode

/-- A device whose ports start to train knows itself as root when it knows no other. -/
def State.rootInit (s : State) : State := if !s.on FAB.IS_ROOT 0 && s.rg FAB.ROOT_UID 0 == 0 then s.selfRoot else s

/-- A device that is not a member uses its pinned number or 0, and its FT is its DT (R71, R379, R380). -/
def State.isolate (s : State) : State :=
  let s := s.setMState 0
  let s := if s.on FAB.PIN_NUM 0 then s else
    let z := s.setDevNum 0
    { z with fab := { z.fab with numOk := false } }
  s.selfRoot

/-- DISCOVERING with a number and a route to the root becomes MEMBER (R380); a root without a number takes the lowest free one. -/
def State.memberCheck (s : State) : State :=
  let root := s.on FAB.IS_ROOT 0
  let s := if s.rg FAB.MSTATE 0 == 1 && root && !s.fab.numOk then
      let n := s.freeNum
      (s.setDevNum n).rs FAB.ROOT_DEV 0 n else s
  if s.rg FAB.MSTATE 0 == 1 && s.fab.numOk && (root || s.on FAB.REACHABLE 0 (s.rg FAB.ROOT_DEV 0)) then s.setMState 2 else s

/-- REFUSED ends when no UP neighbour holds this device's pinned number any longer (R380). -/
def State.refuseCheck (s : State) : State :=
  if s.rg FAB.MSTATE 0 == 3 && !(s.upPorts.any fun p => s.on PST.NBR_VALID p && s.rg PST.NBR_DEV p == s.devNum) then s.setMState 1
  else s

/-! ## Advertisements (R381) -/

/-- The device's own ROUTE advertisement. -/
def State.ownAdv (s : State) : List Nat :=
  let flags := (if s.on HUB.REPLACE_REQUEST 0 then 256 else 0) + (if s.on FAB.IS_ROOT 0 then 512 else 0)
  (s.devNum ||| flags ||| (s.fab.advSeq % 2 ^ 32) <<< 32) ::
    (List.range 6).map fun p => s.rg PST.NBR_DEV p ||| (if s.linkUp p then 64 else 0)

/-- A member floods its advertisement on every UP port. -/
def State.floodOwn (s : State) : State :=
  if s.rg FAB.MSTATE 0 != 2 then s
  else
    let s := { s with fab := { s.fab with advSeq := s.fab.advSeq + 1 } }
    s.upPorts.foldl (fun s p => s.pisteSend p 5 s.ownAdv) s

/-- The link state of the device has changed. -/
def State.linkChanged (s : State) : State := ({ s with fab := { s.fab with dirty := true } }).floodOwn

/-! ## Ports going down and up (R375, R382) -/

/-- Spikes lost in a retry buffer. -/
def lostSpikes (l : List (Nat × Nat × List Nat)) : Nat :=
  (l.map fun e => if e.2.1 = 1 then bitsAt (e.2.2.getD 0 0) 52 3 else 0).sum

/-- The link of a port starts anew: no credit is owed for what it received before, and the spikes received stay. -/
def State.linkFresh (s : State) (p : Nat) : State :=
  let rx := (s.pp p).rx.map fun m => { m with src := none }
  let s := s.upPp p fun _ => { PPort.init with rx := rx }
  let s := (List.range 6).foldl (fun s q =>
    if (s.pp q).wait.isEmpty then s
    else s.upPp q fun x => { x with wait := x.wait.map fun m => { m with src := m.src.filter fun b => b.1 != p } }) s
  s.pisteStalls p

/-- A port goes DOWN: its retry buffer is discarded; messages that waited for it leave by the alternate; it retrains by itself
unless it is fenced or disabled. -/
def State.portDown (s : State) (p : Nat) : State :=
  if s.rg PST.LINK_STATE p = 0 ∨ s.rg PST.LINK_STATE p = 3 then s
  else
    let up := s.linkUp p
    let x := s.pp p
    let next := if s.pisteFenced p then 3 else if s.on (Hdr.ENABLE .pst) p && !s.asleep then 1 else 0
    let s := (s.linkFresh p).rs PST.LINK_STATE p next
    if !up then s
    else
      let s := ((s.inc FAB.LINK_LOSS_DROPS 0 (lostSpikes x.retry)).inc PST.LINK_DOWNS p).irqSet (pstPage p) 8
      let s := (x.wait.filter fun m => m.buf.isSome).foldl (fun s m => s.sendRouted m.ty m.body (m.src.filter fun b => b.1 != p)) s
      let s := if s.upPorts.isEmpty then s.isolate else s.refuseCheck
      s.linkChanged

/-- A write of a PST page's CTRL: ENABLE starts training, its clearing takes the port DOWN. -/
def State.pstCtrl (s : State) (p : Nat) (v : Word) : State :=
  let en := (Hdr.ENABLE .pst).of v != 0
  let s := s.rb (Hdr.ENABLE .pst) p en
  if en then (if s.rg PST.LINK_STATE p = 0 && !s.pisteFenced p && !s.asleep then (s.rs PST.LINK_STATE p 1).rootInit else s)
  else (s.portDown p).rs PST.LINK_STATE p (if s.pisteFenced p then 3 else 0)

/-- A port has trained and exchanged HELLO (R375). -/
def State.portUp (s : State) (p : Nat) : State :=
  if s.rg PST.LINK_STATE p != 1 || !(s.pp p).hello || s.pisteFenced p || !s.clkGood (pstPage p) then s
  else
    let s := ((s.rs PST.LINK_STATE p 2).irqSet (pstPage p) 9).upPp p fun x => { x with lastGood := s.dt }
    let s := if s.rg FAB.MSTATE 0 = 0 then s.rootInit.setMState 1 else s
    s.memberCheck.linkChanged

/-- No good flit for more than LOS_NS. -/
def State.losTimeout (s : State) (p : Nat) : State :=
  if s.linkUp p && decide ((s.pp p).lastGood + s.rg PST.LOS_NS p < s.dt) then s.portDown p else s

/-! ## The receiver (R373, R374, R377) -/

/-- Is SEQ `a` at or before `b`, modulo 1,024? -/
def seqLe (a b : Nat) : Bool := decide ((b + 1024 - a) % 1024 < 512)

/-- The header of a good flit: liveness, ACK, four flits of credit, NAK; what waits goes on (R373, R374). -/
def State.rxHeader (s : State) (p : Nat) (h : PHdr) : State :=
  let s := (s.inc PST.FLITS_RX p).upPp p fun x =>
    { x with lastGood := s.dt, retry := x.retry.filter fun e => !seqLe e.1 h.ack,
             out := if h.cv then Tab.put 0 x.out (h.cclass * 8 + h.chop) (Tab.get 0 x.out (h.cclass * 8 + h.chop) - 4) else x.out }
  let s := if h.nak then (s.pp p).retry.foldl (fun s e => s.pisteEmit p e.1 e.2.1 e.2.2) s else s
  s.pistePump p (s.pp p).wait.length

/-- A sequenced flit with a good CRC: accepted only as the next SEQ; one that had failed before was transient. A repeat of a flit
already accepted is discarded; a gap in SEQ owes a NAK. -/
def State.rxSeq (s : State) (p : Nat) (h : PHdr) (f : State → State) : State :=
  if s.rg PST.LINK_STATE p = 0 ∨ s.rg PST.LINK_STATE p = 3 then s
  else
    let s := s.rxHeader p h
    let x := s.pp p
    if h.seq.val = x.rxSeq then
      let s := s.upPp p fun x => { x with rxSeq := (x.rxSeq + 1) % 1024, failed := x.failed.filter fun n => n != h.seq.val }
      let s := if x.failed.contains h.seq.val then (s.logFault (pstPage p) false 5 h.seq).inc PST.RETRIES p else s
      (f s).pisteNull p
    else if seqLe h.seq.val x.rxSeq then s.pisteNull p
    else
      (s.upPp p fun x => { x with nak := true, failed := if x.failed.contains x.rxSeq then x.failed else x.rxSeq :: x.failed }).pisteNull p

/-- A routed flit takes the buffer of its class and HOP, which returns its credit once the flit is consumed or forwarded (R377). -/
def State.rxRouted (s : State) (p : Nat) (h : PHdr) (ty cls : Nat) (body : List Nat)
    (f : Option (Nat × Nat × Nat) → State → State) : State :=
  s.rxSeq p h (f (some (p, cls, msgHop ty body)))

/-- A flit fails its CRC; the same SEQ failing on its resend is lasting and fences the port (R374). -/
def State.crcFail (s : State) (p seq : Nat) : State :=
  if s.rg PST.LINK_STATE p = 0 ∨ s.rg PST.LINK_STATE p = 3 then s
  else
    let s := s.inc PST.CRC_ERR p
    if (s.pp p).failed.contains seq then
      let s := s.lastingFault (.piste p) (pstPage p) 5 seq
      s.portDown p
    else (s.upPp p fun x => { x with nak := true, failed := seq :: x.failed }).pisteNull p

/-- A flit of a TYPE that no message has (R376). -/
def State.badType (s : State) (p : Nat) (h : PHdr) : State := s.rxSeq p h fun s => s.inc PST.BAD_TYPE p

/-! ## HELLO (R376, R378–R380) -/

/-- A bit of REPLACE_PEERS. -/
def State.replacePeer (s : State) (d : Nat) (b : Bool) : State :=
  let m := s.rg FAB.REPLACE_PEERS 0
  let s' := s.rs FAB.REPLACE_PEERS 0 (setBit m d b)
  if b && !bit m d then s'.irqSet fabPage 13 else s'

/-- A HELLO's neighbour fields, and the recovery of a device that comes back (R377, R388). -/
def State.helloNbr (s : State) (p : Nat) (w : List Nat) : State :=
  let w1 := w.getD 1 0
  let s := (((s.rs PST.NBR_UID p (w.getD 0 0)).rs PST.NBR_DEV p (bitsAt w1 0 6)).rb PST.NBR_VALID p (w1.testBit 6)).rs PST.NBR_PORT p
    (bitsAt w1 11 3)
  let s := s.upPp p fun x => { x with hello := true }
  if w1.testBit 6 then s.replacePeer (bitsAt w1 0 6) (w1.testBit 9) else s

/-- A HELLO's root fields: adopted from a root this member reaches, or before it is a member (R378); FT_MODE follows the root. -/
def State.helloRoot (s : State) (w : List Nat) : State :=
  let w1 := w.getD 1 0
  let rd := bitsAt (w.getD 3 0) 0 6
  let near := s.rg FAB.MSTATE 0 != 2 || (w1.testBit 6 && rd == bitsAt w1 0 6) || s.on FAB.REACHABLE 0 rd
  let s := if near then s.rootInit.adoptRoot (w.getD 2 0) rd (w1.testBit 8) else s
  if w.getD 2 0 = s.rg FAB.ROOT_UID 0 && !s.on FAB.IS_ROOT 0 then s.setFtMode (w1.testBit 10) else s

/-- A HELLO: the neighbour, its root, the number that the root has granted to this device. -/
def State.helloIn (s : State) (p : Nat) (w : List Nat) (grant : Option Nat) : State :=
  let w1 := w.getD 1 0
  let dev := bitsAt w1 0 6
  let valid := w1.testBit 6
  let uid := w.getD 0 0
  let known := s.on PST.NBR_VALID p && s.rg PST.NBR_DEV p == dev && s.rg PST.NBR_UID p == uid
  let pair := valid && (s.upPorts.any fun q => q != p && s.on PST.NBR_VALID q && s.rg PST.NBR_DEV q == dev && s.rg PST.NBR_UID q != uid)
  let clash := valid && s.on FAB.PIN_NUM 0 && dev == s.devNum && uid != s.rg FAB.UID 0
  let s := (s.helloNbr p w).helloRoot w
  let s := if (clash || pair) && !known then s.inc FAB.DUP_NUM 0 else s
  if clash then
    if uid < s.rg FAB.UID 0 then s.setMState 3 else s
  else
    let s := if s.on FAB.PIN_NUM 0 then s else match grant with
      | some n => if s.rg FAB.MSTATE 0 = 1 ∨ s.rg FAB.MSTATE 0 = 2 then s.setDevNum n else s
      | none => s
    s.refuseCheck.memberCheck

/-- The device's HELLO on a port. -/
def State.helloWords (s : State) (p : Nat) : List Nat :=
  let b := fun (x : Bool) (i : Nat) => if x then 2 ^ i else 0
  [s.rg FAB.UID 0,
   s.devNum + b s.fab.numOk 6 + b (s.on FAB.IS_ROOT 0) 7 + b s.fab.rootPin 8 + b (s.on HUB.REPLACE_REQUEST 0) 9 +
     b (s.on FAB.FT_MODE_ACTIVE 0) 10 + p * 2048,
   s.rg FAB.ROOT_UID 0, s.rg FAB.ROOT_DEV 0]

/-- Every 100 µs a HELLO is sent on every UP or training port. -/
def State.helloTimer (s : State) : State :=
  ((List.range 6).filter fun p => s.rg PST.LINK_STATE p == 1 || s.rg PST.LINK_STATE p == 2).foldl
    (fun s p => s.pisteSend p 4 (s.helloWords p)) s

/-! ## ROUTE (R381) -/

/-- A ROUTE advertisement: kept if newer, and forwarded on every UP port but the one it came from. -/
def State.routeIn (s : State) (p : Nat) (w : List Nat) : State :=
  let w0 := w.getD 0 0
  let o := bitsAt w0 0 6
  let seq := bitsAt w0 32 32
  let newer := match Tab.get none s.fab.advs o with | some a => decide (a.seq < seq) | none => true
  if o = s.devNum && s.fab.numOk || !newer then s
  else
    let a : Adv := ⟨seq, bitsAt w0 8 8, (List.range 6).map fun i => w.getD (i + 1) 0⟩
    let s := { s with fab := { s.fab with advs := Tab.put none s.fab.advs o (some a), dirty := true } }
    let s := s.replacePeer o (a.flags.testBit 0)
    if s.mayRoute then (s.upPorts.filter fun q => q != p).foldl (fun s q => s.pisteSend q 5 w) s else s

/-- The devices that device `d` advertises an UP link to. -/
def State.nbrsOf (s : State) (d : Nat) : List Nat :=
  match Tab.get none s.fab.advs d with
  | some a => (a.ports.filter fun x => x.testBit 6).map fun x => x % 64
  | none => []

/-- Distances in hops from a device, up to `n`, never through this device: (device, distance), nearest first. -/
def State.dists (s : State) (n : Nat) (d : Nat) : List (Nat × Nat) :=
  let step := fun (acc : List (Nat × Nat)) (k : Nat) =>
    let front := (acc.filter fun e => e.2 = k).map Prod.fst
    let new := ((front.flatMap s.nbrsOf).eraseDups).filter fun x => x != s.devNum && !acc.any fun e => e.1 == x
    acc ++ new.map fun x => (x, k + 1)
  (List.range n).foldl step [(d, 0)]

/-- The first hops to a destination: (length, next-hop device, port), best first (R381). -/
def State.paths (s : State) (ds : List (Nat × List (Nat × Nat))) (dest : Nat) : List (Nat × Nat × Nat) :=
  let l := ds.filterMap fun e =>
    (e.2.find? fun x => x.1 == dest).map fun x => (x.2 + 1, s.rg PST.NBR_DEV e.1, e.1)
  sortBy (fun a b => decide (a.1 < b.1 ∨ (a.1 = b.1 ∧ (a.2.1 < b.2.1 ∨ (a.2.1 = b.2.1 ∧ a.2.2 < b.2.2))))) l

/-- The route entry of a destination. -/
def State.routeEntry (s : State) (ds : List (Nat × List (Nat × Nat))) (dest : Nat) : State :=
  let pin := s.on FAB.PINNED 0 dest
  let all := if dest = s.devNum then [] else s.paths ds dest
  let byPort := fun p => all.find? fun e => e.2.2 == p
  let pr := if pin then byPort (s.rg FAB.PRIMARY 0 dest) else all.head?
  let al := if pin then byPort (s.rg FAB.ALT 0 dest) else match pr with
    | some e => all.find? fun x => x.2.2 != e.2.2
    | none => none
  let put := fun (s : State) (fp fv fh : Fld) (e : Option (Nat × Nat × Nat)) =>
    match e with
    | some e => ((if pin then s else s.rs fp 0 e.2.2 dest).rb fv 0 true dest).rs fh 0 e.1 dest
    | none => (s.rb fv 0 false dest).rs fh 0 0 dest
  let n := put (put s FAB.PRIMARY FAB.P_VALID FAB.HOPS_P pr) FAB.ALT FAB.A_VALID FAB.HOPS_A al
  let n := n.rb FAB.REACHABLE 0 (pr.isSome || al.isSome) dest
  let same := [FAB.PRIMARY, FAB.P_VALID, FAB.HOPS_P, FAB.ALT, FAB.A_VALID, FAB.HOPS_A, FAB.REACHABLE].all fun f =>
    n.rg f 0 dest == s.rg f 0 dest
  if same then n else (n.inc FAB.ROUTE_CHANGES 0).irqSet fabPage 10

/-- Recompute the route table, MEMBERS and the parent port; a member whose root has no route any more takes itself as root. -/
def State.recompute (s : State) : State :=
  if !s.fab.dirty || s.host.fwDown then s
  else
    let ds := (s.upPorts.filter fun p => s.on PST.NBR_VALID p).map fun p => (p, s.dists 6 (s.rg PST.NBR_DEV p))
    let s := (List.range 64).foldl (fun s d => s.routeEntry ds d) { s with fab := { s.fab with dirty := false } }
    let n := ((List.range 64).filter fun d => s.on FAB.REACHABLE 0 d).length
    let s := if s.rg FAB.MSTATE 0 == 2 && !s.on FAB.IS_ROOT 0 && !s.on FAB.REACHABLE 0 (s.rg FAB.ROOT_DEV 0) then s.selfRoot else s
    let root := s.rg FAB.ROOT_DEV 0
    let s := s.rs FAB.MEMBERS 0 (n + (if s.rg FAB.MSTATE 0 = 2 then 1 else 0))
    let s := (s.rs FAB.PARENT_PORT 0 (s.rg FAB.PRIMARY 0 root)).rb FAB.PARENT_VALID 0
      (!s.on FAB.IS_ROOT 0 && s.on FAB.P_VALID 0 root)
    s.memberCheck

/-! ## Spikes (R383–R385) -/

/-- Send an open flit. -/
def State.sendOpen (s : State) (f : OpenFlit) : State :=
  let w0 := f.ft35 ||| f.group <<< 35 ||| f.cls <<< 51 ||| f.spikes.length <<< 52 ||| f.dest <<< 55
  let s := { s with fab := { s.fab with openF := s.fab.openF.filter fun g => g.dest != f.dest } }
  (s.inc FAB.EVT_FLITS_TX 0).sendRouted 1 (w0 :: f.spikes)

/-- An open flit takes its place, and is sent when it is full or packing is off. -/
def State.putOpen (s : State) (f : OpenFlit) : State :=
  let s := { s with fab := { s.fab with openF := (s.fab.openF.filter fun g => g.dest != f.dest) ++ [f] } }
  if f.spikes.length = 6 ∨ s.rg FAB.PACK_NS 0 = 0 then s.sendOpen f else s

/-- One copy joins the open flit of its destination, which is sent first when the key differs (R384). -/
def State.joinOpen (s : State) (dest ft35 group cls spike : Nat) : State :=
  let s := s.inc FAB.SPIKES_TX 0
  let new : OpenFlit := ⟨dest, ft35, group, cls, [spike], s.dt⟩
  match s.fab.openF.find? fun f => f.dest == dest with
  | none => s.putOpen new
  | some f =>
    if f.ft35 ≠ ft35 ∨ f.group ≠ group ∨ f.cls ≠ cls then (s.sendOpen f).putOpen new
    else s.putOpen ⟨dest, ft35, group, cls, f.spikes ++ [spike], if f.spikes.isEmpty then s.dt else f.since⟩

/-- The egress takes a spike copy that a source cluster router passed to it; none while a port's egress buffer is full (R387). -/
def State.pisteEgress (s : State) : State :=
  match s.takeUnit fun f => f.toHub 2 2 && !(List.range 6).any s.egressFull with
  | none => s
  | some (f, s) =>
    let w0 := f.words.getD 0 0
    let w1 := f.words.getD 1 0
    let group := bitsAt w1 32 16
    match s.fgt group with
    | none => s.inc FAB.FGT_MISS 0
    | some e =>
      let ft35 := st35 (s.ft (rebuild s.dt (st35 w0)))
      let devs := (List.range 64).filter fun d => bit (s.rg FAB.FGT_DEVMASK 0 e) d && d != s.devNum
      devs.foldl (fun s d => s.joinOpen d ft35 group (bitsAt w1 48 1) (bitsAt w1 0 32 ||| (w0 >>> 35) <<< 32)) s

/-- PACK_NS after its first spike an open flit is sent. -/
def State.packTimeout (s : State) : State :=
  (s.fab.openF.filter fun f => decide (f.since + s.rg FAB.PACK_NS 0 ≤ s.dt)).foldl (fun s f => s.sendOpen f) s

/-- An EVENT flit: its spikes for this device are delivered as the target clusters give SPK credit (R385, R387). -/
def State.eventIn (s : State) (p : Nat) (w : List Nat) (src : Option (Nat × Nat × Nat)) : State :=
  let w0 := w.getD 0 0
  let n := bitsAt w0 52 3
  if n = 0 ∨ n = 7 then (s.inc PST.BAD_TYPE p).credited src
  else if bitsAt w0 55 6 ≠ s.devNum then s.forward 1 w src
  else (s.upPp p fun x => { x with rx := x.rx ++ [⟨1, w.take (n + 1), src⟩] }).ingressGo

/-! ## TENSOR transfers (R388) -/

/-- Send a transfer to a device on the primary route with a fresh TID. -/
def State.sendTransfer (s : State) (dest : Nat) (data : List Byte) : State :=
  let tid := s.fab.tid % 65536
  let s := { s with fab := { s.fab with tid := tid + 1 } }
  let n := (data.length + 47) / 48
  (List.range n).foldl (fun s i =>
    let d := slice data (48 * i) 48
    let d := d ++ List.replicate (48 - d.length) 0
    let w0 := dest ||| s.devNum <<< 9 ||| (if i + 1 = n then 1 <<< 15 else 0) ||| tid <<< 16 ||| (48 * i) <<< 32
    s.sendRouted 2 (w0 :: (List.range 6).map fun j => leNat (slice d (8 * j) 8))) s

/-- A report goes to each of the group's peers in ascending order. -/
def State.reportPeers (s : State) (g n : Nat) (report : List Byte) : State :=
  let hdr := leBytes 1 s.devNum ++ leBytes 1 g ++ leBytes 1 1 ++ leBytes 1 0 ++ leBytes 4 report.length ++ leBytes 8 n
  ((List.range 64).filter fun d => bit (s.rg (FAB.REPORT_PEERS.nth g) 0) d && d != s.devNum).foldl
    (fun s d => s.sendTransfer d (hdr ++ report)) s

/-- Write bytes into the inbox ring, wrapping. -/
def State.inboxPut (s : State) (b : List Byte) : State :=
  let base := s.rg FAB.INBOX_BASE 0
  let size := 2 ^ s.rg FAB.INBOX_SIZE_LOG 0
  let at_ := s.rg FAB.INBOX_PROD 0 % size
  { s with ddr4 := (Mem.wrBytes (Mem.wrBytes s.ddr4 (base + at_) (b.take (size - at_))) base (b.drop (size - at_))) }

/-- A complete transfer: its record goes into the inbox, or is dropped and counted. -/
def State.transferDone (s : State) (data : List Byte) : State :=
  let total := 16 + leNat (slice data 4 4)
  if data.length < total then s.inc FAB.TENSOR_DISCARD 0
  else
    let rec_ := pad64 (data.take total)
    let used := (s.rg FAB.INBOX_PROD 0 + 2 ^ 32 - s.rg FAB.INBOX_CONS 0) % 2 ^ 32
    if !s.on FAB.INBOX_EN 0 || decide (2 ^ s.rg FAB.INBOX_SIZE_LOG 0 < used + rec_.length) then s.inc FAB.INBOX_DROPS 0
    else ((s.inboxPut rec_).inc FAB.INBOX_PROD 0 rec_.length).irqSet fabPage 12

/-- Change the transfers being assembled. -/
def State.setXfers (s : State) (l : List Xfer) : State := { s with fab := { s.fab with xfers := l } }

/-- A TENSOR flit for this device; port 6 marks a transfer already discarded whose last flit has not come. -/
def State.tensorHere (s : State) (p : Nat) (w : List Nat) : State :=
  let w0 := w.getD 0 0
  let src := bitsAt w0 9 6
  let tid := bitsAt w0 16 16
  let last := w0.testBit 15
  let off := bitsAt w0 32 32
  let data := (List.range 6).flatMap fun i => leBytes 8 (w.getD (i + 1) 0)
  let rest := s.fab.xfers.filter fun x => !(x.src == src && x.tid == tid)
  let x := (s.fab.xfers.find? fun x => x.src == src && x.tid == tid).getD ⟨src, tid, p, []⟩
  if x.port = 6 then s.setXfers (if last then rest else s.fab.xfers)
  else if x.port ≠ p ∨ off ≠ x.data.length then
    (s.setXfers (if last then rest else ⟨src, tid, 6, []⟩ :: rest)).inc FAB.TENSOR_DISCARD 0
  else if last then (s.setXfers rest).transferDone (x.data ++ data)
  else s.setXfers ({ x with data := x.data ++ data } :: rest)

/-- A TENSOR flit that arrives on port `p`. -/
def State.tensorIn (s : State) (p : Nat) (w : List Nat) (src : Option (Nat × Nat × Nat)) : State :=
  if bitsAt (w.getD 0 0) 0 6 ≠ s.devNum then s.forward 2 w src else (s.tensorHere p w).credited src

/-! ## Remote register access (R389) -/

/-- The word 0 of an MGMT message. -/
def mgmtWord (dest src addr : Nat) (write rsp denied : Bool) : Nat :=
  let b := fun (x : Bool) (i : Nat) => if x then 1 <<< i else 0
  dest ||| src <<< 9 ||| 1 <<< 15 ||| (addr ||| b write 26 ||| b rsp 27 ||| b denied 28) <<< 32

/-- A write of RMT_CMD. -/
def State.rmtCmd (s : State) (v : Word) : State :=
  let op := FAB.RMT_CMD.of v
  if s.rg FAB.RMT_STATUS 0 = 1 ∨ op = 0 ∨ op = 3 then s.errParam fabPage
  else
    let s := { (s.rs FAB.RMT_STATUS 0 1).rb FAB.RMT_DENIED 0 false with fab := { s.fab with rmtAt := some s.dt, rmtRead := op == 1 } }
    let w0 := mgmtWord (s.rg FAB.RMT_DEV 0) s.devNum (s.rg FAB.RMT_ADDR 0) (op == 2) false false
    s.sendRouted 6 [w0, if op = 2 then s.rg FAB.RMT_DATA 0 else 0]

/-- The response to the access in progress. -/
def State.rmtResponse (s : State) (w : List Nat) : State :=
  if s.rg FAB.RMT_STATUS 0 ≠ 1 then s
  else
    let w0 := w.getD 0 0
    let s := { (s.rs FAB.RMT_STATUS 0 2).rb FAB.RMT_DENIED 0 (w0.testBit 60) with fab := { s.fab with rmtAt := none } }
    if w0.testBit 58 then s else s.rs FAB.RMT_DATA 0 (w.getD 1 0)

/-- No response within 100 µs: FAILED, and a read's data reads 0. -/
def State.rmtTimeout (s : State) : State :=
  match s.fab.rmtAt with
  | some a =>
    if a + 100000 ≤ s.dt then
      let s := { s.rs FAB.RMT_STATUS 0 3 with fab := { s.fab with rmtAt := none } }
      if s.fab.rmtRead then s.rs FAB.RMT_DATA 0 0 else s
    else s
  | none => s

/-! ## Fabric time (R390–R393) -/

/-- Every UP port sends a TIME request with its send stamp. -/
def State.timeRequests (s : State) : State :=
  s.upPorts.foldl (fun s p => (s.pisteSend p 3 [s.dt]).upPp p fun x => { x with t1 := some s.dt }) s

/-- A TIME request is answered within 10 µs: the response's send stamp is a free value in that window. -/
def State.timeAnswer (s : State) (p : Nat) : State :=
  let (v, s) := s.takeFree
  let t3 := s.dt + v % 10001
  s.pisteSend p 3 [s.dt, t3, s.ft t3]

/-- A step of FT. -/
def State.ftStep (s : State) : State := (s.inc FAB.FT_STEPS 0).irqSet fabPage 11

/-- Lock FT to the mean of eight offset samples, rounded to the nearest ns, ties up; TICK_PHASE follows (R391, R73). -/
def State.ftLock (s : State) (l : List Int) : State :=
  let m := floorDiv (2 * l.sum + l.length) (2 * l.length)
  let s := (s.setFabOffset m).rs FAB.FAB_RATE 0 rateOne
  let s := { s.rb FAB.FT_LOCKED 0 true with phasePend := some (m % 1024).toNat }
  { s with fab := { s.fab with lockAt := some s.dt, ftSamples := [], ftBad := [] } }

/-- A sample in the SHARED mode: `e`, and the offset it implies. -/
def State.ftShared (s : State) (e off : Int) : State :=
  if !s.on FAB.FT_LOCKED 0 then
    let l := off :: s.fab.ftSamples
    if l.length = 8 then s.ftLock l else { s with fab := { s.fab with ftSamples := l } }
  else
    let l := if s.rg FAB.FT_TOL 0 < e.natAbs then off :: s.fab.ftBad else []
    if l.length = 8 then
      let quick := match s.fab.lockAt with | some a => decide (s.dt ≤ a + 1000000000) | none => false
      let s := (s.ftLock l).ftStep
      if quick then s.rb FAB.RATE_MISMATCH 0 true else s
    else { s with fab := { s.fab with ftBad := l } }

/-- A sample in the INDEPENDENT mode (R392): e takes the place of o in R354's arithmetic. -/
def State.ftServo (s : State) (e : Int) : State :=
  let f := s.fab
  let (v, s) := s.takeFree
  let off := signed 128 (s.rg FAB.FAB_OFFSET 0)
  let s :=
    if 100000 < e.natAbs then (s.rs FAB.FAB_OFFSET 0 (unsigned 128 (off - e * 2 ^ 32))).ftStep
    else
      let i := satS 48 (f.iAcc + e)
      let n := match f.ftLast with | some a => s.dt - a | none => v + 1
      let r := servoRate (e * s.rg FAB.FT_KP 0 + i * s.rg FAB.FT_KI 0) n v
      let o' := off + (s.dt : Int) * ((s.rg FAB.FAB_RATE 0 : Int) - r)
      { (s.rs FAB.FAB_RATE 0 r).rs FAB.FAB_OFFSET 0 (unsigned 128 o') with fab := { s.fab with iAcc := i } }
  let g := if e.natAbs ≤ s.rg FAB.FT_TOL 0 then f.ftGood + 1 else 0
  let s := { s with fab := { s.fab with ftGood := g, ftLast := some s.dt } }
  if 8 ≤ g then s.rb FAB.FT_LOCKED 0 true else s

/-- A TIME response on a port: the link delay, and a sample from the parent. -/
def State.timeResponse (s : State) (p : Nat) (w : List Nat) : State :=
  match (s.pp p).t1 with
  | none => s
  | some t1 =>
    let t2 : Int := w.getD 0 0
    let t3 : Int := w.getD 1 0
    let d := Int.tdiv (((s.dt : Int) - t1) - (t3 - t2)) 2
    let s := (s.upPp p fun x => { x with t1 := none }).rs PST.LINK_DELAY p (unsigned 32 d)
    if !s.on FAB.PARENT_VALID 0 || s.rg FAB.PARENT_PORT 0 != p || s.rg FAB.MSTATE 0 != 2 then s
    else
      let ref : Int := (w.getD 2 0 : Int) + d + signed 32 (s.rg PST.ASYM_CORR p)
      let e := ref - s.ft s.dt
      let s := s.rs FAB.FT_ERR 0 (unsigned 32 (satS 32 e))
      if s.on FAB.FT_MODE_ACTIVE 0 then s.ftShared e (ref - s.dt) else s.ftServo e

/-! ## Register writes (R397, R398) -/

/-- A write of FGT_CLUSTERS commits the selected entry. -/
def State.fgtCommit (s : State) (v : Word) : State :=
  let e := s.rg FAB.FGT_INDEX 0
  let s := [FAB.FGT_TAG, FAB.FGT_VALID, FAB.FGT_DEVMASK].foldl (fun s f => s.rs f 0 (s.rg f 0 stageIdx) e) s
  s.rs FAB.FGT_CLUSTERS 0 (FAB.FGT_CLUSTERS.of v) e

/-- A write of the selected route entry: PINNED, and the ports while it is 1; the entry's other fields follow (R381). -/
def State.routePin (s : State) (v : Word) : State :=
  let e := s.rg FAB.RT_DEV 0
  let s := { s with fab := { s.fab with dirty := true } }
  let s := s.rs FAB.PINNED 0 (FAB.PINNED.of v) e
  if FAB.PINNED.of v = 1 then (s.rs FAB.PRIMARY 0 (FAB.PRIMARY.of v) e).rs FAB.ALT 0 (FAB.ALT.of v) e else s

/-- A write of INBOX_SIZE_LOG and INBOX_EN. -/
def State.inboxCtrl (s : State) (v : Word) : State :=
  let k := FAB.INBOX_SIZE_LOG.of v
  let was := s.on FAB.INBOX_EN 0
  if k < 16 ∨ 30 < k ∨ (was ∧ k ≠ s.rg FAB.INBOX_SIZE_LOG 0) then s.errParam fabPage
  else
    let s := (s.rs FAB.INBOX_SIZE_LOG 0 k).rs FAB.INBOX_EN 0 (FAB.INBOX_EN.of v)
    if s.on FAB.INBOX_EN 0 && !was then (s.rs FAB.INBOX_PROD 0 0).rs FAB.INBOX_CONS 0 0 else s

/-- A write of DEV_NUM_REQ (R379, R380). -/
def State.devNumReq (s : State) (v : Word) : State :=
  let n := FAB.REQ_NUM.of v
  let s := (s.rs FAB.REQ_NUM 0 n).rs FAB.REQ_VALID 0 (FAB.REQ_VALID.of v)
  let s := if s.rg FAB.MSTATE 0 = 3 then s.setMState 1 else s
  if s.on FAB.REQ_VALID 0 && s.on FAB.IS_ROOT 0 && !s.on FAB.PIN_NUM 0 && s.rg FAB.MSTATE 0 != 0 && !s.numsTaken.contains n then
    (s.setDevNum n).rs FAB.ROOT_DEV 0 n
  else s

/-! ## Idle and reset (R396) -/

/-- IDLE of a PST page: DOWN with its buffers empty. -/
def State.pstIdle (s : State) (p : Nat) : Bool :=
  (s.rg PST.LINK_STATE p == 0 || s.rg PST.LINK_STATE p == 3) && (s.pp p).retry.isEmpty && (s.pp p).wait.isEmpty &&
    (s.pp p).rx.isEmpty

/-- What a block reset of a PST page does beyond its fields: FENCED clears. -/
def State.pstReset (s : State) (p : Nat) : State :=
  ({ s with fenced := s.fenced.filter fun u => u != FUnit.piste p }).upPp p fun _ => PPort.init

/-- The fabric unit with its number at the pinned value or 0, and alone: no member, so its tick is DT >> 10 (R48). -/
def State.fabReset (s : State) (pinRoot pinNum : Bool) (dev : Nat) (shared : Bool) : State :=
  let s := { s with fab := Fab.init }.phaseZero
  let s := (((s.rs FAB.UID 0 Config.uid).rb FAB.PIN_ROOT 0 pinRoot).rb FAB.PIN_NUM 0 pinNum).rb FAB.FT_MODE 0 shared
  { s.rs FAB.DEV_NUM 0 (if pinNum then dev else 0) with fab := { Fab.init with numOk := pinNum } }

/-! ## Meanings -/

/-- PISTE_NULL (R373). -/
def execPisteNull (t : Nat) (p : Fin 6) (h : PHdr) (s : State) : Res :=
  let s := s.advance t
  .next (if s.rg PST.LINK_STATE p = 0 ∨ s.rg PST.LINK_STATE p = 3 then s else s.rxHeader p h)

/-- PISTE_EVENT (R385). -/
def execPisteEvent (t : Nat) (p : Fin 6) (h : PHdr) (w : List (BitVec 64)) (s : State) : Res :=
  let b := (List.range 7).map (bw w)
  .next ((s.advance t).rxRouted p h 1 0 b fun c s => s.eventIn p b c)

/-- TENSOR (R388). -/
def execTensor (t : Nat) (p : Fin 6) (h : PHdr) (w : List (BitVec 64)) (s : State) : Res :=
  let b := (List.range 7).map (bw w)
  .next ((s.advance t).rxRouted p h 2 1 b fun c s => s.tensorIn p b c)

/-- PISTE_TIME (R390). -/
def execPisteTime (t : Nat) (p : Fin 6) (h : PHdr) (rsp : Bool) (w : List (BitVec 64)) (s : State) : Res :=
  let b := (List.range 7).map (bw w)
  .next ((s.advance t).rxSeq p h fun s => if rsp then s.timeResponse p b else s.timeAnswer p)

/-- HELLO (R376). -/
def execHello (t : Nat) (p : Fin 6) (h : PHdr) (w : List (BitVec 64)) (grant : Option (Fin 64)) (s : State) : Res :=
  let b := (List.range 7).map (bw w)
  .next ((s.advance t).rxSeq p h fun s => s.helloIn p b (grant.map fun g => g.val))

/-- ROUTE (R381). -/
def execRoute (t : Nat) (p : Fin 6) (h : PHdr) (w : List (BitVec 64)) (s : State) : Res :=
  let b := (List.range 7).map (bw w)
  .next ((s.advance t).rxSeq p h fun s => s.routeIn p b)

/-- PISTE_BAD_TYPE (R376). -/
def execPisteBadType (t : Nat) (p : Fin 6) (h : PHdr) (s : State) : Res := .next ((s.advance t).badType p h)

/-- PISTE_CRC_FAIL (R374). -/
def execPisteCrcFail (t : Nat) (p : Fin 6) (seq : Fin 1024) (s : State) : Res := .next ((s.advance t).crcFail p seq)

/-- PORT_UP (R375). -/
def execPortUp (t : Nat) (p : Fin 6) (s : State) : Res := .next ((s.advance t).portUp p)

/-- LOS_TIMEOUT (R375). -/
def execLosTimeout (t : Nat) (p : Fin 6) (s : State) : Res := .next ((s.advance t).losTimeout p)

/-- HELLO_TIMER (R376). -/
def execHelloTimer (t : Nat) (s : State) : Res := .next (s.advance t).helloTimer

/-- ROUTE_TIMER (R381). -/
def execRouteTimer (t : Nat) (s : State) : Res := .next (s.advance t).floodOwn

/-- ROUTE_RECOMPUTE (R381). -/
def execRouteRecompute (t : Nat) (s : State) : Res := .next (s.advance t).recompute

/-- TIME_REQUEST_TIMER (R390). -/
def execTimeRequestTimer (t : Nat) (s : State) : Res := .next (s.advance t).timeRequests

/-- PISTE_EGRESS (R384). -/
def execPisteEgress (t : Nat) (s : State) : Res := .next (s.advance t).pisteEgress

/-- PACK_TIMEOUT (R384). -/
def execPackTimeout (t : Nat) (s : State) : Res := .next (s.advance t).packTimeout

/-- RMT_READ (R389). -/
def execRmtRead (t : Nat) (c : Req) (v : Word) (s : State) : Res := s.cmdWrite t c fabPage 0x10C fun s => s.rmtCmd v

/-- RMT_WRITE (R389). -/
def execRmtWrite (t : Nat) (c : Req) (v : Word) (s : State) : Res := s.cmdWrite t c fabPage 0x10C fun s => s.rmtCmd v

/-- RMT_TIMEOUT (R389). -/
def execRmtTimeout (t : Nat) (s : State) : Res := .next (s.advance t).rmtTimeout

/-- DEV_NUM_REQ_WRITE (R379). -/
def execDevNumReqWrite (t : Nat) (c : Req) (v : Word) (s : State) : Res := s.cmdWrite t c fabPage 0x04C fun s => s.devNumReq v

/-- FGT_CLUSTERS_WRITE (R398). -/
def execFgtClustersWrite (t : Nat) (c : Req) (v : Word) (s : State) : Res := s.cmdWrite t c fabPage 0x0B0 fun s => s.fgtCommit v

/-- INBOX_ENABLE (R398). -/
def execInboxEnable (t : Nat) (c : Req) (v : Word) (s : State) : Res := s.cmdWrite t c fabPage 0x0F0 fun s => s.inboxCtrl v

end Sys2Proof.Machine
end

