-- ==== Sys2Proof/Machine/Blocks.lean ====
section
/-!
DEFINITION. Block resets (R36, R408, R486 and the reset section of each chapter) and the loss and return of PLL locks (R409).
-/
namespace Sys2Proof.Machine
open Regs

/-! ## PAGE_CAPS (R36) -/

/-- BLK_RESET: 0 on the pages whose chapter says so, 1 on the others (assumption 70). -/
def PK.blkReset : PK → Bool
  | .time | .ingest | .dist | .clu | .mesh | .rstc | .opt | .pwr | .hub | .prot | .vault | .mgmt | .trace | .obs => false
  | _ => true

/-- FENCEABLE: the pages of the units of R433, and of the die links, which a link failure fences (R230). -/
def PK.fenceable : PK → Bool
  | .cg | .mxc | .clu | .die | .ucie | .ddr | .pst | .eth => true
  | _ => false

/-- HAS_DEGRADED: the CLU, DIE and HUB pages (R433) and the FG pages (R303); MESH reads 0 (R490). -/
def PK.hasDegraded : PK → Bool
  | .clu | .die | .hub | .fg => true
  | _ => false

/-- NUM_EVT: 4 on HUB and CG, 0 elsewhere. -/
def PK.numEvt : PK → Nat
  | .hub | .cg => 4
  | _ => 0

/-- BLK_IRQ: the page has interrupt bits from 8 on. -/
def PK.blkIrq : PK → Bool
  | .time | .mipi | .clu | .ldb | .mxc | .tok | .cg | .ucie | .stream | .jstr | .jrnl | .rfb | .rfbs | .fuse | .fg | .cal | .pcie
  | .hq | .eth | .ptp | .ptpd | .pst | .fab | .rstc | .opt | .clk | .pwr | .gov | .hub | .mgmt => true
  | _ => false

/-! ## IDLE -/

/-- A filter channel is stopped with no switch pending (R261). -/
def State.chanIdle (s : State) (ch : Nat) : Bool := !(s.chan ch).run && !(s.chan ch).pend

/-- A stream is disabled, its FIFO empty, none of its events in the distributor (R101), where events on the way from the decoder to
the distributor count as in it (assumption 141). -/
def State.streamIdle (s : State) (i : Nat) : Bool :=
  !s.on (Hdr.ENABLE .stream) i && (s.st i).fifo.isEmpty && (s.st i).wait.isEmpty && (s.st i).queue.isEmpty

/-- A stream's Journal is disabled and staged empty, and no replay reads it (R319). -/
def State.jstrIdle (s : State) (i : Nat) : Bool :=
  !s.on (Hdr.ENABLE .jstr) i && (s.jr i).part.isEmpty && (s.jr i).lines.isEmpty && (s.jr i).flight.isEmpty &&
    !(List.range 4).any fun ch => s.replaying ch && s.rg JCH.STREAM ch == i

/-- A Ledger bank has an empty queue, no read, no clear and no dirty line (R127). -/
def State.bankIdle (s : State) (k : Nat) : Bool :=
  (s.bank k).queue.isEmpty && (s.bank k).reqs.isEmpty && (s.bank k).clears.isEmpty && !(s.bank k).cache.any fun l => l.dirty

/-- No group is enabled. -/
def State.noGroup (s : State) : Bool := !(List.range 4).any s.groupOn

/-- IDLE of a page: a fenced unit's page counts as IDLE (R436). -/
def State.idle (s : State) (p : Page) : Bool :=
  s.pageFenced p ||
  match p.pk with
  | .ldb => s.bankIdle p.inst
  | .mxc => s.mxIdle p.inst
  | .tok => (s.tk p.inst).pend.isEmpty
  | .cg => (List.range 16).all fun j => s.coreIdle (16 * p.inst + j)
  | .clu => (s.router p.inst).wait.isEmpty && (s.router p.inst).escLevel == 0
  | .stream => s.streamIdle p.inst
  | .mipi => (List.range 36).all fun i => !s.on (Hdr.ENABLE .stream) i || (s.source i).1 != p.inst
  | .aer => (List.range 36).all fun i => !s.on (Hdr.ENABLE .stream) i || (s.source i).1 != 18 + p.inst
  | .dist => (List.range 36).all fun i => (s.st i).queue.isEmpty
  | .jstr => s.jstrIdle p.inst
  | .jrnl => (List.range 4).all (fun ch => !s.replaying ch) && (List.range 36).all fun i => !s.on (Hdr.ENABLE .jstr) i
  | .rfb => !s.on (Hdr.ENABLE .rfb) 0
  | .rfbs => (List.range 32).all fun r => s.chanIdle (32 * p.inst + r)
  | .fg => s.fgIdle p.inst
  | .fuse | .cal => s.noGroup
  | .hq => s.host.cmd.isNone
  | .ddr => (Tab.get [] s.ddrq p.inst).isEmpty
  | .eth => s.ethIdle p.inst
  | .ptpd => !s.on PTPD.DOM_EN p.inst
  | .lnch => s.lnchIdle p.inst
  | .pst => s.pstIdle p.inst
  | .fab => (List.range 6).all fun q => !s.on (Hdr.ENABLE .pst) q
  | _ => true

/-! ## The effect of a reset on a block -/

/-- Byte `n` of the option bytes in effect (R406). -/
def State.opt (s : State) (n : Nat) : Nat := bitsAt (s.rg (OPT.OPT_IN_USE.nth (n / 4)) 0) (8 * (n % 4)) 8

/-- Zero an SRAM range. -/
def State.zeroSram (s : State) (base size : Nat) : State :=
  { s with sram := Tab.keep (fun a => !(decide (base ≤ a ∧ a < base + size))) s.sram }

/-- A core group's cores are as after power-on; NT is the current tick (R158). -/
def State.groupReset (s : State) (g : Nat) (zero : Bool) : State :=
  (List.range 16).foldl (fun s j =>
    let n := 16 * g + j
    let s := s.resetPage .cgs n fun _ => false
    let s := s.upCore n fun c => { Core.init with nt := s.curTick, stepped := max c.stepped (s.closedTicks n) }
    if zero then s.zeroSram (coreBase n) 0x6000 else s) s

/-- The offsets of a page whose registers the model does not return: the error header (R36), the training result of a DDR4
channel, the loader's record on the HQ page, the state of the PCIe and die links (assumption 71). -/
def resetKeeps (pk : PK) (off : Nat) : Bool :=
  hdrKept off || (pk == .ddr && decide (0x040 ≤ off ∧ off < 0x054)) || (pk == .hq && decide (0x128 ≤ off ∧ off < 0x170)) ||
    ((pk == .pcie || pk == .ucie) && off == 0x040)

/-- A Piste port whose clock is lost: its buffers are gone, and it retrains once the clock is back, unless it is fenced or disabled
(R375, R409). -/
def State.pstLost (s : State) (p : Nat) : State :=
  ((s.upPp p fun _ => PPort.init).rs PST.LINK_STATE p
    (if s.pisteFenced p then 3 else if s.on (Hdr.ENABLE .pst) p && !s.asleep then 1 else 0)).ingressStall

/-- What lies behind the registers of a page returns to its reset state; `zero`: the reset also clears memory (a block reset,
not a lost lock, R409). -/
def State.blockState (s : State) (p : Page) (zero : Bool) : State :=
  match p.pk with
  | .ldb =>
    let s := s.upBank p.inst fun _ => Bank.init
    if zero then s.zeroSram (bankBase p.inst) 0x400000 else s
  | .mxc => if zero then s.mxReset p.inst else s.upMx p.inst fun _ => Mx.init
  | .tok => s.upTok p.inst fun _ => Tok.init
  | .cg => s.groupReset p.inst zero
  | .clu =>
    let here (x : Nat) : Bool := x / 36 == p.inst
    { s.upRouter p.inst (fun _ => Router.init) with
      rqueue := s.rqueue.keep (fun x => !here x), dcred := s.dcred.keep (fun x => !here x),
      net := s.net.filter fun f => f.dk == 2 || f.dcl != p.inst }
  | .stream => s.upSt p.inst fun _ => Strm.init
  | .mipi => s.mipiDown p.inst
  | .aer => s.upAer p.inst AerPort.init
  | .jstr => s.upJr p.inst fun _ => Jrn.init
  | .jrnl => (List.range 4).foldl (fun s ch => { s.resetPage .jch ch (fun _ => false) with rep := Tab.put RepCh.init s.rep ch RepCh.init }) s
  | .rfb => { s with rfb := { s.rfb with profs := [], coef := [], sync := none } }
  | .rfbs =>
    let s := (List.range 32).foldl (fun s r => s.upChan (32 * p.inst + r) fun _ => Chan.init) s
    { s with rfb := { s.rfb with rate := s.rfb.rate.keep fun k => k % 1152 / 32 != p.inst || decide (s.rfb.proc ≤ k / 1152) } }
  | .fuse => { s with health := [] }
  | .cal => { s with cal := [] }
  | .ptpd => { s with dom := Tab.put Dom.init s.dom p.inst Dom.init }
  | .lnch =>
    let s := { s with launch := Tab.put [] s.launch p.inst [] }
    (List.range 4).foldl (fun s q => s.resetPage .lnq (4 * p.inst + q) fun _ => false) s
  | .pcie => { s with host := { s.host with msix := [], pba := 0 } }
  | .pst => if zero then (s.pstReset p.inst).healthCounts else s.pstLost p.inst
  | .fab => s.fabReset (bit (s.opt 1) 2) (bit (s.opt 1) 3) (s.opt 2 % 64) (bit (s.opt 1) 4)
  | _ => s

/-- The offsets that a reset of a page leaves: a block reset those of `resetKeeps`, a lost lock the whole header too, since it returns
the block-specific fields only (R409). -/
def pageKeeps (pk : PK) (zero : Bool) (off : Nat) : Bool := resetKeeps pk off || (!zero && decide (off < 0x040))

/-- Return a page to its reset values, with what lies behind it. -/
def State.blockReset (s : State) (p : Page) (zero : Bool) : State :=
  match p.pk with
  | .fg => (s.fgReset p.inst).resetPage .fg p.inst hdrKept
  | .eth => (s.ethDown p.inst).resetPage .eth p.inst (pageKeeps .eth zero)
  | .ptp =>
    let was := s.activeDom
    let s := s.ppsLow.resetPage .ptp 0 hdrKept
    if was = 0 then s else s.timeChanged true true
  | .mipi => ((s.resetPage p.pk p.inst (pageKeeps p.pk zero)).blockState p zero).sourceIrqs s
  | .aer => (((s.resetPage p.pk p.inst (resetKeeps p.pk)).blockState p zero).sourceIrqs s).ackDrive s p.inst
  | pk => (s.resetPage pk p.inst (pageKeeps pk zero)).blockState p zero

/-! ## Requests (R36, R486) -/

/-- RESET_STAT as one word. -/
def State.resetStat (s : State) (p : Page) : Nat :=
  s.rg (Hdr.REFUSED p.pk) p.inst ||| s.rg (Hdr.DEFERRED p.pk) p.inst <<< 1 ||| s.rg (Hdr.HELD p.pk) p.inst <<< 2 |||
    s.rg (Hdr.ACCEPT_COUNT p.pk) p.inst <<< 8 ||| s.rg (Hdr.REFUSE_COUNT p.pk) p.inst <<< 16

/-- A request is refused. -/
def State.resetRefuse (s : State) (p : Page) : State :=
  let s := (s.rb (Hdr.REFUSED p.pk) p.inst true).inc (Hdr.REFUSE_COUNT p.pk) p.inst
  (s.irqSet p 3).trace p 3 1 (s.resetStat p)

/-- The block leaves reset, or waits for CLK_GOOD (R408). -/
def State.resetLeave (s : State) (p : Page) : State :=
  if s.clkGood p then
    let s := ({ s with resetting := s.resetting.filter fun q => q != p }).rb (Hdr.DEFERRED p.pk) p.inst false
    (s.irqSet p 2).trace p 3 2 (s.resetStat p)
  else
    let s := s.rb (Hdr.DEFERRED p.pk) p.inst true
    { s with resetting := if s.resetting.contains p then s.resetting else p :: s.resetting }

/-- A request is accepted: the block is reset. -/
def State.resetAccept (s : State) (p : Page) (hold : Bool) : State :=
  let s := (s.rb (Hdr.REFUSED p.pk) p.inst false).inc (Hdr.ACCEPT_COUNT p.pk) p.inst
  let s := (s.rb (Hdr.HELD p.pk) p.inst hold).blockReset p true
  let s := if hold then { s with heldPages := p :: s.heldPages } else { s with resetting := p :: s.resetting }
  s.trace p 3 0 (s.resetStat p)

/-- STANDBY refuses block resets of compute-die pages (R414). -/
def State.standby (s : State) : Bool := s.rg PWR.PWR_STATE 0 == 2

/-- A keyed write of RESET_REQ that has reached its page. On a page without block reset it sets ERR_PARAM whatever REQUEST is (R36;
assumption 134). -/
def State.resetReq (s : State) (p : Page) (v : Word) : State :=
  let req := (Hdr.RR_REQUEST p.pk).of v = 1
  let hold := (Hdr.RR_HOLD p.pk).of v = 1
  if (Hdr.RR_KEY p.pk).of v ≠ 0xA5 then s
  else if !p.pk.blkReset then s.errParam p
  else if ¬ req then s
  else if s.heldPages.contains p then
    if hold then s
    else (({ s with heldPages := s.heldPages.filter fun q => q != p }).rb (Hdr.HELD p.pk) p.inst false).resetLeave p
  else if s.resetting.contains p || !s.idle p || (s.standby && p.die?.isSome) then s.resetRefuse p
  else s.resetAccept p hold

/-- A write of RESET_REQ: it passes the gate of R28 and R34, and reaches a page in reset (R28). -/
def State.resetWrite (s : State) (c : Req) (a : Nat) (v : Word) : State :=
  match Page.ofAddr a with
  | none => s
  | some p =>
    if !s.answers p then s
    else if !s.mayWrite c a then s.denied c (a * 4096 + 0x1C) false true
    else if (match p.die? with | some d => s.dieDown d | none => false) then s.inc ((Hdr.EVT_COUNT .hub).nth 3) 0
    else s.resetReq p v

/-- A running reset completes. -/
def State.resetDone (s : State) (a : Nat) : State :=
  match Page.ofAddr a with
  | none => s
  | some p => if s.resetting.contains p && !s.on (Hdr.DEFERRED p.pk) p.inst then s.resetLeave p else s

/-! ## PLL locks (R409) -/

/-- Every page of the address map. -/
def allPages : List Page :=
  (List.range 4).flatMap (fun d => (List.range 0x106).filterMap fun x => diePage d x) ++
    hubPages.flatMap (fun e => (List.range e.2.2).map fun i => ⟨e.1, i⟩) ++
    netPages.flatMap (fun e => (List.range e.2.2).map fun i => ⟨e.1, i⟩) ++ [⟨.pkg, 0⟩, ⟨.gov, 0⟩]

/-- The pages that a PLL clocks. -/
def pagesOf (b : Nat) : List Page := allPages.filter fun p => p.pll == b

/-- The CLK page. -/
def clkPage : Page := ⟨.clk, 0⟩

/-- A PLL loses lock: it is counted, and the time is kept until the loss is classed. -/
def State.lockLost (s : State) (b : Nat) : State :=
  let s := (s.inc CLK.LOCK_LOSSES 0).irqSet clkPage 8
  { s with boot := { s.boot with lock := setBit s.boot.lock b false, lostAt := Tab.put 0 s.boot.lostAt b (s.dt + 2),
                                 relockAt := Tab.put 0 s.boot.relockAt b 0 } }

/-- A loss of lock is lasting: its count and its cost (R409, R433); that of a die in STANDBY applies from the exit request (R417). The
AON and hub PLLs cause package resets, which the caller makes. -/
def State.lockCost (s : State) (b : Nat) : State :=
  let s := s.logFault clkPage true 6 0
  if 2 ≤ b ∧ b ≤ 5 ∧ s.rg PWR.PWR_STATE 0 = 2 then { s with pow := { s.pow with late := s.pow.late ++ [b - 2] } }
  else if 2 ≤ b ∧ b ≤ 5 then s.lastingFault (.die (b - 2)) ⟨.die, b - 2⟩ 6 0
  else if b = 9 then (s.lastingFault (.eth 0) ⟨.eth, 0⟩ 6 0).lastingFault (.eth 1) ⟨.eth, 1⟩ 6 0
  else s

/-- The loss in progress is lasting. -/
def State.lockLasting (s : State) (b : Nat) : State :=
  { s with boot := { s.boot with lostAt := Tab.put 0 s.boot.lostAt b 1, relockAt := Tab.put 0 s.boot.relockAt b 0 } }.lockCost b

/-- A PHY's interfaces go down with its PLL. -/
def State.phyDown (s : State) (b : Nat) : State :=
  if b = 6 then
    (List.range 6).foldl (fun s c => if s.rg DDR.TRAIN_STATE c = 2 then s.rs DDR.TRAIN_STATE c 1 else s) s
  else if b = 8 then (if s.on PCIE.LINK_UP 0 then (s.rb PCIE.LINK_UP 0 false).irqSet ⟨.pcie, 0⟩ 8 else s)
  else if b = 9 then (s.ethDown 0).ethDown 1
  else if b = 10 then (List.range 6).foldl (fun s p => s.portDown p) s
  else s

/-- The blocks of a domain are forced into reset: fields return, SRAM stands. -/
def State.domainReset (s : State) (b : Nat) : State := (pagesOf b).foldl (fun s p => s.blockReset p false) s

/-- The cores of a group whose page clock was stopped make the full pass before they release any arrival (R152). -/
def State.groupResume (s : State) (g : Nat) : State :=
  (List.range 16).foldl (fun s j => s.fullPass (16 * g + j) (s.pausedAt (16 * g + j)) s.curTick) s

/-- A block whose clock returns. -/
def State.pageRelease (s : State) (p : Page) : State :=
  if s.heldPages.contains p then s
  else if s.resetting.contains p then (if s.on (Hdr.DEFERRED p.pk) p.inst then s.resetLeave p else s)
  else (match p.pk with | .cg => s.groupResume p.inst | _ => s).irqSet p 2

/-- A domain's blocks leave reset when CLK_GOOD returns: RESET_DONE sets; a reset that waited completes. -/
def State.domainRelease (s : State) (b : Nat) : State := (pagesOf b).foldl (fun s p => s.pageRelease p) s

end Sys2Proof.Machine
end

