-- ==== Sys2Proof/Machine/UnitRegs.lean ====
section
/-!
DEFINITION. Register writes (R9, R32) to the pages of the units, chapters 02 to 11, 13 and 14: which fields a word holds, which
writes are rejected, and the registers whose write does more than set a value.
-/
namespace Sys2Proof.Machine
open Regs

/-! ## The fields of a word -/

/-- The copies of an array field. -/
def Fld.copies (f : Fld) : List Fld := (List.range f.n).map f.nth

/-- The number of 32-bit words of a field. -/
def Fld.words (f : Fld) : Nat := (f.lsb + f.width + 31) / 32

/-- Which word of a field lies at a page offset. -/
def Fld.part? (f : Fld) (off : Nat) : Option Nat :=
  if f.off ≤ off ∧ off < f.off + 4 * f.words ∧ (off - f.off) % 4 = 0 then some ((off - f.off) / 4) else none

/-- Page kinds that share another kind's page and have no header of their own. -/
def PK.inner : PK → Bool
  | .cgs | .jch | .lnq => true
  | _ => false

/-- The header fields that the generic rules read and write: the block-specific bits of CTRL and STATUS are RSVD where no chapter
gives them (R10). -/
def hdrFlds (pk : PK) : List Fld :=
  if pk.inner then [] else (Hdr.all pk).filter fun f => f != Hdr.CTRL_BLK pk && f != Hdr.STATUS_BLK pk

/-- The fields at a page offset, each with the word of it that lies there. -/
def fldsAt (pk : PK) (off : Nat) : List (Fld × Nat) :=
  ((hdrFlds pk ++ pageFlds pk).flatMap Fld.copies).filterMap fun f => (f.part? off).map fun i => (f, i)

/-- The kind, instance and offset of a register inside its page: core slots (R35), replay channels (R321), launch queues (R370). -/
def innerReg (p : Page) (off : Nat) : PK × Nat × Nat :=
  match p.pk with
  | .cg =>
    if 0x100 ≤ off ∧ off < 0xF00 then (.cgs, 16 * p.inst + (off - 0x100) / 0xE0, (off - 0x100) % 0xE0) else (.cg, p.inst, off)
  | .jrnl => if 0x100 ≤ off ∧ off < 0x200 then (.jch, (off - 0x100) / 0x40, off % 0x40) else (.jrnl, 0, off)
  | .lnch => if 0x100 ≤ off ∧ off < 0x200 then (.lnq, 4 * p.inst + (off - 0x100) / 0x40, off % 0x40) else (.lnch, p.inst, off)
  | pk => (pk, p.inst, off)

/-- The entry that an index register selects for a register (0 where there is none). -/
def State.idxAt (s : State) (pk : PK) (i off : Nat) : Nat :=
  match pk with
  | .stream =>
    if off = 0x074 then s.rg STREAM.HOT_INDEX i
    else if off = 0x084 then s.rg STREAM.BANK i * 4096 + s.rg STREAM.TILE i else 0
  | .clu =>
    if off = 0x210 ∨ off = 0x214 then s.rg CLU.SUBWIN_INDEX i
    else if off = 0x21C ∨ off = 0x220 then s.rg CLU.SUB_INDEX i
    else if off = 0x228 ∨ off = 0x22C then s.rg CLU.RT_INDEX i
    else if 0x234 ≤ off ∧ off ≤ 0x254 then s.rg CLU.GT_INDEX i else 0
  | .ldb => if 0x050 ≤ off ∧ off ≤ 0x07C then s.rg LDB.DESC_INDEX i else 0
  | .tok => if 0x044 ≤ off ∧ off ≤ 0x058 then s.rg TOK.BUF_INDEX i else 0
  | .rfb => if 0x054 ≤ off ∧ off ≤ 0x06C then s.rg RFB.PROF_INDEX 0 else 0
  | .fuse => if 0x06C ≤ off ∧ off ≤ 0x07C then s.rg FUSE.ZONE_INDEX 0 else 0
  | .fg => if 0x08C ≤ off ∧ off ≤ 0x094 then s.rg FG.SAMPLE_INDEX i else 0
  | .hq =>
    if 0x044 ≤ off ∧ off ≤ 0x060 then s.rg HQ.RING_INDEX 0 else if off = 0x0C4 then s.rg HQ.ROUTE_INDEX 0 else 0
  | .fab =>
    if off = 0x094 then s.rg FAB.RT_DEV 0 else if 0x0A4 ≤ off ∧ off ≤ 0x0B0 then s.rg FAB.FGT_INDEX 0 else 0
  | .lnq => if off = 0x008 then s.rg LNQ.TPL_WORD i else 0
  | _ => 0

/-- Registers whose writes are staged until another register commits the entry (R160, R302, R398). -/
def staged (pk : PK) (off : Nat) : Bool :=
  match pk with
  | .clu => off == 0x214 || off == 0x21C || off == 0x228 || decide (0x234 ≤ off ∧ off ≤ 0x250)
  | .fab => decide (0x0A4 ≤ off ∧ off ≤ 0x0AC)
  | _ => false

/-- Write one field's part of a word (R9). -/
def State.putPart (s : State) (f : Fld) (i inst idx : Nat) (v : Word) : State :=
  let old := s.rg f inst idx
  let new := if f.words = 1 then f.of v else setBitsAt old (32 * i) (min 32 (f.width - 32 * i)) v.toNat
  match f.acc with
  | .rw => s.rs f inst new idx
  | .w1c => s.rs f inst (old - (old &&& f.of v)) idx
  | _ => s

/-- Write every field of a word. -/
def State.putWord (s : State) (pk : PK) (inst off : Nat) (v : Word) : State :=
  let idx := if staged pk off then stageIdx else s.idxAt pk inst off
  (fldsAt pk off).foldl (fun s e => s.putPart e.1 e.2 inst idx v) s

/-! ## Ranges -/

/-- Fields whose values outside a range are rejected, with the range. -/
def ranges : PK → List (Fld × Nat × Nat)
  | .stream => [(STREAM.ARR_WINDOW, 1, 65535), (STREAM.WORD_BITS, 0, 2), (STREAM.MATCH_SHIFT, 0, 32), (STREAM.TL_BITS, 1, 32),
      (STREAM.FLK_N, 1, 256)]
  | .mipi => [(MIPI.WIDTH, 0, 2), (MIPI.STREAM, 0, 35)]
  | .aer => [(AER.STREAM, 0, 35)]
  | .ldb => [(LDB.TW, 1, 64), (LDB.TH, 1, 64), (LDB.PARAM, 1, 16384), (LDB.LAW, 0, 2), (LDB.SETTLE, 1, 255), (LDB.FENCE_READERS, 1, 15)]
  | .cgs => [(CGS.FANIN_COUNT, 0, 128)]
  | .clu => [(CLU.SUBWIN_INDEX, 0, 35), (CLU.ESC_WAIT, 1, 65535), (CLU.ESC_SIZE, 0, 16777216)]
  | .mxc => [(MXC.DEADLINE_NS, 1, 0xFFFFFFFF), (MXC.PROG_LEN, 0, 16384)]
  | .tok => [(TOK.GW, 1, 64), (TOK.GH, 1, 64), (TOK.SETTLE, 1, 255), (TOK.FENCE_READERS, 1, 15)]
  | .gov => [(GOV.G_T, 0, 0x80000000), (GOV.G_D, 0, 0x80000000), (GOV.FIX_MV, 650, 850)]
  | .ddr => [(DDR.L2_CAP, 1, 25600), (DDR.SCRUB_HOURS, 1, 255)]
  | .rfb => [(RFB.K, 4, 16), (RFB.FLK_DK, 1, 15), (RFB.XF_LEN, 0, 256)]
  | .fuse => [(FUSE.RATE_GATE, 16, 255), (FUSE.BIN_MIN, 1, 65535), (FUSE.EGO_MIN_BINS, 3, 255), (FUSE.EGO_HUBER, 1, 0x7F800000)]
  | .fg => [(FG.SLOT_LATENCY_NS, 50000, 10000000), (FG.TRK_NUM, 0, 4096), (FG.CONF_M, 1, 8), (FG.CONF_N, 1, 8), (FG.DEL_K, 1, 255),
      (FG.GATE2, 1, 0x7F800000), (FG.DET_MAX, 0, 256), (FG.SAMPLE_COUNT, 0, 64), (FG.S_POL, 0, 4), (FG.USER_MAX, 0, 1024)]
  | .cal => [(CAL.CAL_SENSOR, 0, 35), (CAL.CAL_WORD, 0, 2193)]
  | .jstr => [(JSTR.SIZE_LOG, 20, 32), (JSTR.STAGE_LINES, 1, 16384)]
  | .jrnl => [(JRNL.FLUSH_NS, 1, 1000000)]
  | .jch => [(JCH.STREAM, 0, 35)]
  | .hq => [(HQ.RING_INDEX, 0, 6), (HQ.ROUTE_VECTOR, 6, 63)]
  | .eth => [(ETH.FEC, 0, 2)]
  | .ptpd => [(PTPD.SLEW_LIMIT, 1, 0xFFFFFFFF), (PTPD.JUMP_WINDOW_NS, 1, 0xFFFFFFFF), (PTPD.SLEW_MAX_PPB, 1, 500000),
      (PTPD.LOCK_NS, 1, 0xFFFFFF), (PTPD.LOCK_COUNT, 1, 255)]
  | .pst => [(PST.LOS_NS, 200, 8000)]
  | .fab => [(FAB.FT_TOL, 1, 65535), (FAB.PACK_NS, 0, 10000)]
  | .pwr => [(PWR.STBY_WAIT_US, 1, 65535)]
  | .vault => [(VAULT.HB_LEN, 64, 8388608)]
  | _ => []

/-- Fields whose low bits must be 0, with their number. -/
def aligned : PK → List (Fld × Nat)
  | .clu => [(CLU.ESC_BASE, 12), (CLU.ESC_SIZE, 12)]
  | .ldb => [(LDB.DDR_BASE, 6)]
  | .mxc => [(MXC.PROG_BASE, 7)]
  | .tok => [(TOK.BASE, 6)]
  | .jstr => [(JSTR.RING_BASE, 12)]
  | .hq => [(HQ.RING_BASE, 12), (HQ.STAGE_BASE, 12), (HQ.MODEL_BASE, 12)]
  | .fab => [(FAB.INBOX_BASE, 12)]
  | .vault => [(VAULT.HB_ADDR, 6)]
  | _ => []

/-- A field at an offset, whichever copy of it lies there. -/
def Fld.here (f : Fld) (off : Nat) : Bool := f.copies.any fun g => g.part? off == some 0

/-- The ranges and alignments of a word's fields hold. -/
def inRange (pk : PK) (off : Nat) (v : Word) : Bool :=
  ((ranges pk).all fun e => !e.1.here off || decide (e.2.1 ≤ e.1.of v ∧ e.1.of v ≤ e.2.2)) &&
  (aligned pk).all fun e => !e.1.here off || e.1.of v % 2 ^ e.2 == 0

/-! ## Writes rejected in a state -/

/-- Does a word hold a field that a write can set? -/
def settable (pk : PK) (off : Nat) : Bool := (fldsAt pk off).any fun e => e.1.acc == .rw

/-- The word is locked while its unit works with it. -/
def State.locked (s : State) (pk : PK) (i off : Nat) (v : Word) : Bool :=
  let within (a b : Nat) : Bool := decide (a ≤ off ∧ off ≤ b)
  match pk with
  | .stream => s.on (Hdr.ENABLE .stream) i && (off == 0x044 || off == 0x048 || within 0x100 0x1FF) && settable .stream off
  | .mipi => off == 0x040 && s.on (Hdr.ENABLE .mipi) i
  | .ldb => within 0x054 0x070 && s.on LDB.DESC_EN i (s.rg LDB.DESC_INDEX i)
  | .tok => within 0x048 0x058 && s.on TOK.BUF_EN i (s.rg TOK.BUF_INDEX i)
  | .cgs => s.on CGS.RUN i && (within 0x038 0x054 || off == 0x058 || off == 0x05C || off == 0x06C)
  | .mxc => within 0x040 0x06C && s.on MXC.SLOT_RUNNING i
  | .jstr => within 0x040 0x04C && s.on (Hdr.ENABLE .jstr) i
  | .jch => within 0x000 0x00C && s.replaying i
  | .fg =>
    s.groupOn i && (off == 0x044 || off == 0x048 || off == 0x050 || off == 0x054 || off == 0x068 || off == 0x098 ||
      (off == 0x04C && FG.TIMEBASE.of v != s.rg FG.TIMEBASE i))
  | .eth => off == 0x040 && s.on (Hdr.ENABLE .eth) i
  | .pst => (off == 0x040 || off == 0x044) && s.on (Hdr.ENABLE .pst) i
  | .fab => (off == 0x0E8 || off == 0x0EC) && s.on FAB.INBOX_EN 0
  | _ => false

/-- No enabled stream has two maps, and no two enabled maps of a MIPI port overlap (R80). -/
def State.mapsOk (s : State) : Bool :=
  (List.range 36).all (fun i => !s.on (Hdr.ENABLE .stream) i || decide ((s.mapsTo i).length ≤ 1)) &&
  (List.range 18).all fun p => (List.range 4).all fun a => (List.range 4).all fun b =>
    a == b || !s.on (MIPI.MAP_EN.nth a) p || !s.on (MIPI.MAP_EN.nth b) p ||
      s.rg (MIPI.VCID.nth a) p != s.rg (MIPI.VCID.nth b) p ||
      (s.rg (MIPI.DT_MASK.nth a) p &&& s.rg (MIPI.DT_MASK.nth b) p) == 0

/-- The rules that compare a written word with other fields. -/
def State.crossOk (s : State) (pk : PK) (i off : Nat) (v : Word) : Bool :=
  match pk with
  | .mipi =>
    if off = 0x040 then
      let r := MIPI.RATE.of v
      if MIPI.PHY_MODE.of v = 0 then decide (80 ≤ r ∧ r ≤ 4500) && (List.range 4).all fun j => decide (s.rg (MIPI.VCID.nth j) i < 16)
      else decide (80 ≤ r ∧ r ≤ 6000)
    else if 0x044 ≤ off ∧ off ≤ 0x050 then
      (s.on MIPI.PHY_MODE i || decide (MIPI.VCID.of v < 16)) && (s.putWord .mipi i off v).mapsOk
    else true
  | .aer => off != 0x040 || (s.putWord .aer i off v).mapsOk
  | .ldb => off != 0x054 || decide (LDB.TX0.of v + LDB.TW.of v ≤ 64 ∧ LDB.TY0.of v + LDB.TH.of v ≤ 64)
  | .stream => off != 0x084 || s.rg STREAM.BANK i != s.rg STREAM.ACTIVE_BANK i
  | .rfb => off != 0x058 || decide (RFB.FLK_OFF.of v ≤ RFB.FLK_ON.of v)
  | .fuse => off != 0x044 || decide (FUSE.MASK_LEVEL.of v < FUSE.UNMASK_LEVEL.of v)
  | .fg =>
    if off = 0x048 then decide (20000 ≤ v.toNat ∧ v.toNat + 5000 ≤ s.rg FG.SLOT_LATENCY_NS i)
    else if off = 0x06C then decide (FG.CONF_M.of v ≤ FG.CONF_N.of v)
    else if off = 0x08C then FG.S_POL.of v != 2 else true
  | .eth => off != 0x040 || ETH.MODE.of v != 0 || ETH.FEC.of v != 2
  | _ => true

/-- A word is set by the general rules (R9), or the write is rejected and sets ERR_PARAM. -/
def State.plainWrite (s : State) (p : Page) (pk : PK) (i off : Nat) (v : Word) : State :=
  if inRange pk off v && !s.locked pk i off v && s.crossOk pk i off v then s.putWord pk i off v else s.errParam p

/-! ## Writes that do more -/

/-- Replace half of a 64-bit quantity. -/
def half (old : Nat) (high : Bool) (v : Word) : Nat := setBitsAt old (if high then 32 else 0) 32 v.toNat

/-- A staged clock-model value (R64). -/
def State.modelStage (s : State) (i off : Nat) (v : Word) : State :=
  s.upSt i fun c =>
    if off = 0x208 then { c with stgS := half c.stgS false v }
    else if off = 0x20C then { c with stgS := half c.stgS true v % 2 ^ 48 }
    else if off = 0x210 then { c with stgDT := half c.stgDT false v }
    else if off = 0x214 then { c with stgDT := half c.stgDT true v }
    else if off = 0x218 then { c with stgRate := half c.stgRate false v }
    else { c with stgRate := half c.stgRate true v }

/-- A write of IRQ_ENABLE: an interrupt that it makes rise is traced and sends its message (R37). -/
def State.irqEnable (s : State) (p : Page) (v : Word) : State :=
  let was := s.irqUp p
  let s := s.rs (Hdr.IRQ_ENABLE p.pk) p.inst (v.toNat &&& 0xFFFFFF1F)
  if s.irqUp p && !was then s.irqMessage p else s

/-- A write of IRQ_STATUS: 1 clears the bit of IRQ_RAW; an interrupt left asserted sends a further message (R37, R334). -/
def State.irqClear (s : State) (p : Page) (v : Word) : State :=
  let raw := s.rg (Hdr.IRQ_RAW p.pk) p.inst
  let s := s.rs (Hdr.IRQ_RAW p.pk) p.inst (raw - (raw &&& v.toNat))
  if s.irqUp p then s.irqMessage p else s

/-- CTRL of a page (R36). -/
def State.ctrlWrite (s : State) (p : Page) (v : Word) : State :=
  match p.pk with
  | .stream => s.streamCtrl p.inst v
  | .mipi | .aer => s.portCtrl p v
  | .jstr => s.jstrCtrl p.inst v
  | .rfb => s.rfbCtrl v
  | .rfbs => s.rfbsCtrl p.inst v
  | .pst => s.pstCtrl p.inst v
  | pk => s.rs (Hdr.ENABLE pk) p.inst ((Hdr.ENABLE pk).of v)

/-- A write to a register of a unit page that has passed the gate (the protection table, the proxy, the clock). -/
def State.unitWrite (s : State) (p : Page) (off : Nat) (v : Word) : State :=
  let (pk, i, o) := innerReg p off
  if !pk.inner && o < 0x040 then
    if o = 0x008 then s.ctrlWrite p v
    else if o = 0x014 then s.irqEnable p v
    else if o = 0x018 then s.irqClear p v
    else if o = 0x01C then s.resetReq p v
    else s
  else
    match pk, o with
    | .time, 0x04C => s.syncEnWrite v
    | .time, 0x050 => s.syncPeriodWrite 0 v
    | .time, 0x054 => s.syncPeriodWrite 1 v
    | .time, 0x058 => s.syncPeriodWrite 2 v
    | .time, 0x05C => s.syncPeriodWrite 3 v
    | .time, 0x060 => s.syncWidthWrite v
    | .mipi, o => (s.plainWrite p pk i o v).sourceIrqs s
    | .aer, o => ((s.plainWrite p pk i o v).sourceIrqs s).ackDrive s i
    | .stream, 0x074 => s.hotWrite i v
    | .stream, 0x07C => s.tmapCtrl i v
    | .stream, 0x200 => s.cmCtrlWrite i v
    | .stream, 0x208 | .stream, 0x20C | .stream, 0x210 | .stream, 0x214 | .stream, 0x218 | .stream, 0x21C => s.modelStage i o v
    | .stream, 0x220 => s.cmCommit i v
    | .stream, 0x224 => (s.plainWrite p pk i o v).alignUpdate i
    | .stream, 0x234 => s.streamUnitWrite i v
    | .ldb, 0x050 => s.descCtrl i v
    | .ldb, 0x054 => (s.plainWrite p pk i o v).descCount i
    | .clu, 0x210 => s.subwinWrite i v
    | .clu, 0x220 => s.subHiWrite i v
    | .clu, 0x22C => s.rtHiWrite i v
    | .clu, 0x254 => s.gtMask7Write i v
    | .cgs, 0x000 => s.coreCtrl i v
    | .mxc, 0x0F0 => s.mxStartWrite i v
    | .tok, 0x044 => s.tokCtrl i v
    | .rfb, 0x04C => s.syncArm v
    | .rfb, 0x060 => (s.rfbCommit v).rfbSwap v
    | .rfb, 0x074 => s.coefWrite v
    | .rfbs, o =>
      if 0x100 ≤ o ∧ o < 0x300 ∧ o % 16 = 0 then s.chCfgWrite i ((o - 0x100) / 16) v else s.plainWrite p pk i o v
    | .fuse, 0x07C => s.zoneCfg v
    | .fg, 0x040 => s.periodWrite i v
    | .trk, 0x044 => s.trkKill v
    | .cal, 0x048 => s.calWrite v
    | .cal, 0x050 => s.calSwitch v
    | .jstr, 0x060 => s.markCmd i v
    | .jch, 0x010 => s.replayCmd i v
    | .ptp, 0x040 => s.ptpCtrl v
    | .ptpd, 0x040 => s.domCtrl i v
    | .ptpd, 0x064 => s.rateHigh i v
    | .ptpd, 0x078 => s.domCmd i v
    | .lnq, 0x000 => s.lnqCtrl i v
    | .lnq, 0x008 => s.tplWrite i v
    | .fab, 0x04C => s.devNumReq v
    | .fab, 0x05C => (s.plainWrite p pk i o v).rootMode
    | .fab, 0x094 => s.routePin v
    | .fab, 0x0B0 => s.fgtCommit v
    | .fab, 0x0F0 => s.inboxCtrl v
    | .fab, 0x10C => s.rmtCmd v
    | _, _ => s.plainWrite p pk i o v

end Sys2Proof.Machine
end

