-- ==== Sys2Proof/Machine/Commands.lean ====
section
/-!
DEFINITION. The command engine of the host interface (R325–R330, R333): doorbells, rings, messages, commands and completions.
-/
namespace Sys2Proof.Machine
open Regs

/-! ## Pages and bytes -/

/-- The HQ and PCIE pages. -/
def hqPage : Page := ⟨.hq, 0⟩
def pciePage : Page := ⟨.pcie, 0⟩

/-- Are the bytes from `o` up to `e` zero? -/
def zerosIn (d : List Byte) (o e : Nat) : Bool := ((d.take e).drop o).all (· == 0)

/-! ## Doorbells (R328) -/

/-- A bad doorbell write. -/
def State.dbBad (s : State) : State := (s.inc HQ.DB_BAD 0).irqSet hqPage 8

/-- The gate of a doorbell write: HOST_W of the HQ page (R447). -/
def State.doorbell (s : State) (off : Nat) (f : State → State) : State :=
  if !s.answers hqPage || s.host.perst then s
  else if !s.mayWrite .host hqPage.addr then s.denied .host (3 * 2 ^ 26 + off) false true
  else f s

/-- The producer of ring `r` moves to `v`. -/
def State.dbProd (s : State) (r v : Nat) : State :=
  if !s.ringLive r || s.ringCap r < (v + 2 ^ 32 - s.rg HQ.RING_CONS 0 r) % 2 ^ 32 then s.dbBad else s.rs HQ.RING_PROD 0 v r

/-- The consumer of ring `r` moves to `v`. -/
def State.dbCons (s : State) (r v : Nat) : State :=
  if !s.ringLive r || s.ringCap r < (s.rg HQ.RING_PROD 0 r + 2 ^ 32 - v) % 2 ^ 32 ||
      s.ringFill r < (v + 2 ^ 32 - s.rg HQ.RING_CONS 0 r) % 2 ^ 32 then s.dbBad
  else s.rs HQ.RING_CONS 0 v r

/-- A BAR4 write at an offset: to a doorbell, or bad for any other offset and for anything but an aligned 32-bit write. -/
def State.bar4Write (s : State) (off : Nat) (z : AccSize) (v : Nat) : State :=
  s.doorbell off fun s =>
    if z ≠ .b4 then s.dbBad
    else if off = 0 then s.dbProd 0 v
    else if off = 4 then s.dbCons 1 v
    else if off = 8 then s.dbCons 2 v
    else if 0x10 ≤ off ∧ off < 0x20 ∧ off % 4 = 0 then s.dbCons (3 + (off - 0x10) / 4) v
    else s.dbBad

/-- A write of the word that holds RING_SIZE_LOG and RING_EN (R325, R346). -/
def State.ringCtrl (s : State) (v : Word) : State :=
  let r := s.rg HQ.RING_INDEX 0
  let k := HQ.RING_SIZE_LOG.of v
  let was := s.on HQ.RING_EN 0 r
  let en := HQ.RING_EN.of v = 1
  let fits := if r < 3 then decide (4 ≤ k ∧ k ≤ 12) else decide (16 ≤ k ∧ k ≤ 30)
  if (was && k != s.rg HQ.RING_SIZE_LOG 0 r) || !(fits || (!en && k == s.rg HQ.RING_SIZE_LOG 0 r)) then s.errParam hqPage
  else
    let s := (s.rs HQ.RING_SIZE_LOG 0 k r).rb HQ.RING_EN 0 en r
    if en && !was then (s.rs HQ.RING_PROD 0 0 r).rs HQ.RING_CONS 0 0 r else s

/-! ## Messages (R333) -/

/-- Pending messages that nothing masks any longer are sent. -/
def State.msixFlush (s : State) : State :=
  (List.range 64).foldl (fun s v =>
    if bit s.host.pba v then ({ s with host := { s.host with pba := setBit s.host.pba v false } }).msixSend v else s) s

/-- A COAL_NS window ends: events folded into it are signalled by one message. -/
def State.coalExpiry (s : State) (v : Nat) : State :=
  if Tab.get false s.host.coalFold v && decide (Tab.get 0 s.host.coalEnd v ≤ s.dt) then
    ({ s with host := { s.host with coalFold := Tab.put false s.host.coalFold v false } }).msixSend v
  else s

/-! ## Commands (R327, R329, R330) -/

/-- Part `p` as the loader keeps it. -/
def State.part (s : State) (p : Nat) : Part := Tab.get Part.empty s.host.parts p

/-- Change what the loader keeps of a partition. -/
def State.upPart (s : State) (p : Nat) (f : Part → Part) : State :=
  { s with host := { s.host with parts := Tab.put Part.empty s.host.parts p (f (s.part p)) } }

/-- Change the command being carried out. -/
def State.upCmd (s : State) (f : CmdRun → CmdRun) : State := { s with host := { s.host with cmd := s.host.cmd.map f } }

/-- May the device take a command: the rings are enabled, one waits, none runs, the completion ring has room, firmware runs. -/
def State.cmdReady (s : State) : Bool :=
  s.ringLive 0 && s.ringLive 1 && decide (0 < s.ringFill 0) && s.host.cmd.isNone && decide (s.ringFill 1 < s.ringCap 1) &&
    !s.host.fwDown && s.rg RSTC.BOOT_PHASE 0 == 10

/-- Take a command: read its entry at base + (i mod 2^k) × 64 (R325, R327). -/
def State.cmdTake (s : State) (cmd : List Byte) : State :=
  let op := leAt cmd 0 1
  let tag := leAt cmd 2 2
  let i := s.rg HQ.RING_CONS 0 0
  let s := s.hostRead (s.rg HQ.RING_BASE 0 0 + i % s.ringCap 0 * 64) 64
  let s := s.inc HQ.RING_CONS 0 1 0
  let s := ((s.rs HQ.CMD_STATE 0 1).rs HQ.CUR_OPCODE 0 op).rs HQ.CUR_TAG 0 tag
  let run : CmdRun :=
    { opcode := op, tag := tag, entry := cmd, dtStart := s.dt, phase := 1, data := [], readErr := false, todo := [], silent := false,
      fenceSeen := false, groupRestart := false, jobStop := false, variant := 0, ddrBase := 0, ddrSize := 0, fenced := [], held := [] }
  { s with host := { s.host with cmd := some run } }

/-- A completion entry (R329). -/
def cplBytes (r : CmdRun) (code detail value dtEnd phase : Nat) : List Byte :=
  let flags := phase + (if r.fenceSeen then 2 else 0) + (if r.groupRestart then 4 else 0)
  leBytes 2 r.tag ++ leBytes 1 r.opcode ++ leBytes 1 flags ++ leBytes 1 code ++ leBytes 1 0 ++ leBytes 2 detail ++
    leBytes 8 value ++ leBytes 8 r.dtStart ++ leBytes 8 dtEnd

/-- DETAIL of a completion: the section that failed, or 0xFFFF for the header or the command itself; the spec states none for
LOAD_OK (assumption 73). -/
def State.detailOf (s : State) (code detail : Nat) : Nat × State :=
  if code = 0 then let (v, s) := s.takeFree; (v % 2 ^ 16, s) else (detail, s)

/-- The running command ends: its outcome is kept, and its completion written unless PERST# or a Function Level Reset cut it off
(R327, R344). A LOAD that is accepted ends JOB_STOPPED (R434). -/
def State.complete (s : State) (code detail value : Nat) : State :=
  match s.host.cmd with
  | none => s
  | some r =>
    let s := { s with host := { s.host with cmd := none } }
    let (detail, s) := s.detailOf code detail
    let s := ((s.rs HQ.CMD_STATE 0 0).rs HQ.CUR_OPCODE 0 0).rs HQ.CUR_TAG 0 0
    let s := ((s.rs HQ.LAST_CODE 0 code).rs HQ.LAST_OPCODE 0 r.opcode).rs HQ.LAST_DETAIL 0 detail
    let s := if r.opcode = 1 then
        (if code = 0 then (s.inc HQ.LOADS_OK 0).rb HUB.JOB_STOPPED 0 false else s.inc HQ.LOADS_REFUSED 0).irqSet hqPage 9
      else s
    let s := s.trace hqPage 8 (r.opcode + code * 256) r.tag
    if r.silent || !s.ringLive 1 then s
    else
      ((s.ringPut 1 (cplBytes r code detail value s.dt)).inc HQ.CMDS_DONE 0).ringSignal 0 (s.rg HQ.COAL_NS 0 1)

/-- Complete with a VALUE that the spec leaves open (assumption 73): of LOAD and QUERY, the 40 bits that R329 lays out; their [63:40]
are 0. -/
def State.completeOpen (s : State) (code detail : Nat) : State :=
  let (v, s) := s.takeFree
  let bits := match s.host.cmd with | some r => if r.opcode = 1 ∨ r.opcode = 3 then 40 else 64 | none => 64
  s.complete code detail (v % 2 ^ bits)

/-- The first operand byte that an opcode does not use. -/
def operandEnd (op : Nat) : Nat :=
  match op with
  | 1 => 0x20 | 2 => 9 | 3 => 9 | 4 => 0x36 | 5 => 0x18 | _ => 8

/-- A non-zero unused byte: FLAGS, the reserved word, operands beyond the opcode's, reserved bits of LFLAGS and UFLAGS. -/
def cmdUnused (cmd : List Byte) : Bool :=
  let op := leAt cmd 0 1
  !zerosIn cmd 1 2 || !zerosIn cmd 4 8 || !zerosIn cmd (operandEnd op) 64 || ((op == 1 || op == 5) && 4 ≤ leAt cmd 0x14 4)

/-- Run a command of an opcode: its entry is taken, refused with E_PARAM when a byte it does not use is not 0, else carried out. -/
def State.command (s : State) (op : Nat) (cmd : List Byte) (f : State → State) : State :=
  if s.cmdReady && cmd.length == 64 && leAt cmd 0 1 == op then
    let s := s.cmdTake cmd
    if cmdUnused cmd then s.completeOpen 0x0D 0xFFFF else f s
  else s

end Sys2Proof.Machine
end

