-- ==== Sys2Proof/Machine/Schedule.lean ====
section
/-!
DEFINITION. What the loader asks of a matrix program before it accepts it (R339): the bytes a descriptor touches and the chains that
order two of them (R189), the checks on single descriptors (R123, R198, R200, R203), the worst-case time of a slot (R210, R214,
R215) and the level-2 demand on DDR4 (R237). Times are in units of 1/22 ns: MXCLK is 10 of them, EVCLK 20 (R26).
-/
namespace Sys2Proof.Machine
open Regs

/-- Quotient rounded up. -/
def ceilDiv (a b : Nat) : Nat := (a + b - 1) / b

/-- The descriptors of a core's program, by index. -/
def State.program (s : State) (m : Nat) : List Nat := List.range (s.rg MXC.PROG_LEN m)

/-! ## Bytes that a descriptor touches -/

/-- A block of rows in the SRAM of matrix core `mx`: offset, rows, stride, bytes of a row; read or written. -/
structure Touch where
  mx : Nat
  off : Nat
  rows : Nat
  ld : Nat
  bytes : Nat
  wr : Bool
deriving DecidableEq, Repr

/-- The two blocks share a byte of one SRAM, and one of them is written. -/
def Touch.meets (x y : Touch) : Bool :=
  x.mx == y.mx && (x.wr || y.wr) && (List.range x.rows).any fun i => (List.range y.rows).any fun j =>
    decide (x.off + i * x.ld < y.off + j * y.ld + y.bytes ∧ y.off + j * y.ld < x.off + i * x.ld + x.bytes)

/-- One contiguous block of core `m`, none where the operand is absent or empty. -/
def touch (m off bytes : Nat) (wr : Bool) : List Touch :=
  if off = absent ∨ bytes = 0 then [] else [⟨m, off, 1, 0, bytes, wr⟩]

/-- The block that one end of a DMA touches, where it is an SRAM. -/
def dmaTouch (m a rows ld bytes : Nat) (wr : Bool) : List Touch :=
  if rows = 0 ∨ bytes = 0 then []
  else if spaceOf a = 0 then [⟨m, a % 2 ^ 21, rows, ld, bytes, wr⟩]
  else if spaceOf a = 1 then [⟨bitsAt a 21 5, a % 2 ^ 21, rows, ld, bytes, wr⟩]
  else []

/-- What GEMM, CONV and ATTN touch. -/
def State.engineTouches (s : State) (m a : Nat) : List Touch :=
  let f := fun o => s.dsc a o 4
  match s.dOp a with
  | 1 =>
    let (mm, nn, kk) := (s.dsc a 0x28 2, s.dsc a 0x2A 2, s.dsc a 0x2C 2)
    [⟨m, f 0x10, mm, f 0x30, tyBytes (s.dTA a) kk, false⟩, ⟨m, f 0x14, nn, f 0x34, tyBytes (s.dTB a) kk, false⟩,
     ⟨m, f 0x18, mm, f 0x38, tyBytes (s.dTO a) nn, true⟩] ++
      touch m (f 0x1C) (4 * nn) false ++ touch m (f 0x20) (mm * kk / 8) false ++ touch m (f 0x24) (nn * kk / 8) false
  | 2 =>
    let c := s.convShape a
    touch m (f 0x10) (tyBytes (s.dTA a) (c.h * c.w * c.cin)) false ++ touch m (f 0x14) (tyBytes (s.dTB a) (c.cout * c.k)) false ++
      touch m (f 0x18) (tyBytes (s.dTO a) (c.oh.toNat * c.ow.toNat * c.cout)) true ++ touch m (f 0x1C) (4 * c.cout) false ++
      touch m (f 0x20) (c.h * c.w * c.cin / 8) false ++ touch m (f 0x24) (c.cout * c.k / 8) false
  | _ =>
    let (nq, nk) := (s.dsc a 0x30 2, s.dsc a 0x32 2)
    let row := s.dsc a 0x34 1 * s.dsc a 0x35 1
    let pos := fun o n => if s.dSkim a && s.dsc a 0x36 1 != 255 then touch m (f o) (4 * n) false else []
    touch m (f 0x10) (tyBytes (s.dTA a) (nq * row)) false ++ touch m (f 0x14) (tyBytes (s.dTA a) (nk * row)) false ++
      touch m (f 0x18) (tyBytes (s.dTB a) (nk * row)) false ++ touch m (f 0x1C) (tyBytes (s.dTO a) (nq * row)) true ++
      pos 0x20 nq ++ pos 0x24 nk ++ touch m (f 0x28) 4 false ++ touch m (f 0x2C) 4 false

/-- What the vector units, a gather, DMA and RESULT touch. -/
def State.otherTouches (s : State) (m a : Nat) : List Touch :=
  let f := fun o => s.dsc a o 4
  match s.dOp a with
  | 3 =>
    if s.dsc a 0x18 1 = 1 then
      let n := s.dsc a 0x24 2
      let (k, b) := (m / 2, s.dsc a 0x19 1)
      touch m (f 0x10) (48 * n) true ++ touch m (f 0x14) (4 * n) true ++ touch m (f 0x1C) (4 * n) true ++ touch m (f 0x20) 4 true ++
        touch m (s.rg TOK.BASE k b) (64 * s.rg TOK.NS k b * s.rg TOK.GW k b * s.rg TOK.GH k b) false
    else
      let n := s.dsc a 0x20 2 * s.dsc a 0x22 2 * (if bitsAt (s.dsc a 0x1B 1) 1 3 = 2 then 2 else 1)
      touch m (f 0x10) (tyBytes (s.dTO a) n) true ++ (if s.dTO a = 0 then touch m (f 0x14) (n / 8) true else [])
  | 5 =>
    let (len, fn, bc) := (f 0x1C, s.dsc a 0x20 1, s.dsc a 0x21 1)
    touch m (f 0x10) (tyBytes (s.dTA a) len) false ++ touch m (f 0x18) (tyBytes (s.dTO a) len) true ++
      (if 4 < fn ∨ bc = 2 then [] else touch m (f 0x14) (tyBytes (s.dTB a) (if bc = 0 then len else min len (s.dsc a 0x22 2))) false)
  | 6 =>
    let (rows, cols, fn, ktop) := (f 0x18, f 0x1C, s.dsc a 0x20 1, s.dsc a 0x22 2)
    touch m (f 0x10) (tyBytes (s.dTA a) (rows * cols)) false ++
      touch m (f 0x14) (if fn = 4 then 4 * rows else tyBytes (s.dTO a) (rows * (if fn = 5 then ktop else 1))) true ++
      (if fn = 5 then touch m (f 0x24) (4 * rows * ktop) true else [])
  | 7 =>
    dmaTouch m (s.dsc a 0x10 8) (f 0x24) (f 0x28) (f 0x20) false ++ dmaTouch m (s.dsc a 0x18 8) (f 0x24) (f 0x2C) (f 0x20) true
  | 8 => touch m (f 0x10) (f 0x14) false
  | _ => []

/-- What descriptor `i` of core `m` touches. -/
def State.touches (s : State) (m i : Nat) : List Touch :=
  let a := s.descAt m i
  if s.dOp a = 1 ∨ s.dOp a = 2 ∨ s.dOp a = 4 then s.engineTouches m a else s.otherTouches m a

/-! ## The order of descriptors (R189) -/

/-- Does the end of descriptor `x` let descriptor `y` be dispatched: they follow each other on one unit of one core (R188), or `x`
signals a semaphore that `y` waits for, its own core's or, by PEER_SIGNAL, another's? -/
def State.chained (s : State) (x y : Nat × Nat) : Bool :=
  let a := s.descAt x.1 x.2
  let b := s.descAt y.1 y.2
  let peer := if s.dOp a = 7 then s.dsc a 0x30 2 else 0
  let dst := s.dsc a 0x18 8
  let peerMx := if spaceOf dst = 1 then bitsAt dst 21 5 else x.1
  (x.1 == y.1 && ((unitOf (s.dOp a) == unitOf (s.dOp b) && decide (x.2 < y.2)) || s.dSignal a &&& s.dWait b != 0)) ||
    (peerMx == y.1 && peer &&& s.dWait b != 0)

/-- The nodes that chains of at most `n` links reach from those given. -/
def State.reach (s : State) (all : List (Nat × Nat)) : Nat → List (Nat × Nat) → List (Nat × Nat)
  | 0, l => l
  | n + 1, l =>
    let new := all.filter fun y => !l.contains y && l.any fun x => s.chained x y
    if new.isEmpty then l else s.reach all n (l ++ new)

/-- A core's program breaks R189: one of its descriptors and another of the programs given touch overlapping bytes, and neither one
unit nor a chain orders them. -/
def State.raceBad (s : State) (ms : List Nat) (m : Nat) : Bool :=
  let all := ms.flatMap fun x => (s.program x).map fun i => (x, i)
  (s.program m).any fun i =>
    let x := (m, i)
    let after := s.reach all all.length [x]
    all.any fun y =>
      y != x && (s.touches m i).any (fun p => (s.touches y.1 y.2).any p.meets) &&
        !(x.1 == y.1 && unitOf (s.dOp (s.descAt m i)) == unitOf (s.dOp (s.descAt y.1 y.2))) &&
        !after.contains y && !(s.reach all all.length [y]).contains x

/-! ## Single descriptors -/

/-- A descriptor is a Ledger gather. -/
def State.isLedgerGather (s : State) (a : Nat) : Bool := s.dOp a == 3 && s.dsc a 0x18 1 != 1

/-- The Ledger descriptors that a gather of core `m` reads. -/
def State.gathered (s : State) (m a : Nat) : List Nat :=
  s.gatherDescs (m / 2) (s.dsc a 0x19 1) (s.dsc a 0x1A 1) ((s.dsc a 0x1B 1).testBit 0)

/-- E_PARAM of a single descriptor: POL_SEL 2 or 4 on a MERGED descriptor (R123), TAU_BASE or SKIM_MAX above 0 (R200), a PEER_SIGNAL
to a core of another fusion group (R203). -/
def State.descParamBad (s : State) (m a : Nat) : Bool :=
  let sel := bitsAt (s.dsc a 0x1B 1) 1 3
  let pos := fun x => f32nan x || f32lt 0 x
  let dst := s.dsc a 0x18 8
  (s.isLedgerGather a && (sel == 2 || sel == 4) && (s.gathered m a).any fun d => s.on LDB.POL_MODE (m / 2) d) ||
    (s.dOp a == 4 && (pos (s.dsc a 0x3C 4) || pos (s.dsc a 0x40 4))) ||
    (s.dOp a == 7 && s.dsc a 0x30 2 != 0 && spaceOf dst == 1 && s.rg MXC.GROUP (bitsAt dst 21 5) != s.rg MXC.GROUP m)

/-- E_LEDGER of a gather (R198): the map has no SLOT descriptor of the core's group in the own bank, or T leaves the window of R121. -/
def State.descLedgerBad (s : State) (m a : Nat) : Bool :=
  let k := m / 2
  let t := signed 32 (s.dsc a 0x28 4)
  s.isLedgerGather a &&
    (!((s.descs k).any fun d => s.rg LDB.MAP k d == s.dsc a 0x19 1 && s.on LDB.DISCIPLINE k d &&
        s.rg LDB.FENCE_GROUP k d == s.rg MXC.GROUP m) ||
      (s.gathered m a).any fun d => !decide (-((2 ^ 14 - 1) * 2 ^ s.unitExp k d : Int) ≤ t ∧ t ≤ 1024 * s.rg LDB.SETTLE k d))

/-! ## Worst-case time of a descriptor (R210, R215) -/

/-- Twice c_k. -/
def ck2 (ta tb : Nat) : Nat := if ta = 1 ∧ tb = 1 then 1 else if ta ≤ 3 then 2 else 4

/-- One 16 × 16 block of a reduction of length `k`: Kc × c_k + 24 cycles. -/
def blockCycles (k c2 : Nat) : Nat := kc k * c2 / 2 + 24

/-- MXCLK cycles of a COMPUTE descriptor. -/
def State.computeCycles (s : State) (a : Nat) : Nat :=
  let c2 := ck2 (s.dTA a) (s.dTB a)
  let up := fun n => ceilDiv n 16
  match s.dOp a with
  | 1 => 40 + up (s.dsc a 0x28 2) * up (s.dsc a 0x2A 2) * blockCycles (s.dsc a 0x2C 2) c2
  | 2 =>
    let c := s.convShape a
    let px := c.oh.toNat * c.ow.toNat
    if c.mode = 0 then 40 + c.groups * up px * ceilDiv c.cout (16 * c.groups) * blockCycles c.k c2
    else 40 + ceilDiv (px * c.cout) 64 * c.kh * c.kw
  | 4 =>
    let (nq, nk, d) := (s.dsc a 0x30 2, s.dsc a 0x32 2, s.dsc a 0x35 1)
    60 + s.dsc a 0x34 1 * (up nq * up nk * blockCycles d (ck2 (s.dTA a) (s.dTA a)) + up (nq * nk) +
      up nq * up d * blockCycles nk 4)
  | 5 => 20 + (if 6 ≤ s.dsc a 0x20 1 then up (s.dsc a 0x1C 4) else ceilDiv (s.dsc a 0x1C 4) 64)
  | 6 => 20 + up (s.dsc a 0x18 4) * s.dsc a 0x1C 4 * (1 + if s.dsc a 0x20 1 = 5 then up (s.dsc a 0x22 2) else 0)
  | _ => 0

/-- Lines of 32 entries that a Ledger gather reads, at most. -/
def State.gatherLines (s : State) (m a : Nat) : Nat :=
  let p := if (s.gathered m a).any fun d => !s.on LDB.POL_MODE (m / 2) d then 2 else 1
  s.dsc a 0x22 2 * (ceilDiv (s.dsc a 0x20 2 * 2 ^ s.dsc a 0x24 1 * p) 32 + 1)

/-- A gather reads a BACKED descriptor. -/
def State.gatherBacked (s : State) (m a : Nat) : Bool := (s.gathered m a).any fun d => s.on LDB.BACKED (m / 2) d

/-- Time of a GATHER: its EVCLK cycles, 40 ns to the first line, and the DDR4 bound for each line that may miss. -/
def State.gatherTime (s : State) (m a : Nat) : Nat :=
  if s.dsc a 0x18 1 = 1 then 20 * (20 + 2 * s.dsc a 0x24 2)
  else 20 * (20 + s.gatherLines m a) + 22 * 40 + (if s.gatherBacked m a then 22 * 700 * s.gatherLines m a else 0)

/-- The level of R210 that an address of core `m` lies on: 0 own SRAM, 1 same cluster, 2 same die, 3 other die, 4 DDR4. -/
def dmaLevel (m a : Nat) : Nat :=
  let x := bitsAt a 21 5
  if spaceOf a = 0 then 0
  else if spaceOf a = 1 then (if x = m then 0 else if x / 2 = m / 2 then 1 else if x / 8 = m / 8 then 2 else 3)
  else 4

/-- Time to move bytes over a level in `n` requests of which 512 are in flight. The share of a shared level is the loader's
allocation, which the spec leaves to it (assumption 154). -/
def moveTime (m lv bytes n : Nat) : Nat :=
  let share := max 1 (Config.dmaShare m lv)
  let lat := 22 * [0, 60, 120, 300, 700].getD lv 0 + if lv = 0 then 40 else 0
  let bw := match lv with
    | 0 => ceilDiv (10 * bytes) 64
    | 1 | 2 => ceilDiv (220 * bytes) 704
    | 3 => ceilDiv (22 * bytes * 1024) (64 * share)
    | _ => ceilDiv (22 * bytes * 1024) (128 * share)
  lat + max bw (if lv = 0 then 0 else n / 512 * lat)

/-- Time of a DMA or RESULT descriptor: the slower of its two ends. -/
def State.transferTime (s : State) (m a : Nat) : Nat :=
  if s.dOp a = 8 then moveTime m 4 (s.dsc a 0x14 4) (s.dsc a 0x14 4 / 64)
  else
    let (bytes, rows) := (s.dsc a 0x20 4, s.dsc a 0x24 4)
    let n := rows * ceilDiv bytes 64
    if n = 0 then 0
    else max (moveTime m (dmaLevel m (s.dsc a 0x10 8)) (rows * bytes) n) (moveTime m (dmaLevel m (s.dsc a 0x18 8)) (rows * bytes) n)

/-- Time of a descriptor once it runs. -/
def State.descTime (s : State) (m a : Nat) : Nat :=
  match unitOf (s.dOp a) with
  | 0 => 10 * s.computeCycles a
  | 1 => s.gatherTime m a
  | _ => s.transferTime m a

/-- The fence settle that a GATHER waits for, after F_n. -/
def State.settleTime (s : State) (m a : Nat) : Nat :=
  let k := m / 2
  if s.dOp a != 3 then 0
  else if s.dsc a 0x18 1 = 1 then
    let b := s.dsc a 0x19 1
    if s.on TOK.FENCED_EN k b then 22 * 1024 * s.rg TOK.SETTLE k b else 0
  else
    22 * 1024 * ((s.gathered m a).filter fun d => s.on LDB.DISCIPLINE k d && s.rg LDB.FENCE_GROUP k d == s.rg MXC.GROUP m).foldl
      (fun t d => max t (s.rg LDB.SETTLE k d)) 0

/-! ## The slot schedule (R188, R214) -/

/-- The run of one core's program in the schedule check: the next descriptor, its semaphores, what each unit runs and until when, the
time at which its last descriptor ended, and its last read of a fenced store. -/
structure SlotRun where
  m : Nat
  next : Nat
  sem : List Nat
  units : List (Option (Nat × Nat))
  last : Nat
  reads : Nat
deriving DecidableEq, Repr

/-- Dispatch at time `t` what the queue's head and those after it allow. -/
def State.simDispatch (s : State) (t : Nat) : Nat → SlotRun → SlotRun
  | 0, r => r
  | n + 1, r =>
    if s.rg MXC.PROG_LEN r.m ≤ r.next then r
    else
      let a := s.descAt r.m r.next
      let u := unitOf (s.dOp a)
      if ((r.units[u]?).getD none).isSome || !semsUp r.sem (s.dWait a) then r
      else
        let till := max t (s.settleTime r.m a) + s.descTime r.m a
        s.simDispatch t n { r with
          next := r.next + 1, sem := semsTake r.sem (s.dWait a), units := r.units.set u (some (r.next, till)),
          reads := if 0 < s.settleTime r.m a then max r.reads till else r.reads }

/-- Increment the semaphores of a mask. -/
def semsAdd (sem : List Nat) (mask : Nat) : List Nat := (List.range 16).map fun i => min 65535 (sem.getD i 0 + (if bit mask i then 1 else 0))

/-- What the descriptors that end at `t` signal to core `x`. -/
def State.simSignals (s : State) (t : Nat) (rs : List SlotRun) (x : Nat) (sem : List Nat) : List Nat :=
  rs.foldl (fun sem r => r.units.foldl (fun sem e =>
    match e with
    | some (i, till) =>
      let a := s.descAt r.m i
      let dst := s.dsc a 0x18 8
      let sem := if till = t ∧ r.m = x then semsAdd sem (s.dSignal a) else sem
      if till = t ∧ s.dOp a = 7 ∧ (if spaceOf dst = 1 then bitsAt dst 21 5 else r.m) = x then semsAdd sem (s.dsc a 0x30 2) else sem
    | none => sem) sem) sem

/-- Run the programs on: dispatch, then let the earliest descriptors end. -/
def State.simRun (s : State) : Nat → Nat → List SlotRun → List SlotRun
  | 0, _, rs => rs
  | n + 1, t, rs =>
    let rs := rs.map (s.simDispatch t 16384)
    match (rs.flatMap fun r => r.units.filterMap fun e => e.map (·.2)).min? with
    | none => rs
    | some t' =>
      s.simRun n t' (rs.map fun r => { r with
        sem := s.simSignals t' rs r.m r.sem, last := if r.units.any (fun e => e.any (·.2 == t')) then t' else r.last,
        units := r.units.map fun e => e.filter fun x => x.2 != t' })

/-- The schedule of a slot of core `m` with the other bound cores of its group. -/
def State.schedule (s : State) (m : Nat) : List SlotRun :=
  let ms := (List.range 32).filter fun x => x == m || (s.on MXC.BOUND x && s.rg MXC.GROUP x == s.rg MXC.GROUP m)
  s.simRun (2 + (ms.map fun x => s.rg MXC.PROG_LEN x).sum) 0
    (ms.map fun x => ⟨x, 0, s.semInit x, [none, none, none], 0, 0⟩)

/-- Core `m`'s program breaks R214 or R115: it does not end, or ends after DEADLINE_NS or the slot period of its group, or reads a
fenced store until the next slot instant. -/
def State.slotTimeBad (s : State) (m : Nat) : Bool :=
  let p := s.rg FG.PERIOD_NS (s.rg MXC.GROUP m)
  match (s.schedule m).find? fun r => r.m == m with
  | none => false
  | some r =>
    s.rg MXC.PROG_LEN m != 0 &&
      (decide (r.next < s.rg MXC.PROG_LEN m) || r.units.any (·.isSome) || decide (22 * s.rg MXC.DEADLINE_NS m < r.last) ||
        (p != 0 && (decide (22 * p < r.last) || decide (22 * p ≤ r.reads))))

/-- A bound core's deadline leaves no room before the cutoff of its group (R268). -/
def State.collectBad (s : State) (m : Nat) : Bool :=
  s.on MXC.BOUND m && decide (s.rg FG.COLLECT_NS (s.rg MXC.GROUP m) < s.rg MXC.DEADLINE_NS m + 2000)

/-- Group `g`'s samples of a slot do not end before the next slot instant (R115): they begin at the cutoff, 40 HUBCLK each. -/
def State.sampleTimeBad (s : State) (g : Nat) : Bool :=
  s.groupOn g && s.rg FG.SAMPLE_COUNT g != 0 &&
    decide (11 * s.rg FG.PERIOD_NS g ≤ 11 * s.rg FG.COLLECT_NS g + 800 * s.rg FG.SAMPLE_COUNT g)

/-! ## DDR4 demand (R237) -/

/-- Bytes below `x` that lie on place `c` of `n` channels. -/
def chanBelow (n c x : Nat) : Nat := x / (256 * n) * 256 + min 256 (x % (256 * n) - 256 * c)

/-- Level-2 bytes of a slot of core `m` on place `c` of `n` channels: the DDR4 ends of its DMA, and the lines that BACKED gathers may
miss, spread evenly. -/
def State.slotBytes (s : State) (m n c : Nat) : Nat :=
  ((s.program m).map fun i =>
    let a := s.descAt m i
    if s.dOp a = 7 then
      let (bytes, rows) := (s.dsc a 0x20 4, s.dsc a 0x24 4)
      let side := fun (o ld : Nat) => if spaceOf (s.dsc a o 8) = 2 then
          ((List.range rows).map fun r =>
            let x := s.dsc a o 8 % 2 ^ 40 + r * s.dsc a ld 4
            chanBelow n c (x + bytes) - chanBelow n c x).sum else 0
      side 0x10 0x28 + side 0x18 0x2C
    else if s.isLedgerGather a && s.gatherBacked m a then ceilDiv (64 * s.gatherLines m a) n
    else 0).sum

/-- The bound cores of a group exceed, with those of the other groups, L2_CAP of a channel: bytes over slot periods, in MB/s. -/
def State.demandBad (s : State) : Bool :=
  let chs := s.channels
  let n := chs.length
  let gs := (List.range 4).filter fun g => s.groupOn g
  let all := gs.foldl (fun x g => x * s.rg FG.PERIOD_NS g) 1
  (List.range n).any fun c =>
    let need := (gs.map fun g =>
      (((List.range 32).filter fun m => s.on MXC.BOUND m && s.rg MXC.GROUP m == g).map fun m => s.slotBytes m n c).sum *
        (all / s.rg FG.PERIOD_NS g)).sum
    decide (s.rg DDR.L2_CAP (chs.getD c 0) * all < 1000 * need)

end Sys2Proof.Machine
end

