-- ==== Sys2Proof/Machine/Loader.lean ====
section
/-!
DEFINITION. The model loader (chapter 12): packages (R335, R336), the placement of their units (R340), their checks in the order of
R339, how a section is written, and the steps of a load and an unload (R338, R342, R343).
-/
namespace Sys2Proof.Machine
open Regs

/-! ## Packages (R335, R336) -/

/-- A section table entry: its index, TYPE, VARIANT, logical cluster and unit of TARGET, OFFSET, LENGTH, AUX. -/
structure Sect where
  idx : Nat
  type : Nat
  variant : Nat
  lc : Nat
  unit : Nat
  off : Nat
  len : Nat
  aux : Nat
deriving DecidableEq, Repr

/-- Header fields. -/
def pkgPart (d : List Byte) : Nat := leAt d 0x0E 1
def pkgClusters (d : List Byte) : Nat := leAt d 0x0F 1
def pkgGen (d : List Byte) : Nat := leAt d 0x10 2
def pkgSects (d : List Byte) : Nat := leAt d 0x0C 2
def pkgSigned (d : List Byte) : Bool := (leAt d 6 2).testBit 0
def pkgRemap (d : List Byte) : Bool := (leAt d 6 2).testBit 1
def pkgVariants (d : List Byte) : Nat := leAt d 0x14 1

/-- The section table. -/
def sections (d : List Byte) : List Sect :=
  (List.range (pkgSects d)).map fun i =>
    let o := 0x40 + 16 * i
    let tgt := leAt d (o + 2) 2
    ⟨i, leAt d o 1, leAt d (o + 1) 1, tgt / 4096, tgt % 4096, leAt d (o + 4) 4, leAt d (o + 8) 4, leAt d (o + 12) 4⟩

/-- The body of a section. -/
def Sect.body (x : Sect) (d : List Byte) : List Byte := (d.drop x.off).take x.len

/-- The sections that a matrix variant uses. -/
def forVariant (v : Nat) (l : List Sect) : List Sect := l.filter fun x => x.variant == 0xFF || x.variant == v

/-- TARGET names a logical cluster. -/
def Sect.inCluster (x : Sect) : Bool := decide (1 ≤ x.type ∧ x.type ≤ 0x0C)

/-- TARGET's unit is one that the type allows. -/
def Sect.unitOk (x : Sect) : Bool :=
  if x.type ≤ 5 then decide (x.unit < 256)
  else if x.type = 0x0A ∨ x.type = 0x0B then decide (x.unit < 2)
  else if x.type = 0x0E then decide (x.unit < 4 ∧ x.lc = 0)
  else if x.type = 0x10 then decide (x.unit < 36 ∧ x.lc = 0)
  else x.unit == 0 && (x.inCluster || x.lc == 0)

/-- Two sections overlap. -/
def overlap (x y : Sect) : Bool := decide (x.off < y.off + y.len ∧ y.off < x.off + x.len)

/-! ## Checks (R339) -/

/-- The header is as R335 gives it. -/
def headerOk (d : List Byte) (pkgLen : Nat) : Bool :=
  leAt d 0 4 == 0x504D584C && leAt d 4 2 == 1 && leAt d 6 2 < 4 && leAt d 8 4 == pkgLen && pkgLen % 64 == 0 &&
    zerosIn d 0x15 0x40 && decide (0x40 + 16 * pkgSects d + 128 ≤ pkgLen)

/-- The header fields whose range R335 gives lie in it. -/
def headerRanges (d : List Byte) : Bool :=
  decide (1 ≤ pkgSects d ∧ pkgSects d ≤ 4096) && decide (pkgPart d ≤ 15) && decide (1 ≤ pkgClusters d ∧ pkgClusters d ≤ 16) &&
    decide (1 ≤ pkgVariants d ∧ pkgVariants d ≤ 8)

/-- A fan-in entry breaks R145: a refused value, or a row that passes the end of synapse memory. -/
def faninEntryBad (syn : List Byte) (w0 w1 : Nat) : Bool :=
  let fmt := bitsAt w0 38 3
  let base := bitsAt w0 41 13
  let rows := bitsAt w0 28 10 + 1 - bitsAt w0 18 10
  let word := fun a => leAt syn (2 * a) 2
  bitsAt w0 28 10 < bitsAt w0 18 10 || 4 ≤ fmt || bitsAt w0 58 6 != 0 ||
    (if fmt = 0 then w1 != 0 || decide (8192 < base + rows) ||
        (List.range rows).any fun j => decide (8191 < word (base + j) + 2 * word (word (base + j)))
      else if fmt = 1 then
        bitsAt w1 10 11 == 0 || decide (1024 < bitsAt w1 10 11) || decide (16384 < 2 * base + rows * bitsAt w1 10 11)
      else if fmt = 2 then
        bitsAt w1 0 4 == 0 || bitsAt w1 4 4 == 0 || bitsAt w1 15 7 == 0 || decide (64 < bitsAt w1 15 7) || bitsAt w1 32 6 == 0 ||
          decide (32 < bitsAt w1 32 6) || bitsAt w1 38 6 == 0 || decide (32 < bitsAt w1 38 6) ||
          decide (16384 < 2 * base + bitsAt w1 0 4 * bitsAt w1 4 4)
      else w1 != 0)

/-- The keys by which the index must ascend. -/
def faninSorted : List Nat → Bool
  | a :: b :: r => decide (a ≤ b) && faninSorted (b :: r)
  | _ => true

/-- A fan-in index breaks R145. -/
def faninBad (syn b : List Byte) : Bool :=
  let n := b.length / 16
  let w := (List.range n).map fun i => (leAt b (16 * i) 8, leAt b (16 * i + 8) 8)
  w.any (fun e => faninEntryBad syn e.1 e.2) || !faninSorted (w.map fun e => bitsAt e.1 0 18 * 1024 + bitsAt e.1 18 10)

/-- The synapse image of the core that a section targets. -/
def synapseOf (d : List Byte) (x : Sect) : List Byte :=
  match (sections d).find? fun y => y.type == 4 && y.lc == x.lc && y.unit == x.unit with
  | some y => y.body d
  | none => []

/-- A section breaks a rule that E_FORMAT refuses. -/
def sectFormatBad (d : List Byte) (x : Sect) : Bool :=
  x.off % 64 != 0 || decide (x.off < 0x40 + 16 * pkgSects d) || decide (leAt d 8 4 < x.off + x.len + 128) ||
    (sections d).any (fun y => y.idx != x.idx && overlap x y) || x.type == 0 || decide (0x12 < x.type) ||
    (x.inCluster && decide (pkgClusters d ≤ x.lc)) || (x.type == 5 && faninBad (synapseOf d x) (x.body d)) ||
    (x.type == 0x11 && (x.len % 6 != 0 || (List.range (x.len / 6)).any fun i =>
      match (sections d)[leAt (x.body d) (6 * i) 2]? with
      | some y => decide (y.len < leAt (x.body d) (6 * i + 2) 4 + 8)
      | none => true)) ||
    (x.type == 0x12 && decide (2 ^ (2 * pkgClusters d) ≤ x.aux))

/-- The physical cluster of logical cluster `l`. -/
def mapOf (map l : Nat) : Nat := bitsAt map (4 * l) 4

/-- The signature of a package verifies (R337). -/
def State.pkgSigOk (s : State) (d : List Byte) : Bool :=
  let len := leAt d 8 4
  let t := d.drop (len - 128)
  let slot := leAt t 0 1
  decide (slot ≤ 3) && !bit s.sec.revoked slot && (Tab.get [] s.sec.owner slot) != [] &&
    Config.ed448Verify (Tab.get [] s.sec.owner slot) (Config.shake256 (d.take (len - 128))) ((t.drop 14).take 114)

/-! ## Placement (R340) -/

/-- Where a package's logical units go: CLUSTER_MAP, N_LCLUSTER, REMAP_OK, and the sliver cores that were fenced when it was checked
(R338). -/
structure Place where
  map : Nat
  n : Nat
  remap : Bool
  fenced : List Nat
deriving DecidableEq, Repr

/-- The placement of a package under a map. -/
def State.placeOf (s : State) (d : List Byte) (map : Nat) : Place :=
  ⟨map, pkgClusters d, pkgRemap d, (List.range 4096).filter s.coreFenced⟩

/-- The placement that a running load uses. -/
def CmdRun.place (r : CmdRun) : Place := ⟨leAt r.entry 0x18 8, pkgClusters r.data, pkgRemap r.data, r.fenced⟩

/-- The physical cluster of logical cluster `l`; a number beyond N_LCLUSTER stands for itself. -/
def Place.cluster (pl : Place) (l : Nat) : Nat := if l < pl.n then mapOf pl.map l else l

/-- The mask of the physical clusters of logical clusters. -/
def Place.clusters (pl : Place) (ls : List Nat) : Nat := (ls.map pl.cluster).foldl (fun m k => m ||| 2 ^ k) 0

/-- The sliver cores of a physical cluster that are not fenced, in order. -/
def Place.good (pl : Place) (k : Nat) : List Nat := (List.range 256).filter fun n => !pl.fenced.contains (256 * k + n)

/-- The physical core of its cluster that logical core `n` goes to, if it has one. -/
def Place.core? (pl : Place) (k n : Nat) : Option Nat :=
  if pl.fenced.all fun x => x / 256 != k then some n
  else if pl.remap then (pl.good k)[n]?
  else if pl.fenced.contains (256 * k + n) then none else some n

/-- That core, or the number itself where there is none (such a package is refused). -/
def Place.core (pl : Place) (k n : Nat) : Nat := (pl.core? k n).getD n

/-- The set of fenced matrix cores of the mapped clusters, by 2 × logical cluster + core. -/
def State.fencedMask (s : State) (d : List Byte) (map : Nat) : Nat :=
  (List.range (2 * pkgClusters d)).foldl (fun m i => if s.mxFenced (2 * mapOf map (i / 2) + i % 2) then m ||| 2 ^ i else m) 0

/-- The variant that serves that set. -/
def State.variantFor (s : State) (d : List Byte) (map : Nat) : Option Nat :=
  let m := s.fencedMask d map
  if m = 0 then some 0
  else ((sections d).find? fun x => x.type == 0x12 && x.aux == m).map fun x => x.variant

/-- The pages that a section writes, on the physical units. -/
def Sect.pages (x : Sect) (pl : Place) : List Page :=
  let k := pl.cluster x.lc
  if 1 ≤ x.type ∧ x.type ≤ 5 then [⟨.cg, 16 * k + pl.core k x.unit % 256 / 16⟩]
  else if x.type = 6 then [⟨.clu, k⟩, ⟨.ldb, k⟩]
  else if x.type = 7 ∨ x.type = 8 then [⟨.clu, k⟩]
  else if x.type = 9 then [⟨.ldb, k⟩]
  else if x.type = 0x0A ∨ x.type = 0x0B then [⟨.mxc, 2 * k + x.unit % 2⟩]
  else if x.type = 0x0C then [⟨.tok, k⟩]
  else if x.type = 0x0E then [⟨.fg, x.unit % 4⟩, ⟨.fuse, 0⟩]
  else if x.type = 0x0F then [⟨.fab, 0⟩]
  else if x.type = 0x10 then [⟨.stream, x.unit % 36⟩]
  else []

/-- The matrix core that a section targets. -/
def Sect.mx (x : Sect) (pl : Place) : Nat := 2 * pl.cluster x.lc + x.unit % 2

/-- The settings of a section's body; memory images, DDR sections, RELOC and VARIANT hold none. -/
def Sect.settings (x : Sect) (d : List Byte) : List Config.Setting :=
  if (1 ≤ x.type ∧ x.type ≤ 5) ∨ x.type = 0x0A ∨ x.type = 0x0D ∨ x.type = 0x11 ∨ x.type = 0x12 then [] else Config.bodySettings x.type (x.body d)

/-! ## Writing a section (R336, R340, R342) -/

/-- The bytes of a list of logical core numbers of cluster `k`, on physical cores, from bit 0 up. -/
def Place.coreBytes (pl : Place) (k : Nat) (cores : List Nat) : Nat := leNat ((cores.map (pl.core k)).map (BitVec.ofNat 8))

/-- The mask of logical cores of cluster `k`, on physical cores. -/
def Place.coreMask (pl : Place) (k : Nat) (cores : List Nat) : Nat := (cores.map (pl.core k)).foldl (fun m n => m ||| 2 ^ n) 0

/-- The eight words of a 256-bit mask, on consecutive offsets. -/
def maskWords (off m : Nat) : List (Nat × Nat × Nat) := (List.range 8).map fun j => (0, off + 4 * j, bitsAt m (32 * j) 32)

/-- The register writes of a setting: number of the page among the section's, offset, value. -/
def State.settingWrites (s : State) (pl : Place) (x : Sect) : Config.Setting → List (Nat × Nat × Nat)
  | .reg p off v => [(p, off, v)]
  | .sub i cores =>
    let b := pl.coreBytes (pl.cluster x.lc) (cores.take 7)
    [(0, 0x218, i), (0, 0x21C, bitsAt b 0 32), (0, 0x220, bitsAt b 32 24 + min 7 cores.length * 2 ^ 24)]
  | .route i e =>
    let m := pl.clusters ((List.range 16).filter (bit e))
    [(0, 0x224, i), (0, 0x228, setBitsAt (bitsAt e 0 32) 0 16 m), (0, 0x22C, bitsAt e 32 32)]
  | .group i tag valid cores =>
    [(0, 0x230, i), (0, 0x234, tag + if valid then 2 ^ 31 else 0)] ++ maskWords 0x238 (pl.coreMask (pl.cluster x.lc) cores)
  | .readers cores => (maskWords 0x0C0 (pl.coreMask (pl.cluster x.lc) cores)).map fun w => (1, w.2)
  | .tile i cl ledger =>
    let own := match ledger with | some l => pl.cluster l * 2 ^ 16 + 2 ^ 20 | none => 0
    [(0, 0x080, i + (1 - s.rg STREAM.ACTIVE_BANK (x.unit % 36)) * 4096), (0, 0x084, pl.clusters cl + own)]
  | .fgt i tag valid dev cl =>
    [(0, 0x0A0, i), (0, 0x0A4, tag + if valid then 2 ^ 31 else 0), (0, 0x0A8, bitsAt dev 0 32), (0, 0x0AC, bitsAt dev 32 32),
     (0, 0x0B0, pl.clusters cl)]
  | .pin dev p a => [(0, 0x090, dev), (0, 0x094, p + a * 16 + 2 ^ 14)]

/-- The code with which a rejected write refuses a package (R339), in the state before it. -/
def State.writeCode (s : State) (x : Sect) (p : Page) (off : Nat) (v : Word) : Nat :=
  if x.type = 7 ∨ x.type = 8 ∨ x.type = 0x0F then 4
  else if x.type = 6 ∧ off = 0x210 ∧ 0 < CLU.TW.of v ∧ CLU.TW.of v ≤ 64 ∧ 0 < CLU.TH.of v ∧ CLU.TH.of v ≤ 64 then 4
  else if x.type = 9 ∧ off = 0x050 ∧ LDB.DESC_EN.of v = 1 ∧ LDB.HALO.of v ≤ 4 ∧ ¬(LDB.SOURCE.of v = 0 ∧ 35 < LDB.KEY.of v) then
    let k := p.inst
    let d := s.rg LDB.DESC_INDEX k
    let s' := descCfgFields.foldl (fun s f => s.rs f k (f.of v) d) s
    if !s'.descClash k d && s'.scrubOk k d && s'.on LDB.BACKED k d then 7 else 5
  else if x.type = 0x0E ∧ p.pk = .fg ∧ off = 0x040 ∧ 100000 ≤ v.toNat ∧ v.toNat ≤ 100000000 ∧ !s.fgOk p.inst v.toNat then 8
  else 0x0D

/-- ERR_PARAM of a page. -/
def State.paramErr (s : State) (p : Page) : Bool := (s.rg (Hdr.IRQ_RAW p.pk) p.inst).testBit 4

/-- One register write of a section: the code it refuses the package with, if it is rejected, and the state after it. -/
def State.sectWrite (s : State) (x : Sect) (pages : List Page) (w : Nat × Nat × Nat) : Option Nat × State :=
  match pages[w.1]? with
  | none => (some 0x0D, s)
  | some p =>
    let v := BitVec.ofNat 32 w.2.2
    let before := s.rg (Hdr.IRQ_RAW p.pk) p.inst
    let t := (s.rs (Hdr.IRQ_RAW p.pk) p.inst (setBitsAt before 4 1 0)).unitWrite p (w.2.1 % 4096) v
    (if t.paramErr p then some (s.writeCode x p (w.2.1 % 4096) v) else none,
     t.rs (Hdr.IRQ_RAW p.pk) p.inst (t.rg (Hdr.IRQ_RAW p.pk) p.inst ||| before))

/-- The settings of a section that satisfy `keep`, written in order: the codes of those rejected, and the state after them. -/
def State.settingsApply (s : State) (d : List Byte) (pl : Place) (x : Sect) (keep : Config.Setting → Bool) : List Nat × State :=
  ((x.settings d).filter keep).foldl (fun acc e =>
    (acc.2.settingWrites pl x e).foldl (fun acc w =>
      let r := acc.2.sectWrite x (x.pages pl) w
      (acc.1 ++ r.1.toList, r.2)) acc) ([], s)

/-- The fan-in index with SRC_CORE of this device's clusters rewritten (R336, R340). -/
def State.faninMapped (s : State) (pl : Place) (b : List Byte) : List Byte :=
  (List.range (b.length / 16)).flatMap fun i =>
    let w0 := leAt b (16 * i) 8
    let l := bitsAt w0 8 4
    let w := if bitsAt w0 12 6 = s.devNum ∧ l < pl.n then
        setBitsAt w0 0 12 (pl.cluster l * 256 + pl.core (pl.cluster l) (bitsAt w0 0 8))
      else w0
    leBytes 8 w ++ (b.drop (16 * i + 8)).take 8

/-- Write an SRAM image. -/
def State.image (s : State) (a : Nat) (b : List Byte) : State := { s with sram := Mem.wrBytes s.sram a b }

/-- A core slot image: RUN and read-only fields are ignored. -/
def State.slotImage (s : State) (n : Nat) (b : List Byte) : State :=
  (List.range 56).foldl (fun s j =>
    let w := leAt b (4 * j) 4
    s.putWord .cgs n (4 * j) (BitVec.ofNat 32 (if j = 0 then w - w % 2 else w))) s

/-- The MX numbers of the DMA descriptors of core `m`'s program, on physical clusters (R203, R336). -/
def State.dmaMapped (s : State) (pl : Place) (m : Nat) : State :=
  (s.program m).foldl (fun s i =>
    let a := s.descAt m i
    if s.dOp a ≠ 7 then s
    else [0x10, 0x18].foldl (fun s o =>
      let w := s.dsc a o 8
      if spaceOf w = 1 then
        { s with sram := s.sram.wrLE (a + o) 8 (setBitsAt w 21 5 (2 * pl.cluster (bitsAt w 21 5 / 2) + bitsAt w 21 5 % 2)) }
      else s) s) s

/-- Write an image section of a cluster. -/
def State.imageApply (s : State) (d : List Byte) (pl : Place) (x : Sect) : State :=
  let k := pl.cluster x.lc
  let b := x.body d
  let n := 256 * k + pl.core k x.unit
  match x.type with
  | 1 => s.image (coreBase n) b
  | 2 => s.slotImage n b
  | 3 => s.image (coreBase n + 0x800) b
  | 4 => s.image (coreBase n + 0x1800) b
  | 5 => s.image (coreBase n + 0x5800) (s.faninMapped pl b)
  | 0x0A => s.image (mxBase (x.mx pl)) b
  | _ => s

/-- A section of cluster images, or of settings. -/
def Sect.isImage (x : Sect) : Bool := decide (1 ≤ x.type ∧ x.type ≤ 5) || x.type == 0x0A

/-- Write the sections of step 4 of R342 that are given: images and settings in table order, then the MX numbers. GROUPS waits for
step 6. -/
def State.step4 (s : State) (d : List Byte) (pl : Place) (u : List Sect) : List (Nat × Nat) × State :=
  let r := u.foldl (fun (acc : List (Nat × Nat) × State) x =>
    if x.isImage then (acc.1, acc.2.imageApply d pl x)
    else if x.type = 8 then acc
    else
      let y := acc.2.settingsApply d pl x fun _ => true
      (acc.1 ++ y.1.map fun c => (c, x.idx), y.2)) ([], s)
  (r.1, (u.filter fun x => x.type == 0x0A).foldl (fun s x => s.dmaMapped pl (x.mx pl)) r.2)

/-! ## The dry run

The checks look at the state that the load would leave: a copy in which the mapped clusters are reset and the groups of FUSION
sections are disabled, and the chosen variant's sections are written. Nothing of the copy is kept. -/

/-- The pages of a cluster that the loader resets. -/
def loaderPages (k : Nat) : List Page :=
  (List.range 16).map (fun g => ⟨.cg, 16 * k + g⟩) ++ [⟨.mxc, 2 * k⟩, ⟨.mxc, 2 * k + 1⟩, ⟨.ldb, k⟩, ⟨.tok, k⟩]

/-- The copy that the checks write to. -/
def State.scratch (s : State) (d : List Byte) (pl : Place) (u : List Sect) : State :=
  let s := (List.range (pkgClusters d)).foldl (fun s l => (loaderPages (pl.cluster l)).foldl (fun s p => s.blockReset p true) s) s
  u.foldl (fun s x => if x.type = 0x0E ∧ s.groupOn (x.unit % 4) then s.fgDisable (x.unit % 4) else s) s

/-- The dry run of a variant: the writes that are refused, with their sections, and the state. A group that a FUSION section leaves
disabled takes its old period again, as R342 enables it again. -/
def State.dryRun (s : State) (d : List Byte) (pl : Place) (v : Nat) : List (Nat × Nat) × State :=
  let u := forVariant v (sections d)
  let c := (s.scratch d pl u).step4 d pl (u.filter fun x => x.inCluster)
  u.foldl (fun acc x =>
    if x.type = 8 ∨ x.type = 0x0F ∨ x.type = 0x10 then
      let y := acc.2.settingsApply d pl x fun _ => true
      (acc.1 ++ y.1.map (fun e => (e, x.idx)), y.2)
    else if x.type = 0x0E then
      let g := x.unit % 4
      let y := acc.2.settingsApply d pl x fun _ => true
      let w := if s.groupOn g && !y.2.groupOn g then
          y.2.sectWrite x (x.pages pl) (0, 0x040, s.rg FG.PERIOD_NS g) else (none, y.2)
      (acc.1 ++ (y.1 ++ w.1.toList).map (fun e => (e, x.idx)), w.2)
    else acc) c

/-! ## The checks of a section -/

/-- The logical clusters and cores that a setting names. -/
def settingClusters : Config.Setting → List Nat
  | .route _ e => (List.range 16).filter (bit e)
  | .tile _ cl l => cl ++ l.toList
  | .fgt _ _ _ _ cl => cl
  | _ => []
def settingCores : Config.Setting → List Nat
  | .sub _ c | .group _ _ _ c | .readers c => c
  | _ => []

/-- A setting's indices and numbers lie in their ranges; those of the route and group tables are E_ROUTE's. -/
def settingRange (n : Nat) (e : Config.Setting) : Bool :=
  (settingClusters e).all (· < n) && (settingCores e).all (· < 256) &&
    (match e with
     | .sub i c => decide (i < 4096 ∧ c.length ≤ 7)
     | .group _ tag _ _ | .fgt _ tag _ _ _ => decide (tag < 64)
     | .tile i _ _ => decide (i < 4096)
     | .pin _ p a => decide (p < 8 ∧ a < 8)
     | _ => true)

/-- A unit that a section uses is fenced and has no place (R340). -/
def State.placeLost (s : State) (d : List Byte) (pl : Place) (x : Sect) : Bool :=
  let k := pl.cluster x.lc
  if 1 ≤ x.type ∧ x.type ≤ 5 then (pl.core? k x.unit).isNone
  else if x.type = 0x0A ∨ x.type = 0x0B then s.mxFenced (x.mx pl)
  else (x.inCluster && s.clusterFenced k) ||
    (x.settings d).any fun e => (settingClusters e).any (fun l => decide (l < pl.n) && s.clusterFenced (pl.cluster l)) ||
      (settingCores e).any fun n => (pl.core? k n).isNone

/-- A route entry breaks R142 or R140 in cluster `k`: reserved bits, or a DELAY too short for a destination cluster, or, with FABRIC,
for a device in its group's DEV_MASK. -/
def State.routeBad (s : State) (k e : Nat) : Bool :=
  let w := s.rg CLU.TS_WINDOW k + 1
  let delay := bitsAt e 18 6
  let grp := bitsAt e 32 16
  let i := grp % 1024
  e.testBit 63 &&
    (bitsAt e 24 8 != 0 || bitsAt e 48 15 != 0 ||
      (List.range 16).any (fun c => bit e c && decide (delay + s.rg CLU.TS_WINDOW c < w)) ||
      (e.testBit 16 && s.on FAB.FGT_VALID 0 i && s.rg FAB.FGT_TAG 0 i == grp / 1024 &&
        (List.range 64).any fun f => bit (s.rg FAB.FGT_DEVMASK 0 i) f && decide (delay < w + s.fabricBound f)))

/-- Route entry `i` of cluster `k` as one word. -/
def State.routeWord (s : State) (k i : Nat) : Nat := s.rg CLU.RT_LO k i + s.rg CLU.RT_HI k i * 2 ^ 32

/-- E_ROUTE of a section of route or group entries (R131, R140, R142), or of FABRIC (R395), in the state after the dry run. -/
def State.routesBad (s : State) (d : List Byte) (pl : Place) (x : Sect) : Bool :=
  let es := x.settings d
  let tooMany := fun p => decide (1024 < (es.filter p).length)
  if x.type = 7 then
    tooMany (fun e => match e with | .route _ _ => true | _ => false) ||
      es.any fun e => match e with
        | .route i _ => decide (1024 ≤ i) || s.routeBad (pl.cluster x.lc) (s.routeWord (pl.cluster x.lc) i)
        | _ => false
  else if x.type = 8 then
    tooMany (fun e => match e with | .group _ _ _ _ => true | _ => false) ||
      es.any fun e => match e with | .group i _ _ _ => decide (1024 ≤ i) | _ => false
  else if x.type = 0x0F then
    es.any (fun e => match e with
      | .fgt i _ _ dev _ => decide (1024 ≤ i) || (List.range 64).any fun f => bit dev f && !s.on FAB.REACHABLE 0 f
      | .pin dev p a => decide (64 ≤ dev) || !s.linkUp p || !s.linkUp a
      | _ => false) ||
      (List.range 4).any (fun g => (List.range 64).any fun f =>
        bit (s.rg (FAB.REPORT_PEERS.nth g) 0) f && !s.on FAB.REACHABLE 0 f) ||
      (List.range 16).any fun k => (List.range 1024).any fun i =>
        (s.routeWord k i).testBit 16 && s.routeBad k (s.routeWord k i)
  else false

/-- Bytes of matrix core `m`'s token buffers that are enabled (R22). -/
def State.tokBytes (s : State) (m : Nat) : Nat :=
  let k := m / 2
  ((List.range 16).map fun j =>
    let b := 16 * (m % 2) + j
    if s.on TOK.BUF_EN k b then 64 * s.rg TOK.NS k b * s.rg TOK.GW k b * s.rg TOK.GH k b else 0).sum

/-- SRAM image plus token buffers exceed 2 MB in a matrix core of the cluster that a section targets. -/
def State.mxMemBad (s : State) (d : List Byte) (pl : Place) (u : List Sect) (x : Sect) : Bool :=
  [0, 1].any fun j =>
    let image := ((u.filter fun y => y.type == 0x0A && y.lc == x.lc && y.unit == j).map fun y => (y.body d).length).sum
    (x.type == 0x0C || x.unit == j) && decide (mxSize < image + s.tokBytes (2 * pl.cluster x.lc + j))

/-- Matrix cores of the package that hold a program. -/
def State.programs (s : State) (d : List Byte) (pl : Place) : List Nat :=
  (List.range (2 * pkgClusters d)).filterMap fun i =>
    let m := 2 * pl.cluster (i / 2) + i % 2
    if s.rg MXC.PROG_LEN m = 0 then none else some m

/-- A section is refused with a code by the rules that look at the state after the dry run. -/
def State.modelBad (s : State) (d : List Byte) (pl : Place) (u : List Sect) (code : Nat) (x : Sect) : Bool :=
  let m := x.mx pl
  match code with
  | 0x0D =>
    x.type == 0x0B && ((s.program m).any (fun i => s.descParamBad m (s.descAt m i)) || s.raceBad (s.programs d pl) m)
  | 4 => s.routesBad d pl x
  | 5 => x.type == 0x0B && (s.program m).any fun i => s.descLedgerBad m (s.descAt m i)
  | 6 => (x.type == 0x0A || x.type == 0x0C) && s.mxMemBad d pl u x
  | 8 =>
    if x.type = 0x0B then s.slotTimeBad m || s.collectBad m || (s.on MXC.BOUND m && s.demandBad)
    else x.type == 0x0E &&
      ((List.range 32).any (fun c => s.rg MXC.GROUP c == x.unit && s.collectBad c) || s.sampleTimeBad (x.unit % 4))
  | _ => false

/-- A section is refused with a code by its own fields, or by the units it needs. -/
def State.sectBad (s : State) (d : List Byte) (pl : Place) (code : Nat) (x : Sect) : Bool :=
  let b := x.body d
  match code with
  | 0x0D =>
    !x.unitOk || !(x.variant == 0xFF || decide (x.variant < pkgVariants d)) ||
      (x.pages pl).any (fun p => !s.mayWrite .mgmtP0 p.addr) || (x.settings d).any (fun e => !settingRange pl.n e) ||
      (x.type == 2 && (b.length != 224 || decide (181 < leAt b (0x38 + 30) 2) || decide (128 < leAt b 0x0C 1)))
  | 9 => s.placeLost d pl x
  | 3 => x.type == 1 && decide (2048 < x.len)
  | 2 => x.type == 3 && decide (4096 < x.len)
  | 1 => (x.type == 4 && decide (16384 < x.len)) || (x.type == 5 && decide (2048 < x.len))
  | _ => false

/-- The first of the sections, in table order, that is refused with a code: by itself, by a write, by the state after the dry run. -/
def State.firstBad (s : State) (d : List Byte) (pl : Place) (dry : List (Nat × Nat) × State) (u : List Sect) (code : Nat) :
    Option (Nat × Nat) :=
  (u.find? fun x => s.sectBad d pl code x || dry.1.contains (code, x.idx) || dry.2.modelBad d pl u code x).map fun x => (code, x.idx)

/-! ## DDR4 allocation -/

/-- Round up to 4,096 bytes. -/
def up4k (n : Nat) : Nat := (n + 4095) / 4096 * 4096

/-- The allocations in force. -/
def State.allocs (s : State) : List (Nat × Nat) :=
  (s.host.parts.filterMap fun e => if 0 < e.2.ddrSize then some (e.2.ddrBase, e.2.ddrSize) else none)

/-- The free gaps of the model region: base and size. -/
def State.gaps (s : State) : List (Nat × Nat) :=
  let base := s.rg HQ.MODEL_BASE 0
  let top := base + s.rg HQ.MODEL_SIZE 0
  let starts := base :: s.allocs.map fun a => a.1 + a.2
  starts.filterMap fun b =>
    if s.allocs.any fun a => decide (a.1 ≤ b ∧ b < a.1 + a.2) then none
    else
      let e := s.allocs.foldl (fun e a => if b ≤ a.1 then min e a.1 else e) top
      if b < e then some (b, e - b) else none

/-- The places in a gap at which `size` bytes fit. -/
def places (size : Nat) (g : Nat × Nat) : Nat := if size ≤ g.2 then (g.2 - size) / 4096 + 1 else 0

/-- The `v`-th place. -/
def pickPlace (size v : Nat) : List (Nat × Nat) → Option Nat
  | [] => none
  | g :: gs => if v < places size g then some (g.1 + 4096 * v) else pickPlace size (v - places size g) gs

/-- The DDR4 bytes that a section needs, in the state after the dry run: the DDR section's size, the escape ring (R235), the BACKED
regions (R108). -/
def State.ddrOf (s : State) (d : List Byte) (pl : Place) (x : Sect) : Nat :=
  let k := pl.cluster x.lc
  if x.type = 0x0D then Config.ddrSize (x.body d)
  else if x.type = 6 then s.rg CLU.ESC_SIZE k
  else if x.type = 9 then (((s.descs k).filter fun e => s.on LDB.BACKED k e).map fun e => 64 * (s.region k e).lines).sum
  else 0

/-- What a package's sections need, up to and with each section. -/
def State.ddrNeeds (s : State) (d : List Byte) (pl : Place) (l : List Sect) : List (Nat × Nat) :=
  (l.foldl (fun (acc : Nat × List (Nat × Nat)) x => (acc.1 + s.ddrOf d pl x, acc.2 ++ [(x.idx, acc.1 + s.ddrOf d pl x)])) (0, [])).2

/-- The total need. -/
def State.ddrNeed (s : State) (d : List Byte) (pl : Place) (l : List Sect) : Nat :=
  match (s.ddrNeeds d pl l).getLast? with | some e => e.2 | none => 0

/-- The first section at which the need no longer fits. -/
def State.ddrShort (s : State) (needs : List (Nat × Nat)) : Option (Nat × Nat) :=
  (needs.find? fun e => e.2 != 0 && (s.gaps.map (places (up4k e.2))).sum == 0).map fun e => (7, e.1)

/-! ## The checks in table order (R338, R339) -/

/-- E_PARAM of a section, in any variant: it is checked before the variant is chosen. -/
def State.firstParam (s : State) (d : List Byte) (pl : Place) : Option (Nat × Nat) :=
  let vs := (List.range (pkgVariants d)).map fun v => (forVariant v (sections d), s.dryRun d pl v)
  ((sections d).find? fun x =>
    s.sectBad d pl 0x0D x || vs.any fun e => e.1.contains x && (e.2.1.contains (0x0D, x.idx) || e.2.2.modelBad d pl e.1 0x0D x)).map
    fun x => (0x0D, x.idx)

/-- The checks that follow E_PARAM, for the variant chosen: a refusal, or the DDR4 bytes needed. -/
def State.variantCheck (s : State) (d : List Byte) (pl : Place) (v : Nat) : Except (Nat × Nat) Nat :=
  let u := forVariant v (sections d)
  let dry := s.dryRun d pl v
  match [9, 3, 2, 1, 4, 5, 6, 7].findSome? (s.firstBad d pl dry u) with
  | some e => .error e
  | none =>
    match s.ddrShort (dry.2.ddrNeeds d pl u) with
    | some e => .error e
    | none => match s.firstBad d pl dry u 8 with
      | some e => .error e
      | none => .ok (dry.2.ddrNeed d pl u)

/-- The result of the checks: a refusal (code, DETAIL), or the variant chosen and the DDR4 bytes needed. -/
def State.loadCheck (s : State) (d : List Byte) (pkgLen map : Nat) : Except (Nat × Nat) (Nat × Nat) :=
  let l := sections d
  let pl := s.placeOf d map
  let cl := (List.range (pkgClusters d)).map (mapOf map)
  let p := s.part (pkgPart d)
  let heldByOther := fun k => (List.range 16).any fun q => q != pkgPart d && bit (s.part q).clusters k
  if !headerOk d pkgLen then .error (0x0C, 0xFFFF)
  else match l.find? (sectFormatBad d) with
  | some x => .error (0x0C, x.idx)
  | none =>
    if (!pkgSigned d && bit (s.opt 1) 0) || (pkgSigned d && !s.pkgSigOk d) then .error (0x0A, 0xFFFF)
    else if p.loaded && !newer 16 (pkgGen d) p.gen then .error (0x0B, 0xFFFF)
    else if !headerRanges d || cl.eraseDups.length < cl.length || cl.any heldByOther then .error (0x0D, 0xFFFF)
    else match s.firstParam d pl with
    | some e => .error e
    | none =>
      match s.variantFor d map with
      | none => .error (9, 0xFFFF)
      | some v => match s.variantCheck d pl v with
        | .error e => .error e
        | .ok n => .ok (v, n)

/-! ## Applying (R342) -/

/-- The package with the partition's DDR4 base added to the fields that RELOC names. -/
def relocated (d : List Byte) (base : Nat) (l : List Sect) : List Byte :=
  (l.filter fun x => x.type == 0x11).foldl (fun d x =>
    (List.range (x.len / 6)).foldl (fun d i =>
      match (sections d)[leAt (x.body d) (6 * i) 2]? with
      | some y =>
        let o := y.off + leAt (x.body d) (6 * i + 2) 4
        d.take o ++ leBytes 8 (leAt d o 8 + base) ++ d.drop (o + 8)
      | none => d) d) d

/-- Step 1 of a cluster: its group table is invalid and its gate set. -/
def State.clusterBegin (s : State) (k : Nat) : State :=
  let s := (List.range 1024).foldl (fun s e => if s.on CLU.GT_VALID k e then s.rb CLU.GT_VALID k false e else s) s
  s.rs DIST.CLUSTER_GATE 0 (setBit (s.rg DIST.CLUSTER_GATE 0) k true)

/-- A load with ATOMIC runs each step for all its clusters before the next. -/
def CmdRun.atomic (r : CmdRun) : Bool := r.opcode == 1 && (leAt r.entry 0x14 4).testBit 1

/-- Begin the next cluster, or all of them when ATOMIC. -/
def State.beginNext (s : State) : State :=
  match s.host.cmd with
  | none => s
  | some r =>
    let n := if r.atomic then r.todo.length else 1
    let s := (r.todo.take n).foldl (fun s e => s.clusterBegin e.1) s
    s.upCmd fun (r : CmdRun) => { r with todo := (r.todo.take n).map (fun e => (e.1, 1, s.tick)) ++ r.todo.drop n }

/-- The step that cluster `k` has reached, while the running command works on it: 1 begun, 2 its cores are stopped, 3 its slot programs
have ended, 4 its resets run, 5 they are complete, 6 its sections are written, 7 its cores run. -/
def State.clusterStep (s : State) (k : Nat) : Option (CmdRun × Nat × Nat) :=
  match s.host.cmd with
  | none => none
  | some r => if r.phase != 3 then none else (r.todo.find? fun e => e.1 == k).map fun e => (r, e.2.1, e.2.2)

/-- Cluster `k` has reached a step. -/
def State.setStep (s : State) (k st : Nat) : State :=
  s.upCmd fun (r : CmdRun) => { r with todo := r.todo.map fun e => if e.1 = k then (k, st, s.tick) else e }

/-- The clusters that stand at a step and may go on from it: with ATOMIC none while one of them has not reached it. -/
def State.atStep (s : State) (st : Nat) : List Nat :=
  match s.host.cmd with
  | none => []
  | some r =>
    if r.atomic && r.todo.any fun e => decide (e.2.1 < st) then [] else (r.todo.filter fun e => e.2.1 == st).map fun e => e.1

/-- The job stopped while a load was applied (R343). -/
def State.loadStopped (s : State) : State :=
  match s.host.cmd with
  | some r =>
    if r.opcode = 1 ∧ r.phase = 3 then
      (s.upPart (pkgPart r.data) fun x => { x with state := 3 }).completeOpen 9 0xFFFF
    else s
  | none => s

/-- Step 2 of cluster `k`: the queues are empty after W + 1 tick boundaries, and its cores stop. From here its matrix cores are held: no
slot program starts, and their groups' slots are DEGRADED. -/
def State.clusterStop2 (s : State) (k : Nat) : State :=
  let s := (List.range 256).foldl (fun s n => if s.on CGS.RUN (256 * k + n) then s.runOff (256 * k + n) else s) s
  let ms := [2 * k, 2 * k + 1].filterMap fun m => if s.on MXC.BOUND m then some (m, s.rg MXC.GROUP m) else none
  (s.upCmd fun (r : CmdRun) => { r with held := r.held ++ ms }).setStep k 2

/-- Step 3 of every cluster whose turn it is: its pages are IDLE, and the resets begin. -/
def State.clusterResets (s : State) : State :=
  (s.atStep 3).foldl (fun s k =>
    if (loaderPages k).all fun p => s.idle p && !s.resetting.contains p && !s.heldPages.contains p then
      ((loaderPages k).foldl (fun s p => s.resetAccept p false) s).setStep k 4
    else s) s

/-- CLUSTER_QUIESCED of cluster `k`: steps 2 and 3. -/
def State.clusterQuiesced (s : State) (k : Nat) : State :=
  match s.clusterStep k with
  | none => s
  | some (r, st, t0) =>
    if r.jobStop && r.opcode == 1 then s.loadStopped
    else
      let s := if st = 1 ∧ t0 + s.rg CLU.TS_WINDOW k + 1 ≤ s.tick ∧ (List.range 256).all fun n => (s.core (256 * k + n)).queue.isEmpty then
          s.clusterStop2 k else s
      let s := if (s.clusterStep k).any (·.2.1 == 2) && !s.on MXC.SLOT_RUNNING (2 * k) && !s.on MXC.SLOT_RUNNING (2 * k + 1) then s.setStep k 3
        else s
      s.clusterResets

/-- The sections of cluster `k`. -/
def CmdRun.sectsOf (r : CmdRun) (k : Nat) : List Sect :=
  (forVariant r.variant (sections r.data)).filter fun x => x.inCluster && r.place.cluster x.lc == k

/-- Step 5 of cluster `k`: RUN = 1 on each core that the package marks running, unless it has been fenced. -/
def State.clusterRun (s : State) (r : CmdRun) (k : Nat) : State :=
  ((r.sectsOf k).filter fun x => x.type == 2 && (leAt (x.body r.data) 0 1).testBit 0).foldl (fun s x =>
    let n := 256 * k + r.place.core k x.unit
    if s.coreFenced n then s else s.coreStart n) s

/-- No Ledger clear of a cluster runs. -/
def State.clearsDone (s : State) (k : Nat) : Bool := (List.range 64).all fun d => !s.on LDB.INIT_BUSY k d

/-- Step 4 is complete and step 5 runs, for every cluster whose turn it is: with ATOMIC when the clears of all are done. -/
def State.clusterRuns (s : State) : State :=
  match s.host.cmd with
  | none => s
  | some r =>
    let ks := s.atStep 6
    if r.atomic && !ks.all s.clearsDone then s
    else (ks.filter s.clearsDone).foldl (fun s k => (s.clusterRun r k).setStep k 7) s

/-- The clear of a descriptor completes (R126), which may complete step 4 of a load. -/
def State.clearDoneLoad (s : State) (k d : Nat) : State := (s.clearDone k d).clusterRuns

/-- Step 4 of every cluster whose turn it is: the loader writes the cluster's sections. -/
def State.clusterWrites (s : State) : State :=
  match s.host.cmd with
  | none => s
  | some r => ((s.atStep 5).foldl (fun s k => ((s.step4 r.data r.place (r.sectsOf k)).2).setStep k 6) s).clusterRuns

/-- The settings of the group tables and the fabric group table (R342, R395), and the others. -/
def isFgt : Config.Setting → Bool
  | .fgt _ _ _ _ _ => true
  | _ => false

/-- Step 6 of the clusters given: the group tables are valid, the gates clear, generations and notices. -/
def State.resume (s : State) (r : CmdRun) (ks : List Nat) : State :=
  let d := r.data
  let p := pkgPart d
  ks.foldl (fun s k =>
    let s := ((r.sectsOf k).filter fun x => x.type == 8).foldl (fun s x => (s.settingsApply d r.place x fun _ => true).2) s
    let s := s.rs DIST.CLUSTER_GATE 0 (setBit (s.rg DIST.CLUSTER_GATE 0) k false)
    let g := HQ.CLUSTER_GEN.nth (k / 2)
    let s := s.rs g 0 (setBitsAt (s.rg g 0) (16 * (k % 2)) 16 (pkgGen d))
    let s := s.rs HQ.CLUSTER_PART 0 (setBitsAt (s.rg HQ.CLUSTER_PART 0) (4 * k) 4 p)
    let s := s.upPart p fun x => { x with clusters := setBit x.clusters k true }
    s.notice 6 k (pkgGen d + p * 65536)) s

/-- The FGT entries of the FABRIC sections, written with the group tables of the last cluster (R395). -/
def State.fgtApply (s : State) (r : CmdRun) : State :=
  ((forVariant r.variant (sections r.data)).filter fun x => x.type == 0x0F).foldl (fun s x =>
    (s.settingsApply r.data r.place x isFgt).2) s

/-- A FUSION section: an enabled group whose locked fields it changes is disabled for it and enabled again (R342). -/
def State.fusionApply (s : State) (d : List Byte) (pl : Place) (x : Sect) : State :=
  let g := x.unit % 4
  let hit := (x.settings d).any fun e => match e with
    | .reg p off v => p == 0 && (off == 0x040 || s.locked .fg g (off % 4096) (BitVec.ofNat 32 v))
    | _ => false
  if s.groupOn g && hit then
    let old := s.rg FG.PERIOD_NS g
    let s := ((s.fgDisable g).settingsApply d pl x fun _ => true).2
    let s := if s.groupOn g then s else s.periodWrite g (BitVec.ofNat 32 old)
    s.upCmd fun (r : CmdRun) => { r with groupRestart := true }
  else (s.settingsApply d pl x fun _ => true).2

/-- VALUE of a load or query. -/
def partValue (gen mask variant : Nat) : Nat := gen + mask * 65536 + variant * 2 ^ 32

/-- The last cluster has resumed: tile maps, fabric and fusion sections, then the completion. -/
def State.loadEnd (s : State) (r : CmdRun) : State :=
  let d := r.data
  let p := pkgPart d
  let s := (forVariant r.variant (sections d)).foldl (fun s x =>
    if x.type = 0x10 then ((s.settingsApply d r.place x fun _ => true).2).tmapCtrl (x.unit % 36) 2
    else if x.type = 0x0F then (s.settingsApply d r.place x fun e => !isFgt e).2
    else if x.type = 0x0E then s.fusionApply d r.place x else s) s
  let slot := if pkgSigned d then leAt (d.drop (leAt d 8 4 - 128)) 0 1 else 0xFF
  let s := s.upPart p fun x =>
    { x with gen := pkgGen d, state := 1, loaded := true, keySlot := slot, variant := r.variant,
             pkgDigest := Config.shake256 (d.take (leAt d 8 4 - 128)), ddrBase := r.ddrBase, ddrSize := r.ddrSize }
  s.complete 0 0xFFFF (partValue (pkgGen d) (s.part p).clusters r.variant)

/-- The partition of an UNLOAD is EMPTY (R330). -/
def State.partEmpty (s : State) (p : Nat) : State :=
  let m := (s.part p).clusters
  let s := (List.range 16).foldl (fun s k =>
    if bit m k then s.rs HQ.CLUSTER_PART 0 (setBitsAt (s.rg HQ.CLUSTER_PART 0) (4 * k) 4 0xF) else s) s
  s.upPart p fun x => { x with state := 0, clusters := 0, pkgDigest := [], keySlot := 0xFF, variant := 0, ddrBase := 0, ddrSize := 0 }

/-- CLUSTER_RESETS_DONE of cluster `k`: its resets complete, and the loader goes on to step 4. An UNLOAD goes on to its next cluster or
ends. -/
def State.clusterResetsDone (s : State) (k : Nat) : State :=
  match s.clusterStep k with
  | none => s
  | some (r, st, _) =>
    if r.jobStop && r.opcode == 1 then s.loadStopped
    else if st = 4 then
      let s := (loaderPages k).foldl (fun s p => s.resetDone p.addr) s
      if r.opcode = 1 then (s.setStep k 5).clusterWrites
      else
        let rest := r.todo.filter fun e => e.1 != k
        let s := s.upCmd fun (r : CmdRun) => { r with todo := rest }
        if rest.isEmpty then (s.partEmpty (leAt r.entry 8 1)).completeOpen 0 0xFFFF else s.beginNext
    else s

/-- The next tick boundary after step 5: the cluster resumes, with ATOMIC all of them. -/
def State.clusterResume (s : State) (k : Nat) : State :=
  match s.clusterStep k with
  | none => s
  | some (r, _, t0) =>
    if r.jobStop && r.opcode == 1 then s.loadStopped
    else if r.opcode = 1 ∧ (s.atStep 7).contains k ∧ t0 < s.tick then
      let ks := if r.atomic then r.todo.map fun e => e.1 else [k]
      let rest := if r.atomic then [] else r.todo.filter fun e => e.1 != k
      let s := (s.resume r ks).upCmd fun (r : CmdRun) =>
        { r with todo := rest, held := r.held.filter fun e => !ks.contains (e.1 / 2) }
      if rest.isEmpty then (s.fgtApply r).loadEnd r else s.beginNext
    else s

/-! ## The commands -/

/-- LOAD: the package is read from PKG_ADDR into the staging area (R338 step 1). -/
def State.load (s : State) (cmd pkg : List Byte) (ok : Bool) : State :=
  s.command 1 cmd fun s =>
    let len := leAt cmd 0x10 4
    if s.rg PWR.PWR_STATE 0 != 0 || leAt cmd 8 8 % 64 != 0 then s.completeOpen 0x0D 0xFFFF
    else if s.rg HQ.STAGE_SIZE 0 < len || s.rg HQ.STAGE_SIZE 0 == 0 || s.channels.isEmpty then s.completeOpen 7 0xFFFF
    else
      let good := ok && pkg.length == len
      let s := s.hostRead (leAt cmd 8 8) len
      let s := if good then { s with ddr4 := Mem.wrBytes s.ddr4 (s.rg HQ.STAGE_BASE 0) pkg } else s
      s.upCmd fun (r : CmdRun) => { r with data := pkg, readErr := !good }

/-- The package is staged: the checks, then the completion or the first cluster (R338 steps 2 to 4). -/
def State.packageStaged (s : State) : State :=
  match s.host.cmd with
  | none => s
  | some r =>
    if r.opcode ≠ 1 ∨ r.phase ≠ 1 then s
    else if r.readErr then s.completeOpen 0x0C 0xFFFE
    else
      let s := (s.rs HQ.CMD_STATE 0 2).upCmd fun (r : CmdRun) => { r with phase := 2, fenceSeen := false, jobStop := false }
      let map := leAt r.entry 0x18 8
      let chk := s.loadCheck r.data (leAt r.entry 0x10 4) map
      match chk with
      | .error e => s.completeOpen e.1 e.2
      | .ok (v, need) =>
        let u := forVariant v (sections r.data)
        let cl := (List.range (pkgClusters r.data)).map (mapOf map)
        let ks := (List.range 16).filter fun k => cl.contains k
        if (leAt r.entry 0x14 4).testBit 0 then
          s.complete 0 0xFFFF (partValue (pkgGen r.data) (ks.foldl (fun m k => m ||| 2 ^ k) 0) v)
        else
          let size := up4k need
          let (fv, s) := s.takeFree
          let n := (s.gaps.map (places size)).sum
          let base := if size = 0 ∨ n = 0 then 0 else (pickPlace size (fv % n) s.gaps).getD 0
          let s := if size = 0 then s
            else (u.filter fun x => x.type == 0x0D).foldl (fun s x =>
              { s with ddr4 := Mem.wrBytes s.ddr4 base (Config.ddrImage (x.body r.data)) }) s
          let d := relocated r.data base u
          let fenced := (s.placeOf d map).fenced
          let s := s.upPart (pkgPart d) fun x => { x with state := 2 }
          let s := (s.rs HQ.CMD_STATE 0 3).upCmd fun (r : CmdRun) =>
            { r with phase := 3, data := d, todo := ks.map (fun k => (k, 0, 0)), variant := v, ddrBase := base, ddrSize := size, fenced := fenced }
          s.beginNext

/-- UNLOAD (R330). -/
def State.unload (s : State) (cmd : List Byte) : State :=
  s.command 2 cmd fun s =>
    let p := leAt cmd 8 1
    if 15 < p then s.completeOpen 0x0D 0xFFFF
    else if (s.part p).clusters = 0 then (s.partEmpty p).completeOpen 0 0xFFFF
    else
      let ks := (List.range 16).filter (bit (s.part p).clusters)
      let s := (s.rs HQ.CMD_STATE 0 3).upCmd fun (r : CmdRun) => { r with phase := 3, todo := ks.map fun k => (k, 0, 0) }
      s.beginNext

/-- QUERY (R330). -/
def State.query (s : State) (cmd : List Byte) : State :=
  s.command 3 cmd fun s =>
    let p := leAt cmd 8 1
    let x := s.part p
    if 15 < p then s.completeOpen 0x0D 0xFFFF else s.complete 0 0xFFFF (partValue x.gen x.clusters x.variant)

/-- DESC_CLEAR_DONE (R126). -/
def execDescClearDone (t : Nat) (k : Fin 16) (d : Fin 64) (s : State) : Res := .next ((s.advance t).clearDoneLoad k d)

end Sys2Proof.Machine
end

