-- ==== Sys2Proof/Machine/Host.lean ====
section
/-!
DEFINITION. The host interface (chapter 12) around the command engine and the loader: live firmware update (R451–R453) and
attestation (R445, R446), PERST# and Function Level Reset, configuration requests, and the commands of these.
-/
namespace Sys2Proof.Machine
open Regs

/-! ## Attestation (R444–R446) -/

/-- The device's identity key (R444). -/
def identityKey : List Byte :=
  (Config.shake256 (Config.deviceSecret ++ ("LX3640 identity".toList.map fun c => BitVec.ofNat 8 c.toNat))).take 57

/-- The microcode of every core of a set of clusters, in ascending order of the cores. -/
def State.ucodeOf (s : State) (mask : Nat) : List Byte :=
  ((List.range 16).filter (bit mask)).flatMap fun k => (List.range 256).flatMap fun n => s.sram.rdBytes (coreBase (256 * k + n)) 2048

/-- The option bytes in effect. -/
def State.optBytes (s : State) : List Byte := (List.range 256).map fun i => BitVec.ofNat 8 (s.opt i)

/-- A partition's entry. -/
def State.attestPart (s : State) (p : Nat) : List Byte :=
  let x := s.part p
  let dig := if x.state = 0 then List.replicate 64 0 else x.pkgDigest
  leBytes 1 p ++ leBytes 1 x.state ++ leBytes 2 x.gen ++ leBytes 2 x.clusters ++ leBytes 1 x.keySlot ++ leBytes 1 0 ++ dig ++
    Config.shake256 (s.ucodeOf x.clusters) ++ List.replicate 8 0

/-- The length of a report on `n` partitions. -/
def attestLen (n : Nat) : Nat := (0x0C0 + 144 * n + 114 + 63) / 64 * 64

/-- An attestation report (R446). -/
def State.attestReport (s : State) (nonce : List Byte) (mask : Nat) : List Byte :=
  let ps := (List.range 16).filter (bit mask)
  let len := attestLen ps.length
  let flags := s.rg OPT.OPT_BAD 0 + s.rg OPT.OPT_BLANK 0 * 2 + s.rg VAULT.BOOT_SRC 0 * 4 + s.opt 1 % 2 * 16 +
    s.rg HUB.REPLACE_REQUEST 0 * 32 + s.rg HUB.JOB_STOPPED 0 * 64 + s.rg VAULT.FILLED 0 * 256 + s.rg VAULT.REVOKED 0 * 4096
  let b := leBytes 4 0x52545441 ++ leBytes 2 1 ++ leBytes 1 ps.length ++ leBytes 1 0 ++ leBytes 4 len ++ leBytes 4 flags ++
    leBytes 8 Config.uid ++ leBytes 8 s.dt ++ nonce ++ s.sec.fwDigest ++ Config.shake256 s.optBytes ++ ps.flatMap s.attestPart
  let b := b ++ (Config.ed448Sign identityKey (Config.shake256 b)).take 114
  b ++ List.replicate (len - b.length) 0

/-- ATTEST (R445). -/
def State.attest (s : State) (cmd : List Byte) : State :=
  s.command 4 cmd fun s =>
    let mask := leAt cmd 0x34 2
    let len := attestLen ((List.range 16).filter (bit mask)).length
    if leAt cmd 0x30 4 < len || leAt cmd 0x28 8 % 64 != 0 then s.completeOpen 0x0D 0xFFFF
    else (s.dmaWrite (leAt cmd 0x28 8) (s.attestReport ((cmd.drop 8).take 32) mask)).complete 0 0xFFFF len

/-! ## Firmware images (R442) and live update (R451–R453) -/

/-- The check of an image, `none` where the read failed: 0, or FAIL_REASON 1 to 4. -/
def imageCheck (img : Option (List Byte)) : Nat :=
  match img with
  | none => 1
  | some d =>
    let len := leAt d 0x0C 4
    let body := leAt d 0x10 4
    let ent := leAt d 0x14 4
    if leAt d 0 4 != 0x4D46584C || leAt d 4 2 != 1 || !zerosIn d 6 8 || len % 64 != 0 || decide (len < 1024) || decide (8388608 < len) ||
        decide (d.length < len) || ent % 4 != 0 || decide (body ≤ ent) || !zerosIn d 0x18 0x40 || decide (len - 192 < 0x40 + body) ||
        !zerosIn d (0x40 + body) (len - 192) || !zerosIn d (len - 135) (len - 128) || !zerosIn d (len - 14) len then 2
    else if Config.shake256 ((d.drop (len - 192)).take 57) != Config.rootDigest then 3
    else if !Config.ed448Verify ((d.drop (len - 192)).take 57) (Config.shake256 (d.take (len - 128))) ((d.drop (len - 128)).take 114) then 4
    else 0

/-- The version of an image, and its digest (of bytes 0 to LENGTH − 129). -/
def imageVersion (d : List Byte) : Nat := leAt d 8 4
def imageDigest (d : List Byte) : List Byte := Config.shake256 (d.take (leAt d 0x0C 4 - 128))

/-- Where management SRAM lies in BAR2 (R39). -/
def mgmtBase : Nat := 0x0F800000

/-- An image that has passed runs: its body is in management SRAM. -/
def State.imageRun (s : State) (d : List Byte) : State :=
  let s := (s.image mgmtBase ((d.drop 0x40).take (leAt d 0x10 4))).rs VAULT.IMG_VERSION 0 (imageVersion d)
  { s with sec := { s.sec with fwDigest := imageDigest d } }

/-- FW_UPDATE: steps 1 to 3 of R452. -/
def State.fwUpdate (s : State) (cmd img : List Byte) (ok : Bool) : State :=
  s.command 5 cmd fun s =>
    let len := leAt cmd 0x10 4
    if s.rg PWR.PWR_STATE 0 != 0 || leAt cmd 8 8 % 64 != 0 then s.completeOpen 0x0D 0xFFFF
    else if s.rg HQ.STAGE_SIZE 0 < len then s.completeOpen 7 0xFFFF
    else if 8388608 < len then s.completeOpen 0x0C 0xFFFF
    else
      let s := s.hostRead (leAt cmd 8 8) len
      let good := ok && img.length == len
      let s := if good then { s with ddr4 := Mem.wrBytes s.ddr4 (s.rg HQ.STAGE_BASE 0) img } else s
      let r := if good then imageCheck (some img) else 2
      if r = 2 then s.completeOpen 0x0C 0xFFFF
      else if r ≠ 0 then s.completeOpen 0x0A 0xFFFF
      else if (leAt cmd 0x14 4).testBit 0 then s.complete 0 0xFFFF (imageVersion img)
      else
        let s := (List.range s.sec.logs.length).foldl (fun s _ => s.logAppend true) s
        let s := { s.wdogReload with host := { s.host with fwDown := true } }
        s.upCmd fun (r : CmdRun) => { r with phase := 2, data := img }

/-- Notices queued while firmware started are written (R453). -/
def State.flushNotices (s : State) : State :=
  let q := s.host.noticeQ
  let s := { s with host := { s.host with noticeQ := [] } }
  q.foldl (fun s b => s.noticeAt (leAt b 0 1) (leAt b 1 2) (leAt b 3 4) (leAt b 7 8)) s

/-- The new firmware has started (R452 steps 4 and 5); without PERSIST the command ends. -/
def State.fwRestarted (s : State) : State :=
  match s.host.cmd with
  | none => s
  | some r =>
    if r.opcode ≠ 5 ∨ !s.host.fwDown then s
    else
      let s := ({ s with host := { s.host with fwDown := false } }).imageRun r.data
      let s := ((s.flushNotices).inc MGMT.RESTARTS 0).notice 5 0 (imageVersion r.data)
      let s := s.fwFrames s.rxHeld.length
      if (leAt r.entry 0x14 4).testBit 1 then s else s.complete 0 0xFFFF (imageVersion r.data)

/-- Programming the flash ends (R452 steps 6 and 7). -/
def State.fwPersist (s : State) (ok : Bool) : State :=
  match s.host.cmd with
  | none => s
  | some r =>
    if r.opcode ≠ 5 ∨ s.host.fwDown ∨ r.phase ≠ 2 ∨ !(leAt r.entry 0x14 4).testBit 1 then s
    else
      let s := if ok then s.emit (.flash 0 r.data) else s
      s.complete 0 0xFFFF (imageVersion r.data + (if ok then 2 ^ 32 else 2 ^ 33))

/-! ## PERST, FLR and the link (R324, R344, R345) -/

/-- What PERST# and a Function Level Reset reach. -/
def State.functionReset (s : State) : State :=
  let kept (k : Nat) : Bool := keyPk k != PK.hq.num || decide (keyOff k < 0x040) || decide (0x100 ≤ keyOff k)
  let s := { s with regs := s.regs.keep kept }
  let s := s.rb PCIE.BME 0 false
  let s := { s with host := { s.host with msixEn := false, funcMask := false, d3 := false, aspmL12 := false, msix := [], pba := 0,
                                          coalEnd := [], coalFold := [] } }
  match s.host.cmd with
  | none => s
  | some r =>
    if r.opcode = 1 ∧ r.phase = 1 then
      let (a, s) := s.takeFree
      let (b, s) := s.takeFree
      let s := { s with host := { s.host with cmd := none } }
      let s := ((s.rs HQ.CMD_STATE 0 0).rs HQ.CUR_OPCODE 0 0).rs HQ.CUR_TAG 0 0
      ((s.rs HQ.LAST_CODE 0 a).rs HQ.LAST_OPCODE 0 r.opcode).rs HQ.LAST_DETAIL 0 b
    else s.upCmd fun (r : CmdRun) => { r with silent := true }

/-- The link goes down. -/
def State.linkDown (s : State) : State :=
  if s.on PCIE.LINK_UP 0 then
    (((s.rb PCIE.LINK_UP 0 false).rs PCIE.LINK_SPEED 0 0).rs PCIE.LINK_WIDTH 0 0).irqSet pciePage 8
  else s

/-- What a BAR answers to sizing: the complement of its size with its type bits, 64-bit (2 in [2:1]) and prefetchable ([3]) for BAR2/3; the
upper word of each pair has no bit of the size (assumption 155). -/
def barSizing (i : Nat) : Nat :=
  match i with
  | 0 => 2 ^ 32 - 0x4000000 + 4
  | 2 => 2 ^ 32 - 0x10000000 + 12
  | 4 => 2 ^ 32 - 0x10000 + 4
  | _ => 2 ^ 32 - 1

/-- Is a capability present (R322)? -/
def capPresent : PcieCap → Bool
  | .powerManagement | .pciExpress | .msix | .advancedErrors | .serialNumber | .secondaryPcie | .dataLinkFeature | .physical16
  | .physical32 | .laneMargining | .l1Substates | .latencyTolerance => true
  | .msi | .sriov | .ats | .pri | .pasid | .acs | .resizableBar | .tph => false

/-- A configuration request (R322–R324, R333): there is no expansion ROM and no INTx, and the largest payload is 512 bytes. -/
def State.config (s : State) (q : CfgReq) : State :=
  if !s.on PCIE.LINK_UP 0 || s.host.perst then s
  else if !s.host.ready then s.emit (.cfg none)
  else
    let orDefault (x d : Nat) : Nat := if x = 0 then d else x
    match q with
    | .readVendor => s.emit (.cfg (some 0x1F7A))
    | .readDevice => s.emit (.cfg (some 0x3640))
    | .readClass => s.emit (.cfg (some 0x120000))
    | .readBar i => s.emit (.cfg (some (barSizing i)))
    | .readRom => s.emit (.cfg (some 0))
    | .readIntPin => s.emit (.cfg (some 0))
    | .readMaxPayload => s.emit (.cfg (some 512))
    | .readCap c => s.emit (.cfg (some (capPresent c).toNat))
    | .readSerial => s.emit (.cfg (some Config.uid))
    | .readSubsystem =>
      s.emit (.cfg (some (orDefault (s.opt 4 + 256 * s.opt 5) 0x1F7A + 65536 * orDefault (s.opt 6 + 256 * s.opt 7) 0x3640)))
    | .setBme on => ((s.rb PCIE.BME 0 on).msixFlush).emit (.cfg (some 0))
    | .setMsix en m => ({ s with host := { s.host with msixEn := en, funcMask := m } }).msixFlush.emit (.cfg (some 0))
    | .setD3 on => ({ s with host := { s.host with d3 := on } }).msixFlush.emit (.cfg (some 0))
    | .setL12 on => ({ s with host := { s.host with aspmL12 := on } }).emit (.cfg (some 0))

/-! ## Meanings -/

/-- CMD_TAIL (R328). -/
def execCmdTail (t : Nat) (v : Word) (s : State) : Res := .next ((s.advance t).doorbell 0x0000 fun s => s.dbProd 0 v.toNat)

/-- CPL_HEAD (R328). -/
def execCplHead (t : Nat) (v : Word) (s : State) : Res := .next ((s.advance t).doorbell 0x0004 fun s => s.dbCons 1 v.toNat)

/-- NTC_HEAD (R328). -/
def execNtcHead (t : Nat) (v : Word) (s : State) : Res := .next ((s.advance t).doorbell 0x0008 fun s => s.dbCons 2 v.toNat)

/-- RPT_CONS (R328). -/
def execRptCons (t : Nat) (g : Fin 4) (v : Word) (s : State) : Res :=
  .next ((s.advance t).doorbell (0x0010 + 4 * g) fun s => s.dbCons (3 + g) v.toNat)

/-- RING_ENABLE (R325). -/
def execRingEnable (t : Nat) (c : Req) (v : Word) (s : State) : Res := s.cmdWrite t c hqPage 0x04C fun s => s.ringCtrl v

/-- LOAD (R338). -/
def execLoad (t : Nat) (cmd pkg : List Byte) (ok : Bool) (s : State) : Res := .next ((s.advance t).load cmd pkg ok)

/-- PACKAGE_STAGED (R338). -/
def execPackageStaged (t : Nat) (s : State) : Res := .next (s.advance t).packageStaged

/-- CLUSTER_QUIESCED (R342). -/
def execClusterQuiesced (t : Nat) (k : Fin 16) (s : State) : Res := .next ((s.advance t).clusterQuiesced k)

/-- CLUSTER_RESETS_DONE (R342). -/
def execClusterResetsDone (t : Nat) (k : Fin 16) (s : State) : Res := .next ((s.advance t).clusterResetsDone k)

/-- CLUSTER_RESUME (R342). -/
def execClusterResume (t : Nat) (k : Fin 16) (s : State) : Res := .next ((s.advance t).clusterResume k)

/-- UNLOAD (R330). -/
def execUnload (t : Nat) (cmd : List Byte) (s : State) : Res := .next ((s.advance t).unload cmd)

/-- QUERY (R330). -/
def execQuery (t : Nat) (cmd : List Byte) (s : State) : Res := .next ((s.advance t).query cmd)

/-- NOP (R330). -/
def execCmdNop (t : Nat) (cmd : List Byte) (s : State) : Res :=
  .next ((s.advance t).command 0 cmd fun s => s.completeOpen 0 0xFFFF)

/-- ATTEST (R445). -/
def execAttest (t : Nat) (cmd : List Byte) (s : State) : Res := .next ((s.advance t).attest cmd)

/-- FW_UPDATE (R452). -/
def execFwUpdate (t : Nat) (cmd img : List Byte) (ok : Bool) (s : State) : Res := .next ((s.advance t).fwUpdate cmd img ok)

/-- FW_RESTARTED (R452). -/
def execFwRestarted (t : Nat) (s : State) : Res := .next (s.advance t).fwRestarted

/-- FW_PERSIST_DONE (R452). -/
def execFwPersistDone (t : Nat) (ok : Bool) (s : State) : Res := .next ((s.advance t).fwPersist ok)

/-- CMD_UNLISTED_OPCODE (R330): an unlisted opcode, or an unused byte that is not 0. -/
def execCmdUnlistedOpcode (t : Nat) (cmd : List Byte) (s : State) : Res :=
  let s := s.advance t
  .next (if 5 < leAt cmd 0 1 || cmdUnused cmd then s.command (leAt cmd 0 1) cmd fun s => s.completeOpen 0x0D 0xFFFF else s)

/-- COAL_EXPIRY (R333). -/
def execCoalExpiry (t : Nat) (ring : Fin 6) (s : State) : Res := .next ((s.advance t).coalExpiry ring)

/-- PERST_ASSERT (R344). -/
def execPerstAssert (t : Nat) (s : State) : Res :=
  let s := s.advance t
  let s := (s.linkDown.inc PCIE.PERST_COUNT 0).functionReset
  .next (({ s with host := { s.host with perst := true } }).irqSet pciePage 9)

/-- PERST_DEASSERT (R324): the link may train. -/
def execPerstDeassert (t : Nat) (s : State) : Res :=
  let s := s.advance t
  .next ({ s with host := { s.host with perst := false } })

/-- FLR (R344). -/
def execFlr (t : Nat) (s : State) : Res :=
  let s := s.advance t
  .next (((s.inc PCIE.FLR_COUNT 0).functionReset).irqSet pciePage 10)

/-- PCIE_LINK_DOWN (R345). -/
def execPcieLinkDown (t : Nat) (s : State) : Res := .next (s.advance t).linkDown

/-- PCIE_LINK_UP (R324): the endpoint trains once the Vault has released it and PERST# is high, at one of the rates and widths of R322. -/
def execPcieLinkUp (t : Nat) (sp : Fin 16) (wd : Fin 64) (s : State) : Res :=
  let s := s.advance t
  .next (if s.boot.hubUp && !s.host.perst && bit s.boot.lock 8 && decide (1 ≤ sp.val ∧ sp.val ≤ 5) && [1, 2, 4, 8].contains wd.val then
      ((s.rb PCIE.LINK_UP 0 true).rs PCIE.LINK_SPEED 0 sp).rs PCIE.LINK_WIDTH 0 wd
    else s)

/-- CONFIG_REQUEST (R324). -/
def execConfigRequest (t : Nat) (q : CfgReq) (s : State) : Res := .next ((s.advance t).config q)

end Sys2Proof.Machine
end

