-- ==== Sys2Proof/Machine/Reports.lean ====
section
/-!
DEFINITION. Fusion reports leave the report buffer: completion, the launch queues, and the release at the output time to the host
ring and the Piste peers (R267, R269, R332, R363, R388).
-/
namespace Sys2Proof.Machine
open Regs

/-- The output time that a report carries, in ns of WT (R265). -/
def State.outTime (s : State) (r : Report) : Nat := if r.world then r.target else s.wt s.activeDom r.target

/-- FLAGS of a report as it leaves: DOMAIN, HOLDOVER (the active domain's RATE_HELD, R357), STEP, and DEGRADED while the job is stopped (R298, R434). -/
def State.outFlags (s : State) (step : Bool) (flags : Nat) : Nat :=
  let hold := s.heldNow s.activeDom
  flags ||| (if s.activeDom = 1 then 32 else 0) ||| (if hold then 64 else 0) ||| (if step then 128 else 0) |||
    (if s.on HUB.JOB_STOPPED 0 then 1 else 0)

/-- The bytes of a report as it leaves. -/
def State.outBytes (s : State) (r : Report) : List Byte :=
  let t := s.outTime r
  let b := patch r.bytes 0x10 (leBytes 8 (t / 1000000000) ++ leBytes 4 (t % 1000000000))
  patch b 0x1C (leBytes 4 (s.outFlags r.step (leAt r.bytes 0x1C 4)))

/-- The first report that is not complete becomes complete (R267 step 3), once its sample points are read: it is counted and traced,
and posted to the launch queues that its DEST selects (R363). -/
def State.reportComplete (s : State) (g : Nat) : State :=
  match (s.gr g).reports.find? fun r => !r.done with
  | none => s
  | some r =>
   let (s, r) := s.lateSamples g r
   if !r.pend.isEmpty then s
   else
    let s := s.upGr g fun x => { x with reports := x.reports.map fun y => if y.n = r.n && !y.done then { r with done := true } else y }
    let s := (s.rb FG.RUNNING g ((s.gr g).reports.any fun y => !y.done)).inc FG.SLOTS_DONE g
    let s := s.peak FG.PROC_PEAK g ((s.dt - r.cut) * 11 / 20)
    let s := s.trace (fgPage g) 7 (leAt r.bytes 0x1C 4) r.n
    let b := s.outBytes r
    let s := if bit r.dest 1 then s.launchPost 0 g r.n (s.outTime r) b else s
    if bit r.dest 2 then s.launchPost 1 g r.n (s.outTime r) b else s

/-- A report goes into the group's host ring, or is dropped and counted (R332). -/
def State.reportRing (s : State) (g : Nat) (b : List Byte) : State :=
  let r := 3 + g
  if s.ringLive r && s.ringFill r + b.length ≤ s.ringCap r then
    let base := s.rg HQ.RING_BASE 0 r
    let cap := s.ringCap r
    let prod := s.rg HQ.RING_PROD 0 r
    let a := prod % cap
    let s := s.dmaWrite (base + a) (b.take (cap - a))
    let s := if cap < a + b.length then s.dmaWrite base (b.drop (cap - a)) else s
    let s := s.rs HQ.RING_PROD 0 (prod + b.length) r
    (s.dmaWrite (s.rg HQ.SHADOW_ADDR 0 r) (leBytes 4 (s.rg HQ.RING_PROD 0 r))).ringSignal (2 + g) (s.rg HQ.COAL_NS 0 r)
  else (s.inc (HQ.REPORTS_DROPPED.nth g) 0).irqSet hqPage 10

/-- The oldest report, when it is complete and its output time has come. -/
def State.releaseDue (s : State) (g : Nat) : Option Report :=
  ((s.gr g).reports.head?).filter fun r => r.done && (s.releaseDT r.world r.target).any fun d => decide (d ≤ s.dt)

/-- Release it (R269). -/
def State.reportRelease (s : State) (g : Nat) : State :=
  match s.releaseDue g with
  | none => s
  | some r =>
    let b := s.outBytes r
    let s := s.upGr g fun x => { x with reports := x.reports.drop 1 }
    let s := if s.on HUB.JOB_STOPPED 0 then s.rb (Hdr.DEGRADED .fg) g true else s
    let s := if bit r.dest 0 then s.reportRing g b else s
    let s := if bit r.dest 3 then s.reportPeers g r.n b else s
    s.irqSet (fgPage g) 8

/-- REPORT_COMPLETE (R267). -/
def execReportComplete (t : Nat) (g : Fin 4) (s : State) : Res := .next ((s.advance t).reportComplete g)

/-- REPORT_RELEASE (R269). -/
def execReportRelease (t : Nat) (g : Fin 4) (s : State) : Res := .next ((s.advance t).reportRelease g)

end Sys2Proof.Machine
end

