-- ==== Sys2Proof/Machine/Boot.lean ====
section
/-!
DEFINITION. Package resets, the option bytes, the watchdog, boot, host boot and the loss and return of PLL locks (R399–R412,
R418–R425).
-/
namespace Sys2Proof.Machine
open Regs

/-! ## Pages and phases -/

def rstcPage : Page := ⟨.rstc, 0⟩
def optPage : Page := ⟨.opt, 0⟩
def vaultPage : Page := ⟨.vault, 0⟩
def hubPage : Page := ⟨.hub, 0⟩

/-- BOOT_PHASE and its change (R420). -/
def State.phase (s : State) : Nat := s.rg RSTC.BOOT_PHASE 0
def State.setPhase (s : State) (p : Nat) : State := s.rs RSTC.BOOT_PHASE 0 p

/-! ## Option bytes (R406, R407) -/

/-- The judgement of the 256 bytes. -/
def optBlank (b : List Byte) : Bool := b.all (· == 0)
def optValid (b : List Byte) : Bool := b.length == 256 && leAt b 0 1 == 1 && leAt b 0xFC 4 == crc32 (b.take 0xFC)

/-- The defaults: FLAGS and DDR_RATE as given; the bytes for which R406 gives no default (LAYOUT and CRC) come in. -/
def optDefault (flags rate lay crc : Nat) : List Byte :=
  leBytes 1 lay ++ leBytes 1 flags ++ leBytes 6 0 ++ leBytes 1 0x3F ++ leBytes 2 0 ++ leBytes 1 rate ++ leBytes 2 1000 ++
    leBytes 238 0 ++ leBytes 4 crc

/-- Bytes that an interrupted burn leaves: open, but neither blank nor valid (R407). -/
def State.burnBroken (s : State) : List Byte :=
  let b := (List.range 256).map (Config.freeByte s.free)
  if optBlank b || optValid b then List.replicate 256 0xFF else b

/-- The OTP after a package reset. -/
def State.otpAfter (s : State) : List Byte := if s.boot.burning.isEmpty then s.boot.otp else s.burnBroken

/-- The fuses of the Vault page. -/
def State.fuses (s : State) : State :=
  let filled := (List.range 4).foldl (fun m i => if (Tab.get [] s.sec.owner i).isEmpty then m else m ||| 2 ^ i) 0
  (s.rs VAULT.FILLED 0 filled).rs VAULT.REVOKED 0 s.sec.revoked

/-- WDOG_PERIOD as the option bytes give it. -/
def State.optPeriod (s : State) : Nat :=
  let p := s.opt 0x0C + 256 * s.opt 0x0D
  if p = 0 ∨ 10000 < p then 1000 else p

/-- The option load ends: the bytes are judged and take effect. -/
def State.optionLoad (s : State) : State :=
  let b := s.boot.otp
  let blank := optBlank b
  let good := optValid b
  let (l, s) := s.takeFree
  let (c, s) := s.takeFree
  let use := if blank then optDefault 0 0 l c else if good then b else optDefault 0x23 3 l c
  let s := (List.range 64).foldl (fun s w => s.rs (OPT.OPT_IN_USE.nth w) 0 (leAt use (4 * w) 4)) s
  let s := ((s.rb OPT.LOADED 0 true).rb OPT.OPT_BLANK 0 blank).rb OPT.OPT_BAD 0 (!blank && !good)
  let s := (s.rs RSTC.WDOG_PERIOD_MS 0 s.optPeriod).rb RSTC.WDOG_EN 0 (bit (s.opt 1) 1)
  let s := (s.rb OBS.ENABLED 0 (!bit (s.opt 1) 5)).fuses
  (s.fabReset (bit (s.opt 1) 2) (bit (s.opt 1) 3) (s.opt 2 % 64) (bit (s.opt 1) 4)).setPhase 3

/-! ## Package resets (R399, R401, R402, R405, R418) -/

/-- Pins that are driven return to their reset levels. -/
def State.pinsReset (s : State) : State :=
  let s := ((List.range 4).foldl (fun s n => s.lineLow n) s).ppsLow
  let s := (List.range 2).foldl (fun s a => if (s.aerP a).ack then s.emit (.pin (ackPin a) (s.ackLevel a false)) else s) s
  if 4 ≤ s.rg PWR.PWR_STATE 0 then s.emit (.pin "CORE_EN" true) else s

/-- The state with everything at its reset value but what lies outside the device and in its fuses and flash. -/
def State.cold (s : State) (ir : Nat) : State :=
  { State.reset with
    regs := [], free := s.free, out := s.out, pending := s.pending,
    host := { State.reset.host with perst := s.host.perst },
    boot := { State.reset.boot with porHold := s.boot.porHold, pinHold := s.boot.pinHold, otp := s.otpAfter },
    sec := { Sec.init with flog := s.sec.flog, owner := s.sec.owner, revoked := s.sec.revoked, alert := s.sec.alert, ir := ir } }

/-- What a POR or PIN reset leaves, with the hold of its source; the burn it interrupts takes a free value. -/
def State.coldState (s : State) (cause : Nat) : State :=
  let ir := if cause = 1 then s.sec.ir else 1
  { s.cold ir with
    free := s.free + 1,
    boot := { (s.cold ir).boot with porHold := s.boot.porHold || cause != 1, pinHold := s.boot.pinHold || cause == 1 } }

/-- A POR or PIN reset of a cause (0 POR, 1 PIN, 4 AON_LOCK): the whole package, DT from 0, DDR4 undefined. While another such
source is in force the widest is LAST_CAUSE and both are recorded (R405). -/
def State.coldReset (s : State) (cause : Nat) : State :=
  let both := s.boot.porHold || s.boot.pinHold
  let hist := if both then s.rg RSTC.CAUSE_HIST 0 else 0
  let was := s.rg RSTC.LAST_CAUSE 0
  let last := if both && (cause == 1 || (was != 1 && decide (was ≤ cause))) then was else cause
  ((((s.pinsReset.coldState cause).ddrLost).rs RSTC.CAUSE_HIST 0 (setBit hist cause true)).rs RSTC.LAST_CAUSE 0 last).alertOff

/-- Writes already in the DDR4 controllers complete (R402 step 1). -/
def State.ddrDrain (s : State) : State :=
  let s := (List.range 6).foldl (fun s c => (Tab.get [] s.ddrq c).foldl (fun (s : State) r =>
    match r.data with
    | some b => { s with ddr4 := s.ddr4.wrBytes r.addr b }
    | none => s) s) s
  (List.range 36).foldl (fun s i => (s.jr i).flight.foldl (fun s _ => s.lineWrite i) s) s

/-- Installed capacity in bytes. -/
def State.ddrCapacity (s : State) : Nat := ((List.range 6).map fun c => s.rg DDR.CAPACITY_MB c).sum * 1048576

/-- The training area becomes undefined (R402). -/
def State.trainLost (s : State) (cap : Nat) : State :=
  let inArea (a : Nat) : Bool := decide (a < cap ∧ cap ≤ a + 4194304)
  let kept := Tab.keep (fun a => !inArea a) s.ddr4
  let new := (Config.freeMem s.free).filter fun c => inArea c.1
  { s with ddr4 := new.foldl (fun m c => Mem.wr m c.1 c.2) kept, free := s.free + 1 }

/-- Register fields that WDOG and SOFT_PKG leave (R401, R418): the AON fields of TIME and RSTC, REPLACE_REQUEST. -/
def softKeeps (k : Nat) : Bool :=
  let off := keyOff k
  let lsb := k % 64
  (keyPk k == PK.time.num && (off == 0x048 || off == 0x090 || off == 0x098)) ||
    (keyPk k == PK.rstc.num && (off == 0x044 || (off == 0x058 && lsb == 8) || off == 0x060 || off == 0x064)) ||
    (keyPk k == PK.hub.num && off == 0x040 && (lsb == 0 || lsb == 1))

/-- What a WDOG or SOFT_PKG reset that takes hold `wait` ns from now leaves: the AON domain and the contents of DDR4. -/
def State.warmState (s : State) (wait : Nat) : State :=
  { s.cold s.sec.ir with
    free := s.free + 1, dt := (s.ns + wait) % 2 ^ 64, laps := (s.ns + wait) / 2 ^ 64, aonRun := s.aonRun, tick := s.tick, regs := s.regs.keep softKeeps, ddr4 := s.ddr4,
    wtRate := s.wtRate, wtOff := s.wtOff, phasePend := s.phasePend,
    boot := { (s.cold s.sec.ir).boot with refclkOk := true, lock := s.boot.lock % 2, startDT := (s.ns + wait) % 2 ^ 64,
                                          lostAt := Tab.keep (· == 0) s.boot.lostAt, relockAt := Tab.keep (· == 0) s.boot.relockAt } }

/-- The cause is recorded and the reset counted (R405). -/
def State.warmCount (s : State) (cause : Nat) : State :=
  let s := (s.rs RSTC.CAUSE_HIST 0 (setBit (s.rg RSTC.CAUSE_HIST 0) cause true)).rs RSTC.LAST_CAUSE 0 cause
  if cause = 2 then (s.inc RSTC.WDOG_COUNT 0).inc RSTC.BOOT_COUNT 0 else s.inc RSTC.SOFT_COUNT 0

/-- A WDOG or SOFT_PKG reset of a cause (2 WDOG, 3 SOFT_PKG, 5 HUB_PLL): everything but the AON domain; boot goes on at the option
load. -/
def State.warmReset (s : State) (cause wait : Nat) : State :=
  let d := s.ddrDrain
  ((((d.pinsReset.warmState wait).trainLost d.ddrCapacity).warmCount cause).setPhase 2).alertOff

/-! ## The watchdog (R403) -/

/-- The watchdog counts. -/
def State.wdogRuns (s : State) : Bool := s.boot.wdogOn && !s.asleep && s.boot.hubUp

/-- Start it. -/
def State.wdogStart (s : State) : State :=
  let s := s.rb RSTC.WDOG_EN 0 true
  (if s.boot.wdogOn then s else { s with boot := { s.boot with wdogOn := true } }.wdogReload)

/-- Half the period remains. -/
def State.wdogWarn (s : State) : State :=
  if s.wdogRuns && s.boot.wdogEnd ≤ s.dt + 500000 * s.boot.wdogPer then s.irqSet rstcPage 8 else s

/-- It reaches 0: DDR4 enters self-refresh, which takes up to 10 µs, and the reset takes hold. -/
def State.wdogExpiry (s : State) : State :=
  if s.wdogRuns && s.boot.wdogEnd ≤ s.dt then
    let (d, s) := s.takeFree
    s.warmReset 2 (d % 10001)
  else s

/-- A write of WDOG_KICK. -/
def State.wdogKick (s : State) (v : Word) : State :=
  if bitsAt v.toNat 24 8 = 0xA5 ∧ RSTC.WDOG_KICK.of v = 1 then s.wdogReload else s

/-- A write of the word with WDOG_EN and WDOG_PERIOD_MS. -/
def State.wdogCtrl (s : State) (v : Word) : State :=
  let p := RSTC.WDOG_PERIOD_MS.of v
  if p = 0 ∨ 10000 < p then s.errParam rstcPage
  else
    let s := s.rs RSTC.WDOG_PERIOD_MS 0 p
    if RSTC.WDOG_EN.of v = 1 then s.wdogStart else s

/-- A write of PKG_RESET (R404): the reset takes hold 1 µs later. -/
def State.pkgResetWrite (s : State) (v : Word) : State :=
  if RSTC.PKG_RESET_KEY.of v = 0xA5 ∧ RSTC.PKG_RESET_CONFIRM.of v = 0x5A ∧ RSTC.PKG_RESET_REQUEST.of v = 1 then
    s.warmReset 3 1000
  else s.errParam rstcPage

/-! ## Boot (R410–R412) -/

/-- A supply or RESET_N lets go: boot begins at step 1. -/
def State.bootBegin (s : State) : State := if s.boot.porHold || s.boot.pinHold then s else s.setPhase 1

/-- 64 good REFCLK edges (step 2). -/
def State.refclkGood (s : State) : State :=
  if s.phase = 1 then { s with boot := { s.boot with refclkOk := true } } else s

/-- The hub leaves reset and the Vault runs (step 5). -/
def State.hubRelease (s : State) : State :=
  let s := ({ s with boot := { s.boot with hubUp := true } }).setPhase 4
  if s.on RSTC.WDOG_EN 0 then s.wdogStart else s

/-- Host boot (R412). -/
def State.hostBoot (s : State) (reason : Nat) : State :=
  ({ s with host := { s.host with ready := true } }.rs VAULT.FAIL_REASON 0 reason).setPhase 5

/-- Channels that the option bytes call fitted. -/
def State.ddrFitted (s : State) (c : Nat) : Bool := bit (s.opt 8) c

/-- Management firmware starts: DDR4 trains (step 7). -/
def State.fwStart (s : State) (d : List Byte) (src : Nat) : State :=
  let s := (s.imageRun d).rs VAULT.BOOT_SRC 0 src
  let s := (List.range 6).foldl (fun s c => s.rs DDR.TRAIN_STATE c (if s.ddrFitted c then 1 else 0)) s
  s.setPhase 6

/-- A compute die whose links have trained is released, its SRAM zeroed (steps 8 and 9). -/
def State.dieRelease (s : State) (d : Nat) : State :=
  if bit s.boot.diesTrained d && !bit s.boot.diesUp d && (s.phase = 7 ∨ s.phase = 8) then
    let s := { s with boot := { s.boot with diesUp := setBit s.boot.diesUp d true, dieFrom := Tab.put 0 s.boot.dieFrom d s.curTick } }
    (s.zeroSram (d * 0x03800000) 0x03800000).setPhase 8
  else s

/-- DDR4 has trained, so that the dies whose links have trained can be released. -/
def State.bootNext (s : State) : State :=
  let busy := (List.range 6).any fun c => s.ddrFitted c && s.rg DDR.TRAIN_STATE c == 1
  let s := if s.phase = 6 ∧ ¬ busy then s.setPhase 7 else s
  (List.range 4).foldl (fun s d => s.dieRelease d) s

/-- The Vault has read and checked an image: from flash at step 6, from host memory in host boot. -/
def State.vaultChecked (s : State) (img : Option (List Byte)) : State :=
  if s.phase = 4 then
    if 3 ≤ s.rg RSTC.BOOT_COUNT 0 then s.hostBoot 5
    else
      match imageCheck img, img with
      | 0, some d => (s.fwStart d 1).bootNext
      | r, _ => s.hostBoot r
  else if s.phase = 5 ∧ s.rg VAULT.HB_STATUS 0 = 1 then
    let img := if s.hostUp then img.map fun d => d.take (s.rg VAULT.HB_LEN 0) else none
    match imageCheck img, img with
    | 0, some d => (((s.rs VAULT.HB_STATUS 0 4).rs VAULT.FAIL_REASON 0 0).fwStart d 2).bootNext
    | r, _ => (s.rs VAULT.HB_STATUS 0 3).rs VAULT.FAIL_REASON 0 r
  else s

/-- A write of HB_GO: the Vault reads the image from host memory. -/
def State.hbGo (s : State) (v : Word) : State :=
  if VAULT.HB_GO.of v = 0 then s
  else if s.phase ≠ 5 then s.errParam vaultPage
  else
    let s := s.rs VAULT.HB_STATUS 0 1
    if s.hostUp then s.hostRead (s.rg VAULT.HB_ADDR 0) (s.rg VAULT.HB_LEN 0) else s

/-- The training of a DDR4 channel ends. -/
def State.ddrTrained (s : State) (c fail ranks cap ms rd wr : Nat) : State :=
  if s.rg DDR.TRAIN_STATE c ≠ 1 ∨ !bit s.boot.lock 6 then s
  else
    let s := (s.rs DDR.TRAIN_FAIL c fail).rs DDR.TRAIN_MS c ms
    let s := if fail = 0 then
        let s := ((s.rs DDR.TRAIN_STATE c 2).rs DDR.RANKS c ranks).rs DDR.CAPACITY_MB c cap
        (s.rs DDR.RD_MARGIN_PS c rd).rs DDR.WR_MARGIN_PS c wr
      else (s.rs DDR.TRAIN_STATE c 3).lastingFault (.ddr c) ⟨.ddr, c⟩ 7 0
    s.bootNext

/-- A die's links train, or fail to and leave the die unreleased (R228, R411). -/
def State.dieLinks (s : State) (d : Nat) (ok : Bool) : State :=
  if s.phase < 6 ∨ 8 < s.phase ∨ bit s.boot.diesTrained d ∨ !bit s.boot.lock (2 + d) then s
  else if ok then
    let s := { s with boot := { s.boot with diesTrained := setBit s.boot.diesTrained d true } }
    ((List.range 4).foldl (fun s j => s.rb UCIE.LINK_UP (4 * d + j) true) s).bootNext
  else s.logFault ⟨.ucie, 4 * d⟩ true 7 0

/-- The MAC addresses from the option bytes. -/
def State.macInit (s : State) : State :=
  let m := beNat ((List.range 6).map fun i => BitVec.ofNat 8 (s.opt (0x10 + i)))
  if m = 0 then s else (s.rs ETH.MAC_ADDR 0 m).rs ETH.MAC_ADDR 1 ((m + 1) % 2 ^ 48)

/-- READY (steps 9 and 10). After POR or PIN, DT began up to 50 µs after step 2 did. -/
def State.bootReady (s : State) (logOk : Bool) : State :=
  if s.phase = 7 ∨ s.phase = 8 then
    let s := (s.logReplayAll logOk).macInit
    let (f, s) := s.takeFree
    let pre := if s.boot.startDT = 0 then f % 51 else 0
    let s := { s with protVault := false, prot := [], boot := { s.boot with readyDT := s.dt }, host := { s.host with ready := true } }
    (s.rs RSTC.BOOT_TIME_US 0 ((s.dt - s.boot.startDT) / 1000 + pre)).setPhase 10
  else s

/-- 60 s at READY with no further WDOG reset. -/
def State.bootCountClear (s : State) : State :=
  if s.phase = 10 ∧ s.boot.readyDT + 60000000000 ≤ s.dt then s.rs RSTC.BOOT_COUNT 0 0 else s

/-! ## Burning the option bytes (R407) -/

/-- The 256 staged bytes. -/
def State.optStaged (s : State) : List Byte := (List.range 64).flatMap fun w => leBytes 4 (s.rg (OPT.OPT_STAGE.nth w) 0)

/-- A write of OPT_BURN. -/
def State.optBurn (s : State) (v : Word) : State :=
  let st := s.optStaged
  if bitsAt v.toNat 24 8 ≠ 0xA5 ∨ bitsAt v.toNat 8 8 ≠ 0x5A ∨ OPT.BURN.of v = 0 then s
  else if !s.on OPT.OPT_BLANK 0 || !optBlank s.boot.otp || !s.boot.burning.isEmpty || !optValid st then
    (s.rb OPT.BURN_FAIL 0 true).errParam optPage
  else ((s.rb OPT.BURN_BUSY 0 true).rb OPT.BURN_FAIL 0 false) |> fun s => { s with boot := { s.boot with burning := st } }

/-- The burn ends; a burn that fails leaves what an interrupted one leaves. -/
def State.burnDone (s : State) (ok : Bool) : State :=
  if s.boot.burning.isEmpty then s
  else
    let otp := if ok then s.boot.burning else s.burnBroken
    let s := { s with free := s.free + 1, boot := { s.boot with otp := otp, burning := [] } }
    ((s.rb OPT.BURN_BUSY 0 false).rb OPT.BURN_FAIL 0 (!ok)).irqSet optPage 8

/-! ## PLL locks (R408, R409) -/

/-- An earlier loss whose PLL has not stayed locked for 1 s was lasting; one that has is classed by now. -/
def State.relockBroken (s : State) (b : Nat) : Bool := Tab.get 0 s.boot.relockAt b != 0

/-- A PLL loses lock. -/
def State.pllLoss (s : State) (p : Pll) : State :=
  let b := pllBit p
  if !bit s.boot.lock b then s
  else
    let s := s.lockSettle
    let again := s.relockBroken b
    let s := s.lockLost b
    match p with
    | .hub => s.warmReset 5 0
    | .aon => if again then s.coldReset 4 else s
    | _ =>
      let s := if again then s.lockCost b else s
      (s.phyDown b).domainReset b

/-- A loss with no relock within 100 µs; a compute die's PLL that never locks at boot counts as one (R474). -/
def State.pllLasting (s : State) (p : Pll) : State :=
  let b := pllBit p
  let l := Tab.get 0 s.boot.lostAt b
  let never := l = 0 ∧ 2 ≤ b ∧ b ≤ 5 ∧ s.boot.hubUp
  if bit s.boot.lock b ∨ ¬ (never ∨ (2 ≤ l ∧ l + 99998 ≤ s.dt)) then s
  else
    match p with
    | .aon => s.coldReset 4
    | .hub => s
    | _ => s.lockLasting b

/-- A PLL locks: at boot, or again after a loss, which is then classed by its length. -/
def State.pllLocked (s : State) (p : Pll) : State :=
  let b := pllBit p
  let l := Tab.get 0 s.boot.lostAt b
  let lockNow (s : State) (lost relock : Nat) : State :=
    { s with boot := { s.boot with lock := setBit s.boot.lock b true, lostAt := Tab.put 0 s.boot.lostAt b lost,
                                   relockAt := Tab.put 0 s.boot.relockAt b relock } }
  if bit s.boot.lock b || s.boot.porHold || s.boot.pinHold then s
  else if l = 0 then
    match p with
    | .aon => if s.boot.refclkOk ∧ s.phase = 1 then { lockNow s 0 0 with aonRun := true }.setPhase 2 else s
    | .hub => if s.phase = 3 then (lockNow s 0 0).hubRelease else s
    | _ => if 3 ≤ s.phase ∧ s.phase ≠ 11 then lockNow s 0 0 else s
  else if l = 1 then (lockNow s 0 0).domainRelease b
  else if s.dt ≤ l - 2 + 100000 then (lockNow s 0 (s.dt + 1)).domainRelease b
  else if b = 0 then s.coldReset 4
  else (lockNow (s.lockLasting b) 0 0).domainRelease b

/-! ## Meanings -/

/-- POR (R399). -/
def execPor (t : Nat) (s : State) : Res := .next ((s.advance t).coldReset 0)

/-- RESET_N_LOW (R400). -/
def execResetNLow (t : Nat) (s : State) : Res := .next ((s.advance t).coldReset 1)

/-- RESET_N_RISE (R400). -/
def execResetNRise (t : Nat) (s : State) : Res :=
  let s := s.advance t
  .next (if s.boot.pinHold then ({ s with boot := { s.boot with pinHold := false } }).bootBegin else s)

/-- POR_RELEASE (R400). -/
def execPorRelease (t : Nat) (s : State) : Res :=
  let s := s.advance t
  .next (if s.boot.porHold then ({ s with boot := { s.boot with porHold := false } }).bootBegin else s)

/-- REFCLK_DETECT (R410). -/
def execRefclkDetect (t : Nat) (s : State) : Res := .next (s.advance t).refclkGood

/-- OPTION_LOAD_DONE (R406). -/
def execOptionLoadDone (t : Nat) (s : State) : Res :=
  let s := s.advance t
  .next (if s.phase = 2 then s.optionLoad else s)

/-- HUB_PLL_TIMEOUT (R411). -/
def execHubPllTimeout (t : Nat) (s : State) : Res :=
  let s := s.advance t
  .next (if s.phase = 3 ∧ !bit s.boot.lock 1 then s.setPhase 11 else s)

/-- VAULT_IMAGE_CHECKED (R442). -/
def execVaultImageChecked (t : Nat) (img : Option (List Byte)) (s : State) : Res := .next ((s.advance t).vaultChecked img)

/-- DDR_TRAIN_DONE (R410). -/
def execDdrTrainDone (t : Nat) (c : Fin 6) (fail : BitVec 3) (ranks : BitVec 2) (cap ms rd wr : BitVec 16) (s : State) : Res :=
  .next ((s.advance t).ddrTrained c fail.toNat ranks.toNat cap.toNat ms.toNat rd.toNat wr.toNat)

/-- DIE_LINK_TRAINED (R410). -/
def execDieLinkTrained (t : Nat) (d : Fin 4) (ok : Bool) (s : State) : Res := .next ((s.advance t).dieLinks d ok)

/-- BOOT_READY (R410). -/
def execBootReady (t : Nat) (logOk : Bool) (s : State) : Res := .next ((s.advance t).bootReady logOk)

/-- BOOT_COUNT_CLEAR (R412). -/
def execBootCountClear (t : Nat) (s : State) : Res := .next (s.advance t).bootCountClear

/-- HB_GO (R412). -/
def execHbGo (t : Nat) (c : Req) (v : Word) (s : State) : Res := s.cmdWrite t c vaultPage 0x054 fun s => s.hbGo v

/-- OPT_BURN (R407). -/
def execOptBurn (t : Nat) (c : Req) (v : Word) (s : State) : Res := s.cmdWrite t c optPage 0x044 fun s => s.optBurn v

/-- BURN_DONE (R407). -/
def execBurnDone (t : Nat) (ok : Bool) (s : State) : Res := .next ((s.advance t).burnDone ok)

/-- WDOG_WARN (R403). -/
def execWdogWarn (t : Nat) (s : State) : Res := .next (s.advance t).wdogWarn

/-- WDOG_EXPIRY (R402). -/
def execWdogExpiry (t : Nat) (s : State) : Res := .next (s.advance t).wdogExpiry

/-- WDOG_KICK (R403). -/
def execWdogKick (t : Nat) (c : Req) (v : Word) (s : State) : Res := s.cmdWrite t c rstcPage 0x050 fun s => s.wdogKick v

/-- WDOG_EN_WRITE (R403). -/
def execWdogEnWrite (t : Nat) (c : Req) (v : Word) (s : State) : Res := s.cmdWrite t c rstcPage 0x04C fun s => s.wdogCtrl v

/-- PKG_RESET (R404). -/
def execPkgReset (t : Nat) (c : Req) (v : Word) (s : State) : Res := s.cmdWrite t c rstcPage 0x048 fun s => s.pkgResetWrite v

/-- PLL_LOCK_LOSS (R409). -/
def execPllLockLoss (t : Nat) (p : Pll) (s : State) : Res := .next ((s.advance t).pllLoss p)

/-- PLL_LOCK (R408). -/
def execPllLock (t : Nat) (p : Pll) (s : State) : Res := .next ((s.advance t).pllLocked p)

/-- LOCK_LOSS_LASTING (R409). -/
def execLockLossLasting (t : Nat) (p : Pll) (s : State) : Res := .next ((s.advance t).pllLasting p)

/-- BLOCK_RESET_REQUEST (R486). -/
def execBlockResetRequest (t : Nat) (c : Req) (p : BitVec 14) (v : Word) (s : State) : Res :=
  .next ((s.advance t).resetWrite c p.toNat v)

/-- BLOCK_RESET_RELEASE (R486). -/
def execBlockResetRelease (t : Nat) (c : Req) (p : BitVec 14) (v : Word) (s : State) : Res :=
  .next ((s.advance t).resetWrite c p.toNat v)

/-- BLOCK_RESET_DONE (R408). -/
def execBlockResetDone (t : Nat) (p : BitVec 14) (s : State) : Res := .next ((s.advance t).resetDone p.toNat)

end Sys2Proof.Machine
end

