-- ==== Sys2Proof/Machine/Power.lean ====
section
/-!
DEFINITION. Power states, the core-voltage regulator and the temperature warning (R413–R417, R424, R475).
-/
namespace Sys2Proof.Machine
open Regs

def pwrPage : Page := ⟨.pwr, 0⟩
def govPage : Page := ⟨.gov, 0⟩

/-! ## Requests (R414–R417) -/

/-- PWR_STATE and its change, which is traced. -/
def State.pwr (s : State) : Nat := s.rg PWR.PWR_STATE 0
def State.setPwr (s : State) (p : Nat) : State := (s.rs PWR.PWR_STATE 0 p).trace pwrPage 5 p 0

/-- A request is refused with its reason. -/
def State.pwrRefuse (s : State) (reason : Nat) : State := ((s.rs PWR.REFUSE_REASON 0 reason).inc PWR.REFUSALS 0).irqSet pwrPage 9

/-- A LOAD runs. -/
def State.loading (s : State) : Bool := s.host.cmd.any fun c => c.opcode == 1

/-- Why a STANDBY request is refused; 0: it is not. -/
def State.standbyBar (s : State) : Nat :=
  if s.pwr ≠ 0 then 9
  else if s.rg DIST.CLUSTER_GATE 0 ≠ 0xFFFF then 2
  else if (List.range 32).any (fun m => s.on MXC.BOUND m) then 3
  else if s.loading then 4 else 0

/-- Why a SLEEP request is refused; 0: it is not. -/
def State.sleepBar (s : State) : Nat :=
  if s.pwr ≠ 0 then 9
  else if (List.range 36).any (fun i => s.on (Hdr.ENABLE .stream) i) then 5
  else if (List.range 36).any (fun i => s.on (Hdr.ENABLE .jstr) i) || (List.range 4).any s.replaying then 6
  else if (List.range 4).any s.groupOn then 7
  else if s.loading then 4 else 0

/-- Begin a transition. -/
def State.pwrBegin (s : State) (p : Nat) : State := ({ s with pow := { s.pow with reqDT := s.dt } }).setPwr p

/-- The die faults that STANDBY has held back apply from the exit request (R417). -/
def State.lateFaults (s : State) : State :=
  s.pow.late.foldl (fun s d => s.lastingFault (.die d) ⟨.die, d⟩ 6 0) { s with pow := { s.pow with late := [] } }

/-- A write of PWR_REQ. -/
def State.pwrReq (s : State) (v : Word) : State :=
  let q := PWR.PWR_REQ.of v
  let p := s.pwr
  if q = 3 then s.errParam pwrPage
  else if p = 1 ∨ p = 3 ∨ p = 4 ∨ p = 6 then s.pwrRefuse 1
  else if q = 1 then (if s.standbyBar ≠ 0 then s.pwrRefuse s.standbyBar else s.pwrBegin 1)
  else if q = 2 then (if s.sleepBar ≠ 0 then s.pwrRefuse s.sleepBar else s.pwrBegin 4)
  else if p = 2 then (s.pwrBegin 3).lateFaults
  else if p = 5 then
    let s := { s with boot := { s.boot with wdogEnd := s.dt + s.boot.wdogFrozen } }
    (s.pwrBegin 6).emit (.pin "CORE_EN" true)
  else s

/-! ## Entry -/

/-- The compute dies are quiet: no queued arrival, no port word, no handler, no matrix descriptor. -/
def State.quiet (s : State) : Bool :=
  s.cores.all (fun e => e.2.queue.isEmpty && e.2.port.isEmpty && e.2.run.isNone) &&
    s.mx.all fun e => match e.2.run with | some r => r.queue.isEmpty && r.comp.isNone && r.gath.isNone && r.dma.isNone | none => true

/-- Pages of the compute dies. -/
def PK.ofDie : PK → Bool
  | .clu | .ldb | .mxc | .tok | .mesh | .cg | .cgs | .die | .ucie | .dmon => true
  | _ => false

/-- All page kinds of the compute dies. -/
def diePks : List PK := [.clu, .ldb, .mxc, .tok, .mesh, .cg, .cgs, .die, .ucie, .dmon]

/-- The compute dies lose power: registers, memory and engines. -/
def State.diesOff (s : State) : State :=
  let nums := diePks.map PK.num
  { s with regs := s.regs.keep (fun k => !nums.contains (keyPk k)), waits := Tab.keep (fun k => !nums.contains (keyPk k)) s.waits, sram := Tab.keep (fun a => decide (4 * 0x03800000 ≤ a)) s.sram,
           banks := [], cores := [], routers := [], mx := [], tok := [], dcred := [], rqueue := [],
           net := s.net.filter (fun f => f.dk == 2),
           resetting := s.resetting.filter (fun p => !p.pk.ofDie), heldPages := s.heldPages.filter (fun p => !p.pk.ofDie),
           boot := { s.boot with diesUp := 0, diesTrained := 0, dieFrom := [] } }

/-- SLEEP stops the watchdog and the PLLs but the AON one (R403, R415). -/
def State.clocksOff (s : State) : State :=
  { s with boot := { s.boot with wdogFrozen := 1000000 * s.rg RSTC.WDOG_PERIOD_MS 0, wdogPer := s.rg RSTC.WDOG_PERIOD_MS 0,
                                 lock := s.boot.lock &&& 0b100000011 } }

/-- The SLEEP sequence once the dies are quiet (R415). -/
def State.sleepEnter (s : State) : State :=
  let s := (List.range 16).foldl (fun s p => s.upPart p fun x => { x with ddrBase := 0, ddrSize := 0 }) s
  let s := (List.range 6).foldl (fun s c =>
    if s.rg DDR.TRAIN_STATE c = 2 then (s.rs DDR.TRAIN_STATE c 4).inc DDR.SR_ENTRIES c else s) s
  let s := (s.ethDown 0).ethDown 1
  let s := (List.range 18).foldl (fun s p => s.mipiDown p) s
  let s := (List.range 2).foldl (fun s a => (s.upAer a AerPort.init).ackDrive s a) s
  let s := (List.range 2).foldl (fun s d =>
    if s.rg PTPD.STATE d = 2 ∨ s.rg PTPD.STATE d = 3 then s.setDomState d 4 else s) s
  let s := s.setPwr 5
  let s := (List.range 6).foldl (fun s p => s.portDown p) s
  let s := if s.rg FAB.MSTATE 0 = 0 then s else s.isolate
  let s := ((List.range 4).foldl (fun s n => s.lineLow n) s).ppsLow
  let s := (s.diesOff.emit (.pin "CORE_EN" false)).clocksOff
  (s.inc PWR.SLEEP_ENTRIES 0).irqSet pwrPage 8

/-- The dies are quiet: STANDBY is reached, or SLEEP goes on. -/
def State.quieted (s : State) : State :=
  if !s.quiet then s
  else if s.pwr = 1 then ((s.setPwr 2).inc PWR.STANDBY_ENTRIES 0).irqSet pwrPage 8
  else if s.pwr = 4 then s.sleepEnter else s

/-- They are not quiet within STBY_WAIT_US. -/
def State.quietTimeout (s : State) : State :=
  if (s.pwr = 1 ∨ s.pwr = 4) ∧ ¬ s.quiet ∧ s.pow.reqDT + 1000 * s.rg PWR.STBY_WAIT_US 0 ≤ s.dt then (s.setPwr 0).pwrRefuse 8 else s

/-! ## Exit -/

/-- The exit ends. -/
def State.exitEnd (s : State) : State := (s.setPwr 0).rs PWR.LAST_EXIT_US 0 ((s.dt - s.pow.reqDT) / 1000)

/-- What a sliver core does before it releases an arrival again: the full pass, and one report for the latest closed tick. -/
def State.coreResume (s : State) (n : Nat) : State :=
  if s.closedTicks n = 0 then s
  else
    let h := s.closedTicks n - 1
    (s.fullPass n (s.pausedAt n) h).report n h

/-- The exit from STANDBY. -/
def State.standbyExit (s : State) : State :=
  if s.pwr ≠ 3 then s
  else
    let ns := (List.range 4096).filter fun n => bit s.boot.diesUp (n / 1024) && !s.coreFenced n
    ((ns.foldl (fun s n => s.coreResume n) s).exitEnd).irqSet pwrPage 8

/-- A SYNC_OUT line goes on at its next edge. -/
def State.lineResume (s : State) (n : Nat) : State :=
  if s.lineOn n then s.upLine n fun l => { l with next := nextMultiple s.dt (l.period * 1000), began := false } else s

/-- The exit from SLEEP (R416): `dies` are the compute dies that came up. -/
def State.sleepExit (s : State) (logOk : Bool) (dies : Nat) : State :=
  if s.pwr ≠ 6 then s
  else
    let s := (List.range 6).foldl (fun s c => if s.rg DDR.TRAIN_STATE c = 4 then s.rs DDR.TRAIN_STATE c 2 else s) s
    let up := dies % 16
    let from_ := (List.range 4).foldl (fun m d => if bit up d then Tab.put 0 m d s.curTick else m) []
    let s := { s with boot := { s.boot with diesUp := up, diesTrained := up, dieFrom := from_,
                                            lock := s.boot.lock ||| 0b11011000000 ||| (up <<< 2) } }
    let s := (List.range 4).foldl (fun s d =>
      if bit up d then (List.range 4).foldl (fun s j => s.rb UCIE.LINK_UP (4 * d + j) true) s
      else s.logFault ⟨.ucie, 4 * d⟩ true 7 0) s
    let s := (List.range 16).foldl (fun s p => (s.partEmpty p).upPart p fun x => { x with loaded := false }) s
    let s := s.logReplayAll logOk
    let s := (List.range 6).foldl (fun s p =>
      if s.on (Hdr.ENABLE .pst) p && s.rg PST.LINK_STATE p == 0 && !s.pisteFenced p then s.rs PST.LINK_STATE p 1 else s) s
    let s := (List.range 1152).foldl (fun s c => if (s.chan c).run then s.upChan c fun x => { x with pend := true } else s) s
    let s := (List.range 4).foldl (fun s n => s.lineResume n) s
    let s := { s with pps := { s.pps with base := max s.pps.base s.ppsSecond } }
    ((s.rb PWR.MODELS_LOST 0 true).exitEnd).irqSet pwrPage 10

/-! ## The regulator and the temperature (R424, R475) -/

/-- The setpoint that the next command asks for: at most 10 mV from the last one, within 650 to 850 mV; FIX_MV without AVS. -/
def State.avsNext (s : State) (want : Nat) : Nat :=
  if s.on GOV.AVS_EN 0 then
    let w := max 650 (min 850 want)
    max (s.pow.mv - 10) (min (s.pow.mv + 10) w)
  else s.rg GOV.FIX_MV 0

/-- A setpoint command, with one retry. -/
def State.avsCommand (s : State) (want : Nat) (ok1 ok2 : Bool) : State :=
  if s.pow.avsDead || !s.boot.hubUp || s.asleep || s.pow.avsAt.any (fun a => decide (s.dt < a + 100000)) then s
  else
    let mv := s.avsNext want
    let s := ({ s with pow := { s.pow with avsAt := some s.dt } }).emit (.avs mv)
    if ok1 then { s with pow := { s.pow with mv := mv } }
    else
      let s := s.emit (.avs mv)
      if ok2 then (({ s with pow := { s.pow with mv := mv } }).inc (Hdr.ERR_TRANSIENT .gov) 0).irqSet govPage 0
      else (({ s with pow := { s.pow with avsDead := true } }).inc (Hdr.ERR_LASTING .gov) 0).irqSet govPage 1

/-- Above TJ_WARN anywhere, the warning rises. -/
def State.tjCheck (s : State) : State :=
  let tj := s.rg GOV.TJ_DIE 0
  let th := s.rg GOV.TJ_HUB 0
  let w := signed 8 (s.rg GOV.TJ_WARN 0)
  let hot := decide (w < signed 8 th) || (List.range 4).any fun d => decide (w < signed 8 (bitsAt tj (8 * d) 8))
  let was := s.sec.hot
  let s := { s with sec := { s.sec with hot := hot } }
  (if hot && !was then s.irqSet govPage 8 else s).alertUpdate

/-- The temperatures are as given. -/
def State.tjChange (s : State) (tj th : Nat) : State := ((s.rs GOV.TJ_DIE 0 tj).rs GOV.TJ_HUB 0 th).tjCheck

/-! ## Meanings -/

/-- PWR_REQ_STANDBY (R414). -/
def execPwrReqStandby (t : Nat) (c : Req) (v : Word) (s : State) : Res := s.cmdWrite t c pwrPage 0x040 fun s => s.pwrReq v

/-- PWR_REQ_SLEEP (R415). -/
def execPwrReqSleep (t : Nat) (c : Req) (v : Word) (s : State) : Res := s.cmdWrite t c pwrPage 0x040 fun s => s.pwrReq v

/-- PWR_REQ_ACTIVE (R416). -/
def execPwrReqActive (t : Nat) (c : Req) (v : Word) (s : State) : Res := s.cmdWrite t c pwrPage 0x040 fun s => s.pwrReq v

/-- STANDBY_QUIET (R414, R415). -/
def execStandbyQuiet (t : Nat) (s : State) : Res := .next (s.advance t).quieted

/-- STANDBY_TIMEOUT (R414). -/
def execStandbyTimeout (t : Nat) (s : State) : Res := .next (s.advance t).quietTimeout

/-- STANDBY_EXIT_DONE (R414). -/
def execStandbyExitDone (t : Nat) (s : State) : Res := .next (s.advance t).standbyExit

/-- SLEEP_EXIT_DONE (R416). -/
def execSleepExitDone (t : Nat) (logOk : Bool) (dies : BitVec 4) (s : State) : Res := .next ((s.advance t).sleepExit logOk dies.toNat)

/-- AVS_COMMAND (R475). -/
def execAvsCommand (t : Nat) (want : BitVec 10) (ok1 ok2 : Bool) (s : State) : Res :=
  .next ((s.advance t).avsCommand want.toNat ok1 ok2)

/-- TJ_WARN_CROSS (R424). -/
def execTjWarnCross (t : Nat) (tj : BitVec 32) (th : BitVec 8) (s : State) : Res := .next ((s.advance t).tjChange tj.toNat th.toNat)

end Sys2Proof.Machine
end

