-- ==== Sys2Proof/Machine/Security.lean ====
section
/-!
DEFINITION. What management firmware owes to faults, its warm restart, owner keys, protection requests, the trace commands, the age
check of waiting words, JTAG (R47, R227, R432, R434, R435, R443, R450, R455, R457).
-/
namespace Sys2Proof.Machine
open Regs

def mgmtPage : Page := ⟨.mgmt, 0⟩
def tracePage : Page := ⟨.trace, 0⟩
def obsPage : Page := ⟨.obs, 0⟩

/-! ## Firmware's part of a fence and of a job stop (R432, R434) -/

/-- A notice of an event at DT `dt`; while firmware restarts, up to 256 wait in hardware (R453). -/
def State.noticeFor (s : State) (type arg info dt : Nat) : State :=
  if s.host.fwDown then
    if s.host.noticeQ.length < 256 then
      { s with host := { s.host with noticeQ := s.host.noticeQ ++ [leBytes 1 type ++ leBytes 2 arg ++ leBytes 4 info ++ leBytes 8 dt] } }
    else s.inc HQ.NOTICES_DROPPED 0
  else s.noticeAt type arg info dt

/-- The pages of a cluster return to reset, at once. -/
def State.clusterUnload (s : State) (k : Nat) : State :=
  if s.dieFenced (k / 4) then s
  else
    let s := s.clusterBegin k
    (loaderPages k).foldl (fun s p =>
      if s.resetting.contains p || s.heldPages.contains p then s else (s.resetAccept p false).resetDone p.addr) s

/-- Every partition is unloaded as UNLOAD does, but for the pages of a fenced die. -/
def State.unloadAll (s : State) : State :=
  (List.range 16).foldl (fun s p =>
    if (s.part p).state = 0 then s
    else (((List.range 16).filter (bit (s.part p).clusters)).foldl (fun s k => s.clusterUnload k) s).partEmpty p) s

/-- Firmware carries out the oldest action owed. A job stop waits while firmware is down. -/
def State.fwAction (s : State) : State :=
  match s.sec.notices with
  | [] => s
  | a :: rest =>
    let t := { s with sec := { s.sec with notices := rest } }
    if a.kind = 1 then
      match FUnit.ofWord a.unit with
      | some u => t.noticeFor 2 (a.unit % 65536) (t.errLog u.page) a.dt
      | none => t
    else if a.kind = 2 then t.noticeFor 1 0 t.healthWord a.dt
    else if s.host.fwDown then s
    else
      let t := (t.loadStopped.unloadAll).noticeFor 3 a.unit a.code a.dt
      (t.rb HUB.JOB_STOPPED 0 true).irqSet hubPage 9

/-- The management core restarts from the flash image, verified as at boot. An update whose copy could not be taken over ends with
E_SIG (R452). -/
def State.mgmtRestart (s : State) (img : Option (List Byte)) : State :=
  if !s.host.fwDown then s
  else
    match imageCheck img, img with
    | 0, some d =>
      let s := { s with host := { s.host with fwDown := false } }.imageRun d
      let s := ((s.flushNotices).inc MGMT.RESTARTS 0).notice 5 0 (imageVersion d)
      let s := s.fwFrames s.rxHeld.length
      match s.host.cmd with
      | some r => if r.opcode = 5 then s.completeOpen 0x0A 0xFFFF else s
      | none => s
    | r, _ => { s with protVault := true, prot := [] }.hostBoot r

/-! ## Owner keys (R443) -/

/-- The 57 bytes of KEY_STAGE. -/
def State.keyStaged (s : State) : List Byte := ((List.range 15).flatMap fun w => leBytes 4 (s.rg (VAULT.KEY_STAGE.nth w) 0)).take 57

/-- A key request is refused. -/
def State.keyFail (s : State) : State := (s.rs VAULT.KEY_STATUS 0 3).errParam vaultPage

/-- A write of KEY_CMD. -/
def State.keyCmd (s : State) (v : Word) : State :=
  let op := VAULT.KEY_CMD_OP.of v
  let slot := VAULT.KEY_CMD_SLOT.of v
  let filled := !(Tab.get [] s.sec.owner slot).isEmpty
  let revoked := bit s.sec.revoked slot
  if VAULT.KEY_CMD_KEY.of v ≠ 0xA5 ∨ VAULT.KEY_CMD_CONFIRM.of v ≠ 0x5A then s
  else if op = 0 ∨ op = 3 ∨ s.sec.burn.isSome then s.errParam vaultPage
  else if op = 1 then
    if filled || revoked then s.keyFail
    else { s with sec := { s.sec with burn := some (1, slot, s.keyStaged) } }.rs VAULT.KEY_STATUS 0 1
  else if revoked then s.keyFail
  else ({ s with sec := { s.sec with revoked := setBit s.sec.revoked slot true } }.rs VAULT.KEY_STATUS 0 2).fuses

/-- The burn of a key ends. -/
def State.keyBurned (s : State) : State :=
  match s.sec.burn with
  | none => s
  | some (_, slot, k) =>
    ({ s with sec := { s.sec with burn := none, owner := Tab.put [] s.sec.owner slot k } }.rs VAULT.KEY_STATUS 0 2).fuses

/-! ## Protection requests (R450) -/

/-- The entry that PT_INDEX's format names: a page address, or 0x10000 plus a window. -/
def ptEntry (ix : Nat) : Nat := if ix.testBit 16 then 0x10000 + ix % 1024 else bitsAt ix 12 4 * 1024 + ix % 1024

/-- Set an entry of the protection table. -/
def State.setGrants (s : State) (e g : Nat) : State :=
  { s with prot := Tab.put none s.prot e (if g = baseGrants s.protVault e then none else some g) }

/-- A write of PT_REQ_GO: a request is busy until firmware decides it. -/
def State.ptGo (s : State) (c : Req) (v : Word) : State :=
  if MGMT.PT_REQ_GO.of v = 0 then s
  else
    let q := ((c matches .fabric), s.rg MGMT.PT_REQ_INDEX 0, s.rg MGMT.PT_REQ_ENTRY 0)
    { s with sec := { s.sec with ptReq := some q } }.rs MGMT.PT_REQ_STATUS 0 1

/-- What R450 refuses. -/
def ptRefused (fabric : Bool) (ix g : Nat) : Bool :=
  let e := ptEntry ix
  let isWin := ix.testBit 16
  let writes := bit g 1 || bit g 3
  let pk := if isWin then none else (Page.ofAddr e).map Page.pk
  fabric || (isWin && (decide (18 < ix % 1024) || writes || bit g 5)) ||
    ((pk == some .prot || pk == some .opt) && writes) ||
    ((pk == some .prot || pk == some .mgmt) && !(bit g 4 && bit g 5))

/-- Firmware applies or refuses the request. -/
def State.ptApply (s : State) : State :=
  match s.sec.ptReq with
  | none => s
  | some (fab, ix, g) =>
    if s.host.fwDown then s
    else
      let s := { s with sec := { s.sec with ptReq := none } }
      let s := if ptRefused fab ix g then s.rs MGMT.PT_REQ_STATUS 0 3 else (s.setGrants (ptEntry ix) g).rs MGMT.PT_REQ_STATUS 0 2
      s.irqSet mgmtPage 8

/-! ## Trace commands (R455, R464) -/

/-- A write of CLEAR. -/
def State.traceClear (s : State) (v : Word) : State :=
  if TRACE.CLEAR.of v = 0 then s
  else if s.on TRACE.TR_EN 0 then s.errParam tracePage
  else ((s.zeroSram traceBase 0x200000).rs TRACE.WR_INDEX 0 0).rs TRACE.LAPS 0 0

/-! ## The age check of waiting words (R47) -/

/-- A word of a 35-bit stamp is more than 2^33 ns old against `now`. -/
def stale (now f35 : Nat) : Bool := decide (rebuild now f35 + 2 ^ 33 < now)

/-- Words discarded, counted on a cluster's page. -/
def State.staleCount (s : State) (k n : Nat) : State := s.inc CLU.STALE_FLITS k n

/-- A stream queue of a cluster router: each discarded word gives its credit back; a REPLAY pair carries its full time. -/
def State.staleStream (s : State) (k i : Nat) : State :=
  let key := k * 36 + i
  let q := Tab.get [] s.rqueue key
  let keep := q.filter fun f => f.t.isSome || !stale s.dt (wT f.word)
  let n := q.length - keep.length
  if n = 0 then s
  else
    let s : State := { s with rqueue := Tab.put [] s.rqueue key keep }
    let s := (s.setCredit k i (s.credit k i + n)).staleCount k n
    let s : State := if keep.isEmpty then s.rs CLU.STALL_STREAMS k (setBit (s.rg CLU.STALL_STREAMS k) i false) else s
    if s.rg CLU.STALL_STREAMS k = 0 then s.waitEnd CLU.EVT_HOL_CYCLES k else s

/-- A cluster router: its stream queues and the spike copies that wait. -/
def State.staleRouter (s : State) (k : Nat) : State :=
  let s := (List.range 36).foldl (fun s i => s.staleStream k i) s
  let w := (s.router k).wait
  let keep := w.filter fun c => !stale s.dt (wT c.w0)
  if keep.length = w.length then s else (s.upRouter k fun r => { r with wait := keep }).staleCount k (w.length - keep.length)

/-- A core's input queue; a replay arrival carries its full time. -/
def State.staleCore (s : State) (n : Nat) : State :=
  let q := (s.core n).queue
  let keep := q.filter fun a => a.cls == 3 || !stale s.dt (st35 a.t)
  if keep.length = q.length then s
  else ((s.upCore n fun c => { c with queue := keep }).staleCount (n / 256) (q.length - keep.length)).queueFreed n

/-- A Ledger apply queue; a replay write carries its full time. -/
def State.staleBank (s : State) (k : Nat) : State :=
  let q := (s.bank k).queue
  let keep := q.filter fun w => w.replay || !stale s.dt (st35 (s.dtEquiv k w.d w.tw))
  if keep.length = q.length then s
  else ((s.upBank k fun b => { b with queue := keep }).staleCount k (q.length - keep.length)).bankFreed k

/-- A TOK pending queue. -/
def State.staleTok (s : State) (k : Nat) : State :=
  let q := (s.tk k).pend
  let keep := q.filter fun p => !stale s.dt (st35 p.t)
  if keep.length = q.length then s
  else ((s.upTok k fun u => { u with pend := keep }).staleCount k (q.length - keep.length)).tokFreed k

/-- An escape ring: its copies leave and those that stay enter again, in order. -/
def State.staleEscape (s : State) (k : Nat) : State :=
  let n := (s.router k).escLevel
  let all := (List.range n).map fun i => let a := s.escAddr k ((s.router k).escHead + i); (Mem.rdLE s.ddr4 a 8, Mem.rdLE s.ddr4 (a + 8) 8)
  let keep := all.filter fun c => !stale s.dt (wT c.1)
  if keep.length = n then s
  else
    let m := (List.range keep.length).foldl (fun m i =>
      let a := s.escAddr k ((s.router k).escHead + i)
      let c := keep.getD i (0, 0)
      Mem.wrLE (Mem.wrLE m a 8 c.1) (a + 8) 8 c.2) s.ddr4
    let s := ({ s with ddr4 := m }.upRouter k fun r => { r with escLevel := keep.length }).staleCount k (n - keep.length)
    s.waitEnd CLU.ESC_FULL_CYCLES k

/-- The Piste buffers: open flits, and EVENT flits that wait to leave or for SPK credit, against FT. -/
def State.stalePiste (s : State) : State :=
  let ft := s.ft s.dt
  let o := s.fab.openF
  let keepO := o.filter fun f => !stale ft f.ft35
  let s := { s with fab := { s.fab with openF := keepO } }.inc FAB.STALE_FLITS 0 (o.length - keepO.length)
  (List.range 6).foldl (fun s p =>
    let gone := ((s.pp p).wait ++ (s.pp p).rx).filter fun m => m.ty == 1 && stale ft (wT (m.body.getD 0 0))
    if gone.isEmpty then s
    else
      let s := s.upPp p fun x => { x with wait := x.wait.filter fun m => !gone.contains m, rx := x.rx.filter fun m => !gone.contains m }
      (((gone.foldl (fun s m => s.credited m.src) s).inc FAB.STALE_FLITS 0 gone.length).pisteStalls p).ingressStall) s

/-- The check of one buffer. -/
def State.staleCheck (s : State) : BufId → State
  | .router k => s.staleRouter k
  | .coreQueue n => s.staleCore n
  | .ledger k => s.staleBank k
  | .tok k => s.staleTok k
  | .escape k => s.staleEscape k
  | .piste => s.stalePiste

/-! ## JTAG (R457) -/

/-- The TAP's instruction changes. -/
def State.tapIr (s : State) (i : Nat) : State := { s with sec := { s.sec with ir := i } }

/-! ## Meanings -/

/-- FENCE_FIRMWARE_ACTION (R432). -/
def execFenceFirmwareAction (t : Nat) (s : State) : Res := .next (s.advance t).fwAction

/-- MGMT_WARM_RESTART (R435). -/
def execMgmtWarmRestart (t : Nat) (img : Option (List Byte)) (s : State) : Res := .next ((s.advance t).mgmtRestart img)

/-- KEY_PROGRAM (R443). -/
def execKeyProgram (t : Nat) (c : Req) (v : Word) (s : State) : Res := s.cmdWrite t c vaultPage 0x064 fun s => s.keyCmd v

/-- KEY_REVOKE (R443). -/
def execKeyRevoke (t : Nat) (c : Req) (v : Word) (s : State) : Res := s.cmdWrite t c vaultPage 0x064 fun s => s.keyCmd v

/-- KEY_BURN_DONE (R443). -/
def execKeyBurnDone (t : Nat) (s : State) : Res := .next (s.advance t).keyBurned

/-- PT_REQ_GO (R450). -/
def execPtReqGo (t : Nat) (c : Req) (v : Word) (s : State) : Res := s.cmdWrite t c mgmtPage 0x050 fun s => s.ptGo c v

/-- PT_REQ_APPLIED (R450). -/
def execPtReqApplied (t : Nat) (s : State) : Res := .next (s.advance t).ptApply

/-- TRACE_CLEAR (R464). -/
def execTraceClear (t : Nat) (c : Req) (v : Word) (s : State) : Res := s.cmdWrite t c tracePage 0x054 fun s => s.traceClear v

/-- FW_MARK (R464). -/
def execFwMark (t : Nat) (c : Req) (v : Word) (s : State) : Res :=
  s.cmdWrite t c tracePage 0x058 fun s => s.trace tracePage 9 0 v.toNat

/-- STALE_CHECK (R47). -/
def execStaleCheck (t : Nat) (b : BufId) (s : State) : Res := .next ((s.advance t).staleCheck b)

/-- BAD_FLIT (R227): the flit is discarded by the router that receives it. -/
def execBadFlit (t : Nat) (k ty : Fin 16) (s : State) : Res :=
  let s := s.advance t
  .next (if 14 ≤ ty.val then (s.inc CLU.BAD_FLIT k).irqSet (cluPage k) 10 else s)

/-- IDCODE (R457). -/
def execIdcode (t : Nat) (s : State) : Res := .next (((s.advance t).tapIr 1).emit (.jtag 0x136405EB))

/-- SAMPLE (R457): the levels at the 700 signal balls are what the outside drives and sees. -/
def execSample (t : Nat) (s : State) : Res :=
  let (v, s) := ((s.advance t).tapIr 2).takeFree
  .next (s.emit (.jtag (v % 2 ^ 700)))

/-- BYPASS (R457). -/
def execBypass (t : Nat) (s : State) : Res := .next ((s.advance t).tapIr 15)

end Sys2Proof.Machine
end

