-- ==== Sys2Proof/Machine/Access.lean ====
section
/-!
DEFINITION. Register and memory accesses (R8–R12, R28, R30–R34, R39, R40, R447): what every register reads as, the latches and the
clearing of a read, the writes of every page, remote accesses and the observation port.
-/
namespace Sys2Proof.Machine
open Regs

/-! ## Values that reflect live state (R7) -/

/-- A mask of the numbers below `n` that satisfy `p`. -/
def maskOf (n : Nat) (p : Nat → Bool) : Nat := (List.range n).foldl (fun m j => if p j then m ||| 2 ^ j else m) 0

/-- The header's live fields (R36). -/
def State.liveHdr (s : State) (p : Page) (f : Fld) : Option Nat :=
  let b (x : Bool) : Option Nat := some (if x then 1 else 0)
  let pk := p.pk
  if f = Hdr.TYPE pk then some pk.blockType
  else if f = Hdr.INSTANCE pk then some p.inst
  else if f = Hdr.LAYOUT pk then some 1
  else if f = Hdr.BLK_IRQ pk then b pk.blkIrq
  else if f = Hdr.BLK_RESET pk then b pk.blkReset
  else if f = Hdr.FENCEABLE pk then b pk.fenceable
  else if f = Hdr.HAS_DEGRADED pk then b pk.hasDegraded
  else if f = Hdr.NUM_EVT pk then some pk.numEvt
  else if f = Hdr.IDLE pk then b (s.idle p)
  else if f = Hdr.FENCED pk then b (s.pageFenced p)
  else if f = Hdr.CLK_GOOD pk then b (s.clkGood p)
  else if f = Hdr.IN_RESET pk then b (s.inReset p)
  else if f = Hdr.DEGRADED pk then
    match pk with
    | .clu => b ((List.range 256).any fun n => s.coreFenced (256 * p.inst + n))
    | .die => b (s.fenced.any fun u => match u.page.die? with | some d => d == p.inst | none => false)
    | .hub => b (!s.fenced.isEmpty)
    | _ => none
  else if f = Hdr.IRQ_STATUS pk then some (s.rg (Hdr.IRQ_RAW pk) p.inst &&& s.rg (Hdr.IRQ_ENABLE pk) p.inst)
  else none

/-- The output of a rate channel that readers see now (R259, R260). -/
def State.outNow (s : State) (ch : Nat) : ChOut := (s.available ch).head?.getD ChOut.zero

/-- The latest kept output's FLICKER, while the bank runs (R95, R259). -/
def State.flickNow (s : State) (ch : Nat) : Bool :=
  s.on (Hdr.ENABLE .rfb) 0 && (match (s.chan ch).hist with | o :: _ => o.flick | [] => false)

/-- TIME. -/
def State.liveTime (s : State) (off : Nat) : Option Nat :=
  if off = 0x040 then some (s.dt % 2 ^ 32) else if off = 0x044 then some (s.dt / 2 ^ 32) else none

/-- STREAM: the source, the FIFO, the gate, the active model (R64), stream time. -/
def State.liveStream (s : State) (i : Nat) (f : Fld) : Option Nat :=
  let c := s.st i
  if f = STREAM.SOURCE then some (s.source i).1
  else if f = STREAM.SRC_VC then some (s.source i).2
  else if f = STREAM.LEVEL then some c.fifo.length
  else if f = STREAM.FULL then some (c.fifo.length / 32)
  else if f = STREAM.FLK_ACTIVE then
    some (if s.on STREAM.FLK_EN i then maskOf 32 fun r => bit (s.rg STREAM.FLK_FORCE i) r || s.flickNow (32 * i + r) else 0)
  else if f = STREAM.MODEL_VALID then some (if c.act.valid || s.aerStream i then 1 else 0)
  else if f = STREAM.UNALIGNED then some (if s.unaligned i then 1 else 0)
  else if f = STREAM.SYNC_LOST then some (if s.on STREAM.SYNC_LOST i && !s.aerStream i then 1 else 0)
  else if f = STREAM.CM_BASE_S then some c.act.baseS
  else if f = STREAM.CM_BASE_DT then some c.act.baseDT
  else if f = STREAM.CM_RATE then some c.act.rate
  else if f = STREAM.STREAM_TIME then some c.time
  else none

/-- The Ledger bank, the matrix core, the TOK unit, the cluster router and the distributor. -/
def State.liveUnit (s : State) (i : Nat) (f : Fld) : Option Nat :=
  if f = DIST.GATE_ACTIVE then some (maskOf 16 s.gated)
  else if f = LDB.QUEUE_LEVEL then some (s.bank i).queue.length
  else if f = LDB.APPLIED_TICK then some (s.bank i).applied
  else if f = MXC.CQ_LEVEL then some (match (s.mxc i).run with | some r => r.queue.length | none => 0)
  else if f.pk = .mxc ∧ 0x070 ≤ f.off ∧ f.off < 0x090 then
    let w := (f.off - 0x070) / 4
    some ((s.mxc i).sem.getD (2 * w) 0 + (s.mxc i).sem.getD (2 * w + 1) 0 * 65536)
  else if f = TOK.PEND_LEVEL then some (s.tk i).pend.length
  else if f = CLU.ESC_LEVEL then some (s.router i).escLevel
  else if f = CG.FENCE_MASK then some (maskOf 16 fun j => s.coreFenced (16 * i + j))
  else if f = CG.IDLE_MASK then some (maskOf 16 fun j => s.coreIdle (16 * i + j))
  else none

/-- A core slot (R159). -/
def State.liveCore (s : State) (n : Nat) (f : Fld) : Option Nat :=
  let b (x : Bool) : Option Nat := some (if x then 1 else 0)
  if f = CGS.IDLE then b (s.coreIdle n)
  else if f = CGS.FENCED then b (s.coreFenced n)
  else if f = CGS.RUNNING then b (s.handlerRuns n)
  else if f = CGS.QLEVEL then some (s.core n).queue.length
  else if f = CGS.NT then some (s.ntOf n)
  else none

/-- The rate filter bank (R262, R263). -/
def State.liveRfb (s : State) (idx : Nat) (f : Fld) : Option Nat :=
  let b (x : Bool) : Option Nat := some (if x then 1 else 0)
  let q := s.prof idx
  if f = RFB.PROC_TICK then some (s.rfb.proc - 1)
  else if f = RFB.SYNC_PENDING then b s.rfb.sync.isSome
  else if f = RFB.COMMIT_PENDING then b q.commit
  else if f = RFB.XF_ACTIVE then b q.xf.isSome
  else if f = RFB.PENDING then b q.swap.isSome
  else if f = RFB.ACTIVE_BANK then b q.bankB
  else if f = RFB.SLOT_A then some (s.bankSlot idx false)
  else if f = RFB.SLOT_B then some (s.bankSlot idx true)
  else if f = RFB.GEN then some q.gen
  else if f = RFB.PEND_GEN then some (match q.swap with | some w => w.2.1 | none => 0)
  else if f = RFB.XF_POS then some q.xfPos
  else if f = RFB.COEF_DATA then some (unsigned 18 (s.coefTap (s.rg RFB.COEF_SLOT 0) (s.rg RFB.COEF_TAP 0)))
  else none

/-- The channels of a stream. -/
def State.liveRfbs (s : State) (i : Nat) (f : Fld) : Option Nat :=
  let o := s.outNow (32 * i + (f.off - 0x100) / 16)
  let b (x : Bool) : Option Nat := some (if x then 1 else 0)
  if f = RFBS.FLICKER_NOW then some (maskOf 32 fun r => (s.outNow (32 * i + r)).flick)
  else if f = RFBS.VALID_NOW then some (maskOf 32 fun r => (s.outNow (32 * i + r)).valid)
  else if f = RFBS.SWITCH_PENDING then some (maskOf 32 fun r => let c := s.chan (32 * i + r)
    c.pend || (c.run && (s.prof c.prof).commit))
  else if f.off < 0x100 ∨ 0x300 ≤ f.off then none
  else if f.off % 16 = 4 then
    (if f.lsb = 0 then some (if o.valid then unsigned 24 o.fine else 0)
     else if f.lsb = 24 then b o.valid else if f.lsb = 25 then b o.flick else some o.seq)
  else if f.off % 16 = 8 then (if f.lsb = 0 then some o.coarse else some o.seq)
  else if f.off % 16 = 12 then some o.metric
  else none

/-- Fusion groups, tracks and sensors. -/
def State.liveFusion (s : State) (i : Nat) (f : Fld) : Option Nat :=
  if f = FG.BOUND_CYC then some (s.boundCyc i)
  else if f = FG.REPORT_MAX then some (s.reportMax i)
  else if f = TRK.LIVE then some s.tracks.length
  else if f.pk = .trk ∧ 0x080 ≤ f.off then
    some (match s.track (s.rg TRK.TRK_INDEX 0) with | some t => leAt t.recd (f.off - 0x080) 4 | none => 0)
  else if f.pk = .fuse ∧ 0x080 ≤ f.off ∧ f.off < 0x110 then
    (if f.lsb = 17 then some ((s.homeOf ((f.off - 0x080) / 4)).getD 0)
     else if f.lsb = 19 then some (if (s.homeOf ((f.off - 0x080) / 4)).isSome then 1 else 0) else none)
  else none

/-- The Journal (R318–R320). -/
def State.liveJournal (s : State) (i : Nat) (f : Fld) : Option Nat :=
  let m := s.mark i (s.rg JSTR.MARK_SEL i)
  if f = JSTR.MARK_VALID then some (maskOf 8 fun j => (s.mark i j).valid)
  else if f = JSTR.MARK_PENDING then some (maskOf 8 fun j => (s.mark i j).set || (s.mark i j).placed)
  else if f = JSTR.MARK_POS then some m.pos
  else if f = JSTR.MARK_DT then some m.dt
  else if f = JRNL.STAGE_USED then some ((List.range 36).map fun j => (s.jr j).used).sum
  else if f = JRNL.STAGE_ALLOC then
    some (((List.range 36).filter fun j => s.on (Hdr.ENABLE .jstr) j).map fun j => s.rg JSTR.STAGE_LINES j).sum
  else none

/-- PTP domains and launch queues: RATE and OFFSET read as the active values (R69, R369). -/
def State.livePtp (s : State) (i : Nat) (f : Fld) : Option Nat :=
  let w := s.wt i s.dt
  if f = PTPD.RATE then some (s.wtR i)
  else if f = PTPD.OFFSET then some (unsigned 128 (s.wtO i))
  else if f = PTPD.WT_NEG then some (if s.wtNeg i s.dt then 1 else 0)
  else if f = PTPD.WT_S then some (w / 1000000000)
  else if f = PTPD.WT_NS then some (w % 1000000000)
  else if f = LNCH.ENTRIES_USED then some (s.entries i).length
  else none

/-- The loader's record of the selected partition (R341, R346). -/
def State.liveHq (s : State) (f : Fld) : Option Nat :=
  let x := s.part (s.rg HQ.PART_INDEX 0)
  if f = HQ.PART_GEN then some x.gen
  else if f = HQ.PART_STATE then some x.state
  else if f = HQ.PART_LOADED then some (if x.loaded then 1 else 0)
  else if f = HQ.PART_CLUSTERS then some x.clusters
  else none

/-- The watchdog's remaining ms, part of one counted as one. -/
def State.wdogRemain (s : State) : Nat :=
  let ns := if s.asleep then s.boot.wdogFrozen else s.boot.wdogEnd - s.dt
  if s.boot.wdogOn then (ns + 999999) / 1000000 else 0

/-- Reset, clock, governor, Vault, protection, firmware and observation pages. -/
def State.liveHub (s : State) (c : Req) (f : Fld) : Option Nat :=
  match f.pk with
  | .rstc => if f = RSTC.WDOG_REMAIN then some s.wdogRemain else none
  | .clk =>
    if f.off = 0x040 then some (bitsAt s.boot.lock f.lsb f.width)
    else if f.off = 0x044 then some (if s.boot.refclkOk then 1 else 0) else none
  | .gov => if f = GOV.SET_MV then some s.pow.mv else none
  | .vault =>
    if f.off < 0x200 then none
    else if f.off < 0x300 then some (leAt Config.certificate (f.off - 0x200) 4)
    else if f.off < 0x340 then some (leAt Config.rootDigest (f.off - 0x300) 4)
    else if f.off < 0x400 then some (leAt (Config.ed448Public identityKey) (f.off - 0x340) 4)
    else some (leAt (Tab.get [] s.sec.owner ((f.off - 0x400) / 64)) ((f.off - 0x400) % 64) 4)
  | .prot =>
    if f = PROT.GRANTS then
      some (s.grants (ptEntry (s.rg PROT.PT_PAGE 0 + s.rg PROT.PT_AREA 0 * 4096 + s.rg PROT.PT_WINDOW 0 * 65536)))
    else none
  | .mgmt => if f = MGMT.FW_VERSION then some (s.rg VAULT.IMG_VERSION 0) else none
  | .obs => if f = OBS.ACTIVE then some (if c = .obs then 1 else 0) else none
  | _ => none

/-- The live value of a field, if it has one. -/
def State.live (s : State) (c : Req) (p : Page) (pk : PK) (i idx : Nat) (f : Fld) : Option Nat :=
  if f.off < 0x040 ∧ !pk.inner then s.liveHdr p f
  else match pk with
  | .time => s.liveTime f.off
  | .stream => s.liveStream i f
  | .dist | .ldb | .mxc | .tok | .clu | .cg => s.liveUnit i f
  | .cgs => s.liveCore i f
  | .rfb => s.liveRfb idx f
  | .rfbs => s.liveRfbs i f
  | .fg | .trk | .fuse => s.liveFusion i f
  | .jstr | .jrnl => s.liveJournal i f
  | .ptpd | .lnch => s.livePtp i f
  | .hq => s.liveHq f
  | _ => s.liveHub c f

/-- Fields that count or show what passes on a link below the level of this model (assumption 74): a read gives a free value. -/
def openFld (f : Fld) : Bool :=
  match f.pk with
  | .pst => f == PST.FEC_CORR || f == PST.FEC_UNCORR
  | .pcie => f == PCIE.CORR_ERR || f == PCIE.UNCORR_ERR
  | .mipi => f == MIPI.HS_ACTIVE
  | _ => false

/-- What a field holds now. -/
def State.fieldNow (s : State) (c : Req) (p : Page) (pk : PK) (i idx : Nat) (f : Fld) : Nat :=
  if f.acc = .wo then 0
  else if openFld f then Config.freeValue s.free % 2 ^ f.width
  else (s.live c p pk i idx f).getD (s.rg f i idx + s.waiting f i) % 2 ^ f.width

/-! ## Reads (R8, R9, R11, R12) -/

/-- A register word without side effects. The MSI-X table and its pending bits lie in the PCIE page (R333). -/
def State.wordNow (s : State) (c : Req) (p : Page) (off : Nat) : Nat :=
  let (pk, i, o) := innerReg p off
  if pk = .pcie ∧ 0x800 ≤ o then
    if o < 0xC00 then Tab.get (msixDefault ((o - 0x800) / 4)) s.host.msix ((o - 0x800) / 4)
    else bitsAt s.host.pba (8 * (o - 0xC00)) (if o < 0xC08 then 32 else 0)
  else if pk = .cal ∧ o = 0x048 then
    Tab.get 0 s.cal ((1 - s.activeBank) * calWords + s.rg CAL.CAL_SENSOR 0 * 2194 + s.rg CAL.CAL_WORD 0)
  else
    let idx := s.idxAt pk i o
    (fldsAt pk o).foldl (fun w e =>
      let x := s.fieldNow c p pk i idx e.1
      w ||| (if e.1.words = 1 then x <<< e.1.lsb else bitsAt x (32 * e.2) 32)) 0 % 2 ^ 32

/-- The class whose latch an access uses: both levels of the management core are one class (R448). -/
def latchClass : Req → Req
  | .mgmtP1 => .mgmtP0
  | c => c

/-- The offsets that a read latches (R8, R44, R160, R263, R304, R369). -/
def companions (p : Page) (off : Nat) : List Nat :=
  let (pk, _, o) := innerReg p off
  let wide := (fldsAt pk o).flatMap fun e => if e.2 = 0 then (List.range (e.1.words - 1)).map fun j => off + 4 * (j + 1) else []
  match pk with
  | .time => if o = 0x040 then [0x044] else wide
  | .clu => if o = 0x228 then [0x22C] else wide
  | .ptpd => if o = 0x084 then [0x088, 0x08C] else wide
  | .rfbs => if 0x100 ≤ o ∧ o < 0x300 ∧ o % 16 = 4 then [off + 4, off + 8] else []
  | .trk => if o = 0x080 then (List.range 15).map fun j => 0x084 + 4 * j else []
  | _ => wide

/-- The latched word of a class. -/
def State.latched (s : State) (k : Req × PK × Nat × Nat) : Option Nat := (s.latch.find? fun e => e.1 == k).map fun e => e.2

/-- The level that a `_PEAK` field restarts from (R11). -/
def State.levelOf (s : State) (pk : PK) (i : Nat) : Nat :=
  match pk with
  | .ldb => (s.bank i).queue.length
  | .cgs => (s.core i).queue.length
  | .jstr => (s.jr i).used
  | _ => 0

/-- The side effects of a read by a class other than OBS: RC fields restart; a read of CAL_DATA advances CAL_WORD; free values are
used up. -/
def State.readEffects (s : State) (c : Req) (p : Page) (off : Nat) : State :=
  let (pk, i, o) := innerReg p off
  let fs := fldsAt pk o
  let s := if fs.any fun e => openFld e.1 then (s.takeFree).2 else s
  if c = .obs then s
  else
    let s := fs.foldl (fun s e => if e.1.acc = .rc then s.rs e.1 i (s.levelOf pk i) (s.idxAt pk i o) else s) s
    if pk = .cal ∧ o = 0x048 then
      let w := s.rg CAL.CAL_WORD 0
      s.rs CAL.CAL_WORD 0 (if w + 1 < 2194 then w + 1 else 0)
    else s

/-- A 32-bit read that has passed every check. -/
def State.readWord (s : State) (c : Req) (p : Page) (off : Nat) : Nat × State :=
  let key (o : Nat) : Req × PK × Nat × Nat := (latchClass c, p.pk, p.inst, o)
  match s.latched (key off) with
  | some v => (v, { s with latch := s.latch.filter fun e => e.1 != key off })
  | none =>
    let v := s.wordNow c p off
    let new := (companions p off).map fun o => (key o, s.wordNow c p o)
    let kept := s.latch.filter fun e => !(new.any fun n => n.1 == e.1)
    (v, { s with latch := new ++ kept }.readEffects c p off)

/-- What the hub's proxy returns for a page of a die that is in reset, off or fenced (R34). -/
def State.proxyWord (s : State) (p : Page) (off : Nat) : Nat :=
  if off = 0 then p.pk.blockType * 65536 + p.inst % 256 * 256 + 1
  else if off = 0x00C then
    1 + (if (match p.die? with | some d => s.dieFenced d | none => false) then 2 else 8)
  else 0

/-- Is a page's die served by the proxy? -/
def State.proxied (s : State) (p : Page) : Bool := match p.die? with | some d => s.dieDown d | none => false

/-- A 32-bit register read by a class: the word, and whether the protection table denied it. -/
def State.regRead (s : State) (c : Req) (a : Nat) : Nat × Bool × State :=
  match Page.ofAddr (a / 4096) with
  | none => (0, false, s)
  | some p =>
    let off := a % 4096
    if !s.answers p then (0, false, s)
    else if !s.mayRead c p.addr then (0, true, s.denied c a false false)
    else if s.proxied p then (s.proxyWord p off, false, s)
    else if !s.clkGood p && off != 0 && off != 0x00C then (0, false, s)
    else
      let r := (s.takeInFor p).readWord c p off
      (r.1, false, r.2)

/-- Bytes of a width. -/
def accBytes : AccSize → Nat
  | .b1 => 1 | .b2 => 2 | .b4 => 4 | .b8 => 8 | .burst more => 8 + 4 * more.length

/-- The bytes of a read narrower than 32 bits, of which `n` are still to come: every word it touches is read in full, in ascending
order (R32; assumption 8). -/
def State.narrowRead (s : State) (c : Req) (a n : Nat) : Nat × State :=
  let (x, _, s) := s.regRead c (a / 4 * 4)
  if a % 4 + n ≤ 4 then (bitsAt x (8 * (a % 4)) (8 * n), s)
  else
    let (y, _, s) := s.regRead c (a / 4 * 4 + 4)
    (bitsAt (x + y * 2 ^ 32) (8 * (a % 4)) (8 * n), s)

/-- 32-bit reads in ascending address order, each with its side effects. -/
def State.wordReads (s : State) (c : Req) (a : Nat) : Nat → List Nat × State
  | 0 => ([], s)
  | n + 1 =>
    let (x, _, s) := s.regRead c a
    let r := s.wordReads c (a + 4) n
    (x :: r.1, r.2)

/-- A register read of any width (R32); one of 64 bits, and a longer one, is reads of 32 bits in ascending order, each of which takes a
latched high word (R323). A read of 32 bits or more that does not start at a word is not described: its value is free (assumption 75), but for a
reserved page, which reads 0 (R31). -/
def State.readAny (s : State) (c : Req) (a : Nat) (z : AccSize) : List Nat × State :=
  match z with
  | .b1 | .b2 =>
    let (v, s) := s.narrowRead c a (accBytes z)
    ([v], s)
  | _ =>
    if a % 4 ≠ 0 then
      if (Page.ofAddr (a / 4096)).isNone then ([0], s)
      else
        let (v, s) := s.takeFree
        ([v % 2 ^ (8 * accBytes z)], s)
    else s.wordReads c a (accBytes z / 4)

/-! ## Writes (R9, R32) -/

/-- HQ: registers locked while the ring is enabled or a LOAD runs (R346). -/
def State.hqWrite (s : State) (off : Nat) (v : Word) : State :=
  let r := s.rg HQ.RING_INDEX 0
  if off = 0x04C then s.ringCtrl v
  else if (0x044 ≤ off ∧ off < 0x058 ∧ s.on HQ.RING_EN 0 r) ∨ (0x100 ≤ off ∧ off < 0x120 ∧ s.loading) then s.errParam hqPage
  else if (off = 0x050 ∨ off = 0x054) ∧ r < 3 ∧ v ≠ 0 ∨ off = 0x050 ∧ v.toNat % 4 ≠ 0 then s.errParam hqPage
  else s.plainWrite hqPage .hq 0 off v

/-- PCIE: a word of the MSI-X table; a vector no longer masked sends its pending message (R333). -/
def State.pcieWrite (s : State) (off : Nat) (v : Word) : State :=
  if 0x800 ≤ off ∧ off < 0xC00 then
    let i := (off - 0x800) / 4
    ({ s with host := { s.host with msix := Tab.put (msixDefault i) s.host.msix i v.toNat } }).msixFlush
  else if 0x800 ≤ off then s
  else s.plainWrite pciePage .pcie 0 off v

/-- PROT: PT_INDEX and PT_ENTRY (R461). -/
def State.protWrite (s : State) (off : Nat) (v : Word) : State :=
  let p : Page := ⟨.prot, 0⟩
  if off = 0x040 then
    if PROT.PT_WINDOW.of v = 1 ∧ 18 < PROT.PT_PAGE.of v then s.errParam p else s.putWord .prot 0 off v
  else if off = 0x044 then
    let g := PROT.GRANTS.of v
    if s.on PROT.PT_WINDOW 0 && (bit g 1 || bit g 3 || bit g 5) then s.errParam p
    else s.setGrants (ptEntry (s.rg PROT.PT_PAGE 0 + s.rg PROT.PT_AREA 0 * 4096 + s.rg PROT.PT_WINDOW 0 * 65536)) g
  else s

/-- A write to a register of any page, past the gate. -/
def State.pageWrite (s : State) (c : Req) (p : Page) (off : Nat) (v : Word) : State :=
  if off < 0x040 then
    let s := s.unitWrite p off v
    if p.pk = .eth ∧ off = 0x008 ∧ !s.on (Hdr.ENABLE .eth) p.inst then s.ethDown p.inst else s
  else match p.pk, off with
  | .hq, o => s.hqWrite o v
  | .pcie, o => s.pcieWrite o v
  | .prot, o => s.protWrite o v
  | .rstc, 0x048 => s.pkgResetWrite v
  | .rstc, 0x04C => s.wdogCtrl v
  | .rstc, 0x050 => s.wdogKick v
  | .opt, 0x044 => s.optBurn v
  | .pwr, 0x040 => s.pwrReq v
  | .gov, 0x050 => (s.unitWrite p off v).tjCheck
  | .vault, 0x054 => s.hbGo v
  | .vault, 0x064 => s.keyCmd v
  | .mgmt, 0x050 => s.ptGo c v
  | .trace, 0x054 => s.traceClear v
  | .trace, 0x058 => s.trace tracePage 9 0 v.toNat
  | _, o => s.unitWrite p o v

/-- A 32-bit register write by a class (R9, R31). RESET_REQ reaches pages whose clock is not good (R28). -/
def State.regWrite (s : State) (c : Req) (a : Nat) (v : Word) : State :=
  if a % 4096 = 0x01C then s.resetWrite c (a / 4096) v
  else match Page.ofAddr (a / 4096) with
  | none => s
  | some p => s.gateWrite c p (a % 4096) fun s => (s.takeInFor p).pageWrite c p (a % 4096) v

/-- The 32-bit words that a write carries; none where it is narrower. -/
def accWords (z : AccSize) (v : Word64) : List Word :=
  match z with
  | .b1 | .b2 => []
  | .b4 => [v.setWidth 32]
  | .b8 => [v.setWidth 32, (v >>> 32).setWidth 32]
  | .burst more => v.setWidth 32 :: (v >>> 32).setWidth 32 :: more

/-- 32-bit writes in ascending address order. -/
def State.wordWrites (s : State) (c : Req) (a : Nat) : List Word → State
  | [] => s
  | w :: ws => (s.regWrite c a w).wordWrites c (a + 4) ws

/-- A register write of any width: an aligned 32-bit one is accepted, a longer one is applied as writes of 32 bits in ascending order
(R323), every other is ignored and sets ERR_PARAM (R32). -/
def State.writeAny (s : State) (c : Req) (a : Nat) (z : AccSize) (v : Word64) : State :=
  if a % 4 = 0 ∧ 4 ≤ accBytes z then s.wordWrites c a (accWords z v)
  else match Page.ofAddr (a / 4096) with
  | none => s
  | some p => s.gateWrite c p (a % 4096) fun s => s.errParam p

/-! ## Remote accesses (R227, R389) -/

/-- The code of a class in a REG flit's response. -/
def reqCode : Req → Nat
  | .host => 0 | .mgmtP0 => 1 | .mgmtP1 => 2 | .fabric => 3 | .obs => 4
def reqOfCode : Nat → Req
  | 0 => .host | 1 => .mgmtP0 | 2 => .mgmtP1 | 3 => .fabric | _ => .obs

/-- The source field of the unit that answers for a page: the unit of the page's cluster, or the register agent (R226). -/
def pageSrc (a : Nat) : Nat :=
  match Page.ofAddr (a / 4096) with
  | none => srcField 2 0 3
  | some p =>
    match p.pk with
    | .clu | .mesh => srcField 1 p.inst 0
    | .ldb => srcField 1 p.inst 1
    | .tok => srcField 1 p.inst 2
    | .mxc => mxSrc p.inst
    | .cg => srcField 1 (p.inst / 16) 0
    | .die | .dmon => srcField 1 (4 * p.inst) 0
    | .ucie => srcField 1 (p.inst / 4 * 4) 0
    | _ => srcField 2 0 3

/-- A REG flit: the access, and its response on its way back. The model keeps the requester's class above the 14 tag bits. -/
def State.regFlit (s : State) (c : Req) (a : Nat) (wr : Bool) (v : Word) : State :=
  let aux := pageSrc a ||| reqCode c <<< 14
  if !s.boot.hubUp then s
  else if wr then (s.regWrite c a v).send ⟨0xD, 2, 0, 3, aux, [0]⟩
  else
    let (x, _, s) := s.regRead c a
    s.send ⟨0xD, 2, 0, 3, aux, [x]⟩

/-- A REGRSP flit. -/
def State.regRsp (s : State) : State :=
  match s.takeFlit fun f => f.toHub 0xD 3 with
  | none => s
  | some (f, s) => s.emit (.readData (reqOfCode (f.aux >>> 14)) f.words)

/-- A register access by a peer device: applied with class FABRIC and answered. -/
def State.mgmtRequest (s : State) (w : List Nat) : State :=
  let w0 := w.getD 0 0
  let a := bitsAt w0 32 26
  let wr := w0.testBit 58
  let src := bitsAt w0 9 6
  let (data, den, s) :=
    if wr then
      let den := match Page.ofAddr (a / 4096) with
        | some p => s.answers p && !s.mayWrite .fabric p.addr
        | none => false
      (0, den, s.writeAny .fabric a .b4 (BitVec.ofNat 64 (w.getD 1 0)))
    else s.regRead .fabric (a / 4 * 4)
  let s := if den then s.inc FAB.MGMT_DENIED 0 else s
  s.sendRouted 6 [mgmtWord src s.devNum a wr true den, data]

/-- An MGMT message. -/
def State.mgmtIn (s : State) (w : List Nat) (src : Option (Nat × Nat × Nat)) : State :=
  let w0 := w.getD 0 0
  if bitsAt w0 0 6 ≠ s.devNum then s.forward 6 w src
  else (if w0.testBit 59 then s.rmtResponse w else s.mgmtRequest w).credited src

/-! ## BAR2 (R39, R40, R447) -/

/-- The window of a BAR2 address, and where it ends. -/
def windowOf (a : Nat) : Nat × Nat :=
  if a < 0x0E000000 then
    let d := a / 0x03800000
    let o := a % 0x03800000
    if o < 0x01800000 then (3 * d, d * 0x03800000 + 0x01800000)
    else if o < 0x02800000 then (3 * d + 1, d * 0x03800000 + 0x02800000)
    else (3 * d + 2, (d + 1) * 0x03800000)
  else if a < 0x0E400000 then (12, 0x0E400000)
  else if a < 0x0E800000 then (13, 0x0E800000)
  else if a < 0x0F000000 then (14, 0x0F000000)
  else if a < 0x0F400000 then (15, 0x0F400000)
  else if a < 0x0F600000 then (16, 0x0F600000)
  else if a < 0x0F800000 then (17, 0x0F800000)
  else (18, 0x10000000)

/-- `n` bytes of one window. The layout of the hub's ingest, staging, fusion, report and filter memories is not given: what they hold
is free (assumption 76). -/
def State.windowBytes (s : State) (w a n : Nat) : List Byte × State :=
  if w < 12 then
    if s.dieDown (w / 3) then (List.replicate n 0, s) else (s.sram.rdBytes a n, s)
  else if w < 17 then ((List.range n).map (Config.freeByte s.free), (s.takeFree).2)
  else (s.sram.rdBytes a n, s)

/-- A BAR2 read, window by window; a denied part reads 0 and counts once. -/
def State.memRead (s : State) (c : Req) (a n : Nat) : Nat → List Byte × State
  | 0 => ([], s)
  | k + 1 =>
    if n = 0 ∨ 0x10000000 ≤ a then ([], s)
    else
      let (w, e) := windowOf a
      let m := min n (e - a)
      let r := if s.mayRead c (0x10000 + w) then s.windowBytes w a m else (List.replicate m 0, s.denied c a true false)
      let t := r.2.memRead c (a + m) (n - m) k
      (r.1 ++ t.1, t.2)

/-! ## The observation port (R456) -/

/-- A frame of the observation port; with OBS_OFF the port ignores it. -/
def State.obsFrame (s : State) (f : State → State) : State :=
  if s.on OBS.ENABLED 0 && s.boot.hubUp then f (s.inc OBS.FRAMES 0) else s

/-- Drive bytes after 0xA5. -/
def State.obsData (s : State) (b : List Byte) : State := s.emit (.obs (0xA5 :: b.map BitVec.toNat))

/-- Register words from ascending addresses. -/
def State.obsRegs (s : State) (a : Nat) : Nat → List Byte × State
  | 0 => ([], s)
  | n + 1 =>
    let (x, _, s) := s.regRead .obs (a % 2 ^ 26)
    let t := s.obsRegs (a + 4) n
    (leBytes 4 x ++ t.1, t.2)

/-! ## Accesses by address, in the form of R461: bit 28 is BAR2, bits [27:26] 0b11 are BAR4 -/

/-- A read: a register page, the bytes of on-chip memory as one number, or 0 from the doorbells (R41). -/
def State.busRead (s : State) (c : Req) (a : Nat) (z : AccSize) : List Nat × State :=
  if 2 ^ 28 ≤ a then
    if s.boot.hubUp then
      let r := s.memRead c (a - 2 ^ 28) (accBytes z) 20
      ([leNat r.1], r.2)
    else ([0], s)
  else if 2 ^ 26 ≤ a then ([0], s)
  else s.readAny c a z

/-- A write: to a register page, to the doorbells, or discarded and counted by the BAR2 aperture (R40). -/
def State.busWrite (s : State) (c : Req) (a : Nat) (z : AccSize) (v : Word64) : State :=
  if 2 ^ 28 ≤ a then (if s.boot.hubUp then s.inc ((Hdr.EVT_COUNT .hub).nth 2) 0 else s)
  else if 3 * 2 ^ 26 ≤ a then s.bar4Write (a - 3 * 2 ^ 26) z (v.toNat % 2 ^ 32)
  else if 2 ^ 26 ≤ a then s
  else s.writeAny c a z v

/-! ## Meanings -/

/-- REGISTER_WRITE (R9); a write to BAR4 that is no doorbell write is a bad one (R328). -/
def execRegisterWrite (t : Nat) (c : Req) (a : BitVec 29) (z : AccSize) (v : Word64) (s : State) : Res :=
  .next ((s.advance t).busWrite c a.toNat z v)

/-- RC_READ (R11); also a read of BAR2 (R40) or BAR4. -/
def execRcRead (t : Nat) (c : Req) (a : BitVec 29) (z : AccSize) (s : State) : Res :=
  let (v, s) := (s.advance t).busRead c a.toNat z
  .next (s.emit (.readData c v))

/-- LATCHING_READ (R8). -/
def execLatchingRead (t : Nat) (c : Req) (a : BitVec 29) (z : AccSize) (s : State) : Res :=
  let (v, s) := (s.advance t).busRead c a.toNat z
  .next (s.emit (.readData c v))

/-- CAL_DATA_ACCESS (R278): a write of CAL_DATA, or a read of it. -/
def execCalDataAccess (t : Nat) (c : Req) (wr : Bool) (v : Word) (s : State) : Res :=
  if wr then s.cmdWrite t c calPage 0x048 fun s => s.calWrite v
  else
    let (x, _, s) := (s.advance t).regRead c (calPage.addr * 4096 + 0x048)
    .next (s.emit (.readData c [x]))

/-- IRQ_STATUS_WRITE (R37). -/
def execIrqStatusWrite (t : Nat) (c : Req) (p : BitVec 14) (v : Word) (s : State) : Res :=
  match Page.ofAddr p.toNat with
  | none => .next (s.advance t)
  | some q => s.cmdWrite t c q 0x018 fun s => (s.takeInFor q).irqClear q v

/-- PROXY_PAGE_WRITE (R34). -/
def execProxyPageWrite (t : Nat) (c : Req) (a : BitVec 26) (v : Word) (s : State) : Res :=
  let s := s.advance t
  .next (match Page.ofAddr (a.toNat / 4096) with
    | some p => if s.proxied p then s.regWrite c a.toNat v else s
    | none => s)

/-- BAR2_WRITE (R40). -/
def execBar2Write (t : Nat) (_c : Req) (_a : BitVec 28) (s : State) : Res :=
  let s := s.advance t
  .next (if s.boot.hubUp then s.inc ((Hdr.EVT_COUNT .hub).nth 2) 0 else s)

/-- REG (R227). -/
def execReg (t : Nat) (c : Req) (a : BitVec 26) (wr : Bool) (v : Word) (s : State) : Res :=
  .next ((s.advance t).regFlit c (a.toNat / 4 * 4) wr v)

/-- REGRSP (R227). -/
def execRegrsp (t : Nat) (s : State) : Res := .next (s.advance t).regRsp

/-- PISTE_MGMT (R389). -/
def execPisteMgmt (t : Nat) (p : Fin 6) (h : PHdr) (w : List (BitVec 64)) (s : State) : Res :=
  let b := (List.range 7).map (bw w)
  .next ((s.advance t).rxRouted p h 6 2 b fun c s => s.mgmtIn b c)

/-- READ_REG (R456). -/
def execReadReg (t : Nat) (a : BitVec 26) (n : Nat) (s : State) : Res :=
  .next ((s.advance t).obsFrame fun s => let r := s.obsRegs (a.toNat / 4 * 4) n; r.2.obsData r.1)

/-- READ_MEM (R456). -/
def execReadMem (t : Nat) (a : BitVec 28) (n : Nat) (s : State) : Res :=
  .next ((s.advance t).obsFrame fun s => let r := s.memRead .obs (a.toNat / 8 * 8) n 20; r.2.obsData r.1)

/-- READ_ID (R456). -/
def execReadId (t : Nat) (s : State) : Res :=
  .next ((s.advance t).obsFrame fun s => s.obsData (leBytes 2 0x3640 ++ leBytes 8 Config.uid))

/-- OBS_DATA_TIMEOUT (R456). -/
def execObsDataTimeout (t : Nat) (s : State) : Res := .next ((s.advance t).obsFrame fun s => s.emit (.obs [0xEE, 0xFF]))

/-- OBS_UNKNOWN_COMMAND (R456). -/
def execObsUnknownCommand (t : Nat) (s : State) : Res :=
  .next ((s.advance t).obsFrame fun s => (s.inc OBS.BAD_CMD 0).emit (.obs [0xFF]))

end Sys2Proof.Machine
end

