-- ==== Sys2Proof/Machine/Dispatch.lean ====
section
/-!
DEFINITION. The dispatch of the commands: one arm per constructor of Instr, each one direct call of its meaning.
-/
namespace Sys2Proof.Machine

def exec (i : Instr) (s : State) : Host.Outcome State Fault Refusal :=
  match i with
  | .registerWrite t c a z v => Sys2Proof.Machine.execRegisterWrite t c a z v s
  | .rcRead t c a z => Sys2Proof.Machine.execRcRead t c a z s
  | .latchingRead t c a z => Sys2Proof.Machine.execLatchingRead t c a z s
  | .irqStatusWrite t c p v => Sys2Proof.Machine.execIrqStatusWrite t c p v s
  | .proxyPageWrite t c a v => Sys2Proof.Machine.execProxyPageWrite t c a v s
  | .bar2Write t c a2 => Sys2Proof.Machine.execBar2Write t c a2 s
  | .blockResetRequest t c p v => Sys2Proof.Machine.execBlockResetRequest t c p v s
  | .blockResetRelease t c p v => Sys2Proof.Machine.execBlockResetRelease t c p v s
  | .blockResetDone t p => Sys2Proof.Machine.execBlockResetDone t p s
  | .pllLockLoss t pll => Sys2Proof.Machine.execPllLockLoss t pll s
  | .pllLock t pll => Sys2Proof.Machine.execPllLock t pll s
  | .lockLossLasting t pll => Sys2Proof.Machine.execLockLossLasting t pll s
  | .tickBoundary t => Sys2Proof.Machine.execTickBoundary t s
  | .staleCheck t buf => Sys2Proof.Machine.execStaleCheck t buf s
  | .syncEnWrite t c v => Sys2Proof.Machine.execSyncEnWrite t c v s
  | .syncPeriodWrite t c line v => Sys2Proof.Machine.execSyncPeriodWrite t c line v s
  | .syncWidthWrite t c v => Sys2Proof.Machine.execSyncWidthWrite t c v s
  | .syncOutEdge t line => Sys2Proof.Machine.execSyncOutEdge t line s
  | .syncOutFall t line => Sys2Proof.Machine.execSyncOutFall t line s
  | .ppsInEdge t => Sys2Proof.Machine.execPpsInEdge t s
  | .syncLostTimeout t str => Sys2Proof.Machine.execSyncLostTimeout t str s
  | .cmModeWrite t c str v => Sys2Proof.Machine.execCmModeWrite t c str v s
  | .cmCommit t c str v => Sys2Proof.Machine.execCmCommit t c str v s
  | .streamUnitWrite t c str v => Sys2Proof.Machine.execStreamUnitWrite t c str v s
  | .mipiPacket t mp vc dty long ecc data times crcOk => Sys2Proof.Machine.execMipiPacket t mp vc dty long ecc data times crcOk s
  | .aerReqRise t ap => Sys2Proof.Machine.execAerReqRise t ap s
  | .aerLatch t ap w => Sys2Proof.Machine.execAerLatch t ap w s
  | .aerReqFall t ap => Sys2Proof.Machine.execAerReqFall t ap s
  | .portEnable t c p v => Sys2Proof.Machine.execPortEnable t c p v s
  | .decodeWord t str => Sys2Proof.Machine.execDecodeWord t str s
  | .stampEvent t str => Sys2Proof.Machine.execStampEvent t str s
  | .hotDataWrite t c str v => Sys2Proof.Machine.execHotDataWrite t c str v s
  | .tmapSwap t c str v => Sys2Proof.Machine.execTmapSwap t c str v s
  | .rateTickClose t => Sys2Proof.Machine.execRateTickClose t s
  | .distIssue t str => Sys2Proof.Machine.execDistIssue t str s
  | .streamEnable t c str v => Sys2Proof.Machine.execStreamEnable t c str v s
  | .streamDisable t c str v => Sys2Proof.Machine.execStreamDisable t c str v s
  | .eventFlit t k => Sys2Proof.Machine.execEventFlit t k s
  | .streamQueueDeliver t k str => Sys2Proof.Machine.execStreamQueueDeliver t k str s
  | .replayFlit t k => Sys2Proof.Machine.execReplayFlit t k s
  | .cwrite t k => Sys2Proof.Machine.execCwrite t k s
  | .scrubVisit t k ln => Sys2Proof.Machine.execScrubVisit t k ln s
  | .ledgerTickAdvance t k => Sys2Proof.Machine.execLedgerTickAdvance t k s
  | .nreq t k => Sys2Proof.Machine.execNreq t k s
  | .nbrServe t k => Sys2Proof.Machine.execNbrServe t k s
  | .nrsp t core => Sys2Proof.Machine.execNrsp t core s
  | .fenceSettle t k d => Sys2Proof.Machine.execFenceSettle t k d s
  | .release t k => Sys2Proof.Machine.execRelease t k s
  | .fenceAdvance t k d => Sys2Proof.Machine.execFenceAdvance t k d s
  | .descEnable t c k v => Sys2Proof.Machine.execDescEnable t c k v s
  | .descClearDone t k d => Sys2Proof.Machine.execDescClearDone t k d s
  | .descDisable t c k v => Sys2Proof.Machine.execDescDisable t c k v s
  | .ledgerCacheFill t k ln => Sys2Proof.Machine.execLedgerCacheFill t k ln s
  | .progress t k => Sys2Proof.Machine.execProgress t k s
  | .arrivalEnqueue t core => Sys2Proof.Machine.execArrivalEnqueue t core s
  | .arrivalRelease t core => Sys2Proof.Machine.execArrivalRelease t core s
  | .tickCloseSteps t core => Sys2Proof.Machine.execTickCloseSteps t core s
  | .runWrite t c core v => Sys2Proof.Machine.execRunWrite t c core v s
  | .spikeFlit t k => Sys2Proof.Machine.execSpikeFlit t k s
  | .escapeEntry t k => Sys2Proof.Machine.execEscapeEntry t k s
  | .escapeDrain t k => Sys2Proof.Machine.execEscapeDrain t k s
  | .subwinWrite t c k v => Sys2Proof.Machine.execSubwinWrite t c k v s
  | .subHiWrite t c k v => Sys2Proof.Machine.execSubHiWrite t c k v s
  | .rtHiWrite t c k v => Sys2Proof.Machine.execRtHiWrite t c k v s
  | .gtMask7Write t c k v => Sys2Proof.Machine.execGtMask7Write t c k v s
  | .ack t core => Sys2Proof.Machine.execAck t core s
  | .uopNop t core => Sys2Proof.Machine.execUopNop t core s
  | .uopMov t core => Sys2Proof.Machine.execUopMov t core s
  | .uopAdd t core => Sys2Proof.Machine.execUopAdd t core s
  | .uopSub t core => Sys2Proof.Machine.execUopSub t core s
  | .uopAnd t core => Sys2Proof.Machine.execUopAnd t core s
  | .uopOr t core => Sys2Proof.Machine.execUopOr t core s
  | .uopXor t core => Sys2Proof.Machine.execUopXor t core s
  | .uopAndn t core => Sys2Proof.Machine.execUopAndn t core s
  | .uopShl t core => Sys2Proof.Machine.execUopShl t core s
  | .uopShr t core => Sys2Proof.Machine.execUopShr t core s
  | .uopSra t core => Sys2Proof.Machine.execUopSra t core s
  | .uopRor t core => Sys2Proof.Machine.execUopRor t core s
  | .uopMin t core => Sys2Proof.Machine.execUopMin t core s
  | .uopMax t core => Sys2Proof.Machine.execUopMax t core s
  | .uopAbs t core => Sys2Proof.Machine.execUopAbs t core s
  | .uopPopc t core => Sys2Proof.Machine.execUopPopc t core s
  | .uopCmp t core => Sys2Proof.Machine.execUopCmp t core s
  | .uopExt t core => Sys2Proof.Machine.execUopExt t core s
  | .uopIns t core => Sys2Proof.Machine.execUopIns t core s
  | .uopSat t core => Sys2Proof.Machine.execUopSat t core s
  | .uopMovs t core => Sys2Proof.Machine.execUopMovs t core s
  | .uopMul t core => Sys2Proof.Machine.execUopMul t core s
  | .uopTsb t core => Sys2Proof.Machine.execUopTsb t core s
  | .uopAset t core => Sys2Proof.Machine.execUopAset t core s
  | .uopMac t core => Sys2Proof.Machine.execUopMac t core s
  | .uopMac2 t core => Sys2Proof.Machine.execUopMac2 t core s
  | .uopAadd t core => Sys2Proof.Machine.execUopAadd t core s
  | .uopAget t core => Sys2Proof.Machine.execUopAget t core s
  | .uopLd16 t core => Sys2Proof.Machine.execUopLd16 t core s
  | .uopLd32 t core => Sys2Proof.Machine.execUopLd32 t core s
  | .uopSt16 t core => Sys2Proof.Machine.execUopSt16 t core s
  | .uopSt32 t core => Sys2Proof.Machine.execUopSt32 t core s
  | .uopNld t core => Sys2Proof.Machine.execUopNld t core s
  | .uopNst t core => Sys2Proof.Machine.execUopNst t core s
  | .uopLeak t core => Sys2Proof.Machine.execUopLeak t core s
  | .uopNadd t core => Sys2Proof.Machine.execUopNadd t core s
  | .uopNget t core => Sys2Proof.Machine.execUopNget t core s
  | .uopNput t core => Sys2Proof.Machine.execUopNput t core s
  | .uopFire t core => Sys2Proof.Machine.execUopFire t core s
  | .uopNclr t core => Sys2Proof.Machine.execUopNclr t core s
  | .uopNbr t core => Sys2Proof.Machine.execUopNbr t core s
  | .uopWaitn t core => Sys2Proof.Machine.execUopWaitn t core s
  | .uopCwr t core => Sys2Proof.Machine.execUopCwr t core s
  | .uopEmitt t core => Sys2Proof.Machine.execUopEmitt t core s
  | .uopEmitf t core => Sys2Proof.Machine.execUopEmitf t core s
  | .uopB t core => Sys2Proof.Machine.execUopB t core s
  | .uopCall t core => Sys2Proof.Machine.execUopCall t core s
  | .uopRet t core => Sys2Proof.Machine.execUopRet t core s
  | .uopLoop t core => Sys2Proof.Machine.execUopLoop t core s
  | .uopEnd t core => Sys2Proof.Machine.execUopEnd t core s
  | .token t k => Sys2Proof.Machine.execToken t k s
  | .tokFenceAdvance t k tb => Sys2Proof.Machine.execTokFenceAdvance t k tb s
  | .mxSlotStart t m tj droop => Sys2Proof.Machine.execMxSlotStart t m tj droop s
  | .mxDispatch t m => Sys2Proof.Machine.execMxDispatch t m s
  | .gemm t m => Sys2Proof.Machine.execGemm t m s
  | .conv t m => Sys2Proof.Machine.execConv t m s
  | .gatherLedger t m => Sys2Proof.Machine.execGatherLedger t m s
  | .gatherTokens t m => Sys2Proof.Machine.execGatherTokens t m s
  | .attn t m => Sys2Proof.Machine.execAttn t m s
  | .eltwise t m => Sys2Proof.Machine.execEltwise t m s
  | .reduce t m => Sys2Proof.Machine.execReduce t m s
  | .dma t m => Sys2Proof.Machine.execDma t m s
  | .result t m => Sys2Proof.Machine.execResult t m s
  | .mxNop t m => Sys2Proof.Machine.execMxNop t m s
  | .mxDescriptorDone t m => Sys2Proof.Machine.execMxDescriptorDone t m s
  | .mxSlotAbort t m => Sys2Proof.Machine.execMxSlotAbort t m s
  | .mxStart t c m v => Sys2Proof.Machine.execMxStart t c m v s
  | .writeFlit t => Sys2Proof.Machine.execWriteFlit t s
  | .readFlit t => Sys2Proof.Machine.execReadFlit t s
  | .readrsp t => Sys2Proof.Machine.execReadrsp t s
  | .reg t c a wr v => Sys2Proof.Machine.execReg t c a wr v s
  | .regrsp t => Sys2Proof.Machine.execRegrsp t s
  | .badFlit t k ty => Sys2Proof.Machine.execBadFlit t k ty s
  | .ucieCrcRetry t u ok => Sys2Proof.Machine.execUcieCrcRetry t u ok s
  | .ddrRequestServe t ddr => Sys2Proof.Machine.execDdrRequestServe t ddr s
  | .feature t => Sys2Proof.Machine.execFeature t s
  | .slotDone t => Sys2Proof.Machine.execSlotDone t s
  | .resultReceive t => Sys2Proof.Machine.execResultReceive t s
  | .rfbProcessTick t => Sys2Proof.Machine.execRfbProcessTick t s
  | .syncArm t c v => Sys2Proof.Machine.execSyncArm t c v s
  | .commit t c v => Sys2Proof.Machine.execCommit t c v s
  | .swap t c v => Sys2Proof.Machine.execSwap t c v s
  | .coefDataWrite t c v => Sys2Proof.Machine.execCoefDataWrite t c v s
  | .chCfgWrite t c str r v => Sys2Proof.Machine.execChCfgWrite t c str r v s
  | .rfbDisable t c v => Sys2Proof.Machine.execRfbDisable t c v s
  | .fgEnable t c g v => Sys2Proof.Machine.execFgEnable t c g v s
  | .fusionSlotInstant t g => Sys2Proof.Machine.execFusionSlotInstant t g s
  | .fusionCutoff t g => Sys2Proof.Machine.execFusionCutoff t g s
  | .reportComplete t g => Sys2Proof.Machine.execReportComplete t g s
  | .reportRelease t g => Sys2Proof.Machine.execReportRelease t g s
  | .calSwitch t c v => Sys2Proof.Machine.execCalSwitch t c v s
  | .calDataAccess t c wr v => Sys2Proof.Machine.execCalDataAccess t c wr v s
  | .zoneCfgWrite t c v => Sys2Proof.Machine.execZoneCfgWrite t c v s
  | .trkKill t c v => Sys2Proof.Machine.execTrkKill t c v s
  | .journalEnable t c str v => Sys2Proof.Machine.execJournalEnable t c str v s
  | .journalDisable t c str v => Sys2Proof.Machine.execJournalDisable t c str v s
  | .journalFlush t str => Sys2Proof.Machine.execJournalFlush t str s
  | .journalLineIssue t str => Sys2Proof.Machine.execJournalLineIssue t str s
  | .journalLineDone t str => Sys2Proof.Machine.execJournalLineDone t str s
  | .markSet t c str v => Sys2Proof.Machine.execMarkSet t c str v s
  | .markClear t c str v => Sys2Proof.Machine.execMarkClear t c str v s
  | .replayStart t c ch v => Sys2Proof.Machine.execReplayStart t c ch v s
  | .replayCancel t c ch v => Sys2Proof.Machine.execReplayCancel t c ch v s
  | .replayIssue t ch => Sys2Proof.Machine.execReplayIssue t ch s
  | .perstAssert t => Sys2Proof.Machine.execPerstAssert t s
  | .perstDeassert t => Sys2Proof.Machine.execPerstDeassert t s
  | .flr t => Sys2Proof.Machine.execFlr t s
  | .cmdTail t v => Sys2Proof.Machine.execCmdTail t v s
  | .cplHead t v => Sys2Proof.Machine.execCplHead t v s
  | .ntcHead t v => Sys2Proof.Machine.execNtcHead t v s
  | .rptCons t g v => Sys2Proof.Machine.execRptCons t g v s
  | .ringEnable t c v => Sys2Proof.Machine.execRingEnable t c v s
  | .load t cmd pkg ok => Sys2Proof.Machine.execLoad t cmd pkg ok s
  | .packageStaged t => Sys2Proof.Machine.execPackageStaged t s
  | .clusterQuiesced t k => Sys2Proof.Machine.execClusterQuiesced t k s
  | .clusterResetsDone t k => Sys2Proof.Machine.execClusterResetsDone t k s
  | .clusterResume t k => Sys2Proof.Machine.execClusterResume t k s
  | .unload t cmd => Sys2Proof.Machine.execUnload t cmd s
  | .query t cmd => Sys2Proof.Machine.execQuery t cmd s
  | .cmdNop t cmd => Sys2Proof.Machine.execCmdNop t cmd s
  | .attest t cmd => Sys2Proof.Machine.execAttest t cmd s
  | .fwUpdate t cmd img ok => Sys2Proof.Machine.execFwUpdate t cmd img ok s
  | .fwRestarted t => Sys2Proof.Machine.execFwRestarted t s
  | .fwPersistDone t ok => Sys2Proof.Machine.execFwPersistDone t ok s
  | .coalExpiry t ring => Sys2Proof.Machine.execCoalExpiry t ring s
  | .ethFrameRx t eth frame fcsOk => Sys2Proof.Machine.execEthFrameRx t eth frame fcsOk s
  | .ptpSync t dom t1 corr t2 mpd iv => Sys2Proof.Machine.execPtpSync t dom t1 corr t2 mpd iv s
  | .ptpAnnounce t dom gm sel utc utcOk iv => Sys2Proof.Machine.execPtpAnnounce t dom gm sel utc utcOk iv s
  | .pdelayReq t eth frame => Sys2Proof.Machine.execPdelayReq t eth frame s
  | .ptpTimeout t dom alt => Sys2Proof.Machine.execPtpTimeout t dom alt s
  | .jumpWindowExpiry t dom => Sys2Proof.Machine.execJumpWindowExpiry t dom s
  | .ethLinkDown t eth => Sys2Proof.Machine.execEthLinkDown t eth s
  | .domEnWrite t c dom v => Sys2Proof.Machine.execDomEnWrite t c dom v s
  | .rateWrite t c dom v => Sys2Proof.Machine.execRateWrite t c dom v s
  | .setOffset t c dom v => Sys2Proof.Machine.execSetOffset t c dom v s
  | .resolveStep t c dom v => Sys2Proof.Machine.execResolveStep t c dom v s
  | .resolveSlew t c dom v => Sys2Proof.Machine.execResolveSlew t c dom v s
  | .clearIntegral t c dom v => Sys2Proof.Machine.execClearIntegral t c dom v s
  | .activeWrite t c v => Sys2Proof.Machine.execActiveWrite t c v s
  | .ppsOutEdge t => Sys2Proof.Machine.execPpsOutEdge t s
  | .ppsOutFall t => Sys2Proof.Machine.execPpsOutFall t s
  | .launchStart t eth => Sys2Proof.Machine.execLaunchStart t eth s
  | .tplDataWrite t c eth q v => Sys2Proof.Machine.execTplDataWrite t c eth q v s
  | .pisteNull t pp h => Sys2Proof.Machine.execPisteNull t pp h s
  | .pisteEvent t pp h w => Sys2Proof.Machine.execPisteEvent t pp h w s
  | .tensor t pp h w => Sys2Proof.Machine.execTensor t pp h w s
  | .pisteTime t pp h rsp w => Sys2Proof.Machine.execPisteTime t pp h rsp w s
  | .hello t pp h w grant => Sys2Proof.Machine.execHello t pp h w grant s
  | .route t pp h w => Sys2Proof.Machine.execRoute t pp h w s
  | .pisteMgmt t pp h w => Sys2Proof.Machine.execPisteMgmt t pp h w s
  | .pisteCrcFail t pp seq => Sys2Proof.Machine.execPisteCrcFail t pp seq s
  | .portUp t pp => Sys2Proof.Machine.execPortUp t pp s
  | .losTimeout t pp => Sys2Proof.Machine.execLosTimeout t pp s
  | .helloTimer t => Sys2Proof.Machine.execHelloTimer t s
  | .routeTimer t => Sys2Proof.Machine.execRouteTimer t s
  | .routeRecompute t => Sys2Proof.Machine.execRouteRecompute t s
  | .timeRequestTimer t => Sys2Proof.Machine.execTimeRequestTimer t s
  | .pisteEgress t => Sys2Proof.Machine.execPisteEgress t s
  | .packTimeout t => Sys2Proof.Machine.execPackTimeout t s
  | .rmtRead t c v => Sys2Proof.Machine.execRmtRead t c v s
  | .rmtWrite t c v => Sys2Proof.Machine.execRmtWrite t c v s
  | .rmtTimeout t => Sys2Proof.Machine.execRmtTimeout t s
  | .devNumReqWrite t c v => Sys2Proof.Machine.execDevNumReqWrite t c v s
  | .fgtClustersWrite t c v => Sys2Proof.Machine.execFgtClustersWrite t c v s
  | .inboxEnable t c v => Sys2Proof.Machine.execInboxEnable t c v s
  | .por t => Sys2Proof.Machine.execPor t s
  | .resetNLow t => Sys2Proof.Machine.execResetNLow t s
  | .resetNRise t => Sys2Proof.Machine.execResetNRise t s
  | .porRelease t => Sys2Proof.Machine.execPorRelease t s
  | .wdogWarn t => Sys2Proof.Machine.execWdogWarn t s
  | .wdogExpiry t => Sys2Proof.Machine.execWdogExpiry t s
  | .wdogKick t c v => Sys2Proof.Machine.execWdogKick t c v s
  | .wdogEnWrite t c v => Sys2Proof.Machine.execWdogEnWrite t c v s
  | .pkgReset t c v => Sys2Proof.Machine.execPkgReset t c v s
  | .refclkDetect t => Sys2Proof.Machine.execRefclkDetect t s
  | .optionLoadDone t => Sys2Proof.Machine.execOptionLoadDone t s
  | .hubPllTimeout t => Sys2Proof.Machine.execHubPllTimeout t s
  | .vaultImageChecked t img => Sys2Proof.Machine.execVaultImageChecked t img s
  | .ddrTrainDone t ddr fail ranks cap ms rd wr => Sys2Proof.Machine.execDdrTrainDone t ddr fail ranks cap ms rd wr s
  | .dieLinkTrained t die ok => Sys2Proof.Machine.execDieLinkTrained t die ok s
  | .bootReady t logOk => Sys2Proof.Machine.execBootReady t logOk s
  | .bootCountClear t => Sys2Proof.Machine.execBootCountClear t s
  | .hbGo t c v => Sys2Proof.Machine.execHbGo t c v s
  | .optBurn t c v => Sys2Proof.Machine.execOptBurn t c v s
  | .burnDone t ok => Sys2Proof.Machine.execBurnDone t ok s
  | .pwrReqStandby t c v => Sys2Proof.Machine.execPwrReqStandby t c v s
  | .standbyQuiet t => Sys2Proof.Machine.execStandbyQuiet t s
  | .standbyTimeout t => Sys2Proof.Machine.execStandbyTimeout t s
  | .pwrReqSleep t c v => Sys2Proof.Machine.execPwrReqSleep t c v s
  | .pwrReqActive t c v => Sys2Proof.Machine.execPwrReqActive t c v s
  | .standbyExitDone t => Sys2Proof.Machine.execStandbyExitDone t s
  | .sleepExitDone t logOk dies => Sys2Proof.Machine.execSleepExitDone t logOk dies s
  | .avsCommand t want ok1 ok2 => Sys2Proof.Machine.execAvsCommand t want ok1 ok2 s
  | .tjWarnCross t tj th => Sys2Proof.Machine.execTjWarnCross t tj th s
  | .sramEccError t site dbl ok => Sys2Proof.Machine.execSramEccError t site dbl ok s
  | .fenceFirmwareAction t => Sys2Proof.Machine.execFenceFirmwareAction t s
  | .faultLogAppend t ok => Sys2Proof.Machine.execFaultLogAppend t ok s
  | .ddrEccError t ddr da dbl ok syn rank bank => Sys2Proof.Machine.execDdrEccError t ddr da dbl ok syn rank bank s
  | .patrolScrub t ddr => Sys2Proof.Machine.execPatrolScrub t ddr s
  | .mgmtWarmRestart t img => Sys2Proof.Machine.execMgmtWarmRestart t img s
  | .keyProgram t c v => Sys2Proof.Machine.execKeyProgram t c v s
  | .keyRevoke t c v => Sys2Proof.Machine.execKeyRevoke t c v s
  | .ptReqGo t c v => Sys2Proof.Machine.execPtReqGo t c v s
  | .traceClear t c v => Sys2Proof.Machine.execTraceClear t c v s
  | .fwMark t c v => Sys2Proof.Machine.execFwMark t c v s
  | .readReg t a n => Sys2Proof.Machine.execReadReg t a n s
  | .readMem t a2 n => Sys2Proof.Machine.execReadMem t a2 n s
  | .readId t => Sys2Proof.Machine.execReadId t s
  | .obsDataTimeout t => Sys2Proof.Machine.execObsDataTimeout t s
  | .idcode t => Sys2Proof.Machine.execIdcode t s
  | .sample t => Sys2Proof.Machine.execSample t s
  | .bypass t => Sys2Proof.Machine.execBypass t s
  | .ethLinkUp t eth => Sys2Proof.Machine.execEthLinkUp t eth s
  | .pcieLinkDown t => Sys2Proof.Machine.execPcieLinkDown t s
  | .pcieLinkUp t sp wd => Sys2Proof.Machine.execPcieLinkUp t sp wd s
  | .configRequest t q => Sys2Proof.Machine.execConfigRequest t q s
  | .deskewSequence t mp => Sys2Proof.Machine.execDeskewSequence t mp s
  | .keyBurnDone t => Sys2Proof.Machine.execKeyBurnDone t s
  | .ptReqApplied t => Sys2Proof.Machine.execPtReqApplied t s
  | .cmdUnlistedOpcode t cmd => Sys2Proof.Machine.execCmdUnlistedOpcode t cmd s
  | .unlistedMicroOp t core => Sys2Proof.Machine.execUnlistedMicroOp t core s
  | .unlistedDescriptorOp t m => Sys2Proof.Machine.execUnlistedDescriptorOp t m s
  | .obsUnknownCommand t => Sys2Proof.Machine.execObsUnknownCommand t s
  | .pisteBadType t pp h => Sys2Proof.Machine.execPisteBadType t pp h s
  | .delayReqTimer t dom => Sys2Proof.Machine.execDelayReqTimer t dom s
  | .meshParityResend t k row ok => Sys2Proof.Machine.execMeshParityResend t k row ok s

end Sys2Proof.Machine
end

