-- ==== Sys2Proof/Safety.lean ====
section
/-!
DEFINITION. What every command respects, whatever it does: the terms in which the statements about all commands speak.
-/
namespace Sys2Proof.Machine

/-- The keys of a sparse table rise strictly: no key stands twice, and equal tables are equal data. -/
def Tab.rising {α : Type} (m : Tab α) : Prop := m.Pairwise fun a b => a.1 < b.1

/-- A power-on or pin reset is in force (R399): only then may DT start again. -/
def State.coldHeld (s : State) : Prop := s.boot.porHold = true ∨ s.boot.pinHold = true

/-- What holds between the state `a` a command finds and the state `s` it leaves: the queue of waiting commands is untouched, what
was driven to the outside stays driven, no free value is taken twice, DT, counted through its wraps, does not run backwards
unless a power-on or pin reset is in force (R42), and the memories and the register file keep their canonical form. -/
structure Keeps (a s : State) : Prop where
  pending : s.pending = a.pending
  out : a.out <+: s.out
  free : a.free ≤ s.free
  time : a.ns ≤ s.ns ∨ s.coldHeld
  sram : Mem.wf a.sram = true → Mem.wf s.sram = true
  ddr4 : Mem.wf a.ddr4 = true → Mem.wf s.ddr4 = true
  regs : Tab.rising a.regs → Tab.rising s.regs

/-- The canonical form of a state: both byte memories list strictly rising addresses and no byte that equals what an unlisted one
reads as, and the register file lists each field once. -/
def State.Canonical (s : State) : Prop := Mem.wf s.sram = true ∧ Mem.wf s.ddr4 = true ∧ Tab.rising s.regs

/-- A register write of requester `c` that arrives at time `t` reaches page `p`: the page answers, protection grants the write,
the page's die is up, its clock is good and it is not in reset (R28, R31, R34, R408, R447). -/
structure Reaches (s : State) (t : Nat) (c : Req) (p : Page) : Prop where
  answers : (s.advance t).answers p = true
  may : (s.advance t).mayWrite c p.addr = true
  up : ∀ d, p.die? = some d → (s.advance t).dieDown d = false
  clock : (s.advance t).clkGood p = true
  live : (s.advance t).inReset p = false

/-- `f` is the unit that a receiver of the units `p` takes next: the first of them in flight that may move, none of its class between
the same endpoints being before it (R231); `before` and `after` are the other units in flight. -/
structure Arrives (s : State) (p : Flit → Bool) (before : List Flit) (f : Flit) (after : List Flit) : Prop where
  net : s.net = before ++ f :: after
  fits : p f = true
  moves : f.dk = 2 ∨ s.computeStopped = false
  first : ∀ x ∈ before, p x = false ∧ f.sameFlow x = false

/-- Core `n` issues the micro-op `op` now, as one that counts `k` micro-ops: handler `r` runs and may issue, its word `w` at PC has that
opcode, COND holds on the engine `e` that the word reads (its lane-0 partner's, in lane 1), and UC_LIMIT leaves room (R166, R167,
R185). -/
structure Issues (s : State) (n op k : Nat) (r : HRun) (w : Nat) (e : Eng) : Prop where
  run : (s.core n).run = some r
  word : w = s.uword n r.pc
  opcode : uOp w = op
  goes : s.handlerGoes n = true
  engine : e = r.pair.getD (s.core n).eng
  cond : condHolds (uCond w) e.fl ((r.arr.map Arr.late).getD false) = some true
  limit : s.rg Regs.CGS.UC_LIMIT n = 0 ∨ r.count + k ≤ s.rg Regs.CGS.UC_LIMIT n

/-- `u` is what the word `w` at PC leaves when it counts `k` micro-ops and makes the engine `e'` and the neuron latch `l'`: the PC
moves to the next word, which is lane 1's if it pairs and then reads the engine `e`; the core's queue and the other cores stand. -/
structure Retires (s u : State) (n k : Nat) (r : HRun) (l' : NLatch) (w : Nat) (e e' : Eng) : Prop where
  run : (u.core n).run = some { r with pc := r.pc + 1, count := r.count + k,
                                       pair := if r.pair.isNone && s.pairsWith n r.pc w then some e else none }
  engine : (u.core n).eng = e'
  latch : (u.core n).nl = l'
  queue : (u.core n).queue = (s.core n).queue
  counted : u.rg Regs.CGS.UOPS n = (s.rg Regs.CGS.UOPS n + k) % 2 ^ Regs.CGS.UOPS.width
  cores : ∀ m, m ≠ n → u.core m = s.core m

end Sys2Proof.Machine
end

