-- ==== Sys2Proof/WellFormed.lean ====
section
/-!
DEFINITION. Which commands are well formed: the operands whose range the type does not fix lie inside what the spec lets the
outside send. Every meaning is total, so a command outside these ranges still has an outcome; a sender keeps to them.
-/
namespace Sys2Proof

/-- A command entry is 64 bytes (R325). -/
def entryWf (cmd : List Byte) : Bool := cmd.length == 64

/-- The payload of a CSI-2 packet: only a long packet has one, of at most 65,535 bytes, and the DTs at which its words enter the FIFO
do not run backwards (R78, R79, R83). -/
def packetWf (long : Bool) (data : List Byte) (times : List Nat) : Bool :=
  (long || data.isEmpty) && decide (data.length < 65536) &&
    (times.zip (times.drop 1)).all (fun p => decide (p.1 ≤ p.2))

/-- The body of a Piste flit is 56 bytes, seven 64-bit words (R373). -/
def bodyWf (w : List (BitVec 64)) : Bool := w.length == 7

/-- The word of an SRAM error lies in its memory, whose size BAR2 gives (R39). -/
def SramSite.wf : SramSite → Bool
  | .sliver _ _ | .matrix _ _ | .ledger _ _ | .router _ _ | .dieSwitch _ _ => true
  | .ingest _ w | .staging _ _ w | .report _ w => decide (w < 524288)
  | .fusion _ _ w | .mgmt w => decide (w < 1048576)
  | .filter _ w | .trace w => decide (w < 262144)

/-- The page address of a MIPI or AER page: area 4, pages 0x010 to 0x021 and 0x024, 0x025 (R34). -/
def portPageWf (p : BitVec 14) : Bool :=
  let x := p.toNat - 4096
  decide (4096 ≤ p.toNat) && (decide (0x10 ≤ x ∧ x < 0x22) || x == 0x24 || x == 0x25)

/-- A 29-bit address names a place in BAR0, in BAR2, or, for the host, in the 64 KB of BAR4 (R30, R39, R41). -/
def busWf (c : Req) (a : BitVec 29) : Bool :=
  let x := a.toNat
  decide (x < 2 ^ 26) || decide (2 ^ 28 ≤ x) || (c == .host && decide (3 * 2 ^ 26 ≤ x ∧ x < 3 * 2 ^ 26 + 2 ^ 16))

/-- Only the host sends TLPs of more than 8 bytes, of at most 4,096 (R322, R323). -/
def sizeWf (c : Req) : AccSize → Bool
  | .burst more => c == .host && decide (1 ≤ more.length ∧ more.length ≤ 1022)
  | _ => true

/-- The well-formed commands. -/
def Instr.wf : Instr → Bool
  | .load _ cmd pkg _ => entryWf cmd && decide (pkg.length < 2 ^ 32)
  | .unload _ cmd | .query _ cmd | .cmdNop _ cmd | .attest _ cmd | .cmdUnlistedOpcode _ cmd => entryWf cmd
  | .fwUpdate _ cmd img _ => entryWf cmd && decide (img.length < 2 ^ 32)
  | .mipiPacket _ _ _ _ long _ data times _ => packetWf long data times
  | .pisteEvent _ _ _ w | .tensor _ _ _ w | .pisteTime _ _ _ _ w | .hello _ _ _ w _ | .route _ _ _ w | .pisteMgmt _ _ _ w =>
    bodyWf w
  | .sramEccError _ site _ _ => site.wf
  | .scrubVisit _ _ ln | .ledgerCacheFill _ _ ln => decide (ln < 2 ^ 35)
  | .portEnable _ _ p _ => portPageWf p
  | .badFlit _ _ ty => decide (14 ≤ ty.val)
  | .registerWrite _ c a z _ => busWf c a && sizeWf c z && decide (a.toNat < 2 ^ 28)
  | .rcRead _ c a z | .latchingRead _ c a z => busWf c a && sizeWf c z
  | .pcieLinkUp _ sp wd => decide (1 ≤ sp.val ∧ sp.val ≤ 5) && [1, 2, 4, 8].contains wd.val
  | .readReg _ a _ => a.toNat % 4 == 0
  | .readMem _ a _ => a.toNat % 8 == 0
  | .ethFrameRx _ _ frame _ | .pdelayReq _ _ frame => decide (14 ≤ frame.length)
  | .ptpSync _ _ _ _ _ _ iv | .ptpAnnounce _ _ _ _ _ _ iv => decide (0 < iv)
  | _ => true

end Sys2Proof
end

