-- ==== Sys2Proof/Certificates/Slice0/Obligations.lean ====
section
/-!
DEFINITION. The statements about the block. A command's own time is its first operand `t`; `s.advance t` is the state it finds (only DT
has moved). `Reaches s t c p` says that a register write of requester `c` gets to page `p`.
-/
open Sys2Proof Sys2Proof.Machine Sys2Proof.Machine.Regs

/-- For every command c, every queue rest and every state s, a step of s with c in front of rest is exec of c on s with the queue
rest. On an empty queue a step leaves the state as it is (the model's choice, assumption 1). -/
def Obligations.FrontCommandTakesEffect : Prop :=
  (∀ (c : Instr) (rest : List Instr) (s : State), step { s with pending := c :: rest } = exec c { s with pending := rest }) ∧
  ∀ s : State, s.pending = [] → step s = .next s

/-- The state right after reset has a power-on reset in force (assumption 77): every register field holds the reset value of its
table row, but CAUSE_HIST, whose bit 0 records POR; DT is 0, has not wrapped and does not run; every page reads IN_RESET; no PLL is
locked; no unit is fenced; no command waits; nothing has been driven to the outside; every byte of SRAM and DDR4 reads as a byte
that nothing has written (assumption 5). -/
def Obligations.ResetLeavesTheResetValues : Prop :=
  (∀ (f : Fld) (i x : Nat), f.key i x ≠ RSTC.CAUSE_HIST.key 0 → State.reset.rg f i x = f.reset) ∧
  State.reset.rg RSTC.CAUSE_HIST 0 = 1 ∧ State.reset.dt = 0 ∧ State.reset.ns = 0 ∧ State.reset.aonRun = false ∧
  (∀ p : Page, State.reset.inReset p = true ∧ State.reset.clkGood p = false ∧ State.reset.pageFenced p = false) ∧
  State.reset.pending = [] ∧ State.reset.out = [] ∧
  ∀ a : Nat, Mem.rd State.reset.sram a = Mem.fill ∧ Mem.rd State.reset.ddr4 a = Mem.fill

/-- At reset both byte memories and the register file are in the canonical form that StepKeepsTheCanonicalForm carries through every
step: addresses and keys strictly rising, no byte listed that equals what an unlisted one reads as. -/
def Obligations.ResetStateIsCanonical : Prop := State.reset.Canonical

/-- For every state s whose SRAM, DDR4 and register file are in canonical form, if a step answers a next state, that state's SRAM,
DDR4 and register file are in canonical form. It holds for all 292 commands and all operands, not only on runs from reset. -/
def Obligations.StepKeepsTheCanonicalForm : Prop :=
  ∀ s u : State, s.Canonical → step s = .next u → u.Canonical

/-- For every state s, step s answers a next state u: no command of the table stops the block. The queue of u is the queue of s
without its front command (no meaning adds, drops or reorders waiting commands), and what u has driven to the outside begins with
what s had driven. -/
def Obligations.EveryStepTakesExactlyOneCommand : Prop :=
  ∀ s : State, ∃ u : State, step s = .next u ∧ u.pending = s.pending.tail ∧ s.out <+: u.out

/-- For every state s and every command in front of its queue: if a step answers u, then either DT of u, counted through its wraps
at 2^64 ns (R42; `ns` is DT plus 2^64 for each wrap since reset), is at least that of s, or a power-on or pin reset is in force in u
(which is what clears DT). So no register write, fabric event or network event alters DT backwards. -/
def Obligations.DeviceTimeNeverRunsBackwards : Prop :=
  ∀ s u : State, step s = .next u → s.ns ≤ u.ns ∨ u.coldHeld

/-- For every field, page instance and entry: after a write the field reads the value cut to its width, after an increment by n it
reads (old + n) mod 2^width, and a saturating counter min(old + n, 2^width - 1). Every field of another key (another index entry,
page kind, instance, offset or low bit) reads as before, and nothing of the state but the register file changes. -/
def Obligations.RegisterFieldReadsBackWhatWasWritten : Prop :=
  ∀ (s : State) (f g : Fld) (i j v n x y : Nat),
    (s.rs f i v x).rg f i x = v % 2 ^ f.width ∧
    (s.inc f i n x).rg f i x = (s.rg f i x + n) % 2 ^ f.width ∧
    (s.incSat f i n x).rg f i x = min (s.rg f i x + n) (2 ^ f.width - 1) ∧
    (¬ (y = x ∧ g.pk = f.pk ∧ j % 4096 = i % 4096 ∧ g.off % 4096 = f.off % 4096 ∧ g.lsb % 64 = f.lsb % 64) →
      (s.rs f i v x).rg g j y = s.rg g j y ∧ (s.inc f i n x).rg g j y = s.rg g j y) ∧
    { s.rs f i v x with regs := s.regs } = s ∧ { s.inc f i n x with regs := s.regs } = s

/-- For every byte memory m, address a, width n and value v: reading n bytes at a after writing v there gives v mod 256^n; byte k of
the written range is byte k of v, least significant first (assumption 6); every byte outside the range reads as before; and a memory
in canonical form stays in it. -/
def Obligations.MemoryReadsBackWhatWasWritten : Prop :=
  ∀ (m : Mem) (a n v b : Nat),
    Mem.rdLE (Mem.wrLE m a n v) a n = v % 256 ^ n ∧
    (∀ k, k < n → (Mem.wrLE m a n v).rd (a + k) = BitVec.ofNat 8 (v / 256 ^ k)) ∧
    ((b < a ∨ a + n ≤ b) → (Mem.wrLE m a n v).rd b = m.rd b) ∧
    (Mem.wf m = true → Mem.wf (Mem.wrLE m a n v) = true)

/-- For every current full time now and every field f: rebuild now f has the low 35 bits of f; no time with those low bits lies
nearer to now; and of two at the same distance it is the earlier. Times are natural numbers, so no candidate below 0 is chosen. -/
def Obligations.RebuiltTimeIsNearest : Prop :=
  ∀ now f x : Nat, x % 2 ^ 35 = f % 2 ^ 35 →
    rebuild now f % 2 ^ 35 = f % 2 ^ 35 ∧
    ((rebuild now f : Int) - now).natAbs ≤ ((x : Int) - now).natAbs ∧
    (((rebuild now f : Int) - now).natAbs = ((x : Int) - now).natAbs → rebuild now f ≤ x)

/-- For every state and every page: logging a lasting fault puts VALID, LASTING = 1, the code and the place into the page's ERR_LOG,
adds 1 to ERR_LASTING modulo 2^32 and sets bit 1 of IRQ_RAW; a transient fault adds 1 to ERR_TRANSIENT and sets bit 0, and writes
ERR_LOG (with LASTING = 0) only while LASTING is 0: otherwise VALID, LASTING, CODE and WHERE read as before. -/
def Obligations.LastingFaultOverwritesTheErrorLog : Prop :=
  ∀ (s : State) (p : Page) (code w : Nat),
    (∀ u, u = s.logFault p true code w →
      u.on (Hdr.LOG_VALID p.pk) p.inst = true ∧ u.on (Hdr.LOG_LASTING p.pk) p.inst = true ∧
      u.rg (Hdr.LOG_CODE p.pk) p.inst = code % 2 ^ (Hdr.LOG_CODE p.pk).width ∧
      u.rg (Hdr.LOG_WHERE p.pk) p.inst = w % 2 ^ (Hdr.LOG_WHERE p.pk).width ∧
      u.rg (Hdr.ERR_LASTING p.pk) p.inst = (s.rg (Hdr.ERR_LASTING p.pk) p.inst + 1) % 2 ^ 32 ∧
      (u.rg (Hdr.IRQ_RAW p.pk) p.inst).testBit 1 = true) ∧
    (∀ u, u = s.logFault p false code w →
      u.rg (Hdr.ERR_TRANSIENT p.pk) p.inst = (s.rg (Hdr.ERR_TRANSIENT p.pk) p.inst + 1) % 2 ^ 32 ∧
      (u.rg (Hdr.IRQ_RAW p.pk) p.inst).testBit 0 = true ∧
      (s.on (Hdr.LOG_LASTING p.pk) p.inst = true →
        u.rg (Hdr.LOG_VALID p.pk) p.inst = s.rg (Hdr.LOG_VALID p.pk) p.inst ∧
        u.rg (Hdr.LOG_LASTING p.pk) p.inst = s.rg (Hdr.LOG_LASTING p.pk) p.inst ∧
        u.rg (Hdr.LOG_CODE p.pk) p.inst = s.rg (Hdr.LOG_CODE p.pk) p.inst ∧
        u.rg (Hdr.LOG_WHERE p.pk) p.inst = s.rg (Hdr.LOG_WHERE p.pk) p.inst) ∧
      (s.on (Hdr.LOG_LASTING p.pk) p.inst = false →
        u.on (Hdr.LOG_VALID p.pk) p.inst = true ∧ u.on (Hdr.LOG_LASTING p.pk) p.inst = false ∧
        u.rg (Hdr.LOG_CODE p.pk) p.inst = code % 2 ^ (Hdr.LOG_CODE p.pk).width ∧
        u.rg (Hdr.LOG_WHERE p.pk) p.inst = w % 2 ^ (Hdr.LOG_WHERE p.pk).width))

/-- For every page kind, instance, offset, value and every field f that lies in the word at that offset: an RW field of one word
reads the written bits of its place, a W1C field loses the bits written as 1, a RO, RC or WO field reads as before. A key that is
not that of a field of the word, at the entry the index register selects, reads as before, and the write touches nothing but the
register file. (A write to a staging register goes to the staging entry until its committing register is written.) -/
def Obligations.WordWriteSetsExactlyItsFields : Prop :=
  ∀ (s : State) (pk : PK) (i off : Nat) (v : Word) (f g : Fld) (k j y idx : Nat),
    idx = (if staged pk off then stageIdx else s.idxAt pk i off) →
    ((f, k) ∈ fldsAt pk off →
      (f.acc = .rw → f.words = 1 → (s.putWord pk i off v).rg f i idx = f.of v) ∧
      (f.acc = .w1c → (s.putWord pk i off v).rg f i idx = (s.rg f i idx - (s.rg f i idx &&& f.of v)) % 2 ^ f.width) ∧
      (f.acc = .ro ∨ f.acc = .rc ∨ f.acc = .wo → (s.putWord pk i off v).rg f i idx = s.rg f i idx)) ∧
    ((∀ e ∈ fldsAt pk off, g.key j y ≠ e.1.key i idx) → (s.putWord pk i off v).rg g j y = s.rg g j y) ∧
    { s.putWord pk i off v with regs := s.regs } = s

/-- REGISTER_WRITE of 32 bits, aligned, that reaches a DDR, GOV, DIST, ETH or PST page at offset 0x040 or above (but TJ_WARN, whose
write also judges the temperatures) completes: with the word's fields in range, not locked and consistent it sets exactly the word
(putWord), otherwise it changes nothing but ERR_PARAM's interrupt. One narrower than 32 bits or misaligned sets ERR_PARAM of the
page it reaches; one of 64 bits is two of 32 in ascending order, and a longer TLP of the host is the two and then each further word
in ascending order; one that lies in a reserved page has no effect. A write to BAR4 that is not an aligned 32-bit write of a
doorbell, and that the gate lets through, only adds 1 to HQ.DB_BAD and sets its interrupt bit 8. PROXY_PAGE_WRITE to a page of a die
that is down, and granted, only adds 1 to HUB EVT_COUNT3; BAR2_WRITE only adds 1 to HUB EVT_COUNT2 while the hub is up. -/
def Obligations.RegisterWritesTakeEffectOrAreRejected : Prop :=
  (∀ (s : State) (t : Nat) (c : Req) (a : BitVec 29) (v : BitVec 64) (p : Page), a.toNat < 2 ^ 26 → Page.ofAddr (a.toNat / 4096) = some p →
    Reaches s t c p → a.toNat % 4 = 0 → p.pk ∈ [PK.ddr, .gov, .dist, .eth, .pst] → 0x040 ≤ a.toNat % 4096 →
    (p.pk = .gov → a.toNat % 4096 ≠ 0x050) →
    let b := s.advance t
    let w := v.setWidth 32
    ((inRange p.pk (a.toNat % 4096) w && !b.locked p.pk p.inst (a.toNat % 4096) w && b.crossOk p.pk p.inst (a.toNat % 4096) w) = true →
      exec (.registerWrite t c a .b4 v) s = .next (b.putWord p.pk p.inst (a.toNat % 4096) w)) ∧
    ((inRange p.pk (a.toNat % 4096) w && !b.locked p.pk p.inst (a.toNat % 4096) w && b.crossOk p.pk p.inst (a.toNat % 4096) w) = false →
      exec (.registerWrite t c a .b4 v) s = .next (b.irqSet p 4))) ∧
  (∀ (s : State) (t : Nat) (c : Req) (a : BitVec 29) (v : BitVec 64) (z : AccSize) (p : Page), a.toNat < 2 ^ 26 →
    Page.ofAddr (a.toNat / 4096) = some p → Reaches s t c p → (z = .b1 ∨ z = .b2 ∨ a.toNat % 4 ≠ 0) →
    exec (.registerWrite t c a z v) s = .next ((s.advance t).irqSet p 4)) ∧
  (∀ (s : State) (t : Nat) (c : Req) (a : BitVec 29) (v : BitVec 64), a.toNat < 2 ^ 26 → a.toNat % 4 = 0 → a.toNat % 4096 ≠ 4092 →
    ∃ u, exec (.registerWrite t c a .b4 v) s = .next u ∧
      exec (.registerWrite t c a .b8 v) s = exec (.registerWrite 0 c (a + 4) .b4 (v >>> 32)) u) ∧
  (∀ (s : State) (t : Nat) (c : Req) (a : BitVec 29) (v : BitVec 64) (more : List Word), a.toNat < 2 ^ 26 → a.toNat % 4 = 0 →
    ∃ u, exec (.registerWrite t c a .b8 v) s = .next u ∧
      exec (.registerWrite t c a (.burst more) v) s = .next (u.wordWrites c (a.toNat + 8) more)) ∧
  (∀ (s : State) (c : Req) (a : Nat) (w : Word) (ws : List Word), a % 4 = 0 → s.wordWrites c a [] = s ∧
    s.wordWrites c a (w :: ws) = (s.writeAny c a .b4 (w.setWidth 64)).wordWrites c (a + 4) ws) ∧
  (∀ (s : State) (t : Nat) (c : Req) (a : BitVec 29) (v : BitVec 64) (z : AccSize), a.toNat < 2 ^ 26 →
    a.toNat % 4096 + accBytes z ≤ 4096 →
    Page.ofAddr (a.toNat / 4096) = none → exec (.registerWrite t c a z v) s = .next (s.advance t)) ∧
  (∀ (s : State) (t : Nat) (c : Req) (a : BitVec 26) (v : Word) (p : Page) (d : Nat), Page.ofAddr (a.toNat / 4096) = some p →
    p.die? = some d → (s.advance t).dieDown d = true → (s.advance t).answers p = true → (s.advance t).mayWrite c p.addr = true →
    exec (.proxyPageWrite t c a v) s = .next ((s.advance t).inc ((Hdr.EVT_COUNT .hub).nth 3) 0)) ∧
  (∀ (s : State) (t : Nat) (c : Req) (a : BitVec 29) (v : BitVec 64) (z : AccSize) (o : Nat), a.toNat = 3 * 2 ^ 26 + o → o < 2 ^ 16 →
    (z ≠ .b4 ∨ o ∉ [0x0, 0x4, 0x8, 0x10, 0x14, 0x18, 0x1C]) → (s.advance t).answers ⟨.hq, 0⟩ = true → s.host.perst = false →
    (s.advance t).mayWrite .host (Page.addr ⟨.hq, 0⟩) = true →
    exec (.registerWrite t c a z v) s = .next (((s.advance t).inc HQ.DB_BAD 0).irqSet ⟨.hq, 0⟩ 8)) ∧
  ∀ (s : State) (t : Nat) (c : Req) (a : BitVec 28), s.boot.hubUp = true →
    exec (.bar2Write t c a) s = .next ((s.advance t).inc ((Hdr.EVT_COUNT .hub).nth 2) 0)

/-- LATCHING_READ of TIME.DT_LO by a class that holds no latched word of it drives DT[31:0] to the reader, latches DT[63:32] for
that class and changes no register; the class's next LATCHING_READ of DT_HI, whatever DT is by then, drives the latched word and
uses it up. RC_READ of LDB.QUEUE_PEAK drives the peak and restarts the field from the present apply-queue level, other fields
unchanged. A read of BAR2 inside one granted window of a die that is up drives the memory's bytes and changes nothing else. A REG
flit that reads sends a REGRSP flit with the word, one that writes makes the write and sends a REGRSP flit of one zero word; REGRSP
drives the words of the first such flit to its requester and removes the flit. (A read needs: the page answers, the table grants it,
its die is up, its clock is good.) -/
def Obligations.ReadsReturnLatchAndClear : Prop :=
  (∀ (s : State) (t : Nat) (c : Req), (s.advance t).answers ⟨.time, 0⟩ = true → (s.advance t).mayRead c (Page.addr ⟨.time, 0⟩) = true →
    (s.advance t).clkGood ⟨.time, 0⟩ = true → s.latched (latchClass c, .time, 0, 0x040) = none →
    ∃ u, exec (.latchingRead t c (BitVec.ofNat 29 (Page.addr ⟨.time, 0⟩ * 4096 + 0x040)) .b4) s = .next u ∧
      u.out = s.out ++ [.readData c [(s.advance t).dt % 2 ^ 32]] ∧ u.regs = s.regs ∧
      u.latched (latchClass c, .time, 0, 0x044) = some ((s.advance t).dt / 2 ^ 32 % 2 ^ 32)) ∧
  (∀ (s : State) (t hi : Nat) (c : Req), (s.advance t).answers ⟨.time, 0⟩ = true →
    (s.advance t).mayRead c (Page.addr ⟨.time, 0⟩) = true → (s.advance t).clkGood ⟨.time, 0⟩ = true →
    s.latched (latchClass c, .time, 0, 0x044) = some hi → hi < 2 ^ 32 →
    ∃ u, exec (.latchingRead t c (BitVec.ofNat 29 (Page.addr ⟨.time, 0⟩ * 4096 + 0x044)) .b4) s = .next u ∧
      u.out = s.out ++ [.readData c [hi]] ∧ u.regs = s.regs ∧ u.latched (latchClass c, .time, 0, 0x044) = none) ∧
  (∀ (s : State) (t : Nat) (c : Req) (k : Fin 16), c ≠ .obs → (s.advance t).answers ⟨.ldb, k⟩ = true →
    (s.advance t).mayRead c (Page.addr ⟨.ldb, k⟩) = true → (s.advance t).dieDown (k.val / 4) = false →
    (s.advance t).clkGood ⟨.ldb, k⟩ = true → s.latch = [] → (s.advance t).waiting LDB.QUEUE_PEAK k = 0 →
    ∃ u, exec (.rcRead t c (BitVec.ofNat 29 (Page.addr ⟨.ldb, k⟩ * 4096 + LDB.QUEUE_PEAK.off)) .b4) s = .next u ∧
      u.out = s.out ++ [.readData c [s.rg LDB.QUEUE_PEAK k % 2 ^ 14]] ∧
      u.rg LDB.QUEUE_PEAK k = (s.bank k).queue.length % 2 ^ 14 ∧
      ∀ (g : Fld) (j y : Nat), g.key j y ≠ LDB.QUEUE_PEAK.key k → u.rg g j y = s.rg g j y) ∧
  (∀ (s : State) (t : Nat) (c : Req) (z : AccSize) (x : Nat), s.boot.hubUp = true → (windowOf x).1 < 12 →
    x + accBytes z ≤ (windowOf x).2 → (s.advance t).mayRead c (0x10000 + (windowOf x).1) = true →
    (s.advance t).dieDown ((windowOf x).1 / 3) = false → x < 0x10000000 →
    exec (.rcRead t c (BitVec.ofNat 29 (2 ^ 28 + x)) z) s =
      .next ((s.advance t).emit (.readData c [leNat (s.sram.rdBytes x (accBytes z))]))) ∧
  (∀ (s : State) (t : Nat) (c : Req) (a : BitVec 26) (v : Word), s.boot.hubUp = true →
    (∃ x d u, (s.advance t).regRead c (a.toNat / 4 * 4) = (x, d, u) ∧
      exec (.reg t c a false v) s = .next (u.send ⟨0xD, 2, 0, 3, pageSrc (a.toNat / 4 * 4) ||| reqCode c <<< 14, [x]⟩)) ∧
    exec (.reg t c a true v) s = .next
      (((s.advance t).regWrite c (a.toNat / 4 * 4) v).send ⟨0xD, 2, 0, 3, pageSrc (a.toNat / 4 * 4) ||| reqCode c <<< 14, [0]⟩)) ∧
  ∀ (s : State) (t : Nat) (f : Flit) (before after : List Flit), Arrives s (·.toHub 0xD 3) before f after →
    exec (.regrsp t) s =
      .next ({ s.advance t with net := before ++ after }.emit (.readData (reqOfCode (f.aux >>> 14)) f.words))

/-- IRQ_STATUS_WRITE that reaches a page clears in IRQ_RAW exactly the bits written as 1 and changes no other field; it sends a
further message only if an enabled bit remains. (On a STREAM, MIPI, INGEST or CLK page it finds what the receivers have taken in,
and the losses of lock that are transient, up to then.) A keyed RESET_REQ (KEY 0xA5, REQUEST 1) on a page with BLK_RESET = 1 that
answers, is granted and is of a live die: if the page is IDLE, not held and no reset of it runs (and, on a die page, the state is
not STANDBY), REFUSED clears, ACCEPT_COUNT rises by 1, HELD takes HOLD, the block is reset, the page is then in reset (running, or
held with HOLD = 1), and a trace record of kind 3 is written; if it is not IDLE or a reset runs, REFUSED sets, REFUSE_COUNT rises by
1, IRQ_RAW bit 3 sets and the running resets stand. With HOLD = 0 on a held page, the page is no longer held, and with CLK_GOOD it
is out of reset and IRQ_RAW bit 2 sets. BLOCK_RESET_DONE on a page whose reset runs and is not deferred does the same. -/
def Obligations.InterruptAndBlockResetWrites : Prop :=
  (∀ (s : State) (t : Nat) (c : Req) (a : BitVec 14) (v : Word) (p : Page), Page.ofAddr a.toNat = some p → Reaches s t c p →
    let b := (s.advance t).takeInFor p
    (p.pk ≠ .stream → p.pk ≠ .mipi → p.pk ≠ .ingest → p.pk ≠ .clk → b = s.advance t) ∧
    ∃ u, exec (.irqStatusWrite t c a v) s = .next u ∧
      (∀ i, i < 32 → (u.rg (Hdr.IRQ_RAW p.pk) p.inst).testBit i = ((b.rg (Hdr.IRQ_RAW p.pk) p.inst).testBit i && !v.getLsbD i)) ∧
      (∀ (g : Fld) (j y : Nat), g.key j y ≠ (Hdr.IRQ_RAW p.pk).key p.inst → u.rg g j y = b.rg g j y) ∧
      (u.irqUp p = false → u.out = b.out) ∧ (u.irqUp p = true → b.out ++ [.mgmtIrq p] <+: u.out)) ∧
  (∀ (s : State) (t : Nat) (c : Req) (a : BitVec 14) (v : Word) (p : Page), Page.ofAddr a.toNat = some p →
    (s.advance t).answers p = true → (s.advance t).mayWrite c a.toNat = true → (∀ d, p.die? = some d → (s.advance t).dieDown d = false) →
    (Hdr.RR_KEY p.pk).of v = 0xA5 → (Hdr.RR_REQUEST p.pk).of v = 1 → p.pk.blkReset = true →
    let b := s.advance t
    (b.heldPages.contains p = false → b.resetting.contains p = false → b.idle p = true → (b.standby && p.die?.isSome) = false →
      let q := (((b.rb (Hdr.REFUSED p.pk) p.inst false).inc (Hdr.ACCEPT_COUNT p.pk) p.inst).rb (Hdr.HELD p.pk) p.inst
        ((Hdr.RR_HOLD p.pk).of v = 1)).blockReset p true
      let r := if (Hdr.RR_HOLD p.pk).of v = 1 then { q with heldPages := p :: q.heldPages } else { q with resetting := p :: q.resetting }
      exec (.blockResetRequest t c a v) s = .next (r.trace p 3 0 (r.resetStat p)) ∧ (r.trace p 3 0 (r.resetStat p)).inReset p = true) ∧
    (b.heldPages.contains p = false → (b.resetting.contains p || !b.idle p) = true →
      ∃ u, exec (.blockResetRequest t c a v) s = .next u ∧ u.on (Hdr.REFUSED p.pk) p.inst = true ∧
        u.rg (Hdr.REFUSE_COUNT p.pk) p.inst = (s.rg (Hdr.REFUSE_COUNT p.pk) p.inst + 1) % 256 ∧
        (u.rg (Hdr.IRQ_RAW p.pk) p.inst).testBit 3 = true ∧ u.resetting = s.resetting ∧ u.heldPages = s.heldPages) ∧
    (b.heldPages.contains p = true → (Hdr.RR_HOLD p.pk).of v = 0 → b.clkGood p = true →
      ∃ u, exec (.blockResetRelease t c a v) s = .next u ∧ u.on (Hdr.HELD p.pk) p.inst = false ∧ u.heldPages.contains p = false ∧
        u.resetting.contains p = false ∧ (u.rg (Hdr.IRQ_RAW p.pk) p.inst).testBit 2 = true)) ∧
  ∀ (s : State) (t : Nat) (a : BitVec 14) (p : Page), Page.ofAddr a.toNat = some p → s.resetting.contains p = true →
    s.on (Hdr.DEFERRED p.pk) p.inst = false → (s.advance t).clkGood p = true →
    ∃ u, exec (.blockResetDone t a) s = .next u ∧ u.resetting.contains p = false ∧
      (u.rg (Hdr.IRQ_RAW p.pk) p.inst).testBit 2 = true ∧ u.heldPages = s.heldPages

/-- PLL_LOCK_LOSS of any locked PLL counts in LOCK_LOSSES, sets IRQ bit 8 of CLK and clears the LOCK bit. Of a PLL other than the
AON and hub PLLs, every page it clocks then reads CLK_GOOD = 0 and is in reset, its interfaces go down and the blocks of its domain
are forced into reset; where an earlier relock had not held for 1 s that loss was lasting and costs what a lasting one does. Of the
hub PLL it is a package reset of cause HUB_PLL at once; of the AON PLL nothing else happens (DT goes on), or a POR-wide reset of
cause AON_LOCK if an earlier relock had not held. PLL_LOCK at most 100 us after the loss sets the LOCK bit, notes when, counts
nothing yet and releases the domain's blocks; after LOCK_LOSS_LASTING it sets the bit and releases them. A relock that has held for
1 s counts one transient fault of code 6 on the CLK page, at the next lock loss at the latest (assumption 86). LOCK_LOSS_LASTING of
a PLL not relocked after 100 us counts a lasting fault of code 6 on the CLK page; a die's fences the die, an Ethernet PLL's both
ports; of the AON PLL it is a reset of cause AON_LOCK; a die PLL that has never locked once the hub runs counts as such a loss.
PLL_LOCK later than that does both. At boot PLL_LOCK of the AON PLL in phase 1 starts DT and phase 2, of the hub PLL in phase 3
releases the hub, of another from phase 3 on sets its LOCK bit. Otherwise nothing but time passes: PLL_LOCK_LOSS of an unlocked PLL,
PLL_LOCK of a locked one or while a power-on or pin reset is in force, LOCK_LOSS_LASTING too early. -/
def Obligations.PllLockLossAndReturn : Prop :=
  (∀ (s : State) (t : Nat) (x : Pll), s.boot.lock.testBit (pllBit x) = true →
    let k := pllBit x
    let b := (s.advance t).lockSettle
    let c := b.lockLost k
    c.rg CLK.LOCK_LOSSES 0 = (s.rg CLK.LOCK_LOSSES 0 + 1) % 2 ^ 32 ∧ (c.rg (Hdr.IRQ_RAW .clk) 0).testBit 8 = true ∧
    c.boot.lock.testBit k = false ∧ c.dt = (s.advance t).dt ∧
    (x = .hub → exec (.pllLockLoss t x) s = .next (c.warmReset 5 0)) ∧
    (x = .aon → b.relockBroken k = false → exec (.pllLockLoss t x) s = .next c) ∧
    (x = .aon → b.relockBroken k = true → exec (.pllLockLoss t x) s = .next (c.coldReset 4)) ∧
    (x ≠ .hub → x ≠ .aon → (∀ p : Page, p.pll = k → c.clkGood p = false ∧ c.inReset p = true) ∧
      (b.relockBroken k = false → exec (.pllLockLoss t x) s = .next ((c.phyDown k).domainReset k)) ∧
      (b.relockBroken k = true → exec (.pllLockLoss t x) s = .next (((c.lockCost k).phyDown k).domainReset k)))) ∧
  (∀ (s : State) (t : Nat) (x : Pll), let k := pllBit x
    let lockNow (r : Nat) : State := { s.advance t with boot := { s.boot with
      lock := setBit s.boot.lock k true, lostAt := Tab.put 0 s.boot.lostAt k 0, relockAt := Tab.put 0 s.boot.relockAt k r } }
    ((s.boot.lock.testBit k = true ∨ s.boot.porHold = true ∨ s.boot.pinHold = true) →
      exec (.pllLock t x) s = .next (s.advance t)) ∧
    (s.boot.lock.testBit k = false → s.boot.porHold = false → s.boot.pinHold = false →
      (2 ≤ Tab.get 0 s.boot.lostAt k → (s.advance t).dt + 2 ≤ Tab.get 0 s.boot.lostAt k + 100000 →
        exec (.pllLock t x) s = .next ((lockNow ((s.advance t).dt + 1)).domainRelease k)) ∧
      (Tab.get 0 s.boot.lostAt k = 1 → exec (.pllLock t x) s = .next ((lockNow 0).domainRelease k)) ∧
      (Tab.get 0 s.boot.lostAt k = 0 → x = .aon → s.boot.refclkOk = true → s.phase = 1 →
        exec (.pllLock t x) s = .next ({ lockNow 0 with aonRun := true }.setPhase 2)) ∧
      (Tab.get 0 s.boot.lostAt k = 0 → x = .hub → s.phase = 3 → exec (.pllLock t x) s = .next (lockNow 0).hubRelease) ∧
      (Tab.get 0 s.boot.lostAt k = 0 → x ≠ .aon → x ≠ .hub → 3 ≤ s.phase → s.phase ≠ 11 → exec (.pllLock t x) s = .next (lockNow 0)) ∧
      (Tab.get 0 s.boot.lostAt k = 0 → (x = .aon ∧ (s.boot.refclkOk = false ∨ s.phase ≠ 1)) ∨ (x = .hub ∧ s.phase ≠ 3) ∨
        (x ≠ .aon ∧ x ≠ .hub ∧ (s.phase < 3 ∨ s.phase = 11)) → exec (.pllLock t x) s = .next (s.advance t)) ∧
      (2 ≤ Tab.get 0 s.boot.lostAt k → Tab.get 0 s.boot.lostAt k + 100000 < (s.advance t).dt + 2 → let l := (s.advance t).lockLasting k
        (x = .aon → exec (.pllLock t x) s = .next ((s.advance t).coldReset 4)) ∧
        (x ≠ .aon → exec (.pllLock t x) s = .next (State.domainRelease { l with boot := { l.boot with
          lock := setBit l.boot.lock k true, lostAt := Tab.put 0 l.boot.lostAt k 0, relockAt := Tab.put 0 l.boot.relockAt k 0 } } k))))) ∧
  (∀ (s : State) (t : Nat) (x : Pll), s.boot.lock.testBit (pllBit x) = false → exec (.pllLockLoss t x) s = .next (s.advance t)) ∧
  (∀ (s : State) (k : Nat), k < 11 → (∀ j, j ≠ k → Tab.get 0 s.boot.relockAt j = 0) → Tab.get 0 s.boot.relockAt k ≠ 0 →
    (Tab.get 0 s.boot.relockAt k + 1000000000 ≤ s.dt + 1 →
      s.lockSettle = { s with boot := { s.boot with relockAt := Tab.put 0 s.boot.relockAt k 0 } }.logFault clkPage false 6 0) ∧
    (s.dt + 1 < Tab.get 0 s.boot.relockAt k + 1000000000 → s.lockSettle = s)) ∧
  ∀ (s : State) (t : Nat) (x : Pll), let k := pllBit x
    let b := s.advance t
    let m := { b with boot := { s.boot with
      lostAt := Tab.put 0 s.boot.lostAt k 1, relockAt := Tab.put 0 s.boot.relockAt k 0 } }.logFault clkPage true 6 0
    let l := Tab.get 0 s.boot.lostAt k
    let never := l = 0 ∧ s.boot.hubUp = true ∧ ∃ d, x = .die d
    (s.boot.lock.testBit k = true ∨ (¬ never ∧ (l < 2 ∨ b.dt < l + 99998)) → exec (.lockLossLasting t x) s = .next b) ∧
    (s.boot.lock.testBit k = false → never ∨ (2 ≤ l ∧ l + 99998 ≤ b.dt) →
    (x = .hub → exec (.lockLossLasting t x) s = .next b) ∧
    (x = .aon → exec (.lockLossLasting t x) s = .next (b.coldReset 4)) ∧
    (∀ d, x = .die d → s.rg PWR.PWR_STATE 0 ≠ 2 →
      exec (.lockLossLasting t x) s = .next (m.lastingFault (.die d) ⟨.die, d⟩ 6 0)) ∧
    (∀ d, x = .die d → s.rg PWR.PWR_STATE 0 = 2 →
      exec (.lockLossLasting t x) s = .next { m with pow := { s.pow with late := s.pow.late ++ [d.val] } }) ∧
    (x = .eth → exec (.lockLossLasting t x) s =
      .next ((m.lastingFault (.eth 0) ⟨.eth, 0⟩ 6 0).lastingFault (.eth 1) ⟨.eth, 1⟩ 6 0)) ∧
    ((x = .ddr ∨ x = .mipi ∨ x = .pcie ∨ x = .piste) → exec (.lockLossLasting t x) s = .next m))

/-- TICK_BOUNDARY with DT in a later tick than the tick reached sets the tick number to (DT + TICK_PHASE) >> 10; a waiting
TICK_PHASE change then takes effect and no longer waits, and sets IRQ bit 9 PHASE of the TIME page if TICK_PHASE changes; with no
later tick it changes nothing, so the tick number never falls. STALE_CHECK of a TOK pending queue, a core's input queue, a Ledger
apply queue, a router's waiting spike copies or the Piste's open flits keeps, in order, exactly the words whose stamp rebuilt
against the current DT (FT on the Piste) lies at most 2^33 ns in the past (replay arrivals and writes carry full times and stay),
and for the TOK unit and the core queue adds the number dropped to STALE_FLITS of the cluster's CLU page. -/
def Obligations.TickBoundaryAndStaleWords : Prop :=
  (∀ (s : State) (t : Nat), let b := s.advance t
    (b.tickOf b.dt ≤ s.tick → exec (.tickBoundary t) s = .next b) ∧
    (s.tick < b.tickOf b.dt → s.phasePend = none → exec (.tickBoundary t) s = .next { b with tick := b.tickOf b.dt }) ∧
    (∀ p, s.tick < b.tickOf b.dt → s.phasePend = some p →
      let n := { b with tick := b.tickOf b.dt, phasePend := none }.rs TIME.TICK_PHASE 0 p
      (p = s.rg TIME.TICK_PHASE 0 → exec (.tickBoundary t) s = .next n) ∧
      (p ≠ s.rg TIME.TICK_PHASE 0 → exec (.tickBoundary t) s = .next (n.irqSet ⟨.time, 0⟩ 9)))) ∧
  (∀ (s : State) (t : Nat) (k : Fin 16), s.rg CLU.STALE_FLITS k < 2 ^ 32 →
    ∃ u, exec (.staleCheck t (.tok k)) s = .next u ∧
    (u.tk k).pend = (s.tk k).pend.filter (fun p => !stale (s.advance t).dt (st35 p.t)) ∧
    u.rg CLU.STALE_FLITS k = (s.rg CLU.STALE_FLITS k + ((s.tk k).pend.length - (u.tk k).pend.length)) % 2 ^ 32) ∧
  (∀ (s : State) (t : Nat) (n : Fin 4096), s.rg CLU.STALE_FLITS (n / 256) < 2 ^ 32 →
    ∃ u, exec (.staleCheck t (.coreQueue n)) s = .next u ∧
    (u.core n).queue = (s.core n).queue.filter (fun a => a.cls == 3 || !stale (s.advance t).dt (st35 a.t)) ∧
    u.rg CLU.STALE_FLITS (n / 256) =
      (s.rg CLU.STALE_FLITS (n / 256) + ((s.core n).queue.length - (u.core n).queue.length)) % 2 ^ 32) ∧
  (∀ (s : State) (t : Nat) (k : Fin 16), ∃ u, exec (.staleCheck t (.ledger k)) s = .next u ∧
    (u.bank k).queue = (s.bank k).queue.filter (fun w => w.replay || !stale (s.advance t).dt (st35 (s.dtEquiv k w.d w.tw)))) ∧
  (∀ (s : State) (t : Nat) (k : Fin 16), ∃ u, exec (.staleCheck t (.router k)) s = .next u ∧
    (u.router k).wait = (s.router k).wait.filter (fun c => !stale (s.advance t).dt (wT c.w0))) ∧
  (∀ (s : State) (t : Nat) (k : Fin 16), ∃ u, exec (.staleCheck t (.escape k)) s = .next u ∧
    (u.router k).escLevel ≤ (s.router k).escLevel ∧ (u.router k).wait = (s.router k).wait) ∧
  ∀ (s : State) (t : Nat), ∃ u, exec (.staleCheck t .piste) s = .next u ∧
    u.fab.openF = s.fab.openF.filter (fun f => !stale ((s.advance t).ft (s.advance t).dt) f.ft35)

/-- For writes that reach the TIME page. SYNC_PERIODn in 100 to 100,000, and above SYNC_WIDTH if line n is enabled, is stored and
either comes into force at once (disabled line) or is pending until the line's next edge (enabled line); any other value only sets
ERR_PARAM. SYNC_WIDTH from 1 up that is less than the period in force and any pending period of every enabled line is stored, any
other only sets ERR_PARAM. SYNC_EN enabling no line whose period in force is at most SYNC_WIDTH is stored; a line that it newly
enables gets as its next edge the first multiple of its period after now; a line that it disables has its pending period in force
and no next edge, and is low. A SYNC_EN that breaks the check only sets ERR_PARAM. -/
def Obligations.SyncLineRegisterWrites : Prop :=
  (∀ (s : State) (t : Nat) (c : Req) (n : Fin 4) (v : Word), Reaches s t c ⟨.time, 0⟩ →
    let b := s.advance t
    let p := (TIME.SYNC_PERIOD.nth n).of v
    (100 ≤ p → p ≤ 100000 → s.lineOn n = false →
      exec (.syncPeriodWrite t c n v) s = .next ((b.rs (TIME.SYNC_PERIOD.nth n) 0 p).upLine n fun l => { l with period := p })) ∧
    (100 ≤ p → p ≤ 100000 → s.lineOn n = true → s.rg TIME.SYNC_WIDTH 0 < p →
      exec (.syncPeriodWrite t c n v) s = .next ((b.rs (TIME.SYNC_PERIOD.nth n) 0 p).upLine n fun l => { l with pend := some p })) ∧
    ((p < 100 ∨ 100000 < p ∨ (s.lineOn n = true ∧ p ≤ s.rg TIME.SYNC_WIDTH 0)) →
      exec (.syncPeriodWrite t c n v) s = .next (b.irqSet ⟨.time, 0⟩ 4))) ∧
  (∀ (s : State) (t : Nat) (c : Req) (v : Word), Reaches s t c ⟨.time, 0⟩ →
    let w := TIME.SYNC_WIDTH.of v
    let bad := w = 0 ∨ ∃ n, n < 4 ∧ s.lineOn n = true ∧ ((s.line n).period ≤ w ∨ ∃ p, (s.line n).pend = some p ∧ p ≤ w)
    (¬ bad → exec (.syncWidthWrite t c v) s = .next ((s.advance t).rs TIME.SYNC_WIDTH 0 w)) ∧
    (bad → exec (.syncWidthWrite t c v) s = .next ((s.advance t).irqSet ⟨.time, 0⟩ 4))) ∧
  ∀ (s : State) (t : Nat) (c : Req) (v : Word), Reaches s t c ⟨.time, 0⟩ →
    let new := TIME.SYNC_EN.of v
    let bad := ∃ n, n < 4 ∧ new.testBit n = true ∧ s.lineOn n = false ∧ (s.line n).period ≤ s.rg TIME.SYNC_WIDTH 0
    (bad → exec (.syncEnWrite t c v) s = .next ((s.advance t).irqSet ⟨.time, 0⟩ 4)) ∧
    (¬ bad → ∃ u, exec (.syncEnWrite t c v) s = .next u ∧ u.rg TIME.SYNC_EN 0 = new % 16 ∧
      (∀ n, n < 4 → new.testBit n = s.lineOn n → u.line n = s.line n) ∧
      (∀ n, n < 4 → new.testBit n = true → s.lineOn n = false →
        (u.line n).next = nextMultiple (s.advance t).dt ((s.line n).period * 1000) ∧ (u.line n).began = false) ∧
      (∀ n, n < 4 → new.testBit n = false → s.lineOn n = true → (u.line n).pend = none ∧ (u.line n).next = 0 ∧
        (u.line n).high = false ∧ (u.line n).period = (s.line n).pend.getD (s.line n).period))

/-- SYNC_OUT_EDGE on a line that is enabled, powered and due raises the pin, records the edge's DT in SYNC_EDGEn and in the line's
last 16 edges with the period it rose under (assumption 20), brings a pending period into force, sets the fall SYNC_WIDTH us later
and the next edge one period later (or, with a new period, at its first multiple after the pulse). SYNC_OUT_FALL on a high line
whose fall is due lowers the pin. PPS_IN_EDGE stores DT in PPS_IN_DT and adds 1 to PPS_IN_COUNT. Each later edge of a line adds 1 to
the periods that have passed without a pair, for every stream in SYNC mode that selects the line (assumption 135). SYNC_LOST_TIMEOUT
in SYNC mode with 16 such periods passed sets SYNC_LOST and UNALIGNED of the stream; with fewer it changes nothing. -/
def Obligations.SyncEdgesAndPulseInputs : Prop :=
  (∀ (s : State) (t : Nat) (n : Fin 4), (s.advance t).edgeDue n = true →
    ∃ u, exec (.syncOutEdge t n) s = .next u ∧ u.out = s.out ++ [.pin (syncPin n) true] ∧ (u.line n).high = true ∧
      u.rg (TIME.SYNC_EDGE.nth n) 0 = (s.line n).next % 2 ^ 64 ∧
      (u.line n).edges = (((s.line n).next, (s.line n).period) :: (s.line n).edges).take 16 ∧
      (u.line n).fallAt = (s.line n).next + s.rg TIME.SYNC_WIDTH 0 * 1000 ∧ (u.line n).pend = none ∧
      ((s.line n).pend = none → (u.line n).next = (s.line n).next + (s.line n).period * 1000 ∧ (u.line n).period = (s.line n).period) ∧
      (∀ q, (s.line n).pend = some q → (u.line n).period = q ∧
        (u.line n).next = nextMultiple ((s.line n).next + s.rg TIME.SYNC_WIDTH 0 * 1000) (q * 1000)) ∧
      (∀ i : Fin 36, (u.st i).periods = (s.st i).periods +
        if (s.line n).began = true ∧ s.cmMode i = 1 ∧ s.rg STREAM.SYNC_LINE i = n then 1 else 0) ∧
      ∀ m, m ≠ n.val → u.line m = s.line m) ∧
  (∀ (s : State) (t : Nat) (n : Fin 4), (s.line n).fallAt ≤ (s.advance t).dt → (s.line n).high = true →
    exec (.syncOutFall t n) s =
      .next (((s.advance t).upLine n fun l => { l with high := false }).emit (.pin (syncPin n) false))) ∧
  (∀ (s : State) (t : Nat), s.aonRun = true →
    ∃ u, exec (.ppsInEdge t) s = .next u ∧ u.rg TIME.PPS_IN_DT 0 = (s.advance t).dt % 2 ^ 64 ∧
      u.rg TIME.PPS_IN_COUNT 0 = (s.rg TIME.PPS_IN_COUNT 0 + 1) % 2 ^ 32 ∧ (u.rg (Hdr.IRQ_RAW .time) 0).testBit 8 = true) ∧
  ∀ (s : State) (t : Nat) (i : Fin 36), s.cmMode i = 1 →
    (16 ≤ (s.st i).periods → ∃ u, exec (.syncLostTimeout t i) s = .next u ∧ u.on STREAM.SYNC_LOST i = true ∧
      u.on STREAM.UNALIGNED i = true ∧ u.strm = s.strm) ∧
    ((s.st i).periods < 16 → exec (.syncLostTimeout t i) s = .next (s.advance t))

/-- For writes that reach a STREAM page. CM_CTRL with MODE 0 to 2 and FIT_LOG 1 to 6 stores MODE, SYNC_LINE, FIT_LOG and HOLD; one
that changes MODE also clears the fit history, the arrival window, MODEL_VALID and SYNC_LOST; MODE 3 or FIT_LOG 0 or 7 only sets
ERR_PARAM. CM_COMMIT of 1 captures the three staged values: on an enabled stream they wait for the next staging-word boundary with
the active model unchanged; on a disabled one they replace the active model at once, valid if MODE is FIXED or the model was valid;
CM_COMMIT of 0 has no effect. STREAM_UNIT in 1 to 65,535 is stored and stages RATE = STREAM_UNIT.0; any other value only sets
ERR_PARAM. -/
def Obligations.ClockModelWrites : Prop :=
  (∀ (s : State) (t : Nat) (c : Req) (i : Fin 36) (v : Word), Reaches s t c ⟨.stream, i⟩ →
    let m := STREAM.MODE.of v
    let f := STREAM.FIT_LOG.of v
    ((m = 3 ∨ f = 0 ∨ f = 7) → exec (.cmModeWrite t c i v) s = .next ((s.advance t).irqSet ⟨.stream, i⟩ 4)) ∧
    (m ≠ 3 → f ≠ 0 → f ≠ 7 → ∃ u, exec (.cmModeWrite t c i v) s = .next u ∧ u.cmMode i = m ∧ u.rg STREAM.FIT_LOG i = f ∧
      u.rg STREAM.SYNC_LINE i = STREAM.SYNC_LINE.of v ∧ u.rg STREAM.HOLD i = STREAM.HOLD.of v ∧
      (m = s.cmMode i → u.strm = s.strm) ∧
      (m ≠ s.cmMode i → (u.st i).hist = [] ∧ (u.st i).arr = none ∧ (u.st i).act.valid = false ∧
        u.on STREAM.SYNC_LOST i = false ∧ (u.st i).act.rate = (s.st i).act.rate))) ∧
  (∀ (s : State) (t : Nat) (c : Req) (i : Fin 36) (v : Word), Reaches s t c ⟨.stream, i⟩ →
    (STREAM.CM_COMMIT.of v = 0 → exec (.cmCommit t c i v) s = .next (s.advance t)) ∧
    (STREAM.CM_COMMIT.of v ≠ 0 → s.on (Hdr.ENABLE .stream) i = true → exec (.cmCommit t c i v) s =
      .next ((s.advance t).upSt i fun x => { x with cap := some ⟨true, x.stgS, x.stgDT, x.stgRate⟩ })) ∧
    (STREAM.CM_COMMIT.of v ≠ 0 → s.on (Hdr.ENABLE .stream) i = false → ∃ u, exec (.cmCommit t c i v) s = .next u ∧
      (u.st i).act = ⟨s.cmMode i == 0 || (s.st i).act.valid, (s.st i).stgS, (s.st i).stgDT, (s.st i).stgRate⟩ ∧
      (u.st i).cap = none)) ∧
  ∀ (s : State) (t : Nat) (c : Req) (i : Fin 36) (v : Word), Reaches s t c ⟨.stream, i⟩ →
    (1 ≤ v.toNat → v.toNat ≤ 65535 → exec (.streamUnitWrite t c i v) s =
      .next (((s.advance t).rs STREAM.STREAM_UNIT i v.toNat).upSt i fun x => { x with stgRate := v.toNat * 2 ^ 32 })) ∧
    ((v.toNat = 0 ∨ 65535 < v.toNat) → exec (.streamUnitWrite t c i v) s = .next ((s.advance t).irqSet ⟨.stream, i⟩ 4))

/-- For every payload of n bytes the packing gives ceil(n / 8) staging words. Byte i of the payload is byte (i mod 8) of staging
word i / 8. Every word carries its count of valid bytes: 8, or what remains for the last word, which is zero above its valid bytes.
-/
def Obligations.PayloadBytesPackLittleEndian : Prop :=
  ∀ bs : List Byte, (packWords (bs.length + 1) bs).length = (bs.length + 7) / 8 ∧
    (∀ (i : Nat) (x : Byte), bs[i]? = some x →
      ∃ w n, (packWords (bs.length + 1) bs)[i / 8]? = some (w, n) ∧ w / 256 ^ (i % 8) % 256 = x.toNat) ∧
    ∀ (j w n : Nat), (packWords (bs.length + 1) bs)[j]? = some (w, n) → n = min 8 (bs.length - 8 * j) ∧ 1 ≤ n ∧ w < 256 ^ n

/-- Whenever the stamper may grant a stream a lane (an event waits, its queue has room, the stream has had fewer than 15 lanes in 11
cycles and the streams together fewer than 121), STAMP_EVENT takes the stream's first waiting event. If that is no trigger, let dt0
be the DT the clock model maps it to. Outside the range test the event only counts in STAMP_RANGE and the previous event's DT
stands. Inside it, the previous event's DT afterwards is the larger of the previous DT and dt0 (dt0 for a stream's first event), so
never less than before; CLAMPED rises by 1 exactly when dt0 lies below the previous DT; an event that the CAM drops counts in
HOT_DROPPED and does not reach the queue to the distributor; any other either enters it as its last entry, with exactly that DT, its
stream, position, polarity and the bank then active, or is dropped by an enabled flicker gate. Where no lane can be granted, the
command changes nothing. -/
def Obligations.StampedTimeNeverDecreasesInAStream : Prop :=
  ∀ (s : State) (t : Nat) (i : Fin 36), let b := s.advance t
    (b.canStamp i = false → exec (.stampEvent t i) s = .next b) ∧
    (∀ (e : DecEv) (rest : List DecEv), b.canStamp i = true → (s.st i).wait = e :: rest → e.trig = true →
      ∃ u, exec (.stampEvent t i) s = .next u ∧ (u.st i).wait = rest ∧ (u.st i).queue = (s.st i).queue ∧ (u.st i).prev = (s.st i).prev) ∧
    ∀ (e : DecEv) (rest : List DecEv), b.canStamp i = true → (s.st i).wait = e :: rest → e.trig = false →
      s.rg STREAM.CLAMPED i < 2 ^ 32 →
      let dt0 := b.mapEvent i e
      let dt := max dt0 ((s.st i).prev.getD dt0)
      (outOfRange b.dt dt0 = true → ∃ u, exec (.stampEvent t i) s = .next u ∧ (u.st i).wait = rest ∧ (u.st i).prev = (s.st i).prev ∧
        (u.st i).queue = (s.st i).queue ∧ u.rg STREAM.CLAMPED i = s.rg STREAM.CLAMPED i ∧
        u.rg STREAM.STAMP_RANGE i = (s.rg STREAM.STAMP_RANGE i + 1) % 2 ^ 32) ∧
      (outOfRange b.dt dt0 = false → ∃ u, exec (.stampEvent t i) s = .next u ∧ (u.st i).wait = rest ∧ (u.st i).prev = some dt ∧
        (∀ p, (s.st i).prev = some p → p ≤ dt) ∧
        u.rg STREAM.CLAMPED i = (s.rg STREAM.CLAMPED i + if dt0 < (s.st i).prev.getD dt0 then 1 else 0) % 2 ^ 32 ∧
        (b.hotDrop i e.x e.y e.p = true → (u.st i).queue = (s.st i).queue ∧
          u.rg STREAM.HOT_DROPPED i = (s.rg STREAM.HOT_DROPPED i + 1) % 2 ^ 32) ∧
        (b.hotDrop i e.x e.y e.p = false →
          (u.st i).queue = (s.st i).queue ++ [⟨i, e.x, e.y, e.p, dt, u.rg STREAM.ACTIVE_BANK i⟩] ∨
          (s.on STREAM.FLK_EN i = true ∧ (u.st i).queue = (s.st i).queue)))

/-- On a MIPI port that is on: a header the ECC cannot correct counts in ECC_FAIL and sets IRQ bit 8; a short packet counts in
SHORT_PKTS; a corrected one counts in ECC_CORR and goes on as a good one; a long one outside data types 0x30 to 0x37 counts in
IMG_PKTS, one in them without a map or for a disabled stream in UNMAPPED_PKTS, each with a bad payload CRC also in CRC_FAIL with IRQ
bit 9; a mapped non-empty one for an enabled stream counts in PKTS_OK and its words join the stream's reception with their entry
times. DESKEW_SEQUENCE on a D-PHY port sets DESKEW_DONE. On an AER port that is on: REQ rising with the port idle records the entry
DT 3 ns earlier; SETTLE ns later AER_LATCH asserts ACK, counts the word and, mapped to an enabled stream, offers it with that entry
DT; REQ falling after the latch drops ACK, before it counts in PROTO_ERR. PORT_ENABLE with ENABLE = 1 that reaches a MIPI or AER
page switches the port on; with 0 a MIPI page's link goes down, which discards the packets in reception, and an AER page's handshake
is idle, its ACK inactive. -/
def Obligations.ReceptionOverMipiAndAer : Prop :=
  (∀ (s : State) (t : Nat) (p : Fin 18) (vc : Fin 32) (dty : Fin 64) (data : List Byte) (times : List Nat) (long crc : Bool),
    (s.advance t).portOn ⟨.mipi, p⟩ = true → let b := s.advance t
    let un := if crc = true then b else (b.inc MIPI.CRC_FAIL p).irqSet ⟨.mipi, p⟩ 9
    (exec (.mipiPacket t p vc dty long .bad data times crc) s = .next ((b.inc MIPI.ECC_FAIL p).irqSet ⟨.mipi, p⟩ 8)) ∧
    (exec (.mipiPacket t p vc dty long .corrected data times crc) s =
      .next ((b.inc MIPI.ECC_CORR p).mipiPacket p vc dty long .ok data times crc)) ∧
    (exec (.mipiPacket t p vc dty long .ok data times crc) s = .next (b.mipiPacket p vc dty long .ok data times crc)) ∧
    (exec (.mipiPacket t p vc dty false .ok data times crc) s = .next (b.inc MIPI.SHORT_PKTS p)) ∧
    ((dty.val < 0x30 ∨ 0x37 < dty.val) → exec (.mipiPacket t p vc dty true .ok data times crc) s = .next (un.inc MIPI.IMG_PKTS p)) ∧
    (0x30 ≤ dty.val → dty.val ≤ 0x37 → b.vcMap p vc dty = none →
      exec (.mipiPacket t p vc dty true .ok data times crc) s = .next (un.inc MIPI.UNMAPPED_PKTS p)) ∧
    (∀ j, 0x30 ≤ dty.val → dty.val ≤ 0x37 → b.vcMap p vc dty = some j → s.on (Hdr.ENABLE .stream) (s.rg (MIPI.STREAM.nth j) p) = false →
      exec (.mipiPacket t p vc dty true .ok data times crc) s = .next (un.inc MIPI.UNMAPPED_PKTS p)) ∧
    ∀ j, 0x30 ≤ dty.val → dty.val ≤ 0x37 → b.vcMap p vc dty = some j → data ≠ [] →
      s.on (Hdr.ENABLE .stream) (s.rg (MIPI.STREAM.nth j) p) = true →
      exec (.mipiPacket t p vc dty true .ok data times crc) s =
        .next (((b.inc MIPI.PKTS_OK p).upSt (s.rg (MIPI.STREAM.nth j) p) fun c =>
          { c with rx := c.rx ++ rxWords p b.dt crc (packWords (data.length + 1) data) times }).takeIn (s.rg (MIPI.STREAM.nth j) p))) ∧
  (∀ (s : State) (t : Nat) (p : Fin 18), (s.advance t).portOn ⟨.mipi, p⟩ = true → s.on MIPI.PHY_MODE p = false →
    exec (.deskewSequence t p) s = .next ((s.advance t).rb MIPI.DESKEW_DONE p true)) ∧
  (∀ (s : State) (t : Nat) (a : Fin 2) (w : BitVec 24), (s.advance t).portOn ⟨.aer, a⟩ = true → let b := s.advance t
    ((s.aerP a).req = false → (s.aerP a).ack = false →
      exec (.aerReqRise t a) s = .next (b.upAer a ⟨true, b.dt - 3, b.dt, false⟩)) ∧
    ((s.aerP a).req = true → (s.aerP a).ack = false → (s.aerP a).seen + s.rg AER.SETTLE a ≤ b.dt →
      let q := ((b.upAer a { s.aerP a with ack := true }).emit (.pin (ackPin a) (b.ackLevel a true))).inc AER.WORDS a
      (s.on AER.MAP_EN a = true → s.on (Hdr.ENABLE .stream) (s.rg AER.STREAM a) = true →
        exec (.aerLatch t a w) s = .next (q.offerWord (s.rg AER.STREAM a) w.toNat (s.aerP a).entry 8).1) ∧
      ((s.on AER.MAP_EN a && s.on (Hdr.ENABLE .stream) (s.rg AER.STREAM a)) = false → exec (.aerLatch t a w) s = .next q)) ∧
    ((s.aerP a).req = true → (s.aerP a).ack = true →
      exec (.aerReqFall t a) s = .next ((b.upAer a AerPort.init).emit (.pin (ackPin a) (b.ackLevel a false)))) ∧
    ((s.aerP a).req = true → (s.aerP a).ack = false →
      exec (.aerReqFall t a) s = .next ((b.upAer a AerPort.init).inc AER.PROTO_ERR a))) ∧
  ∀ (s : State) (t : Nat) (c : Req) (p : BitVec 14) (v : Word) (q : Page), Page.ofAddr p.toNat = some q → Reaches s t c q →
    ((q.pk = .mipi ∨ q.pk = .aer) → (Hdr.ENABLE q.pk).of v = 1 →
      exec (.portEnable t c p v) s = .next ((s.advance t).rs (Hdr.ENABLE q.pk) q.inst 1)) ∧
    (q.pk = .mipi → (Hdr.ENABLE .mipi).of v = 0 →
      exec (.portEnable t c p v) s = .next (((s.advance t).mipiDown q.inst).rs (Hdr.ENABLE .mipi) q.inst 0)) ∧
    (q.pk = .aer → (Hdr.ENABLE .aer).of v = 0 →
      let off := ((s.advance t).rs (Hdr.ENABLE .aer) q.inst 0).upAer q.inst AerPort.init
      ((s.aerP q.inst).ack = false → exec (.portEnable t c p v) s = .next off) ∧
      ((s.aerP q.inst).ack = true → exec (.portEnable t c p v) s =
        .next (off.emit (.pin (ackPin q.inst) ((s.advance t).ackLevel q.inst false)))))

/-- DECODE_WORD on a stream whose decoder may take a word (its FIFO, after the receiver has taken in what has arrived, holds one and
no decoded event waits for a lane) always takes exactly the head staging word; a captured model is then in force and no longer
waits, and no other stream changes. Where the word is a full 64-bit sensor word, without RESYNC, that matches a class of kind EVENT
with x, y and polarity fields and no time-low field, on a stream not in ARRIVAL mode, inside the frame: EVENTS rises by 1, and one
event at the fields' position and polarity (POL_INV applied), at the present stream time and with the word's rebuilt entry DT, waits
for the stamper. Where it may take none, nothing changes. DIST_ISSUE whose head event's clusters are each gated or have a credit:
the event leaves the queue; one event flit, flagged per cluster for Ledger and cores, goes to each cluster that is not gated in
ascending order and uses one of its credits; each gated one counts in GATED_FLITS. With a credit missing the event stays and
STALL_CYCLES counts. RATE_TICK_CLOSE, 16 ticks after the oldest open tick has ended, closes exactly that tick and keeps its counts
and those of later ticks; earlier it changes nothing. -/
def Obligations.DecodingAndDistribution : Prop :=
  (∀ (s : State) (t : Nat) (i : Fin 36), let b := (s.advance t).takeIn i
    (b.canDecode i = false → exec (.decodeWord t i) s = .next b) ∧
    ∀ (g : StageW) (rest : List StageW), (b.st i).fifo = g :: rest → (b.st i).wait = [] →
      ∃ u, exec (.decodeWord t i) s = .next u ∧ (u.st i).fifo = rest ∧ (u.st i).rx = (b.st i).rx ∧ (u.st i).cap = none ∧
        ∀ j : Nat, j ≠ i.val → u.st j = b.st j) ∧
  (∀ (s : State) (t k : Nat) (i : Fin 36) (g : StageW) (rest : List StageW), (s.st i).rx = [] → (s.st i).wait = [] →
    (s.st i).fifo = g :: rest → (s.st i).cap = none → g.resync = false → g.valid = 8 → g.w < 2 ^ 64 →
    s.rg STREAM.WORD_BITS i = 2 → s.cmMode i ≠ 2 → s.classOf i g.w = some k → s.rg (STREAM.KIND.nth k) i = 0 →
    s.rg (STREAM.F3.nth k) i = 0 → ∀ x y p, fieldOf (s.rg (STREAM.F0.nth k) i) g.w = some x →
    fieldOf (s.rg (STREAM.F1.nth k) i) g.w = some y → fieldOf (s.rg (STREAM.F2.nth k) i) g.w = some p →
    x ≤ s.rg STREAM.WIDTH_M1 i → y ≤ s.rg STREAM.HEIGHT_M1 i →
    ∃ u, exec (.decodeWord t i) s = .next u ∧ (u.st i).fifo = rest ∧
      u.rg STREAM.EVENTS i = (s.rg STREAM.EVENTS i + 1) % 2 ^ STREAM.EVENTS.width ∧
      (u.st i).wait = [⟨false, x, y, (p + s.rg STREAM.POL_INV i) % 2, (s.st i).time, rebuild (s.advance t).dt g.e35, none⟩] ∧
      ∀ j : Nat, j ≠ i.val → u.st j = s.st j) ∧
  (∀ (s : State) (t : Nat) (i : Fin 36) (e : Ev) (rest : List Ev), (s.st i).queue = e :: rest → let b := s.advance t
    let idx := tileIdx e.bank e.x e.y
    let ks := b.tileClusters i idx
    (b.creditsFor i ks = true → ∃ u, exec (.distIssue t i) s = .next u ∧ (u.st i).queue = rest ∧
      u.net = s.net ++ (ks.filter fun k => !b.gated k).map (fun k => ⟨0, 1, k, 0, evAux (s.rg STREAM.LEDGER_MAP i) (b.ledgerHere i idx k)
        (b.coresHere i idx k), [e.word]⟩) ∧
      ∀ k ∈ ks, (b.gated k = false → u.credit k i = s.credit k i - 1) ∧
        (b.gated k = true → u.credit k i = s.credit k i ∧
          u.rg (DIST.GATED_FLITS.nth k) 0 = (s.rg (DIST.GATED_FLITS.nth k) 0 + 1) % 2 ^ 32)) ∧
    (b.creditsFor i ks = false → exec (.distIssue t i) s = .next (b.waitBegin STREAM.STALL_CYCLES i))) ∧
  ∀ (s : State) (t : Nat),
    ((s.advance t).curTick < s.rfb.closed + 17 → exec (.rateTickClose t) s = .next (s.advance t)) ∧
    (s.rfb.closed + 17 ≤ (s.advance t).curTick → ∃ u, exec (.rateTickClose t) s = .next u ∧
      u.rfb.closed = s.rfb.closed + 1 ∧ (∀ tick ch, s.rfb.closed ≤ tick → ch < 1152 →
        Tab.get 0 u.rfb.rate (rateKey tick ch) = Tab.get 0 s.rfb.rate (rateKey tick ch)) ∧
      u.rfb.chans = s.rfb.chans ∧ u.regs = s.regs)

/-- For writes that reach a STREAM page. HOT_DATA replaces exactly the five fields of the CAM entry HOT_INDEX selects. SWAP = 1 with
no swap pending sets SWAP_PENDING and notes the tick, with one pending or SWAP = 0 it has no effect. ENABLE = 1 on a disabled stream
that passes the checks of the enable (one map, time-low width, classes) enables it with the vector state invalid and the flicker
history cleared; one that fails them only sets ERR_PARAM. ENABLE = 0 on an enabled stream clears ENABLE, drops the packets in
reception and leaves other streams alone; with none in reception it changes nothing else. -/
def Obligations.StreamRegisterCommands : Prop :=
  ∀ (s : State) (t : Nat) (c : Req) (i : Fin 36) (v : Word), Reaches s t c ⟨.stream, i⟩ → let b := s.advance t
    (∃ u, exec (.hotDataWrite t c i v) s = .next u ∧
      (∀ f ∈ [STREAM.HOT_X, STREAM.HOT_Y, STREAM.DROP_ON, STREAM.DROP_OFF, STREAM.HOT_VALID],
        u.rg f i (s.rg STREAM.HOT_INDEX i) = f.of v) ∧ { u with regs := s.regs } = b ∧
      ∀ (g : Fld) (j y : Nat), (∀ f ∈ [STREAM.HOT_X, STREAM.HOT_Y, STREAM.DROP_ON, STREAM.DROP_OFF, STREAM.HOT_VALID],
        g.key j y ≠ f.key i (s.rg STREAM.HOT_INDEX i)) → u.rg g j y = s.rg g j y) ∧
    (STREAM.SWAP.of v = 1 → s.on STREAM.SWAP_PENDING i = false → exec (.tmapSwap t c i v) s =
      .next ((b.rb STREAM.SWAP_PENDING i true).upSt i fun x => { x with swapTick := b.curTick })) ∧
    ((STREAM.SWAP.of v = 0 ∨ s.on STREAM.SWAP_PENDING i = true) → exec (.tmapSwap t c i v) s = .next b) ∧
    ((Hdr.ENABLE .stream).of v = 1 → s.on (Hdr.ENABLE .stream) i = false → b.enableOk i = true →
      ∃ u, exec (.streamEnable t c i v) s = .next u ∧ u.on (Hdr.ENABLE .stream) i = true ∧ (u.st i).vx = none ∧
        (u.st i).vy = none ∧ (u.st i).flk = [] ∧ (u.st i).fifo = (s.st i).fifo ∧ ∀ j : Nat, j ≠ i.val → u.st j = s.st j) ∧
    ((Hdr.ENABLE .stream).of v = 1 → s.on (Hdr.ENABLE .stream) i = false → b.enableOk i = false →
      exec (.streamEnable t c i v) s = .next (b.irqSet ⟨.stream, i⟩ 4)) ∧
    ((Hdr.ENABLE .stream).of v = 0 → s.on (Hdr.ENABLE .stream) i = true → ∃ u, exec (.streamDisable t c i v) s = .next u ∧
      u.on (Hdr.ENABLE .stream) i = false ∧ (u.st i).rx = [] ∧ ∀ j : Nat, j ≠ i.val → u.st j = s.st j) ∧
    ((Hdr.ENABLE .stream).of v = 0 → s.on (Hdr.ENABLE .stream) i = true → (s.st i).rx = [] →
      ∃ u, exec (.streamDisable t c i v) s = .next u ∧ u.on (Hdr.ENABLE .stream) i = false ∧ u.st i = s.st i ∧
        ∀ (g : Fld) (j y : Nat), g.key j y ≠ (Hdr.ENABLE .stream).key i → u.rg g j y = s.rg g j y)

/-- A receiver takes the first unit meant for it that no earlier one of its class and endpoints precedes and that may move.
EVENT_FLIT moves the oldest event flit of the cluster to the end of its stream's queue with its map and flags; REPLAY_FLIT does so
with the pair's full time, and delivers it at once where it is then the queue's head. STREAM_QUEUE_DELIVER with room at the bank and
at every subscribed core takes the queue's head, returns one credit, clears the stream's stall bit and delivers it; without room the
queue and the credits stand and the stall bit sets; an empty queue changes nothing. Delivering a flit that makes no bank write and
that subscribed cores take sends exactly one copy, with the flit's words and tag, to each of them, in order; a Ledger-flagged event
or replay of one matching descriptor is one bank write with its rebuilt or its full time. CWRITE with room writes the bank and
returns an ACK to the core's tag; without room it leaves the flit. A core write that one CORE descriptor takes is one bank write
with its rebuilt time. PROGRESS records the reported tick of its core. Where no such unit arrives, each command changes nothing but
DT. -/
def Obligations.EventsReplaysAndCoreWritesReachTheBank : Prop :=
  (∀ (s : State) (p : Flit → Bool) (l r : List Flit) (f : Flit), Arrives s p l f r →
    s.takeFlit p = some (f, { s with net := l ++ r }) ∧ s.takeUnit p = some (f, ({ s with net := l ++ r }).portsGo.ingressGo)) ∧
  (∀ (s : State) (t : Nat) (k : Fin 16),
    ((s.advance t).takeFlit (fun f => f.toUnit 0 k 0) = none → exec (.eventFlit t k) s = .next (s.advance t)) ∧
    ((s.advance t).takeFlit (fun f => f.toUnit 1 k 0) = none → exec (.replayFlit t k) s = .next (s.advance t)) ∧
    ((s.advance t).takeUnit (fun f => f.toUnit 3 k 1) = none → exec (.cwrite t k) s = .next (s.advance t)) ∧
    ((s.advance t).takeUnit (fun f => f.toUnit 0xB k 1 && f.words.getD 0 0 >>> 60 == 0) = none →
      exec (.progress t k) s = .next (s.advance t)) ∧
    ∀ i : Fin 36, Tab.get [] s.rqueue (k.val * 36 + i.val) = [] → exec (.streamQueueDeliver t k i) s = .next (s.advance t)) ∧
  (∀ (s b : State) (t : Nat) (k : Fin 16) (f : Flit), (s.advance t).takeFlit (fun f => f.toUnit 0 k 0) = some (f, b) →
    let w := f.words.getD 0 0
    let key := k.val * 36 + wStr w
    let q := Tab.get [] s.rqueue key ++ [⟨w, bitsAt f.aux 8 6, f.aux.testBit 7, f.aux.testBit 6, none⟩]
    exec (.eventFlit t k) s = .next { b with rqueue := Tab.put [] s.rqueue key q }) ∧
  (∀ (s : State) (t : Nat) (k : Fin 16) (i : Fin 36) (q : QFlit) (r : List QFlit), Tab.get [] s.rqueue (k.val * 36 + i.val) = q :: r →
    ((s.advance t).mayDeliver k q = true → ∃ x : State, exec (.streamQueueDeliver t k i) s = .next (x.deliver k q) ∧
      Tab.get [] x.rqueue (k.val * 36 + i.val) = r ∧ x.credit k i = s.credit k i + 1 ∧
      (x.rg CLU.STALL_STREAMS k).testBit i = false ∧ x.banks = s.banks ∧ x.net = s.net ∧ x.sram = s.sram) ∧
    ((s.advance t).mayDeliver k q = false → ∃ u, exec (.streamQueueDeliver t k i) s = .next u ∧ u.rqueue = s.rqueue ∧
      u.dcred = s.dcred ∧ (u.rg CLU.STALL_STREAMS k).testBit i = true ∧ u.net = s.net ∧ u.banks = s.banks)) ∧
  (∀ (x : State) (k : Fin 16) (q : QFlit),
    (∀ cs, x.queueDescs k q = [] → q.ledger = false → q.cores = true → x.subCores k q.word = some cs →
      (∀ c ∈ cs, x.coreFenced (256 * k.val + c) = false ∧ c < 256) →
      (x.deliver k q).net = x.net ++ cs.map fun c =>
        ⟨if q.t.isNone then 0 else 1, 0, k, c, evAux q.map false true, q.word :: q.t.toList⟩) ∧
    ∀ d, x.queueDescs k q = [d] → q.ledger = true → q.cores = false →
      x.deliver k q = x.bankWrite k ⟨d, wX q.word, wY q.word, wP q.word, q.t.getD (rebuild x.dt (wT q.word)), false, false, q.t.isSome⟩) ∧
  (∀ (s b : State) (t : Nat) (k : Fin 16) (f : Flit), (s.advance t).takeFlit (fun f => f.toUnit 1 k 0) = some (f, b) → f.ty = 1 →
    let w := f.words.getD 0 0
    let key := k.val * 36 + wStr w
    let q := Tab.get [] s.rqueue key
    let r : List QFlit := q ++ [⟨w, bitsAt f.aux 8 6, f.aux.testBit 7, f.aux.testBit 6, f.words[1]?⟩]
    let x : State := { b with rqueue := Tab.put [] s.rqueue key r }
    (q ≠ [] → exec (.replayFlit t k) s = .next x) ∧
    (q = [] → exec (.replayFlit t k) s = .next (x.queueDeliver k (wStr w)))) ∧
  (∀ (s b : State) (t : Nat) (k : Fin 16) (f : Flit), (s.advance t).takeUnit (fun f => f.toUnit 3 k 1) = some (f, b) →
    let w := f.words.getD 0 0
    let map := bitsAt f.aux 8 6
    let room := (s.advance t).bankRoom k (max 1 ((s.advance t).coreDescs k w map).length)
    (room = true → exec (.cwrite t k) s = .next ((b.ledgerCwrite k w map).send
      ⟨0xB, 0, srcCore f.src / 256, srcCore f.src % 256, srcField 1 k 1, [3 * 2 ^ 60 + 1]⟩)) ∧
    (room = false → exec (.cwrite t k) s = .next (s.advance t)) ∧
    ∀ d, b.coreDescs k w map = [d] →
      b.ledgerCwrite k w map = b.bankWrite k ⟨d, wX w, wY w, wP w, rebuild b.dt (wT w), true, false, false⟩) ∧
  ∀ (s b : State) (t : Nat) (k : Fin 16) (f : Flit),
    (s.advance t).takeUnit (fun f => f.toUnit 0xB k 1 && f.words.getD 0 0 >>> 60 == 0) = some (f, b) →
    ∃ u, exec (.progress t k) s = .next u ∧ Tab.get 0 (u.bank k).prog (f.aux % 256) = f.words.getD 0 0 ∧
      (∀ n, n ≠ f.aux % 256 → Tab.get 0 (u.bank k).prog n = Tab.get 0 (b.bank k).prog n) ∧ u.net = b.net ∧ u.regs = b.regs

/-- Applying a write to an on-chip descriptor: stamped 2^14 LU or more in the past it counts in STALE_WRITES; otherwise, onto an
entry that is invalid, stale or not newer, it makes the entry read VALID with the write's 15-bit time, touches no other byte and
counts in WRITES_APPLIED; onto a newer one it counts in OLDER_WRITES; the memory stands in the other two cases. Onto an invalid
entry of a BACKED descriptor's cached line it makes the entry read so and the line dirty in its bank line; DDR4 stands. A write that
may be applied counts in LATE_WRITES, with its interrupt, when it is late, meets its entry, and forms its COPY write whatever the
entry did with it (assumption 142). A write that may not be applied yet joins the end of the apply queue and nothing else of the
bank changes. LEDGER_TICK_ADVANCE raises A to the limit that DT, APPLY_W and the readers' progress give, never lowers it, and leaves
waiting only TICK writes that A does not cover (given that only such writes waited before). SCRUB_VISIT of a bank line that lies in
the bank's one enabled descriptor leaves every entry as it was but those of the line whose age is 2^14 LU or more, which become
invalid. -/
def Obligations.LedgerEntriesKeepTheNewestTime : Prop :=
  (∀ (s : State) (k : Nat) (w : LWrite), s.on LDB.BACKED k w.d = false →
    let i := (s.region k w.d).index w.x w.y w.p
    let a := s.entryAddr k w.d i
    let e := s.entry k w.d i
    let u := s.unitExp k w.d
    let now := lu15 (s.mapTime k w.d s.dt) u
    let stale := 2 ^ 14 ≤ diff15 now (lu15 w.tw u)
    let newer := eValid e = true ∧ diff15 now (eTime e) < 2 ^ 14 ∧ 2 ^ 14 ≤ diff15 (lu15 w.tw u) (eTime e)
    (stale → s.applyEntry k w = s.inc LDB.STALE_WRITES k) ∧
    (¬ stale → newer → s.applyEntry k w = s.inc LDB.OLDER_WRITES k) ∧
    (¬ stale → ¬ newer → ∃ v, s.applyEntry k w = v ∧ v.entry k w.d i = 2 ^ 15 + lu15 w.tw u ∧
      (∀ y, y ≠ a → y ≠ a + 1 → Mem.rd v.sram y = Mem.rd s.sram y) ∧
      v.rg LDB.WRITES_APPLIED k = (s.rg LDB.WRITES_APPLIED k + 1) % 2 ^ 32 ∧
      (∀ (g : Fld) (j y : Nat), g.key j y ≠ LDB.WRITES_APPLIED.key k → v.rg g j y = s.rg g j y) ∧ v.banks = s.banks)) ∧
  (∀ (s : State) (k : Nat) (w : LWrite) (l : CLine), s.on LDB.BACKED k w.d = true →
    let i := (s.region k w.d).index w.x w.y w.p
    let e := s.entry k w.d i
    let u := s.unitExp k w.d
    s.cached k (s.entryAddr k w.d i / 64) = some l → diff15 (lu15 (s.mapTime k w.d s.dt) u) (lu15 w.tw u) < 2 ^ 14 → eValid e = false →
      (s.applyEntry k w).entry k w.d i = 2 ^ 15 + lu15 w.tw u ∧ (s.applyEntry k w).ddr4 = s.ddr4 ∧
      (∃ x, (s.applyEntry k w).cached k (s.entryAddr k w.d i / 64) = some x ∧ x.dirty = true ∧ x.line = l.line)) ∧
  (∀ (s : State) (k : Nat) (w : LWrite), (s.writeNow k w).1 = true →
    let b := if (s.writeNow k w).2 = true then (s.inc LDB.LATE_WRITES k).irqSet ⟨.ldb, k⟩ 8 else s
    s.bankWrite k w = b.applyWrite k w ∧
    ((w.copy = true ∨ s.on LDB.COPY_EN k w.d = false) → s.applyWrite k w = s.applyEntry k w) ∧
    (w.copy = false → s.on LDB.COPY_EN k w.d = true → s.applyWrite k w = (s.applyEntry k w).copyOf k w)) ∧
  (∀ (s : State) (k : Nat) (w : LWrite), (s.writeNow k w).1 = false →
    ((s.bankWrite k w).bank k).queue = (s.bank k).queue ++ [w] ∧ ((s.bankWrite k w).bank k).applied = (s.bank k).applied ∧
    ((s.bankWrite k w).bank k).cache = (s.bank k).cache ∧ ((s.bank k).queue.length + 1 < 8192 → (s.bankWrite k w).sram = s.sram)) ∧
  (∀ (s : State) (t : Nat) (k : Fin 16),
    (∀ w ∈ (s.bank k).queue, s.tickWaiter k w = true → (s.bank k).applied < s.coverTick k w) →
    ∃ u, exec (.ledgerTickAdvance t k) s = .next u ∧
      (u.bank k).applied = max (s.bank k).applied ((s.advance t).applyLimit k) ∧
      ∀ w ∈ (u.bank k).queue, u.tickWaiter k w = true → (u.bank k).applied < u.coverTick k w) ∧
  ∀ (s : State) (t n d : Nat) (k : Fin 16), s.descs k = [d] → s.on LDB.BACKED k d = false → s.clearing k d = false →
    s.rg LDB.BASE_LINE k d ≤ n → n < s.rg LDB.BASE_LINE k d + (s.region k d).lines →
    let b := s.advance t
    let first := 32 * (n - s.rg LDB.BASE_LINE k d)
    ∃ u, exec (.scrubVisit t k n) s = .next u ∧ ∀ i, i < (s.region k d).entries →
      let e := s.entry k d i
      let old := eValid e = true ∧ 2 ^ 14 ≤ diff15 (lu15 (b.mapTime k d b.dt) (s.unitExp k d)) (eTime e)
      (first ≤ i → i < first + 32 → old → u.entry k d i = eTime e) ∧
      (¬ (first ≤ i ∧ i < first + 32 ∧ old) → u.entry k d i = e)

/-- A has reached a tick at or below it, and with APPLY_W = 0 one at or below what every reader allows. NREQ appends the request
that the flit's words name to the bank's requests. NBR_SERVE removes the oldest request whose tick A has reached, counts NBR_READS
(and NBR_WRONG where no descriptor may serve it) and sends to the core one flit with the patch of (2r+1)^2 ages, four 16-bit values
to a word; each value of a MERGED descriptor's pixel is its age at the last nanosecond of the tick, 0xFFFF outside the region, while
the region is cleared, and for an invalid or stale entry. NRSP stores value i of the patch at DEST + 2i, ends the core's outstanding
read and gives its tag back. FENCE_SETTLE at or after the fence instant plus SETTLE ticks marks the fence settled. RELEASE adds one
mark to the token buffer or descriptor it names. FENCE_ADVANCE of a SLOT descriptor whose marks are in, or whose next slot instant
has come (then FENCE_FORCED counts), moves the fence to the next slot with no marks, and no write that the new fence covers still
waits unless the descriptor is being cleared. Where nothing arrives, is reached or is due, each command changes nothing but DT. -/
def Obligations.LedgerReadsAndFences : Prop :=
  (∀ (s : State) (t : Nat) (k : Fin 16) (d : Fin 64),
    ((s.advance t).takeUnit (fun f => f.toUnit 4 k 1) = none → exec (.nreq t k) s = .next (s.advance t)) ∧
    ((∀ q ∈ (s.bank k).reqs, (s.advance t).reached k q.tick = false) → exec (.nbrServe t k) s = .next (s.advance t)) ∧
    (∀ n : Fin 4096, (s.advance t).takeFlit (fun f => f.toCore 5 n) = none → exec (.nrsp t n) s = .next (s.advance t)) ∧
    ((s.advance t).takeFlit (fun f => (f.toUnit 0xB k 1 || f.toUnit 0xB k 2) && f.words.getD 0 0 >>> 60 == 1) = none →
      exec (.release t k) s = .next (s.advance t)) ∧
    ((s.fence k d = none ∨ ∃ f, s.fence k d = some f ∧ (s.advance t).dt < f.f + 1024 * s.rg LDB.SETTLE k d) →
      exec (.fenceSettle t k d) s = .next (s.advance t)) ∧
    ((s.advance t).fenceDue k d = none → exec (.fenceAdvance t k d) s = .next (s.advance t))) ∧
  (∀ (s : State) (k q : Nat), s.reached k q =
    (decide (q ≤ (s.bank k).applied) || (s.rg LDB.APPLY_W k == 0 && (s.readerTicks k).all fun h => decide (q ≤ h)))) ∧
  (∀ (s b : State) (t : Nat) (k : Fin 16) (f : Flit), (s.advance t).takeUnit (fun f => f.toUnit 4 k 1) = some (f, b) →
    ∃ u, exec (.nreq t k) s = .next u ∧ (u.bank k).reqs = (b.bank k).reqs ++
      [let w := f.words.getD 0 0
       ⟨srcCore f.aux, bitsAt w 0 11, bitsAt w 11 11, bitsAt w 22 3, bitsAt w 25 2, bitsAt w 27 6, bitsAt w 33 6, w.testBit 55,
        bitsAt w 39 16, f.words.getD 1 0⟩] ∧ u.net = b.net ∧ u.regs = b.regs ∧ (u.bank k).queue = (b.bank k).queue) ∧
  (∀ (s : State) (t : Nat) (k : Fin 16) (q : NbrReq) (rest : List NbrReq),
    let b := s.advance t
    takeFirst (fun q => b.reached k q.tick) (s.bank k).reqs = some (q, rest) →
    ∃ u, exec (.nbrServe t k) s = .next u ∧ (u.bank k).reqs = rest ∧
      u.net = s.net ++ [⟨5, 0, q.core / 256, q.core % 256, srcField 1 k 1, pack16 (b.nbrPatch k q ((b.nbrDesc k q).getD none))⟩] ∧
      u.rg LDB.NBR_READS k = (s.rg LDB.NBR_READS k + 1) % 2 ^ 32 ∧
      (b.nbrDesc k q = none → u.rg LDB.NBR_WRONG k = (s.rg LDB.NBR_WRONG k + 1) % 2 ^ 32) ∧ u.sram = s.sram) ∧
  (∀ (s : State) (k d : Nat) (q : NbrReq) (x y : Int), s.on LDB.POL_MODE k d = true →
    s.nbrValue k d q x y =
      if (s.region k d).holds x y = true ∧ s.clearing k d = false then
        (ageAt (s.entry k d ((s.region k d).index x y 0)) (s.mapTime k d ((q.tick + 1) * 1024 - 1 - s.rg TIME.TICK_PHASE 0))
          (s.unitExp k d)).getD 0xFFFF
      else 0xFFFF) ∧
  (∀ (s b : State) (t dest r : Nat) (n : Fin 4096) (f : Flit), (s.advance t).takeFlit (fun f => f.toCore 5 n) = some (f, b) →
    (s.core n).nbr = some (dest, r) → (s.core n).port = [] →
    ∃ u, exec (.nrsp t n) s = .next u ∧ (u.core n).nbr = none ∧ (u.core n).tags = (s.core n).tags - 1 ∧ u.net = b.net ∧
      ∀ i, i < (2 * r + 1) * (2 * r + 1) → u.cmem n (dest + 2 * i) 2 = bitsAt (f.words.getD (i / 4) 0) (16 * (i % 4)) 16) ∧
  (∀ (s : State) (t : Nat) (k : Fin 16) (d : Fin 64) (f : Fence), s.fence k d = some f →
    f.f + 1024 * s.rg LDB.SETTLE k d ≤ (s.advance t).dt →
    exec (.fenceSettle t k d) s = .next ((s.advance t).setFence k d (some { f with settled := true }))) ∧
  (∀ (s b : State) (t : Nat) (k : Fin 16) (f : Flit), (s.advance t).takeFlit (fun f =>
      (f.toUnit 0xB k 1 || f.toUnit 0xB k 2) && f.words.getD 0 0 >>> 60 == 1) = some (f, b) →
    let w := f.words.getD 0 0
    (∀ g, w.testBit 6 = true → s.tokFence k (bitsAt w 0 5) = some g →
      exec (.release t k) s = .next (b.setTokFence k (bitsAt w 0 5) (some { g with marks := g.marks + 1 }))) ∧
    ∀ g, w.testBit 6 = false → w.testBit 20 = true → s.fence k (bitsAt w 14 6) = some g →
      exec (.release t k) s = .next (b.setFence k (bitsAt w 14 6) (some { g with marks := g.marks + 1 }))) ∧
  ∀ (s : State) (t n' f' : Nat) (k : Fin 16) (d : Fin 64) (forced : Bool), (s.advance t).fenceDue k d = some (forced, n', f') →
    s.on LDB.DISCIPLINE k d = true → s.rg LDB.FENCE_FORCED k < 2 ^ 32 →
    ∃ u, exec (.fenceAdvance t k d) s = .next u ∧ u.fence k d = some ⟨n', f', false, false, 0⟩ ∧
      u.rg LDB.FENCE_FORCED k = (s.rg LDB.FENCE_FORCED k + if forced then 1 else 0) % 2 ^ 32 ∧
      ∀ w ∈ (u.bank k).queue, w.d = d → s.clearing k d = true ∨ f' < u.dtEquiv k d w.tw

/-- A write of the descriptor register that reaches the page, for the selected descriptor with DESC_EN 0, with HALO at most 4 and a
legal KEY: without DESC_EN it sets every configuration field to its bits; with DESC_EN it does so, sets DESC_EN and INIT_BUSY and
starts the clear if the checks pass, otherwise it only sets ERR_PARAM. With DESC_EN 1 an enabling write only sets ERR_PARAM, and a
clearing one disables the descriptor: its waiting writes are dropped, others stand in order, its clear and fence end, and memory
keeps its contents. DESC_CLEAR_DONE of an on-chip descriptor with nothing waiting makes every entry of the region read 0, leaves
every byte outside the region's storage, and clears INIT_BUSY if no other clear runs. Enabling or disabling an on-chip descriptor
empties the bank's cache, dirty lines written back, since the free lines change (assumption 30); a BACKED one leaves it.
LEDGER_CACHE_FILL of an uncached line of a BACKED descriptor puts the line's DDR4 contents into a bank line, the set's first free
one, or where its 4 ways are taken that of the least recently used, which goes after a write-back if dirty; of a cached line it
writes a dirty one back and leaves it clean; of any other line it changes nothing. -/
def Obligations.DescriptorsEnableClearAndDisable : Prop :=
  (∀ (s : State) (t : Nat) (c : Req) (k : Fin 16) (v : Word), Reaches s t c ⟨.ldb, k⟩ →
    let d := s.rg LDB.DESC_INDEX k
    let b := s.advance t
    let s1 := descCfgFields.foldl (fun s f => s.rs f k (f.of v) d) b
    let s2 := s1.rs LDB.ENTRIES k (s1.region k d).entries d
    let legal := LDB.HALO.of v ≤ 4 ∧ (LDB.SOURCE.of v = 1 ∨ LDB.KEY.of v ≤ 35)
    (s.on LDB.DESC_EN k d = false → ¬ legal → exec (.descEnable t c k v) s = .next (b.irqSet ⟨.ldb, k⟩ 4)) ∧
    (s.on LDB.DESC_EN k d = false → legal → LDB.DESC_EN.of v = 1 → s2.descOk k d = false →
      exec (.descEnable t c k v) s = .next (b.irqSet ⟨.ldb, k⟩ 4)) ∧
    (s.on LDB.DESC_EN k d = false → legal → LDB.DESC_EN.of v = 0 → exec (.descEnable t c k v) s = .next s2) ∧
    (s.on LDB.DESC_EN k d = true → LDB.DESC_EN.of v = 1 → exec (.descEnable t c k v) s = .next (b.irqSet ⟨.ldb, k⟩ 4)) ∧
    (s.on LDB.DESC_EN k d = false → legal → LDB.DESC_EN.of v = 1 → s2.descOk k d = true →
      ∃ u, exec (.descEnable t c k v) s = .next u ∧ u.on LDB.DESC_EN k d = true ∧ u.clearing k d = true ∧
        u.on LDB.INIT_BUSY k = true ∧ (∀ f ∈ descCfgFields, u.rg f k d = f.of v) ∧
        u.rg LDB.ENTRIES k d = (s1.region k d).entries % 2 ^ LDB.ENTRIES.width ∧ u.sram = s.sram ∧
        (LDB.BACKED.of v = 1 ∨ (∀ l ∈ (s.bank k).cache, l.dirty = false) → u.ddr4 = s.ddr4) ∧
        (u.bank k).queue = (s.bank k).queue ∧ (u.bank k).cache = if LDB.BACKED.of v = 1 then (s.bank k).cache else []) ∧
    (s.on LDB.DESC_EN k d = true → LDB.DESC_EN.of v = 0 →
      ∃ u, exec (.descDisable t c k v) s = .next u ∧ u.on LDB.DESC_EN k d = false ∧ u.clearing k d = false ∧
        u.fence k d = none ∧ (u.bank k).queue = (s.bank k).queue.filter (fun w => w.d != d) ∧ u.sram = s.sram ∧
        (s.on LDB.BACKED k d = true ∨ (∀ l ∈ (s.bank k).cache, l.dirty = false) → u.ddr4 = s.ddr4) ∧
        (u.bank k).cache = (if s.on LDB.BACKED k d = true then (s.bank k).cache else []) ∧
        (∀ f ∈ descCfgFields, u.rg f k d = s.rg f k d))) ∧
  (∀ (s : State) (t : Nat) (k : Fin 16) (d : Fin 64), s.clearing k d = true → s.on LDB.BACKED k d = false → (s.bank k).queue = [] →
    let a := s.entryAddr k d 0
    ∃ u, exec (.descClearDone t k d) s = .next u ∧ u.clearing k d = false ∧
      (∀ i, i < (s.region k d).entries → u.entry k d i = 0) ∧
      (∀ y, y < a ∨ a + 2 * (s.region k d).entries ≤ y → Mem.rd u.sram y = Mem.rd s.sram y) ∧
      ((s.bank k).clears = [d.val] → u.on LDB.INIT_BUSY k = false)) ∧
  ∀ (s : State) (t ln : Nat) (k : Fin 16),
    let here := ∃ d ∈ s.descs k, s.on LDB.BACKED k d = true ∧ s.rg LDB.DDR_BASE k d / 64 ≤ ln ∧
        ln < s.rg LDB.DDR_BASE k d / 64 + (s.region k d).lines
    ((∀ l ∈ (s.bank k).cache, l.addr ≠ ln) → here → s.cacheSets k ≠ 0 →
      ((s.cacheWays k (s.cacheSet k ln)).length < 4 → ∃ u, exec (.ledgerCacheFill t k ln) s = .next u ∧
        let x := s.fillLine k (s.cacheSet k ln)
        (u.bank k).cache = ⟨ln, false, x⟩ :: (s.bank k).cache ∧ u.ddr4 = s.ddr4 ∧
        u.sram = Mem.wrBytes s.sram (bankBase k + 64 * x) (Mem.rdBytes s.ddr4 (64 * ln) 64)) ∧
      ∀ v, 4 ≤ (s.cacheWays k (s.cacheSet k ln)).length → (s.cacheWays k (s.cacheSet k ln)).getLast? = some v →
        ∃ u, exec (.ledgerCacheFill t k ln) s = .next u ∧
          (u.bank k).cache = ⟨ln, false, v.line⟩ :: (s.bank k).cache.filter (fun l => l != v) ∧
          u.ddr4 = (if v.dirty = true then Mem.wrBytes s.ddr4 (64 * v.addr) (Mem.rdBytes s.sram (bankBase k + 64 * v.line) 64)
            else s.ddr4) ∧
          u.sram = Mem.wrBytes s.sram (bankBase k + 64 * v.line) (Mem.rdBytes u.ddr4 (64 * ln) 64)) ∧
    ((∀ l ∈ (s.bank k).cache, l.addr ≠ ln) → ¬ here ∨ s.cacheSets k = 0 → exec (.ledgerCacheFill t k ln) s = .next (s.advance t)) ∧
    ∀ l, (s.bank k).cache.find? (fun l => l.addr == ln) = some l →
      ∃ u, exec (.ledgerCacheFill t k ln) s = .next u ∧
        u.ddr4 = (if l.dirty = true then Mem.wrBytes s.ddr4 (64 * ln) (Mem.rdBytes s.sram (bankBase k + 64 * l.line) 64) else s.ddr4) ∧
        (∀ x ∈ (u.bank k).cache, x.addr = ln → x.dirty = false) ∧ (u.bank k).cache.length = (s.bank k).cache.length ∧ u.sram = s.sram

/-- ARRIVAL_ENQUEUE: a copy for a fenced core counts in FENCED_DROPS, for a faulted core in UC_DROPS; else it joins the end of the
core's queue with its rebuilt stamp (a replay's full time shifted), marked and counted LATE exactly when its tick is closed and the
window is not 0. ARRIVAL_RELEASE on a free core whose next arrival is a sensor event with its handler enabled (no copy waiting at
the router) takes it out of the queue, counts it and starts handler 0 at its effective tick (the later of its stamp tick, the last
closed tick for a LATE one, and the neuron time), which becomes the neuron time, with flags cleared. TICK_CLOSE_STEPS of a due tick
with ON_TICK off and no slot instant in it sweeps and reports: PROGRESS shows the tick plus 1 and one report goes to the bank, or
waits in the port while a link has no buffer free; with a slot instant and ON_SLOT on, handler 5 starts; with ON_TICK on, handler 4.
Where no copy arrives or no tick is due, nothing changes but DT; where none may be released, the router only offers its waiting
copies again. RUN_WRITE that reaches the page is rejected (ERR_PARAM) if it changes STATE_FMT of a running core or starts one with
UCODE_ERR; otherwise it sets the fields. Starting with INIT_EN enters handler 6, or marks it due while a handler is still in
progress; stopping lets a handler in progress go on and takes back an ON_INIT that has not begun. -/
def Obligations.TurnstileAndClosingSteps : Prop :=
  (∀ (s : State) (t : Nat) (n : Fin 4096),
    ((s.advance t).takeFlit (fun f => f.toCore 0 n || f.toCore 1 n || f.toCore 2 n) = none →
      exec (.arrivalEnqueue t n) s = .next (s.advance t)) ∧
    (((s.advance t).coreFree n = false ∨ (s.advance t).nextArr n = none) →
      exec (.arrivalRelease t n) s = .next ((s.advance t).offerWaiting (n / 256))) ∧
    ((s.advance t).closeDue n = false → exec (.tickCloseSteps t n) s = .next (s.advance t))) ∧
  (∀ (s b : State) (t : Nat) (n : Fin 4096) (f : Flit),
    (s.advance t).takeFlit (fun f => f.toCore 0 n || f.toCore 1 n || f.toCore 2 n) = some (f, b) →
    let w := f.words.getD 0 0
    let a := b.arrOf n f
    let late := decide (1 ≤ s.tsWindow n) && b.tickClosed n a.t
    (s.coreFenced n = true → exec (.arrivalEnqueue t n) s = .next (b.fencedDrop n)) ∧
    (s.coreFenced n = false → s.on CGS.UCODE_ERR n = true → exec (.arrivalEnqueue t n) s = .next (b.inc CGS.UC_DROPS n)) ∧
    (s.coreFenced n = false → s.on CGS.UCODE_ERR n = false → s.rg CGS.LATE_ARRIVALS n < 2 ^ CGS.LATE_ARRIVALS.width →
      (f.ty = 0 → a = ⟨rebuild b.dt (wT w), 0, w >>> 35, 0, false⟩) ∧
      (f.ty = 1 → a.t = (f.words.getD 1 0 + s.rg CLU.REPLAY_SHIFT (n / 256)) % 2 ^ 64 ∧ a.cls = 3) ∧
      ∃ u, exec (.arrivalEnqueue t n) s = .next u ∧ (u.core n).queue = (s.core n).queue ++ [{ a with late := late }] ∧ u.net = b.net ∧
        u.rg CGS.LATE_ARRIVALS n = (s.rg CGS.LATE_ARRIVALS n + if late then 1 else 0) % 2 ^ CGS.LATE_ARRIVALS.width ∧
        (late = true → (u.rg CG.LATE_MASK (n / 16)).testBit (n % 16) = true ∧ (u.rg (Hdr.IRQ_RAW .cg) (n / 16)).testBit 8 = true))) ∧
  (∀ (s : State) (t : Nat) (n : Fin 4096) (a : Arr), (s.advance t).coreFree n = true → (s.advance t).nextArr n = some a → a.cls = 0 →
    (s.rg CGS.EV_EN n).testBit 0 = true → (s.router (n / 256)).wait = [] →
    let τ := max (if a.late then (s.advance t).closedTicks n - 1 else s.tickOf a.t) (s.ntOf n)
    ∃ u, exec (.arrivalRelease t n) s = .next u ∧ (u.core n).queue = dropArr a (s.core n).queue ∧ (u.core n).nt = τ ∧
      (u.core n).eng.fl = Flags.clear ∧ u.rg CGS.ARR_SENSOR n = (s.rg CGS.ARR_SENSOR n + 1) % 2 ^ CGS.ARR_SENSOR.width ∧
      u.sram = s.sram ∧ u.net = s.net ∧
      ∃ r, (u.core n).run = some r ∧ r.kind = 0 ∧ r.arr = some a ∧ r.ht = τ ∧ r.pc = s.entryOf n 0 ∧ r.stack = [] ∧ r.nlAt = (s.core n).nl ∧ (u.core n).nl.valid = false) ∧
  (∀ (s : State) (t : Nat) (n : Fin 4096), (s.advance t).closeDue n = true → let h := s.stepOf n
    (s.on CGS.TICK_EN n = false → s.slotIn (s.rg CGS.SLOT_GROUP n) h = none → (s.core n).port = [] →
      let f : Flit := ⟨0xB, 1, n / 256, 1, coreSrc n, [(h + 1) % 2 ^ 48]⟩
      ∃ u, exec (.tickCloseSteps t n) s = .next u ∧ (u.core n).stepped = h + 1 ∧ u.rg CGS.PROGRESS n = (h + 1) % 2 ^ CGS.PROGRESS.width ∧
        (s.linkRoom f = true → u.net = s.net ++ [f] ∧ (u.core n).port = []) ∧
        (s.linkRoom f = false → u.net = s.net ∧ (u.core n).port = [f])) ∧
    (∀ j, s.on CGS.TICK_EN n = false → s.on CGS.SLOT_EN n = true → s.coreOn n = true → s.slotIn (s.rg CGS.SLOT_GROUP n) h = some j →
      ∃ u r, exec (.tickCloseSteps t n) s = .next u ∧ (u.core n).run = some r ∧ r.kind = 5 ∧ r.slotN = j ∧ r.ht = max h (s.ntOf n) ∧
        r.pc = s.rg CGS.ENT_SLOT n ∧ u.net = s.net ∧ u.regs = s.regs) ∧
    (s.on CGS.TICK_EN n = true → s.coreOn n = true →
      ∃ u r, exec (.tickCloseSteps t n) s = .next u ∧ (u.core n).run = some r ∧ r.kind = 4 ∧ r.arr = none ∧ r.ht = max h (s.ntOf n) ∧
        r.pc = s.rg CGS.ENT_TICK n ∧ u.net = s.net ∧ u.regs = s.regs)) ∧
  ∀ (s : State) (t : Nat) (c : Req) (n : Fin 4096) (v : Word), Reaches s t c ⟨.cg, n / 16⟩ →
    let run := CGS.RUN.of v
    let bad := (s.on CGS.RUN n = true ∧ CGS.STATE_FMT.of v ≠ s.rg CGS.STATE_FMT n) ∨ (run = 1 ∧ s.on CGS.UCODE_ERR n = true)
    (bad → exec (.runWrite t c n v) s = .next ((s.advance t).irqSet ⟨.cg, n / 16⟩ 4)) ∧
    (¬ bad → s.coreFenced n = false → ∃ u, exec (.runWrite t c n v) s = .next u ∧ u.on CGS.RUN n = decide (run = 1) ∧
      (∀ f ∈ [CGS.STATE_FMT, CGS.FIRE_LAW, CGS.TICK_EN, CGS.SLOT_EN, CGS.SLOT_GROUP], u.rg f n = f.of v) ∧
      (run = 1 → s.on CGS.RUN n = false → s.on CGS.INIT_EN n = true →
        ((s.core n).run = none → ∃ r, (u.core n).run = some r ∧ r.kind = 6 ∧ r.pc = s.rg CGS.ENT_INIT n) ∧
        (∀ r, (s.core n).run = some r → (u.core n).run = some r ∧ (u.core n).initDue = true)) ∧
      (run = 1 → s.on CGS.RUN n = true ∨ s.on CGS.INIT_EN n = false → u.cores = s.cores) ∧
      (run = 0 → (s.core n).initDue = false → (∀ r, (s.core n).run = some r → s.initWaits n r = false) → u.cores = s.cores) ∧
      (run = 0 → (∀ r, (s.core n).run = some r → s.initWaits n r = true) → (u.core n).run = none ∧ (u.core n).initDue = false)) ∧
    (¬ bad → s.coreFenced n = true → ∃ u, exec (.runWrite t c n v) s = .next u ∧ u.on CGS.RUN n = s.on CGS.RUN n)

/-- SPIKE_FLIT takes the first spike the router has room for. At its source router it sends one flit to each cluster of the route's
mask, in ascending order, and one to the fabric if the route says so; room is a buffer of its class free on every link of every
copy. At a destination router, with fewer copies waiting than a link buffers, a group with no matching valid entry or no core counts
in GT_MISS; one that matches, with the ring empty, no copy waiting and room at every core of its masks, counts in SPIKES_IN and
sends exactly one copy to each of those cores in ascending order. ESCAPE_ENTRY of the first waiting copy that has waited ESC_WAIT,
or waits for a place in the ring, puts it at the ring's tail in DDR4 if there is room and counts ESCAPED; as the ring's first it
reads back from there with its core; a full ring only counts and flags. ESCAPE_DRAIN with room at the target sends the ring's head
copy and takes it off the ring, and a copy that waits for the place takes it; without room nothing changes. ACK counts in ACKS and
gives the core its tags back. With nothing to take, to enter or to drain, each changes nothing but DT and the link waits it counts.
-/
def Obligations.SpikesRouteAndEscape : Prop :=
  (∀ (s : State) (t : Nat) (k : Fin 16),
    ((s.advance t).takeUnit (fun f => f.toUnit 2 k 0 && (s.advance t).spikeRoom k f) = none →
      exec (.spikeFlit t k) s = .next ((s.advance t).spikeWait k)) ∧
    (takeFirst ((s.advance t).escDue k) (s.router k).wait = none ∨ s.escCap k = 0 → exec (.escapeEntry t k) s = .next (s.advance t)) ∧
    ((s.router k).escLevel = 0 → exec (.escapeDrain t k) s = .next (s.advance t)) ∧
    ∀ n : Fin 4096, (s.advance t).takeFlit (fun f => f.toCore 0xB n) = none → exec (.ack t n) s = .next (s.advance t)) ∧
  (∀ (s : State) (k : Nat) (f : Flit), s.spikeRoom k f =
    if f.aux >>> 14 = 0 then decide ((s.router k).wait.length < s.bufs) else (spikeCopies k f).all s.linkRoom) ∧
  (∀ (s b : State) (t : Nat) (k : Fin 16) (f : Flit),
    (s.advance t).takeUnit (fun f => f.toUnit 2 k 0 && (s.advance t).spikeRoom k f) = some (f, b) →
    let route := f.aux >>> 14
    let src := srcField 1 k 0
    route ≠ 0 → ∃ u, exec (.spikeFlit t k) s = .next u ∧ u.net = b.net ++ ((clustersOf (route % 65536)).map (fun c => ⟨2, 1, c, 0, src, f.words⟩) ++
      (if route.testBit 16 then [⟨2, 2, 0, 2, src, f.words⟩] else [])) ∧
      u.routers = b.routers ∧ u.cores = b.cores ∧ u.banks = b.banks ∧ u.sram = b.sram ∧ u.ddr4 = b.ddr4) ∧
  (∀ (s b : State) (t : Nat) (k : Fin 16) (f : Flit),
    (s.advance t).takeUnit (fun f => f.toUnit 2 k 0 && (s.advance t).spikeRoom k f) = some (f, b) → f.aux >>> 14 = 0 →
    (b.router k).wait = [] → (b.router k).escLevel = 0 →
    let w0 := f.words.getD 0 0
    let w1 := f.words.getD 1 0
    let g := bitsAt w1 32 16
    let cores := (List.range 256).filter fun n => (b.rg (CLU.GT_MASK.nth (n / 32)) k (g % 1024)).testBit (n % 32)
    let hit := b.on CLU.GT_VALID k (g % 1024) = true ∧ b.rg CLU.GT_TAG k (g % 1024) = g / 1024 ∧ cores ≠ []
    (¬ hit → ∃ u, exec (.spikeFlit t k) s = .next u ∧ u.rg CLU.GT_MISS k = (b.rg CLU.GT_MISS k + 1) % 2 ^ CLU.GT_MISS.width ∧
      u.net = b.net ∧ u.rg CLU.SPIKES_IN k = b.rg CLU.SPIKES_IN k) ∧
    (hit → (∀ n ∈ cores, b.coreFenced (256 * k.val + n) = false ∧ b.coreRoom (256 * k.val + n) = true) →
      ∃ u, exec (.spikeFlit t k) s = .next u ∧ u.rg CLU.SPIKES_IN k = (b.rg CLU.SPIKES_IN k + 1) % 2 ^ CLU.SPIKES_IN.width ∧
        u.net = b.net ++ cores.map (fun n => ⟨2, 0, k, n, srcField 1 k 0, [w0, w1]⟩) ∧ u.ddr4 = b.ddr4)) ∧
  (∀ (s : State) (t : Nat) (k : Fin 16) (c : SpkCopy) (rest : List SpkCopy),
    takeFirst (fun c => c.since == 0 || decide (c.since + (s.rg CLU.ESC_WAIT k * 10 + 10) / 11 ≤ (s.advance t).dt)) (s.router k).wait =
      some (c, rest) → s.escCap k ≠ 0 →
    ((s.router k).escLevel < s.escCap k → ∃ u, exec (.escapeEntry t k) s = .next u ∧ (u.router k).wait = rest ∧
      (u.router k).escLevel = (s.router k).escLevel + 1 ∧ (u.router k).escHead = (s.router k).escHead ∧
      u.rg CLU.ESCAPED k = (s.rg CLU.ESCAPED k + 1) % 2 ^ CLU.ESCAPED.width ∧ u.net = s.net ∧
      ((s.router k).escLevel = 0 → c.core < 256 → c.w0 < 2 ^ 64 → c.w1 < 2 ^ 49 → u.escTop k = ⟨c.core, c.w0, c.w1, 0⟩)) ∧
    (s.escCap k ≤ (s.router k).escLevel → exec (.escapeEntry t k) s = .next ((s.advance t).escFull k))) ∧
  (∀ (s : State) (t : Nat) (k : Fin 16), (s.router k).escLevel ≠ 0 →
    let c := s.escTop k
    ((s.advance t).coreRoom (256 * k.val + c.core) = true → s.coreFenced (256 * k.val + c.core) = false → (s.router k).wait = [] →
      ∃ u, exec (.escapeDrain t k) s = .next u ∧ u.net = s.net ++ [⟨2, 0, k, c.core, srcField 1 k 0, [c.w0, c.w1]⟩] ∧
        (u.router k).escLevel = (s.router k).escLevel - 1 ∧ (u.router k).escHead = ((s.router k).escHead + 1) % s.escCap k ∧
        u.ddr4 = s.ddr4) ∧
    (∀ d r, (s.advance t).coreRoom (256 * k.val + c.core) = true → s.coreFenced (256 * k.val + c.core) = false →
      (s.router k).wait = d :: r → d.since = 0 →
      ∃ u, exec (.escapeDrain t k) s = .next u ∧ u.net = s.net ++ [⟨2, 0, k, c.core, srcField 1 k 0, [c.w0, c.w1]⟩] ∧
        (u.router k).wait = r ∧ (u.router k).escLevel = (s.router k).escLevel ∧
        u.rg CLU.ESCAPED k = (s.rg CLU.ESCAPED k + 1) % 2 ^ CLU.ESCAPED.width) ∧
    ((s.advance t).coreRoom (256 * k.val + c.core) = false → exec (.escapeDrain t k) s = .next (s.advance t))) ∧
  ∀ (s b : State) (t : Nat) (n : Fin 4096) (f : Flit), (s.advance t).takeFlit (fun f => f.toCore 0xB n) = some (f, b) → (s.core n).port = [] →
    ∃ u, exec (.ack t n) s = .next u ∧ u.rg MESH.ACKS (n / 256) = (s.rg MESH.ACKS (n / 256) + 1) % 2 ^ MESH.ACKS.width ∧
      (u.core n).tags = (s.core n).tags - f.words.getD 0 0 % 16 ∧ u.net = b.net ∧ u.sram = s.sram

/-- For writes that reach the cluster's CLU page. SUBWIN with 1 to 64 tile columns and rows whose entries fit the table commits the
staged base with the written window to the selected stream, otherwise it only sets ERR_PARAM. SUB_HI commits the staged low word
with the written high word and count to the selected entry. RT_HI commits the staged low word and the written word to the selected
route entry unless the staged DELAY is 0, which only sets ERR_PARAM. GT_MASK7 commits the staged tag, VALID and masks 0 to 6 and the
written mask 7 to the selected group entry. Every other register field reads as before. -/
def Obligations.ClusterTableWritesCommitTheirEntry : Prop :=
  ∀ (s : State) (t : Nat) (c : Req) (k : Fin 16) (v : Word), Reaches s t c ⟨.clu, k⟩ →
    (let i := s.rg CLU.SUBWIN_INDEX k
     let base := s.rg CLU.SUB_BASE k stageIdx
     let tw := CLU.TW.of v
     let th := CLU.TH.of v
     let ok := 1 ≤ tw ∧ tw ≤ 64 ∧ 1 ≤ th ∧ th ≤ 64 ∧ (CLU.WIN_EN.of v = 1 → base + tw * th ≤ 4096)
     (¬ ok → exec (.subwinWrite t c k v) s = .next ((s.advance t).irqSet ⟨.clu, k⟩ 4)) ∧
     (ok → ∃ u, exec (.subwinWrite t c k v) s = .next u ∧ u.rg CLU.TX0 k i = CLU.TX0.of v ∧ u.rg CLU.TY0 k i = CLU.TY0.of v ∧
       u.rg CLU.TW k i = tw ∧ u.rg CLU.TH k i = th ∧ u.rg CLU.WIN_EN k i = CLU.WIN_EN.of v ∧
       u.rg CLU.SUB_BASE k i = base % 2 ^ CLU.SUB_BASE.width ∧
       ∀ (g : Fld) (j y : Nat), (∀ f ∈ [CLU.TX0, CLU.TY0, CLU.TW, CLU.TH, CLU.WIN_EN, CLU.SUB_BASE], g.key j y ≠ f.key k i) →
         u.rg g j y = s.rg g j y)) ∧
    (let e := s.rg CLU.SUB_INDEX k
     ∃ u, exec (.subHiWrite t c k v) s = .next u ∧ u.rg CLU.SUB_LO k e = s.rg CLU.SUB_LO k stageIdx % 2 ^ 32 ∧
       u.rg CLU.SUB_HI k e = CLU.SUB_HI.of v ∧ u.rg CLU.N k e = CLU.N.of v ∧
       ∀ (g : Fld) (j y : Nat), (∀ f ∈ [CLU.SUB_LO, CLU.SUB_HI, CLU.N], g.key j y ≠ f.key k e) → u.rg g j y = s.rg g j y) ∧
    (let e := s.rg CLU.RT_INDEX k
     let lo := s.rg CLU.RT_LO k stageIdx
     (bitsAt lo 18 6 = 0 → exec (.rtHiWrite t c k v) s = .next ((s.advance t).irqSet ⟨.clu, k⟩ 4)) ∧
     (bitsAt lo 18 6 ≠ 0 → ∃ u, exec (.rtHiWrite t c k v) s = .next u ∧ u.rg CLU.RT_LO k e = lo % 2 ^ CLU.RT_LO.width ∧
       u.rg CLU.RT_HI k e = v.toNat % 2 ^ CLU.RT_HI.width ∧
       ∀ (g : Fld) (j y : Nat), (∀ f ∈ [CLU.RT_LO, CLU.RT_HI], g.key j y ≠ f.key k e) → u.rg g j y = s.rg g j y)) ∧
    (let e := s.rg CLU.GT_INDEX k
     ∃ u, exec (.gtMask7Write t c k v) s = .next u ∧ u.rg CLU.GT_TAG k e = s.rg CLU.GT_TAG k stageIdx % 2 ^ CLU.GT_TAG.width ∧
       u.rg CLU.GT_VALID k e = s.rg CLU.GT_VALID k stageIdx % 2 ∧
       (∀ j, j < 7 → u.rg (CLU.GT_MASK.nth j) k e = s.rg (CLU.GT_MASK.nth j) k stageIdx % 2 ^ 32) ∧
       u.rg (CLU.GT_MASK.nth 7) k e = v.toNat ∧
       ∀ (g : Fld) (j y : Nat), g.key j y ≠ CLU.GT_TAG.key k e → g.key j y ≠ CLU.GT_VALID.key k e →
         (∀ i, i < 8 → g.key j y ≠ (CLU.GT_MASK.nth i).key k e) → u.rg g j y = s.rg g j y)

/-- For every core, either state format and every neuron number of the format: writing a neuron whose V fits the format and whose
time has 17 bits makes it read back as written, every other neuron as before, and leaves the USER bits of the N64 format. One
synaptic operation at tick T on a neuron: let x be the neuron after the lazy leak to T and y the sum of x's V and the shifted
weight, saturated to the format. Afterwards the neuron's time is T mod 2^17 and its V is y if y is below THETA or the neuron has
fired in this tick, 0 if it fires under the reset law, y - THETA if it fires under the subtract law; it is then marked fired exactly
if it was or fires now. -/
def Obligations.NeuronsPackLeakAndFire : Prop :=
  (∀ (s : State) (n i j : Nat) (x : Neuron), i < s.nNeurons n → j < s.nNeurons n →
    -(2 ^ (s.vBits n - 1) : Int) ≤ x.v → x.v < 2 ^ (s.vBits n - 1) → x.t17 < 2 ^ 17 →
    (s.setNeuron n i x).neuron n i = x ∧ (j ≠ i → (s.setNeuron n i x).neuron n j = s.neuron n j) ∧
    (s.n64 n = true → bitsAt ((s.setNeuron n i x).cmem n (0x800 + 8 * i) 8) 50 14 = bitsAt (s.cmem n (0x800 + 8 * i) 8) 50 14) ∧
    { s.setNeuron n i x with sram := s.sram } = s) ∧
  ∀ (s : State) (n τ i : Nat) (weight : Int) (sh : Nat), i < s.nNeurons n →
    let x := s.leak n (s.neuron n i) τ
    let y := satS (s.vBits n) (x.v + weight * 2 ^ sh)
    let θ := signed 32 (s.rg CGS.THETA n)
    let z := (s.synOp n τ i weight sh).neuron n i
    z.t17 = τ % 2 ^ 17 ∧
    ((y < θ ∨ x.fired = true) → z.v = y ∧ z.fired = x.fired) ∧
    (θ ≤ y → x.fired = false → s.on CGS.FIRE_LAW n = true → z.v = 0 ∧ z.fired = true) ∧
    (θ ≤ y → x.fired = false → s.on CGS.FIRE_LAW n = false → -(2 ^ (s.vBits n - 1) : Int) ≤ y - θ → y - θ < 2 ^ (s.vBits n - 1) →
      z.v = y - θ ∧ z.fired = true)

/-- A micro-op whose COND fails changes nothing of the engine and counts as one micro-op (shown on NOP and ADD). B goes to its
target; CALL pushes PC + 1 and faults as STACK on a fifth entry; RET pops, and faults as STACK on an empty stack; LOOP decrements
g[A], branches when it is not 0 and goes on when it is; END with no read outstanding ends an event handler, raising NT to HT, and
enters an ON_INIT that is due; after ON_TICK it enters ON_SLOT for a slot instant in the tick, and after ON_SLOT, or with no slot
instant, sends the core's report; with a read outstanding it waits. Without a handler a micro-op command changes nothing but DT. An
unlisted opcode or COND 15 faults as ILLEGAL, and a micro-op beyond UC_LIMIT as LIMIT. A fault sets UCODE_ERR and interrupt bit 9,
clears RUN, latches PC, code and handler, discards the queue into UC_DROPS and ends the handler. -/
def Obligations.MicroOpsIssueBranchAndFault : Prop :=
  (∀ (s : State) (t : Nat) (n : Fin 4096) (r : HRun) (i : Nat → Fin 4096 → Instr) (op : Nat),
    (i, op) ∈ [(Instr.uopNop, 0), (Instr.uopAdd, 2)] →
    ((s.core n).run = none → exec (i t n) s = .next (s.advance t)) ∧ ((s.core n).run = some r → uOp (s.uword n r.pc) = op → s.handlerGoes n = true →
    let e := r.pair.getD (s.core n).eng
    let cond := condHolds (uCond (s.uword n r.pc)) e.fl ((r.arr.map Arr.late).getD false)
    let past := s.rg CGS.UC_LIMIT n ≠ 0 ∧ s.rg CGS.UC_LIMIT n < r.count + 1
    (cond = some false → ¬ past → r.pc < 255 →
      ∃ u, exec (i t n) s = .next u ∧ Retires s u n 1 r (s.core n).nl (s.uword n r.pc) e (s.core n).eng ∧ u.sram = s.sram ∧ u.net = s.net) ∧
    (cond = none → exec (i t n) s = .next ((s.advance t).ucodeFault n 1 r.pc)) ∧
    (cond ≠ none → past → exec (i t n) s = .next ((s.advance t).ucodeFault n 4 r.pc)))) ∧
  (∀ (s : State) (t w : Nat) (n : Fin 4096) (r : HRun) (e : Eng), Issues s n 0x60 1 r w e →
    ∃ u, exec (.uopB t n) s = .next u ∧ (u.core n).run = some { r with pc := uImm w % 256, count := r.count + 1, pair := none } ∧
      (u.core n).eng = (s.core n).eng ∧ u.sram = s.sram) ∧
  (∀ (s : State) (t w : Nat) (n : Fin 4096) (r : HRun) (e : Eng), Issues s n 0x61 1 r w e →
    (r.stack.length < 4 → ∃ u, exec (.uopCall t n) s = .next u ∧ (u.core n).run =
      some { r with pc := uImm w % 256, count := r.count + 1, pair := none, stack := (r.pc + 1) :: r.stack }) ∧
    (4 ≤ r.stack.length → exec (.uopCall t n) s = .next ((s.advance t).ucodeFault n 6 r.pc))) ∧
  (∀ (s : State) (t w : Nat) (n : Fin 4096) (r : HRun) (e : Eng), Issues s n 0x62 1 r w e →
    (∀ a rest, r.stack = a :: rest → a ≤ 255 → ∃ u, exec (.uopRet t n) s = .next u ∧
      (u.core n).run = some { r with pc := a, count := r.count + 1, pair := none, stack := rest }) ∧
    (r.stack = [] → exec (.uopRet t n) s = .next ((s.advance t).ucodeFault n 6 r.pc))) ∧
  (∀ (s : State) (t w : Nat) (n : Fin 4096) (r : HRun) (e : Eng), Issues s n 0x63 1 r w e →
    let v := (e.opA w + 2 ^ 32 - 1) % 2 ^ 32
    (v ≠ 0 → ∃ u, exec (.uopLoop t n) s = .next u ∧ (u.core n).eng = (s.core n).eng.setReg (uA w) v ∧
      (u.core n).run = some { r with pc := uImm w % 256, count := r.count + 1, pair := none }) ∧
    (v = 0 → r.pc < 255 → ∃ u, exec (.uopLoop t n) s = .next u ∧
      Retires s u n 1 r (s.core n).nl w e ((s.core n).eng.setReg (uA w) v))) ∧
  (∀ (s : State) (t w : Nat) (n : Fin 4096) (r : HRun) (e : Eng), Issues s n 0x64 1 r w e → (s.core n).nbr ≠ none →
    exec (.uopEnd t n) s = .next (s.advance t)) ∧
  (∀ (s : State) (t w : Nat) (n : Fin 4096) (r : HRun) (e : Eng), Issues s n 0x64 1 r w e → (s.core n).nbr = none →
    (r.kind ≠ 4 → r.kind ≠ 5 → (s.core n).initDue = true → ∃ u x, exec (.uopEnd t n) s = .next u ∧ (u.core n).run = some x ∧
      x.kind = 6 ∧ x.pc = s.rg CGS.ENT_INIT n ∧ (u.core n).initDue = false) ∧
    (r.kind ≠ 4 → r.kind ≠ 5 → (s.core n).initDue = false → ∃ u, exec (.uopEnd t n) s = .next u ∧ (u.core n).run = none ∧ (u.core n).nt = max (s.core n).nt r.ht ∧
      (u.core n).queue = (s.core n).queue ∧ u.net = s.net ∧ u.sram = s.sram) ∧
    (∀ j, r.kind = 4 → s.slotIn (s.rg CGS.SLOT_GROUP n) (s.stepOf n) = some j → s.coreOn n = true → s.on CGS.SLOT_EN n = true →
      ∃ u x, exec (.uopEnd t n) s = .next u ∧ (u.core n).run = some x ∧ x.kind = 5 ∧ x.slotN = j ∧ u.net = s.net) ∧
    (r.kind = 5 ∨ (r.kind = 4 ∧ s.slotIn (s.rg CGS.SLOT_GROUP n) (s.stepOf n) = none) → (s.core n).initDue = false →
      ∃ u, exec (.uopEnd t n) s = .next u ∧ (u.core n).run = none ∧
      u.rg CGS.PROGRESS n = (s.stepOf n + 1) % 2 ^ 32 ∧ u.net ++ (u.core n).port =
        s.net ++ (s.core n).port ++ [⟨0xB, 1, n / 256, 1, coreSrc n, [(s.stepOf n + 1) % 2 ^ 48]⟩])) ∧
  (∀ (s : State) (t : Nat) (n : Fin 4096) (r : HRun), (s.core n).run = some r → opClass (uOp (s.uword n r.pc)) = none →
    s.handlerGoes n = true → exec (.unlistedMicroOp t n) s = .next ((s.advance t).ucodeFault n 1 r.pc)) ∧
  ∀ (s : State) (n : Fin 4096) (r : HRun) (code pc : Nat), (s.core n).run = some r → pc < 256 → code < 8 → r.kind < 8 →
    let u := s.ucodeFault n code pc
    u.on CGS.UCODE_ERR n = true ∧ u.on CGS.RUN n = false ∧ u.rg CGS.UC_PC n = pc ∧ u.rg CGS.UC_CODE n = code ∧
      u.rg CGS.UC_HANDLER n = r.kind ∧ u.on CGS.UC_VALID n = true ∧ (u.rg (Hdr.IRQ_RAW .cg) (n / 16)).testBit 9 = true ∧
      u.rg CGS.UC_DROPS n = (s.rg CGS.UC_DROPS n + (s.core n).queue.length) % 2 ^ 32 ∧
      (u.core n).queue = [] ∧ (u.core n).run = none ∧ (u.core n).initDue = false ∧ (u.core n).eng = (s.core n).eng

/-- For each of the 28 ALU and ACC micro-ops, when it issues at a word before 255 with operands A (g[A]) and B (g[B] or IMM): the
command completes; register D, or accumulator D[1:0], takes the listed result modulo 2^32 (sat40 for accumulators), no other
register or accumulator changes, the flags the table names change exactly when SF is 1 (CMP: always), the PC goes on, one micro-op
is counted, and core memory, flits and other cores stand. EXT, INS and SAT are for a WIDTH in the stated range; outside it they
fault as ILLEGAL. -/
def Obligations.ArithmeticMicroOpsCompute : Prop :=
  (∀ x ∈ ([
      (Instr.uopNop, 0x00, false, fun _ _ => ⟨none, none, FlagW.none⟩),
      (Instr.uopMov, 0x01, false, fun w e => ⟨some (e.opB w), none, flagsZN (e.opB w)⟩),
      (Instr.uopAdd, 0x02, false, fun w e => ⟨some ((e.opA w + e.opB w) % 2 ^ 32), none, flagsAdd (e.opA w) (e.opB w)⟩),
      (Instr.uopSub, 0x03, false, fun w e => ⟨some ((e.opA w + 2 ^ 32 - e.opB w) % 2 ^ 32), none, flagsSub (e.opA w) (e.opB w)⟩),
      (Instr.uopAnd, 0x04, false, fun w e => let v := e.opA w &&& e.opB w; ⟨some v, none, flagsZN v⟩),
      (Instr.uopOr, 0x05, false, fun w e => let v := e.opA w ||| e.opB w; ⟨some v, none, flagsZN v⟩),
      (Instr.uopXor, 0x06, false, fun w e => let v := e.opA w ^^^ e.opB w; ⟨some v, none, flagsZN v⟩),
      (Instr.uopAndn, 0x07, false, fun w e => let v := e.opA w &&& (2 ^ 32 - 1 - e.opB w % 2 ^ 32); ⟨some v, none, flagsZN v⟩),
      (Instr.uopShl, 0x08, false, fun w e => let v := e.opA w * 2 ^ (e.opB w % 32) % 2 ^ 32; ⟨some v, none, flagsZN v⟩),
      (Instr.uopShr, 0x09, false, fun w e => let v := e.opA w / 2 ^ (e.opB w % 32); ⟨some v, none, flagsZN v⟩),
      (Instr.uopSra, 0x0A, false, fun w e =>
        let v := unsigned 32 (Int.fdiv (signed 32 (e.opA w)) (2 ^ (e.opB w % 32))); ⟨some v, none, flagsZN v⟩),
      (Instr.uopRor, 0x0B, false, fun w e =>
        let k := e.opB w % 32
        let v := (e.opA w / 2 ^ k ||| e.opA w * 2 ^ ((32 - k) % 32)) % 2 ^ 32
        ⟨some v, none, flagsZN v⟩),
      (Instr.uopMin, 0x0C, false, fun w e =>
        let v := if (if (uMod w).testBit 0 then decide (e.opA w < e.opB w) else decide (signed 32 (e.opA w) < signed 32 (e.opB w)))
          then e.opA w else e.opB w
        ⟨some v, none, flagsZN v⟩),
      (Instr.uopMax, 0x0D, false, fun w e =>
        let v := if (if (uMod w).testBit 0 then decide (e.opA w < e.opB w) else decide (signed 32 (e.opA w) < signed 32 (e.opB w)))
          then e.opB w else e.opA w
        ⟨some v, none, flagsZN v⟩),
      (Instr.uopAbs, 0x0E, false, fun w e =>
        let v := if e.opA w = 2 ^ 31 then 2 ^ 31 - 1 else (signed 32 (e.opA w)).natAbs
        ⟨some v, none, (flagsZN v).withV (decide (e.opA w = 2 ^ 31))⟩),
      (Instr.uopPopc, 0x0F, false, fun w e =>
        let v := ((List.range 32).filter fun i => (e.opA w).testBit i).length; ⟨some v, none, { FlagW.none with z := some (v == 0) }⟩),
      (Instr.uopCmp, 0x10, true, fun w e => ⟨none, none, flagsSub (e.opA w) (e.opB w)⟩),
      (Instr.uopMul, 0x15, false, fun w e => let v := e.opA w * e.opB w % 2 ^ 32; ⟨some v, none, flagsZN v⟩),
      (Instr.uopTsb, 0x16, false, fun w e =>
        let a : Nat := e.opA w % 2 ^ 16
        let b : Nat := e.opB w % 2 ^ 16
        let x := e.acc (uMod w % 4) + b - a
        let v := (e.reg (uD w) * 2 + if a ≤ b then 1 else 0) % 2 ^ 32
        if a ≤ b then ⟨some v, some (uMod w % 4, sat40 x), { FlagW.none with z := some false, v := some (decide (sat40 x ≠ x)) }⟩
        else ⟨some v, none, { FlagW.none with z := some true, v := some false }⟩),
      (Instr.uopAset, 0x20, false, fun w _ => let x := signed 32 (uImm w); ⟨none, some (uD w % 4, x), flagsAcc x⟩),
      (Instr.uopMac, 0x21, false, fun w e =>
        let a : Nat := e.opA w % 2 ^ 16
        let b : Nat := e.opB w % 2 ^ 16
        let x := e.acc (uD w % 4) + if (uMod w).testBit 0 then ((a * b : Nat) : Int) else signed 16 a * signed 16 b
        ⟨none, some (uD w % 4, sat40 x), (flagsAcc (sat40 x)).withV (decide (sat40 x ≠ x))⟩),
      (Instr.uopMac2, 0x22, false, fun w e =>
        let x := e.acc (uD w % 4) + signed 16 (e.opA w) * signed 16 (e.opB w) +
          signed 16 (e.opA w / 2 ^ 16) * signed 16 (e.opB w / 2 ^ 16)
        ⟨none, some (uD w % 4, sat40 x), (flagsAcc (sat40 x)).withV (decide (sat40 x ≠ x))⟩),
      (Instr.uopAadd, 0x23, false, fun w e =>
        let x := e.acc (uD w % 4) + signed 32 (e.opB w)
        ⟨none, some (uD w % 4, sat40 x), (flagsAcc (sat40 x)).withV (decide (sat40 x ≠ x))⟩),
      (Instr.uopAget, 0x24, false, fun w e =>
        let x := Int.fdiv (e.acc (uA w % 4)) (2 ^ (uMod w % 32))
        let v := unsigned 32 (satS 32 x)
        ⟨some v, none, (flagsZN v).withV (decide (satS 32 x ≠ x))⟩)] :
      List ((Nat → Fin 4096 → Instr) × Nat × Bool × (Nat → Eng → AluW))),
    ∀ (s : State) (t w : Nat) (n : Fin 4096) (r : HRun) (e : Eng), Issues s n x.2.1 1 r w e → r.pc < 255 →
      let g0 := (s.core n).eng
      let y := x.2.2.2 w e
      let g1 := match y.d with | some v => g0.setReg (uD w) v | none => g0
      let g2 := match y.acc with | some (i, v) => g1.setAcc i v | none => g1
      ∃ u, exec (x.1 t n) s = .next u ∧ u.sram = s.sram ∧ u.net = s.net ∧
        Retires s u n 1 r (s.core n).nl w e (if uSF w || x.2.2.1 then { g2 with fl := g2.fl.put y.fl } else g2)) ∧
  (∀ x ∈ ([(Instr.uopExt, 0x11, fun w e => ((extWidth w).map fun f =>
          let v := bitsAt (e.opA w) f.1 f.2
          (if (uMod w).testBit 5 then unsigned 32 (signed f.2 v) else v, none))),
      (Instr.uopIns, 0x12, fun w e => ((extWidth w).map fun f => (setBitsAt (e.reg (uD w)) f.1 f.2 (e.opA w) % 2 ^ 32, none))),
      (Instr.uopSat, 0x13, fun w e =>
        let k := uImm w % 64
        if 2 ≤ k ∧ k ≤ 32 then
          some (unsigned 32 (satS k (signed 32 (e.opA w))), some (decide (satS k (signed 32 (e.opA w)) ≠ signed 32 (e.opA w))))
        else none)] : List ((Nat → Fin 4096 → Instr) × Nat × (Nat → Eng → Option (Nat × Option Bool)))),
    ∀ (s : State) (t w : Nat) (n : Fin 4096) (r : HRun) (e : Eng), Issues s n x.2.1 1 r w e → r.pc < 255 →
      (x.2.2 w e = none → exec (x.1 t n) s = .next ((s.advance t).ucodeFault n 1 r.pc)) ∧
      ∀ v z, x.2.2 w e = some (v, z) →
        let g := (s.core n).eng.setReg (uD w) v
        ∃ u, exec (x.1 t n) s = .next u ∧ u.sram = s.sram ∧ u.net = s.net ∧
          Retires s u n 1 r (s.core n).nl w e (if uSF w then { g with fl := g.fl.put { flagsZN v with v := z } } else g)) ∧
  ∀ (s : State) (t w : Nat) (n : Fin 4096) (r : HRun) (e : Eng), Issues s n 0x14 1 r w e → r.pc < 255 →
    let v := r.special (uImm w % 32)
    let g := (s.core n).eng.setReg (uD w) v
    ∃ u, exec (.uopMovs t n) s = .next u ∧ u.sram = s.sram ∧ u.net = s.net ∧
      Retires s u n 1 r (s.core n).nl w e (if uSF w then { g with fl := g.fl.put (flagsZN v) } else g)

/-- For every two 32-bit operands and any flags before: after the flags of SUB or CMP are written, EQ holds exactly when the
operands are equal, LT, GE, GT and LE hold exactly as the operands compare as signed numbers, and LTU and GEU as unsigned ones;
after the flags of ADD, C is set exactly when the unsigned sum does not fit 32 bits and V exactly when the signed sum does not. COND
15 is no condition, and each even-odd pair of opposite conditions never agrees. -/
def Obligations.ConditionsAfterACompareOrderTheOperands : Prop :=
  (∀ (a b : Nat) (f : Flags) (late : Bool), a < 2 ^ 32 → b < 2 ^ 32 →
    let g := f.put (flagsSub a b)
    condHolds 1 g late = some (decide (a = b)) ∧ condHolds 3 g late = some (decide (signed 32 a < signed 32 b)) ∧
    condHolds 4 g late = some (decide (signed 32 b ≤ signed 32 a)) ∧ condHolds 5 g late = some (decide (signed 32 b < signed 32 a)) ∧
    condHolds 6 g late = some (decide (signed 32 a ≤ signed 32 b)) ∧ condHolds 7 g late = some (decide (a < b)) ∧
    condHolds 8 g late = some (decide (b ≤ a))) ∧
  (∀ (a b : Nat) (f : Flags) (late : Bool), a < 2 ^ 32 → b < 2 ^ 32 →
    let g := f.put (flagsAdd a b)
    let x := signed 32 a + signed 32 b
    condHolds 7 g late = some (decide (2 ^ 32 ≤ a + b)) ∧
    condHolds 9 g late = some (decide (x < -2 ^ 31 ∨ 2 ^ 31 ≤ x)) ∧ condHolds 1 g late = some (decide ((a + b) % 2 ^ 32 = 0))) ∧
  ∀ (f : Flags) (late : Bool), condHolds 15 f late = none ∧ condHolds 0 f late = some true ∧
    ∀ c ∈ [(1, 2), (3, 4), (5, 6), (7, 8), (9, 10), (11, 12), (13, 14)], ∃ b, condHolds c.1 f late = some b ∧ condHolds c.2 f late = some (!b)

/-- For micro-ops that issue before word 255. LD16 and LD32 at a legal address that no outstanding read covers write g[D] with the
bytes (LD16 with MOD[1] sign-extended), after g[A]'s post-increment so that the load stands if D is A; ST16 and ST32 store g[B]'s
low bytes there and nothing else; an illegal address faults as MEM, a store with IB as ILLEGAL; one that an outstanding read covers
waits. In ON_INIT the four port micro-ops fault as CONTEXT. NBR with legal operands and room records the outstanding read and its
request flit; WAITN goes on when no read is outstanding; CWR, EMITT and EMITF issue one core write, one 64-byte token record with
the record time in its low 35 bits, one feature record. Whatever leaves goes through the output port in order, behind what waits
there. A port micro-op without room only starts the stall count; NBR and WAITN with a read outstanding wait and count nothing. NBR
with a field out of its range faults as ILLEGAL. -/
def Obligations.MemoryAndPortMicroOps : Prop :=
  (∀ x ∈ ([(Instr.uopLd16, 0x30, 2), (Instr.uopLd32, 0x31, 4)] : List ((Nat → Fin 4096 → Instr) × Nat × Nat)),
    ∀ (s : State) (t w : Nat) (n : Fin 4096) (r : HRun) (e : Eng), Issues s n x.2.1 1 r w e → r.pc < 255 →
    let a := (e.opA w + uImm w) % 2 ^ 32
    let ok := 0x800 ≤ a ∧ a + x.2.2 ≤ 0x6000 ∧ a % x.2.2 = 0
    let m := s.cmem n a x.2.2
    let v := if x.2.2 = 2 ∧ (uMod w).testBit 1 = true then unsigned 32 (signed 16 m) else m
    let g := (if (uMod w).testBit 0 then (s.core n).eng.setReg (uA w) (e.opA w + x.2.2) else (s.core n).eng).setReg (uD w) v
    (¬ ok → exec (x.1 t n) s = .next ((s.advance t).ucodeFault n 2 r.pc)) ∧
    (ok → (s.core n).nbrTouches a x.2.2 = false → ∃ u, exec (x.1 t n) s = .next u ∧ u.sram = s.sram ∧ u.net = s.net ∧
      Retires s u n 1 r (s.core n).nl w e (if uSF w then { g with fl := g.fl.put (flagsZN v) } else g)) ∧
    (ok → (s.core n).nbrTouches a x.2.2 = true → exec (x.1 t n) s = .next (s.advance t))) ∧
  (∀ x ∈ ([(Instr.uopSt16, 0x32, 2), (Instr.uopSt32, 0x33, 4)] : List ((Nat → Fin 4096 → Instr) × Nat × Nat)),
    ∀ (s : State) (t w : Nat) (n : Fin 4096) (r : HRun) (e : Eng), Issues s n x.2.1 1 r w e → r.pc < 255 →
    (uIB w = true → exec (x.1 t n) s = .next ((s.advance t).ucodeFault n 1 r.pc)) ∧
    (uIB w = false →
    let a := (e.opA w + uImm w) % 2 ^ 32
    let ok := 0x800 ≤ a ∧ a + x.2.2 ≤ 0x5800 ∧ a % x.2.2 = 0
    let g := if (uMod w).testBit 0 then (s.core n).eng.setReg (uA w) (e.opA w + x.2.2) else (s.core n).eng
    (¬ ok → exec (x.1 t n) s = .next ((s.advance t).ucodeFault n 2 r.pc)) ∧
    (ok → (s.core n).nbrTouches a x.2.2 = false → ∃ u, exec (x.1 t n) s = .next u ∧ Retires s u n 1 r (s.core n).nl w e g ∧ u.net = s.net ∧
      u.cmem n a x.2.2 = e.reg (uB w) % 256 ^ x.2.2 ∧
      ∀ y, y < coreBase n + a ∨ coreBase n + a + x.2.2 ≤ y → Mem.rd u.sram y = Mem.rd s.sram y) ∧
    (ok → (s.core n).nbrTouches a x.2.2 = true → exec (x.1 t n) s = .next (s.advance t)))) ∧
  (∀ x ∈ ([(Instr.uopNbr, 0x50), (Instr.uopCwr, 0x52), (Instr.uopEmitt, 0x53), (Instr.uopEmitf, 0x54)] :
      List ((Nat → Fin 4096 → Instr) × Nat)), ∀ (s : State) (t w : Nat) (n : Fin 4096) (r : HRun) (e : Eng),
    Issues s n x.2 1 r w e → r.kind = 6 → exec (x.1 t n) s = .next ((s.advance t).ucodeFault n 5 r.pc)) ∧
  (∀ (s : State) (t w : Nat) (n : Fin 4096) (r : HRun) (e : Eng), Issues s n 0x50 1 r w e → r.pc < 255 → r.kind ≠ 6 →
    (r.event = none → uMod w % 4 = 0) →
    let im := uImm w
    let rad := bitsAt (uMod w) 2 3
    let dest := bitsAt im 16 16
    let ev := r.event.getD ⟨0, 0, 0, 0, false⟩
    let x := if (uMod w).testBit 0 then ev.x else e.reg (uA w) % 2048
    let y := if (uMod w).testBit 0 then ev.y else e.reg (uB w) % 2048
    let key := if (uMod w).testBit 1 then ev.str else bitsAt im 6 6
    let word := x ||| y <<< 11 ||| rad <<< 22 ||| bitsAt im 12 2 <<< 25 ||| bitsAt im 0 6 <<< 27 ||| key <<< 33 ||| dest <<< 39 |||
      bitsAt im 14 1 <<< 55
    ((bitsAt im 12 2 = 3 ∨ im.testBit 15 = true ∨ rad = 0 ∨ 4 < rad ∨ dest % 2 = 1) →
      exec (.uopNbr t n) s = .next ((s.advance t).ucodeFault n 1 r.pc)) ∧
    (bitsAt im 12 2 ≠ 3 → im.testBit 15 = false → 1 ≤ rad → rad ≤ 4 → dest % 2 = 0 → 0x800 ≤ dest → dest + 2 * (2 * rad + 1) * (2 * rad + 1) ≤ 0x5800 →
    ((s.core n).nbr = none → s.portRoom n 2 = true → ∃ u, exec (.uopNbr t n) s = .next u ∧ (u.core n).nbr = some (dest, rad) ∧
      Retires s u n 1 r (s.core n).nl w e (s.core n).eng ∧ u.sram = s.sram ∧
      u.net ++ (u.core n).port = s.net ++ (s.core n).port ++ [⟨4, 1, n / 256, 1, coreSrc n, [word, r.readTick % 2 ^ 64]⟩]) ∧
    ((s.core n).nbr ≠ none → exec (.uopNbr t n) s = .next (s.advance t)) ∧
    ((s.core n).nbr = none → s.portRoom n 2 = false →
      exec (.uopNbr t n) s = .next ((s.advance t).waitBegin CGS.OUT_STALL_CYCLES n)))) ∧
  (∀ (s : State) (t w : Nat) (n : Fin 4096) (r : HRun) (e : Eng), Issues s n 0x51 1 r w e → r.pc < 255 →
    ((s.core n).nbr = none → ∃ u, exec (.uopWaitn t n) s = .next u ∧ Retires s u n 1 r (s.core n).nl w e (s.core n).eng ∧ u.net = s.net) ∧
    ((s.core n).nbr ≠ none → exec (.uopWaitn t n) s = .next (s.advance t))) ∧
  (∀ (s : State) (t w : Nat) (n : Fin 4096) (r : HRun) (e : Eng), r.pc < 255 → r.kind ≠ 6 →
    let ev := r.event.getD ⟨0, 0, 0, 0, false⟩
    (Issues s n 0x52 1 r w e → (r.event = none → (uMod w).testBit 1 = false) →
      let x := if (uMod w).testBit 1 then ev.x else e.reg (uA w) % 2048
      let y := if (uMod w).testBit 1 then ev.y else e.reg (uB w) % 2048
      (s.portRoom n 1 = true → ∃ u, exec (.uopCwr t n) s = .next u ∧ Retires s u n 1 r (s.core n).nl w e (s.core n).eng ∧
        u.net ++ (u.core n).port = s.net ++ (s.core n).port ++ [⟨3, 1, n / 256, 1, bitsAt (uImm w) 0 6 <<< 8 ||| (n % 256) <<< 14,
          [evWord (bitsAt (uImm w) 6 6) x y (uMod w % 2) (r.recT % 2 ^ 35)]⟩]) ∧
      (s.portRoom n 1 = false → exec (.uopCwr t n) s = .next ((s.advance t).waitBegin CGS.OUT_STALL_CYCLES n))) ∧
    (Issues s n 0x53 1 r w e →
      let a := (e.opA w + uImm w) % 2 ^ 32
      let m := fun i => s.cmem n (a + 8 * i) 8
      (0x800 ≤ a → a + 64 ≤ 0x5800 → a % 64 = 0 → (s.core n).nbrTouches a 64 = false → s.portRoom n 8 = true →
        ∃ u, exec (.uopEmitt t n) s = .next u ∧ Retires s u n 1 r (s.core n).nl w e (s.core n).eng ∧ u.sram = s.sram ∧
          u.net ++ (u.core n).port = s.net ++ (s.core n).port ++ [⟨6, 1, n / 256, 2, coreSrc n,
            [setBitsAt (m 0) 0 35 (r.recT % 2 ^ 35), m 1, m 2, m 3, m 4, m 5, m 6, m 7]⟩]) ∧
      ((a < 0x800 ∨ 0x5800 < a + 64 ∨ a % 64 ≠ 0) → exec (.uopEmitt t n) s = .next ((s.advance t).ucodeFault n 2 r.pc))) ∧
    (Issues s n 0x54 1 r w e → (r.event = none → (uMod w).testBit 0 = true) →
      let addr := if (uMod w).testBit 0 then e.reg (uD w) % 2 ^ 29 else ev.addr
      (s.portRoom n 2 = true → ∃ u, exec (.uopEmitf t n) s = .next u ∧ Retires s u n 1 r (s.core n).nl w e (s.core n).eng ∧
        u.net ++ (u.core n).port = s.net ++ (s.core n).port ++ [⟨7, 2, 0, 0, coreSrc n,
          [addr <<< 35 ||| r.recT % 2 ^ 35, e.reg (uA w) ||| e.reg (uB w) <<< 32]⟩]) ∧
      (s.portRoom n 2 = false → exec (.uopEmitf t n) s = .next ((s.advance t).waitBegin CGS.OUT_STALL_CYCLES n))))

/-- For neuron micro-ops that issue before word 255. NLD of an index below the neuron count latches that neuron; at or beyond it
faults as MEM. With the latch valid: NST writes the latched neuron back; LEAK applies the lazy leak to HT and raises NT to HT; NADD
adds B shifted left by MOD[4:0] (formed in 64 bits) and saturates; NGET puts V into g[D]; NPUT sets V to saturated g[A]; FIRE
applies the firing law to the latch (V at or above THETA, not yet fired: V becomes 0 or V - THETA, FIRED 1), F always tells whether
it fired, core memory stands, and a neuron that fires and has a valid route sends one spike of its effective time plus DELAY, its
payload, GNA and group; NCLR clears V, takes the present time and keeps FIRED only if the latch time is the present tick. Each
counts in the micro-ops. With the latch invalid each of the seven faults as LATCH. -/
def Obligations.NeuronMicroOpsWorkOnTheLatch : Prop :=
  ∀ (s : State) (t w : Nat) (n : Fin 4096) (r : HRun) (e : Eng), r.pc < 255 →
    let g := (s.core n).eng
    let l := (s.core n).nl
    let put := fun (x : Neuron) => { l with v := x.v, t17 := x.t17, fired := x.fired }
    let fl := fun (g : Eng) (f : FlagW) => { g with fl := g.fl.put f }
    (Issues s n 0x40 1 r w e →
      let i := ((if (uMod w).testBit 0 then r.special 5 else e.opA w) + uImm w) % 2 ^ 32
      (i < s.nNeurons n → (s.core n).nbrTouches (s.neuronAt n i) (s.neuronBytes n) = false → ∃ u, exec (.uopNld t n) s = .next u ∧ u.sram = s.sram ∧
        Retires s u n 1 r ⟨true, i, (s.neuron n i).v, (s.neuron n i).t17, (s.neuron n i).fired⟩ w e g) ∧
      (s.nNeurons n ≤ i → exec (.uopNld t n) s = .next ((s.advance t).ucodeFault n 2 r.pc))) ∧
    (l.valid = false → ∀ x ∈ ([(Instr.uopNst, 0x41), (Instr.uopLeak, 0x42), (Instr.uopNadd, 0x43), (Instr.uopNget, 0x44),
        (Instr.uopNput, 0x45), (Instr.uopFire, 0x46), (Instr.uopNclr, 0x47)] : List ((Nat → Fin 4096 → Instr) × Nat)),
      Issues s n x.2 1 r w e → exec (x.1 t n) s = .next ((s.advance t).ucodeFault n 7 r.pc)) ∧
    (l.valid = true →
      (Issues s n 0x41 1 r w e → (s.core n).nbrTouches (s.neuronAt n l.idx) (s.neuronBytes n) = false →
        ∃ u, exec (.uopNst t n) s = .next u ∧ Retires s u n 1 r l w e g ∧
        u.sram = (s.setNeuron n l.idx ⟨l.v, l.t17, l.fired⟩).sram) ∧
      (let d := dt17 r.ht l.t17
       let k := if d = 0 ∨ 65536 ≤ d then 1 else popcount 16 d + 1
       let x : Neuron := if d = 0 then ⟨l.v, l.t17, l.fired⟩ else ⟨leakV l.v d (s.dpow n), r.ht % 2 ^ 17, false⟩
       Issues s n 0x42 k r w e → ∃ u, exec (.uopLeak t n) s = .next u ∧ u.sram = s.sram ∧ (u.core n).nt = max (s.core n).nt r.ht ∧
         Retires s u n k r (put x) w e (fl g (if uSF w then { FlagW.none with z := some (decide (x.v = 0)) } else FlagW.none))) ∧
      (let x := l.v + signed 64 (unsigned 64 (signed 32 (e.opB w) * 2 ^ (uMod w % 32)))
       let y := satS (s.vBits n) x
       Issues s n 0x43 1 r w e → ∃ u, exec (.uopNadd t n) s = .next u ∧ u.sram = s.sram ∧
         Retires s u n 1 r (put ⟨y, l.t17, l.fired⟩) w e
           (fl g (if uSF w then (flagsAcc y).withV (decide (y ≠ x)) else FlagW.none)) ∧
         (y ≠ x → u.rg CGS.SAT_EVENTS n = (s.rg CGS.SAT_EVENTS n + 1) % 2 ^ 32)) ∧
      (let v := unsigned 32 l.v
       Issues s n 0x44 1 r w e → ∃ u, exec (.uopNget t n) s = .next u ∧ u.sram = s.sram ∧
         Retires s u n 1 r l w e (fl (g.setReg (uD w) v) (if uSF w then flagsZN v else FlagW.none))) ∧
      (let x := signed 32 (e.opA w)
       let y := satS (s.vBits n) x
       Issues s n 0x45 1 r w e → ∃ u, exec (.uopNput t n) s = .next u ∧ u.sram = s.sram ∧
         Retires s u n 1 r (put ⟨y, l.t17, l.fired⟩) w e (fl g (if uSF w then { FlagW.none with v := some (decide (y ≠ x)) } else FlagW.none))) ∧
      (let θ := signed 32 (s.rg CGS.THETA n)
       let fires := θ ≤ l.v ∧ l.fired = false
       let x : Neuron := if fires then ⟨if s.on CGS.FIRE_LAW n then 0 else l.v - θ, l.t17, true⟩ else ⟨l.v, l.t17, l.fired⟩
       Issues s n 0x46 1 r w e → r.kind ≠ 6 → s.portRoom n 2 = true → ∃ u, exec (.uopFire t n) s = .next u ∧ u.sram = s.sram ∧
         Retires s u n 1 r (put x) w e (fl g { FlagW.none with f := some (decide fires) }) ∧
         (¬ fires → u.net = s.net ∧ (u.core n).port = (s.core n).port) ∧
         ∀ q, fires → s.routeOf n l.idx = some q →
           let lo := s.rg CLU.RT_LO (n / 256) q
           let hi := s.rg CLU.RT_HI (n / 256) q
           hi.testBit 31 = true → (bitsAt lo 0 16 ≠ 0 ∨ lo.testBit 16 = true) →
           let at35 := ((r.ht + bitsAt lo 18 6) * 1024 - s.rg TIME.TICK_PHASE 0) % 2 ^ 35
           let payload := if (uMod w).testBit 0 then e.reg (uB w) % 2 ^ 29 else 0
           let gna := s.coreGna n ||| l.idx <<< 4 ||| uImm w % 16
           u.rg CGS.SPIKES_OUT n = (s.rg CGS.SPIKES_OUT n + 1) % 2 ^ CGS.SPIKES_OUT.width ∧
           u.net ++ (u.core n).port = s.net ++ (s.core n).port ++ [⟨2, 1, n / 256, 0, coreSrc n ||| bitsAt lo 0 17 <<< 14,
             [at35 ||| payload <<< 35, gna ||| bitsAt hi 0 16 <<< 32 ||| (if lo.testBit 17 then 2 ^ 48 else 0)]⟩]) ∧
      (Issues s n 0x47 1 r w e → ∃ u, exec (.uopNclr t n) s = .next u ∧ u.sram = s.sram ∧
        Retires s u n 1 r (put ⟨0, r.ht % 2 ^ 17, l.fired && l.t17 == r.ht % 2 ^ 17⟩) w e g))

/-- MX_SLOT_START on a working bound core that the loader does not hold, with a due slot and no program running, starts the slot:
its number and instant, semaphores from SEM_INIT, the first 64 descriptors queued, nothing dispatched; where it may not start, no
matrix core changes. MX_DISPATCH of the queue head with a free unit and its WAIT semaphores up takes one from each of them and puts
the descriptor into its unit; a head outside the SRAM faults as BOUNDS; otherwise nothing changes. MX_DESCRIPTOR_DONE of the lowest
finished descriptor frees its unit, adds its SIGNAL (saturating), sends the release mark of a GATHER that asks for it, raises the
peer's semaphores after a DMA, interrupts if the descriptor says so, and after the last one counts SLOTS_RUN and sends the marker
with status OK. MX_SLOT_ABORT of an overdue program counts SLOT_OVERRUNS and ends it with status 1 and, for a slot, the marker.
MX_START with START 1 is rejected while bound or running; otherwise, on a working core with a program, it runs the program once with
no slot. A NOP that checks has no effect but to be finished; an unlisted OP faults. A fault latches index and code, counts,
interrupts and ends the program with status 2. Where a command has nothing to act on, it changes nothing but DT. -/
def Obligations.SlotSequencerRunsItsProgram : Prop :=
  (∀ (s : State) (t : Nat) (m : Fin 32) (tj droop : BitVec 8), let b := s.advance t
    ((s.heldMx.any (fun e => e.1 == m.val) || !b.mxOn m || !s.on MXC.BOUND m || s.rg MXC.PROG_LEN m == 0 || !s.groupOn (s.rg MXC.GROUP m)) =
      true ∨ b.mxSlotDue m = none) → ∃ u, exec (.mxSlotStart t m tj droop) s = .next u ∧ u.mx = s.mx ∧ u.net = s.net ∧ u.sram = s.sram) ∧
  (∀ (s : State) (t : Nat) (m : Fin 32), ((s.mxc m).run = none ∨ (∃ r, (s.mxc m).run = some r ∧ r.queue = []) → exec (.mxDispatch t m) s = .next (s.advance t)) ∧
    ((s.mxc m).run.bind MxRun.finished = none → exec (.mxDescriptorDone t m) s = .next (s.advance t)) ∧
    ((s.mxCurrent m 0 fun a => s.dOp a == 9) = none → exec (.mxNop t m) s = .next (s.advance t)) ∧
    ((s.mxCurrent m 0 fun a => !(decide (1 ≤ s.dOp a ∧ s.dOp a ≤ 9))) = none →
      exec (.unlistedDescriptorOp t m) s = .next (s.advance t))) ∧
  (∀ (s : State) (t n f : Nat) (m : Fin 32) (tj droop : BitVec 8), (s.advance t).mxOn m = true → s.on MXC.BOUND m = true →
    s.rg MXC.PROG_LEN m ≠ 0 → s.groupOn (s.rg MXC.GROUP m) = true → (s.advance t).mxSlotDue m = some (n, f) → (s.mxc m).run = none →
    s.heldMx.any (fun e => e.1 == m.val) = false →
    ∃ u r, exec (.mxSlotStart t m tj droop) s = .next u ∧ (u.mxc m).run = some r ∧ r.slot = some n ∧ r.f = f ∧ r.done = 0 ∧
      r.queue = List.range (min 64 (s.rg MXC.PROG_LEN m)) ∧ r.comp = none ∧ r.gath = none ∧ r.dma = none ∧ (u.mxc m).sem = s.semInit m ∧
      (u.mxc m).last = some n ∧ u.on MXC.SLOT_RUNNING m = true ∧ u.rg MXC.SLOT_N m = n % 2 ^ 64 ∧ u.net = s.net ∧ u.sram = s.sram) ∧
  (∀ (s : State) (t i : Nat) (m : Fin 32) (r : MxRun) (q : List Nat), (s.mxc m).run = some r → r.queue = i :: q →
    (mxSize < s.rg MXC.PROG_BASE m + 128 * (i + 1) → exec (.mxDispatch t m) s = .next ((s.advance t).mxFault m i 3)) ∧
    (s.rg MXC.PROG_BASE m + 128 * (i + 1) ≤ mxSize →
    let a := s.descAt m i
    let u := unitOf (s.dOp a)
    (r.unit u = none → semsUp (s.mxc m).sem (s.dWait a) = true → ∃ v r', exec (.mxDispatch t m) s = .next v ∧ (v.mxc m).run = some r' ∧
      r'.unit u = some (i, false) ∧ (∀ x, x < 3 → x ≠ u → r'.unit x = r.unit x) ∧ q <+: r'.queue ∧ r'.done = r.done ∧
      (v.mxc m).sem = semsTake (s.mxc m).sem (s.dWait a) ∧ v.regs = s.regs ∧ v.sram = s.sram ∧ v.net = s.net) ∧
    (r.unit u ≠ none ∨ semsUp (s.mxc m).sem (s.dWait a) = false → exec (.mxDispatch t m) s = .next (s.advance t)))) ∧
  (∀ (s : State) (t i x : Nat) (m : Fin 32) (r : MxRun), (s.mxc m).run = some r → r.finished = some (i, x) →
    let a := s.descAt m i
    let f : Flit := if s.dsc a 0x18 1 = 1 then ⟨0xB, 1, m.val / 2, 2, mxSrc m, [releaseWord (some (s.dsc a 0x19 1)) 0 false 0]⟩
      else ⟨0xB, 1, m.val / 2, 1, mxSrc m, [releaseWord none (s.dsc a 0x19 1) ((s.dsc a 0x1B 1).testBit 0) (s.dsc a 0x1A 1)]⟩
    let marks := if s.dOp a = 3 ∧ s.dRelease a = true then [f] else []
    let mask := s.dsc a 0x30 2
    let dstMx := bitsAt (s.dsc a 0x18 8) 21 5
    (∃ u, exec (.mxDescriptorDone t m) s = .next u ∧ (s.dIrq a = true → (u.rg (Hdr.IRQ_RAW .mxc) m).testBit 8 = true) ∧
      (s.dOp a = 7 → spaceOf (s.dsc a 0x18 8) = 1 → dstMx ≠ m.val → (u.mxc dstMx).sem =
        if mask = 0 then (s.mxc dstMx).sem else
          (List.range 16).map fun j => min 65535 ((s.mxc dstMx).sem.getD j 0 + if mask.testBit j then 1 else 0))) ∧
    (r.done + 1 ≠ s.rg MXC.PROG_LEN m → ∃ u r', exec (.mxDescriptorDone t m) s = .next u ∧ (u.mxc m).run = some r' ∧ r'.done = r.done + 1 ∧
      r'.unit x = none ∧ r'.queue = r.queue ∧ u.rg MXC.SEQ_LAST m = s.dsc a 8 4 % 2 ^ 32 ∧ u.net = s.net ++ marks ∧ u.sram = s.sram ∧
      ((s.dOp a ≠ 7 ∨ mask = 0) →
        (u.mxc m).sem = (List.range 16).map fun j => min 65535 ((s.mxc m).sem.getD j 0 + if (s.dSignal a).testBit j then 1 else 0))) ∧
    (∀ n, r.done + 1 = s.rg MXC.PROG_LEN m → r.slot = some n → ∃ u, exec (.mxDescriptorDone t m) s = .next u ∧ (u.mxc m).run = none ∧
      u.rg MXC.SLOTS_RUN m = (s.rg MXC.SLOTS_RUN m + 1) % 2 ^ 32 ∧ u.rg MXC.LAST_STATUS m = 0 ∧ u.on MXC.SLOT_RUNNING m = false ∧
      u.net = s.net ++ marks ++ [⟨0xB, 2, 0, 0, mxSrc m, [2 <<< 60 ||| (n % 2 ^ 46) <<< 2 ||| 0]⟩])) ∧
  (∀ (s : State) (t : Nat) (m : Fin 32),
    ((s.advance t).mxOverdue m = true → ∀ r, (s.mxc m).run = some r → ∃ u, exec (.mxSlotAbort t m) s = .next u ∧
      (u.mxc m).run = none ∧ u.rg MXC.SLOT_OVERRUNS m = (s.rg MXC.SLOT_OVERRUNS m + 1) % 2 ^ 32 ∧ u.rg MXC.LAST_STATUS m = 1 ∧
      (u.rg (Hdr.IRQ_RAW .mxc) m).testBit 9 = true ∧ (r.slot = none → u.net = s.net) ∧
      ∀ n, r.slot = some n → u.net = s.net ++ [⟨0xB, 2, 0, 0, mxSrc m, [2 <<< 60 ||| (n % 2 ^ 46) <<< 2 ||| 1]⟩]) ∧
    ((s.advance t).mxOverdue m = false → exec (.mxSlotAbort t m) s = .next (s.advance t))) ∧
  (∀ (s : State) (t : Nat) (c : Req) (m : Fin 32) (v : Word), Reaches s t c ⟨.mxc, m⟩ →
    (MXC.START.of v = 0 → exec (.mxStart t c m v) s = .next (s.advance t)) ∧ (MXC.START.of v = 1 →
    ((s.on MXC.BOUND m || s.on MXC.SLOT_RUNNING m) = true → exec (.mxStart t c m v) s = .next ((s.advance t).irqSet ⟨.mxc, m⟩ 4)) ∧
    ((s.on MXC.BOUND m || s.on MXC.SLOT_RUNNING m) = false → (s.advance t).mxOn m = false ∨ s.rg MXC.PROG_LEN m = 0 →
      exec (.mxStart t c m v) s = .next (s.advance t)) ∧
    ((s.on MXC.BOUND m || s.on MXC.SLOT_RUNNING m) = false → (s.advance t).mxOn m = true → s.rg MXC.PROG_LEN m ≠ 0 →
      ∃ u r, exec (.mxStart t c m v) s = .next u ∧ (u.mxc m).run = some r ∧ r.slot = none ∧ r.f = (s.advance t).dt ∧
        r.queue = List.range (min 64 (s.rg MXC.PROG_LEN m)) ∧ (u.mxc m).sem = s.semInit m ∧ u.on MXC.SLOT_RUNNING m = true))) ∧
  (∀ (s : State) (t i : Nat) (m : Fin 32),
    ((s.mxCurrent m 0 fun a => s.dOp a == 9) = some i →
      (s.dCheck (s.descAt m i) 0 [] = .ok () → exec (.mxNop t m) s = .next ((s.advance t).mxVisible m 0 i)) ∧
      ∀ code, s.dCheck (s.descAt m i) 0 [] = .error code → exec (.mxNop t m) s = .next ((s.advance t).mxFault m i code)) ∧
    ((s.mxCurrent m 0 fun a => !(decide (1 ≤ s.dOp a ∧ s.dOp a ≤ 9))) = some i →
      exec (.unlistedDescriptorOp t m) s = .next ((s.advance t).mxFault m i 1))) ∧
  ∀ (s : State) (m i code : Nat) (r : MxRun), (s.mxc m).run = some r → code < 8 →
    let u := s.mxFault m i code
    u.rg MXC.CF_INDEX m = i % 2 ^ 16 ∧ u.rg MXC.CF_CODE m = code ∧ u.on MXC.CF_VALID m = true ∧
      u.rg MXC.CMD_FAULTS m = (s.rg MXC.CMD_FAULTS m + 1) % 2 ^ 32 ∧ (u.rg (Hdr.IRQ_RAW .mxc) m).testBit 10 = true ∧
      (u.mxc m).run = none ∧ u.rg MXC.LAST_STATUS m = 2 ∧ u.on MXC.SLOT_RUNNING m = false

/-- For GEMM, CONV, ATTN, ELTWISE and REDUCE: a dispatched descriptor whose checks pass has exactly its computed effect and is
marked finished in its unit; one that fails a check ends the program with that fault code and computes nothing. A GEMM descriptor
that passes leaves in every output element, converted to the output type, the scaled and activated reduction of the A and B rows
that it had before, for rows that do not overlap; and adds rows times columns times K to MACS; ELTWISE likewise leaves f(x, y) in
every element. The reduction order covers every index of 0 to K - 1 exactly once: an INT32 reduction that never clamps is the exact
sum of products. -/
def Obligations.MatrixDescriptorsComputeTheirElements : Prop :=
  (∀ (s : State) (t i : Nat) (m : Fin 32),
    let b := s.advance t
    let a := b.descAt m i
    let tau := (b.mxc m).tauEff (b.dsc a 0x3C 4) (b.dsc a 0x40 4)
    ∀ x ∈ ([(Instr.gemm, 1, b.gemm m a), (Instr.conv, 2, b.conv m a), (Instr.attn, 4, b.attn m a tau), (Instr.eltwise, 5, b.eltwise m a),
        (Instr.reduce, 6, b.reduce m a)] : List ((Nat → Fin 32 → Instr) × Nat × DRes)),
      (b.mxCurrent m 0 fun a => b.dOp a == x.2.1) = some i →
        (∀ v, x.2.2 = .ok v → exec (x.1 t m) s = .next (v.mxVisible m 0 i)) ∧
        ∀ c, x.2.2 = .error c → exec (x.1 t m) s = .next (b.mxFault m i c)) ∧
  (∀ (s v : State) (d : Nat) (m : Fin 32), s.gemm m d = .ok v → s.rg MXC.MACS m < 2 ^ 64 →
    v.rg MXC.MACS m = (s.rg MXC.MACS m + s.dsc d 0x28 2 * s.dsc d 0x2A 2 * s.dsc d 0x2C 2) % 2 ^ 64) ∧
  (∀ (s v : State) (d i j : Nat) (m : Fin 32), s.gemm m d = .ok v → i < s.dsc d 0x28 2 → j < s.dsc d 0x2A 2 →
    tyBytes (s.dTO d) (s.dsc d 0x2A 2) ≤ s.dsc d 0x38 4 →
    let f := fun o => s.dsc d o 4
    let kk := s.dsc d 0x2C 2
    let base := mxBase m
    let sc := fun o r => if o = absent then none else some fun b => s.sram.rdLE (base + o + 4 * (r * (kk / 32) + b)) 4
    let row := base + f 0x18 + i * f 0x38
    let r : Red := ⟨kk, s.sram.el (s.dTA d) (base + f 0x10 + i * f 0x30), s.sram.el (s.dTB d) (base + f 0x14 + j * f 0x34),
      sc (f 0x20) i, sc (f 0x24) j⟩
    let c := if s.dAccum d then some (tyVal (s.dTO d) (s.sram.el (s.dTO d) row j)) else none
    let bias := if f 0x1C = absent then none else some (s.sram.rdLE (base + f 0x1C + 4 * j) 4)
    v.sram.el (s.dTO d) row j = (tyConv (s.dTO d) (s.redOut d r c bias).1).1 % 2 ^ tyBits (s.dTO d)) ∧
  (∀ (s v : State) (d e : Nat) (m : Fin 32), s.eltwise m d = .ok v → e < s.dsc d 0x1C 4 →
    let base := mxBase m
    let row := s.dsc d 0x22 2
    let bc := s.dsc d 0x21 1
    let x := s.vecIn (s.dTA d) (base + s.dsc d 0x10 4) e
    let y := if bc = 2 then s.dsc d 0x24 4 else s.vecIn (s.dTB d) (base + s.dsc d 0x14 4) (if bc = 1 then e % row else e)
    let fn := s.dsc d 0x20 1
    let z := if fn = 0 then f32add x y else if fn = 1 then f32sub x y else if fn = 2 then f32mul x y else if fn = 3 then f32max x y
      else if fn = 4 then f32min x y else if fn = 5 then x else if fn = 6 then f32rsqrt x else f32exp false x
    v.sram.el (s.dTO d) (base + s.dsc d 0x18 4) e = (tyConv (s.dTO d) (s.dFinish d z)).1 % 2 ^ tyBits (s.dTO d)) ∧
  ∀ (k : Nat) (a b : Nat → Int),
    let part := fun e => ((engRange k e).map fun i => a i * b i).sum
    let fits := fun x : Int => -(2 ^ 31 - 1) ≤ x ∧ x ≤ 2 ^ 31 - 1
    fits (part 0 + part 1) → fits (part 2 + part 3) → fits (part 0 + part 1 + (part 2 + part 3)) →
    dotI k a b = (((List.range k).map fun i => a i * b i).sum, 0)

/-- GATHER_LEDGER and GATHER_TOKENS of a slot program complete with their effect when their read phase is open, leave the state
while it is not, and fault with their code when a check fails; without a slot they fault as PARAM. TOKEN takes no record while 1,024
wait, and counts the stall. Otherwise a record of a reserved type counts in BAD_REC, one for a disabled buffer in NO_BUF, one
outside the buffer in OUTSIDE, each acknowledged; one that its fence holds back waits at the end of the pending queue; one that its
fence lets through counts TOK_LATE when the read phase is open; one that may be stored and is newest for its cell (at equal times
the lower-numbered core's stands) puts its eight words into the cell and is recorded there, an older one only counts in OLDER.
TOK_FENCE_ADVANCE with its marks in, or at the next slot instant (counted FORCED), moves the fence and leaves waiting none it
covers; earlier it changes nothing. The decay laws: EXP halves at every multiple of PARAM down to 0 at 16, LINEAR falls to 0 at
PARAM, WINDOW is one below PARAM and 0 from it; LINEAR never rises with age. -/
def Obligations.GathersAndTokenRecords : Prop :=
  (∀ (s : State) (t i : Nat) (m : Fin 32) (r : MxRun), (s.mxc m).run = some r →
    let b := s.advance t
    let a := b.descAt m i
    ∀ x ∈ ([(Instr.gatherLedger, false, fun n => b.gatherLedger m a n r.f), (Instr.gatherTokens, true, fun n => b.gatherTokens m a n r.f)] :
        List ((Nat → Fin 32 → Instr) × Bool × (Nat → Except Nat (Option State)))),
      (b.mxCurrent m 1 fun a => (b.dsc a 0x18 1 == 1) == x.2.1) = some i →
        (∀ n v, r.slot = some n → x.2.2 n = .ok (some v) → exec (x.1 t m) s = .next (v.mxVisible m 1 i)) ∧
        (∀ n, r.slot = some n → x.2.2 n = .ok none → exec (x.1 t m) s = .next b) ∧
        (∀ n c, r.slot = some n → x.2.2 n = .error c → exec (x.1 t m) s = .next (b.mxFault m i c)) ∧
        (r.slot = none → exec (x.1 t m) s = .next (b.mxFault m i 4))) ∧
  (∀ (s : State) (t : Nat) (m : Fin 32) (k : Fin 16), let b := s.advance t
    ((b.mxCurrent m 1 fun a => (b.dsc a 0x18 1 == 1) == false) = none → exec (.gatherLedger t m) s = .next b) ∧
    ((b.mxCurrent m 1 fun a => (b.dsc a 0x18 1 == 1) == true) = none → exec (.gatherTokens t m) s = .next b) ∧
    (1024 ≤ (s.tk k).pend.length → exec (.token t k) s =
      .next (if s.net.any (fun f => f.toUnit 6 k 2) = true then b.waitBegin TOK.PEND_STALL k else b)) ∧
    ((s.tk k).pend.length < 1024 → b.takeUnit (fun f => f.toUnit 6 k 2) = none → exec (.token t k) s = .next b)) ∧
  (∀ (s b : State) (t : Nat) (k : Fin 16) (f : Flit), (s.tk k).pend.length < 1024 →
    (s.advance t).takeUnit (fun f => f.toUnit 6 k 2) = some (f, b) →
    let w0 := f.words.getD 0 0
    let n := tokBuf w0
    let time := rebuild b.dt (bitsAt w0 0 35)
    let ack := (b.inc TOK.RECORDS_IN k).send ⟨0xB, 0, srcCore f.aux / 256, srcCore f.aux % 256, srcField 1 k 2, [3 * 2 ^ 60 + 1]⟩
    (6 ≤ bitsAt w0 40 3 → exec (.token t k) s = .next (ack.inc TOK.BAD_REC k)) ∧
    (bitsAt w0 40 3 < 6 → b.on TOK.BUF_EN k n = false → exec (.token t k) s = .next (ack.inc TOK.NO_BUF k)) ∧
    (bitsAt w0 40 3 < 6 → b.on TOK.BUF_EN k n = true → b.tokCell k n (f.words.getD 1 0 % 2 ^ 32) = none →
      exec (.token t k) s = .next (ack.inc TOK.OUTSIDE k)) ∧
    ∀ q, bitsAt w0 40 3 < 6 → b.on TOK.BUF_EN k n = true → b.tokCell k n (f.words.getD 1 0 % 2 ^ 32) = some q →
      (b.tokWaits k n time = true → ∃ u, exec (.token t k) s = .next u ∧
        (u.tk k).pend = (b.tk k).pend ++ [⟨n, q, time, srcCore f.aux, f.words⟩] ∧ (u.tk k).cells = (b.tk k).cells ∧ u.sram = b.sram) ∧
      (b.tokFence k n = none ∨ b.on TOK.FENCED_EN k n = false →
        exec (.token t k) s = .next (ack.tokStore k ⟨n, q, time, srcCore f.aux, f.words⟩)) ∧
      ∀ g, b.tokFence k n = some g → b.on TOK.FENCED_EN k n = true → time ≤ g.f →
        exec (.token t k) s = .next ((if g.opened = true then (ack.inc TOK.TOK_LATE k).irqSet ⟨.tok, k⟩ 8 else ack).tokStore k
          ⟨n, q, time, srcCore f.aux, f.words⟩)) ∧
  (∀ (s : State) (k : Nat) (p : TokPend), p.cell < 4096 → (∀ i, i < 8 → p.words.getD i 0 < 2 ^ 64) →
    let old := Tab.get none (s.tk k).cells (p.buf * 4096 + p.cell)
    let newest := ∀ t c, old = some (t, c) → t < p.t ∨ (t = p.t ∧ p.core ≤ c)
    let u := s.tokStore k p
    (¬ newest → u = s.inc TOK.OLDER k) ∧
    (newest → Tab.get none (u.tk k).cells (p.buf * 4096 + p.cell) = some (p.t, p.core) ∧
      (∀ i, i < 8 → Mem.rdLE u.sram (s.tokAddr k p.buf p.cell + 8 * i) 8 = p.words.getD i 0) ∧
      ∀ y, y < s.tokAddr k p.buf p.cell ∨ s.tokAddr k p.buf p.cell + 64 ≤ y → Mem.rd u.sram y = Mem.rd s.sram y)) ∧
  (∀ (s : State) (t n' f' : Nat) (k : Fin 16) (b : Fin 32) (f : Fence), s.tokFence k b = some f →
    (s.advance t).slotAfter (s.rg TOK.GROUP k b) f.n = some (n', f') →
    s.rg TOK.FENCE_READERS k b ≤ f.marks ∨ f' ≤ (s.advance t).dt →
    ∃ u, exec (.tokFenceAdvance t k b) s = .next u ∧ u.tokFence k b = some ⟨n', f', false, false, 0⟩ ∧
      (u.tk k).pend = (s.tk k).pend.filter (fun x => !(x.buf == b.val && decide (x.t ≤ f'))) ∧
      (f.marks < s.rg TOK.FENCE_READERS k b → u.rg TOK.FORCED k = (s.rg TOK.FORCED k + 1) % 2 ^ 32)) ∧
  (∀ (s : State) (t : Nat) (k : Fin 16) (b : Fin 32),
    (∀ f n' f', s.tokFence k b = some f → (s.advance t).slotAfter (s.rg TOK.GROUP k b) f.n = some (n', f') →
      f.marks < s.rg TOK.FENCE_READERS k b ∧ (s.advance t).dt < f') → exec (.tokFenceAdvance t k b) s = .next (s.advance t)) ∧
  ∀ (p : Nat), 1 ≤ p → (∀ q, decay 0 p (q * p) = 32768 / 2 ^ q) ∧ (∀ a, 16 * p ≤ a → decay 0 p a = 0) ∧
    decay 1 p 0 = 32768 ∧ (∀ a, p ≤ a → decay 1 p a = 0) ∧ (∀ a b, a ≤ b → decay 1 p b ≤ decay 1 p a) ∧
    (∀ a, decay 2 p a = if a < p then 32768 else 0)

/-- A dispatched DMA descriptor between addresses of the own SRAM copies its rows in pieces of at most 64 bytes in order, counts
them and is finished at once; with no rows or bytes it is finished; a failed check or a bad range faults. One row of up to 64 bytes
from elsewhere sends one READ, to elsewhere one WRITE, with a tag that it remembers, where the links have a buffer free; else
nothing leaves. READ_FLIT of an SRAM answers with its bytes, of DDR4 queues the request at its channel; WRITE_FLIT stores its bytes
or queues them. DDR_REQUEST_SERVE serves the oldest request of the lowest waiting level: a read sends its bytes, a write stores
them; level-2 bytes count and use up L2_CAP. READRSP stores the bytes asked for into the own SRAM or sends them on. A landed write
ends its request and counts. With no DMA job waiting, a freed link buffer moves nothing more. RESULT sends its bytes as WRITE units
with group, slot, kind and sensor in their tag. BAD_FLIT of type 14 or 15 counts and interrupts. A UCIe CRC retry or mesh parity
resend that succeeds is a transient fault of its page; one that fails is a lasting fault that fences the die, whose link goes down,
or the cluster. With nothing to act on, a command changes nothing but DT. -/
def Obligations.DmaResultsAndNetworkTransfers : Prop :=
  (∀ (s : State) (t : Nat) (m : Fin 32), let b := s.advance t
    ((s.mxCurrent m 2 fun a => s.dOp a == 7) = none ∨ (s.mxc m).job ≠ none → exec (.dma t m) s = .next b) ∧
    ((s.mxCurrent m 2 fun a => s.dOp a == 8) = none → exec (.result t m) s = .next b) ∧
    (b.takeUnit (fun f => f.ty == 9) = none → exec (.readFlit t) s = .next b) ∧
    (b.takeUnit (fun f => f.ty == 8 && !f.isResult) = none → exec (.writeFlit t) s = .next b) ∧
    (b.takeFlit (fun f => f.ty == 0xA && f.dk == 1) = none → exec (.readrsp t) s = .next b) ∧
    (∀ c : Fin 6, Tab.get [] s.ddrq c = [] → exec (.ddrRequestServe t c) s = .next b) ∧
    ((∀ e ∈ s.mx, e.2.job = none) → s.mxGo = s) ∧
    ∀ (tag : Nat) (r : DmaReq), (s.mxc m).reqs.find? (fun r => r.tag == tag) = some r → (s.mxc m).job = none →
      s.dmaLand m tag = (s.upMx m fun x => { x with reqs := x.reqs.filter fun r => r.tag != tag }).inc MXC.DMA_BYTES m r.len) ∧
  (∀ (s : State) (t i : Nat) (m : Fin 32), (s.mxCurrent m 2 fun a => s.dOp a == 7) = some i → (s.mxc m).job = none → (s.mxc m).reqs = [] →
    let a := s.descAt m i
    let src := s.dsc a 0x10 8
    let dst := s.dsc a 0x18 8
    let n := s.dsc a 0x20 4
    let rows := s.dsc a 0x24 4
    let ss := s.dsc a 0x28 4
    let ds := s.dsc a 0x2C 4
    let per := (n + 63) / 64
    let piece := fun (mem : Mem) (j : Nat) => mem.wrBytes (mxBase m + dst + j / per * ds + 64 * (j % per))
      (mem.rdBytes (mxBase m + src + j / per * ss + 64 * (j % per)) (min 64 (n - 64 * (j % per))))
    (∀ c, s.dCheck a 0 [(0x10, 0x32)] = .error c → exec (.dma t m) s = .next ((s.advance t).mxFault m i c)) ∧
    (s.dCheck a 0 [(0x10, 0x32)] = .ok () →
      (rows = 0 ∨ n = 0 → ∃ u r, exec (.dma t m) s = .next u ∧ u.sram = s.sram ∧ u.net = s.net ∧ (u.mxc m).run = some r ∧ r.dma = some (i, true)) ∧
      (rows ≠ 0 → n ≠ 0 →
        (∀ c, s.dmaCheck (m / 2) src rows ss n = .error c ∨
            (s.dmaCheck (m / 2) src rows ss n = .ok () ∧ s.dmaCheck (m / 2) dst rows ds n = .error c) →
          exec (.dma t m) s = .next ((s.advance t).mxFault m i c)) ∧
        (s.dmaCheck (m / 2) src rows ss n = .ok () → s.dmaCheck (m / 2) dst rows ds n = .ok () →
          (spaceOf src = 0 → spaceOf dst = 0 → ∃ u r, exec (.dma t m) s = .next u ∧ u.sram = (List.range (rows * per)).foldl piece s.sram ∧
            u.rg MXC.DMA_BYTES m = (s.rg MXC.DMA_BYTES m + rows * n) % 2 ^ 64 ∧ u.net = s.net ∧
            (u.mxc m).run = some r ∧ r.dma = some (i, true)) ∧
          (rows = 1 → n ≤ 64 → spaceOf src ≠ 0 ∨ spaceOf dst ≠ 0 →
            let f := if spaceOf src ≠ 0 then reqFlit 9 m src (reqSide 0 n) []
              else reqFlit 8 m dst (reqSide 0 n) (wideWords (s.sram.rdBytes (mxBase m + src) n))
            let room := s.linkRoom (if spaceOf src ≠ 0 then reqFlit 9 m src 0 [] else reqFlit 8 m dst 0 [])
            (room = true → ∃ u, exec (.dma t m) s = .next u ∧ u.net = s.net ++ [f] ∧
              (u.mxc m).reqs = [⟨0, dst, n, decide (spaceOf src = 0)⟩] ∧ u.sram = s.sram) ∧
            (room = false → ∃ u, exec (.dma t m) s = .next u ∧ u.net = s.net ∧ (u.mxc m).reqs = [] ∧ u.sram = s.sram)))))) ∧
  (∀ (s b : State) (t : Nat) (f : Flit), (s.advance t).takeUnit (fun f => f.ty == 9) = some (f, b) →
    let a := f.words.getD 0 0
    let m := srcMx f.src
    (f.dk ≠ 2 → exec (.readFlit t) s = .next (b.send ⟨0xA, 1, m / 2, 3 + m % 2, srcField 1 f.dcl f.dep, f.reqTag ::
      wideWords (Mem.rdBytes b.sram (mxBase (2 * f.dcl + (f.dep - 3)) + a % 2 ^ 21) f.reqLen)⟩).mxGo) ∧
    ∀ c, f.dk = 2 → b.channelOf (a % 2 ^ 40) = some c → exec (.readFlit t) s = .next ({ b with
      ddrq := Tab.put [] b.ddrq c (Tab.get [] b.ddrq c ++ [⟨2, a % 2 ^ 40, none, f.reqLen, m, f.reqTag⟩]) } : State).mxGo) ∧
  (∀ (s b : State) (t : Nat) (f : Flit), (s.advance t).takeUnit (fun f => f.ty == 8 && !f.isResult) = some (f, b) →
    let a := f.words.getD 0 0
    let data := wideBytes f.reqLen (f.words.drop 1)
    (f.dk ≠ 2 → exec (.writeFlit t) s = .next (({ b with
      sram := Mem.wrBytes b.sram (mxBase (2 * f.dcl + (f.dep - 3)) + a % 2 ^ 21) data } : State).dmaLand (srcMx f.src) f.reqTag).mxGo) ∧
    ∀ c, f.dk = 2 → b.channelOf (a % 2 ^ 40) = some c → exec (.writeFlit t) s = .next ({ b with
      ddrq := Tab.put [] b.ddrq c (Tab.get [] b.ddrq c ++ [⟨2, a % 2 ^ 40, some data, data.length, srcMx f.src, f.reqTag⟩]) } : State).mxGo) ∧
  (∀ (s : State) (t l : Nat) (c : Fin 6) (r : DdrReq) (rest : List DdrReq), (s.advance t).ddrLevel c = some l →
    takeFirst (fun r : DdrReq => r.level == l) (Tab.get [] s.ddrq c) = some (r, rest) →
    ∃ u, exec (.ddrRequestServe t c) s = .next u ∧ Tab.get [] u.ddrq c = rest ∧
      (r.data = none → u.net = s.net ++ [⟨0xA, 1, r.mx / 2, 3 + r.mx % 2, srcField 2 0 1, r.tag :: wideWords (Mem.rdBytes s.ddr4 r.addr r.len)⟩] ∧
        u.ddr4 = s.ddr4) ∧
      (∀ d, r.data = some d → u.ddr4 = Mem.wrBytes s.ddr4 r.addr d) ∧
      (l = 2 → u.rg DDR.BYTES_L2 c = (s.rg DDR.BYTES_L2 c + r.len) % 2 ^ DDR.BYTES_L2.width ∧
        Tab.get 0 u.ddrNext c = max (s.advance t).dt (Tab.get 0 s.ddrNext c) + r.len * 1000 / s.rg DDR.L2_CAP c)) ∧
  (∀ (s b : State) (t : Nat) (f : Flit) (r : DmaReq), (s.advance t).takeFlit (fun f => f.ty == 0xA && f.dk == 1) = some (f, b) →
    let m := 2 * f.dcl + (f.dep - 3)
    let tag := f.words.getD 0 0
    let data := wideBytes r.len (f.words.drop 1)
    ((s.mxc m).reqs.find? fun r => r.tag == tag && !r.wr) = some r → (s.mxc m).job = none →
    (spaceOf r.dst = 0 → ∃ u, exec (.readrsp t) s = .next u ∧ u.sram = Mem.wrBytes s.sram (mxBase m + r.dst % 2 ^ 21) data ∧
      (u.mxc m).reqs = (s.mxc m).reqs.filter (fun x => x.tag != tag) ∧
      u.rg MXC.DMA_BYTES m = (s.rg MXC.DMA_BYTES m + data.length) % 2 ^ 64 ∧ u.net = b.net) ∧
    (spaceOf r.dst ≠ 0 → ∃ u, exec (.readrsp t) s = .next u ∧ u.sram = s.sram ∧
      (u.mxc m).reqs = (s.mxc m).reqs.filter (fun x => x.tag != tag) ++ [⟨tag, r.dst, data.length, true⟩] ∧
      u.net = b.net ++ [reqFlit 8 m r.dst (reqSide tag data.length) (wideWords data)])) ∧
  (∀ (s : State) (t i : Nat) (m : Fin 32), (s.mxCurrent m 2 fun a => s.dOp a == 8) = some i →
    let a := s.descAt m i
    let so := s.dsc a 0x10 4
    let len := s.dsc a 0x14 4
    let sensor := s.dsc a 0x19 1
    let f := resultFlit m so (s.rg MXC.GROUP m) (s.rg MXC.SLOT_N m) (s.dsc a 0x18 1) sensor (Mem.rdBytes s.sram (mxBase m + so) len)
    (∀ c, s.dCheck a 0 [(0x10, 0x1A)] = .error c → exec (.result t m) s = .next ((s.advance t).mxFault m i c)) ∧
    (s.dCheck a 0 [(0x10, 0x1A)] = .ok () → s.dAcc a = false →
      (len % 64 ≠ 0 ∨ (35 < sensor ∧ sensor ≠ 0xFF) → exec (.result t m) s = .next ((s.advance t).mxFault m i 4)) ∧
      (len % 64 = 0 → (sensor ≤ 35 ∨ sensor = 0xFF) →
        (len = 0 → exec (.result t m) s = .next ((s.advance t).mxVisible m 2 i)) ∧
        (0 < len → mxSize < so + len → exec (.result t m) s = .next ((s.advance t).mxFault m i 3)) ∧
        (0 < len → so + len ≤ mxSize → exec (.result t m) s = .next (((s.advance t).send f).mxVisible m 2 i))))) ∧
  (∀ (s : State) (t : Nat) (k ty : Fin 16),
    (14 ≤ ty.val → exec (.badFlit t k ty) s = .next (((s.advance t).inc CLU.BAD_FLIT k).irqSet ⟨.clu, k⟩ 10)) ∧
    (ty.val < 14 → exec (.badFlit t k ty) s = .next (s.advance t))) ∧
  ∀ (s : State) (t : Nat) (x row : Fin 16),
    let b := s.advance t
    let c := b.inc UCIE.CRC_ERR x
    exec (.ucieCrcRetry t x true) s = .next (c.logFault ⟨.ucie, x⟩ false 5 0) ∧
    exec (.meshParityResend t x row true) s = .next (b.logFault ⟨.mesh, x⟩ false 5 row) ∧
    exec (.meshParityResend t x row false) s = .next ((b.logFault ⟨.mesh, x⟩ true 5 row).fenceUnit (.cluster x) 5) ∧
    ∃ u, exec (.ucieCrcRetry t x false) s = .next u ∧ u = ((c.logFault ⟨.ucie, x⟩ true 5 0).fenceUnit (.die (x.val / 4)) 5).linkFence x ∧
      u.on UCIE.LINK_UP x = false ∧ (2 ≤ x.val % 4 → u.on UCIE.LINK_UP (ringPeer x) = false) ∧
      (FUnit.die (x.val / 4) ∉ s.fenced → FUnit.die (x.val / 4) ∈ u.fenced)

/-- For writes that reach the RFB page (CH_CFG: the RFBS page). SYNC_ARM of 0, and a word with neither COMMIT nor SWAP, do nothing;
COMMIT and SWAP are bits of one register. SYNC_ARM of 1 makes a synchronising reset of SYNC_MASK wait whose tick is the full tick
nearest the last processed one with the low 32 bits of SYNC_TICK, but not before the next tick to process. COMMIT makes a commit of
the selected profile wait. SWAP with a generation newer than the profile's (0 < (a - b) mod 2^8 < 2^7) and a slot not in use waits
with its slot, generation and XF_LEN; any other SWAP only counts in SWAPS_REFUSED and sets IRQ bit 9. COEF_DATA to a slot in no use
stores the tap as a signed 18-bit value and advances COEF_TAP modulo 64; to a referenced slot it only sets ERR_PARAM. CH_CFG stores
its four fields, and a change of CH_EN makes a switch of the channel wait. A disabling RFB CTRL write clears ENABLE. -/
def Obligations.RateFilterBankCommands : Prop :=
  ∀ (s : State) (t : Nat) (c : Req) (v : Word),
    (Reaches s t c ⟨.rfb, 0⟩ → let b := s.advance t
      let p := s.rg RFB.PROF_INDEX 0
      (RFB.SYNC_ARM.of v = 1 → ∃ u, exec (.syncArm t c v) s = .next u ∧
        ∃ τ, u.rfb.sync = some (s.rg RFB.SYNC_MASK 0, max τ s.rfb.proc) ∧
          (s.rg RFB.SYNC_TICK 0 < 2 ^ 32 → τ % 2 ^ 32 = s.rg RFB.SYNC_TICK 0 ∧
            (((τ : Int) - (s.rfb.proc - 1 : Nat)).natAbs ≤ 2 ^ 31 ∨ s.rfb.proc ≤ 2 ^ 31))) ∧
      (RFB.SYNC_ARM.of v = 0 → exec (.syncArm t c v) s = .next b) ∧
      (RFB.COMMIT.of v = 0 → RFB.SWAP.of v = 0 → exec (.commit t c v) s = .next b) ∧
      exec (.swap t c v) s = exec (.commit t c v) s ∧
      (RFB.COMMIT.of v = 1 → RFB.SWAP.of v = 0 →
        exec (.commit t c v) s = .next (b.upProf p fun q => { q with commit := true })) ∧
      (RFB.COMMIT.of v = 0 → RFB.SWAP.of v = 1 → newer 8 (s.rg RFB.REQ_GEN 0 p) (s.prof p).gen = true →
        s.rg RFB.REQ_SLOT 0 p ≠ s.bankSlot p (s.prof p).bankB → ∃ u, exec (.swap t c v) s = .next u ∧
          (u.prof p).swap = some (s.rg RFB.REQ_SLOT 0 p, s.rg RFB.REQ_GEN 0 p, s.rg RFB.XF_LEN 0 p)) ∧
      (RFB.COMMIT.of v = 0 → RFB.SWAP.of v = 1 →
        (newer 8 (s.rg RFB.REQ_GEN 0 p) (s.prof p).gen = false ∨ s.rg RFB.REQ_SLOT 0 p = s.bankSlot p (s.prof p).bankB) →
        exec (.swap t c v) s = .next ((b.inc RFB.SWAPS_REFUSED 0).irqSet ⟨.rfb, 0⟩ 9)) ∧
      (s.slotUsed (s.rg RFB.COEF_SLOT 0) = false → ∃ u, exec (.coefDataWrite t c v) s = .next u ∧
        u.coefTap (s.rg RFB.COEF_SLOT 0) (s.rg RFB.COEF_TAP 0) = signed 18 (RFB.COEF_DATA.of v) ∧
        u.rg RFB.COEF_TAP 0 = (s.rg RFB.COEF_TAP 0 + 1) % 64 ∧
        ∀ sl m, 64 * sl + m ≠ 64 * s.rg RFB.COEF_SLOT 0 + s.rg RFB.COEF_TAP 0 → u.coefTap sl m = s.coefTap sl m) ∧
      (s.slotUsed (s.rg RFB.COEF_SLOT 0) = true → exec (.coefDataWrite t c v) s = .next (b.irqSet ⟨.rfb, 0⟩ 4)) ∧
      ((Hdr.ENABLE .rfb).of v = 0 → ∃ u, exec (.rfbDisable t c v) s = .next u ∧ u.on (Hdr.ENABLE .rfb) 0 = false ∧
        ∀ (g : Fld) (j y : Nat), g.key j y ≠ (Hdr.ENABLE .rfb).key 0 → u.rg g j y = s.rg g j y)) ∧
    ∀ (i : Fin 36) (r : Fin 32), Reaches s t c ⟨.rfbs, i⟩ → ∃ u, exec (.chCfgWrite t c i r v) s = .next u ∧
      u.rg (RFBS.CH_EN.nth r) i = RFBS.CH_EN.of v ∧ u.rg (RFBS.PROF.nth r) i = RFBS.PROF.of v ∧
      u.rg (RFBS.DLY.nth r) i = RFBS.DLY.of v ∧ u.rg (RFBS.FREEZE.nth r) i = RFBS.FREEZE.of v ∧
      (s.on (RFBS.CH_EN.nth r) i ≠ (RFBS.CH_EN.of v != 0) → (u.chan (32 * i + r)).pend = true) ∧
      ∀ ch : Nat, ch ≠ 32 * i.val + r.val → u.chan ch = s.chan ch

/-- RFB_PROCESS_TICK with the oldest unprocessed tick closed and 17 ticks past moves on to the next tick; earlier it changes
nothing. A commit of a profile takes effect exactly at a tick where the profile's output period starts: then the staged preset,
shifts, exponent and taps are in use and the anchor is that tick. One integrator tick of a channel adds the count x to the first
accumulator and each new accumulator to the next, modulo 2^52, and adds x to the box sum, other chain state unchanged. -/
def Obligations.FilterTickProcessing : Prop :=
  (∀ (s : State) (t : Nat), s.rfb.proc + 17 ≤ (s.advance t).curTick → s.rfb.proc < s.rfb.closed →
    exec (.rfbProcessTick t) s = .next (s.advance t).rfbTick ∧ (s.advance t).rfbTick.rfb.proc = s.rfb.proc + 1) ∧
  (∀ (s : State) (t : Nat), (s.advance t).curTick < s.rfb.proc + 17 ∨ s.rfb.closed ≤ s.rfb.proc →
    exec (.rfbProcessTick t) s = .next (s.advance t)) ∧
  (∀ (s : State) (u p : Nat), (s.prof p).commit = true →
    ((s.prof p).startsAt u = false → s.applyCommit u p = s) ∧
    ((s.prof p).startsAt u = true → ((s.applyCommit u p).prof p).preset = s.rg RFB.PRESET 0 p ∧
      ((s.applyCommit u p).prof p).s1 = s.rg RFB.S1 0 p ∧ ((s.applyCommit u p).prof p).s2 = s.rg RFB.S2 0 p ∧
      ((s.applyCommit u p).prof p).k = s.rg RFB.K 0 p ∧ ((s.applyCommit u p).prof p).ntaps = s.rg RFB.NTAPS_M1 0 p + 1 ∧
      ((s.applyCommit u p).prof p).anchor = u ∧ ((s.applyCommit u p).prof p).commit = false)) ∧
  ∀ (c : Chan) (x : Nat), c.integrate x =
    { c with i0 := (c.i0 + x) % 2 ^ 52, i1 := (c.i1 + c.i0 + x) % 2 ^ 52, i2 := (c.i2 + c.i1 + c.i0 + x) % 2 ^ 52,
             i3 := (c.i3 + c.i2 + c.i1 + c.i0 + x) % 2 ^ 52, box := c.box + x }

/-- FUSION_SLOT_INSTANT at or after the next slot's instant starts that slot: its number shows in SLOT_N, it heads the started slots
(those still collecting and the last 64 past are kept), and (on the DT timebase) the next instant is one period later; before the
instant nothing changes. A record belongs to the first known slot whose instant is not before its time, and not to the first one at
or before the instant of the slot before it. FEATURE is acknowledged and counted; beyond 11 in 10 ns it counts in FEAT_OVER; for a
stream of exactly one enabled group it enters that group: with no such slot FEAT_EARLY, with its slot past FEAT_LATE, a FLOW record
adds its confidence to the slot's bin of its region, a CORNER joins the slot's corners, another kind counts in FEAT_OTHER. SLOT_DONE
of a started slot before its cutoff records core and status. RESULT_RECEIVE of an unknown kind, or of a list whose bytes, count,
sensor or slot do not stand, counts in BAD_RESULT; a good detection or depth list of a known slot becomes the newest of the stream's
last four, at its source time; USER bytes of an enabled group before the cutoff join their slot, others are discarded. A unit taken
by the fusion complex frees the link buffers it held: ports, the Piste ingress and the DMA jobs go on. With nothing due or arriving
each changes nothing but DT. -/
def Obligations.FusionCollectsInputsPerSlot : Prop :=
  (∀ (s : State) (p : Flit → Bool) (l r : List Flit) (f : Flit), Arrives s p l f r →
    s.takeHub p = some (f, ({ s with net := l ++ r }).portsGo.ingressGo.mxGo)) ∧
  (∀ (s : State) (t : Nat) (g : Fin 4), let b := s.advance t
    ((s.sch g).next = none → exec (.fusionSlotInstant t g) s = .next b) ∧
    (b.takeHub (fun f => f.toHub 7 0) = none → exec (.feature t) s = .next b) ∧
    (b.takeFlit (fun f => f.toHub 0xB 0 && f.words.getD 0 0 >>> 60 == 2) = none → exec (.slotDone t) s = .next b) ∧
    (b.takeHub Flit.isResult = none → exec (.resultReceive t) s = .next b)) ∧
  (∀ (s : State) (t n f : Nat) (g : Fin 4), (s.sch g).next = some (n, f) →
    ((s.advance t).dt < f → exec (.fusionSlotInstant t g) s = .next (s.advance t)) ∧
    (f ≤ (s.advance t).dt → ∃ u, exec (.fusionSlotInstant t g) s = .next u ∧
      (u.sch g).starts = (s.gr g).live (·.1) ((n, f) :: (s.sch g).starts) ∧
      u.rg FG.SLOT_N g = n % 2 ^ 64 ∧ (s.on FG.TIMEBASE g = false →
        (u.sch g).next = some (n + 1, s.rg FG.ANCHOR g + (n + 1) * s.rg FG.PERIOD_NS g)))) ∧
  (∀ (x : Grp) (l : List (Nat × Nat)), x.live (·.1) l =
    l.filter (fun p => !x.past p.1) ++ (l.filter fun p => x.past p.1).take 64) ∧
  (∀ (s : State) (g n t : Nat), s.slotOf g t = some (some n) → ∃ f before after,
    (s.sch g).starts.reverse ++ (s.sch g).next.toList = before ++ (n, f) :: after ∧ t ≤ f ∧ (∀ p ∈ before, p.2 < t) ∧
    (s.gr g).past n = false ∧ (before = [] → (s.sch g).before < t)) ∧
  (∀ (s b : State) (t : Nat) (f : Flit), (s.advance t).takeHub (fun f => f.toHub 7 0) = some (f, b) →
    let w0 := f.words.getD 0 0
    let recent := b.featCap.filter fun d => b.dt < d + 10
    let a := (b.inc FUSE.FEAT_IN 0).send ⟨0xB, 0, srcCore f.aux / 256, srcCore f.aux % 256, srcField 2 0 0, [3 * 2 ^ 60 + 1]⟩
    let q := { a with featCap := recent ++ [b.dt] }
    (11 ≤ recent.length → exec (.feature t) s = .next (a.inc FUSE.FEAT_OVER 0)) ∧
    (recent.length < 11 → (∀ h, h < 4 → (b.groupOn h && (b.setOf h).testBit (wStr w0)) = false) → exec (.feature t) s = .next q) ∧
    ∀ g, recent.length < 11 → g < 4 → (∀ h, h < 4 → (b.groupOn h && (b.setOf h).testBit (wStr w0)) = decide (h = g)) →
      exec (.feature t) s = .next (q.featureTo g w0 (f.words.getD 1 0) (rebuild b.dt (w0 % 2 ^ 35)))) ∧
  (∀ (s : State) (g w0 w1 t : Nat),
    let key := 32 * wStr w0 + s.regionOf (wStr w0) (wX w0) (wY w0)
    let z : Bin := ⟨0, 0, 0, 0, 0⟩
    (s.slotOf g t = none → s.featureTo g w0 w1 t = s.inc FUSE.FEAT_EARLY 0) ∧
    (s.slotOf g t = some none → ∃ u, s.featureTo g w0 w1 t = u ∧ u.rg FUSE.FEAT_LATE 0 = (s.rg FUSE.FEAT_LATE 0 + 1) % 2 ^ 32 ∧
      (u.gr g).late = true ∧ (u.gr g).slots = (s.gr g).slots) ∧
    ∀ n, s.slotOf g t = some (some n) →
      let old := ((s.gr g).slots.find? fun y => y.n == n).getD ⟨n, [], [], [], []⟩
      (w1 % 16 ≠ 1 → w1 % 16 ≠ 2 → s.featureTo g w0 w1 t = s.inc FUSE.FEAT_OTHER 0) ∧
      (w1 % 16 = 1 → ∃ y, ((s.featureTo g w0 w1 t).gr g).slots.find? (fun y => y.n == n) = some y ∧ y.bins = old.bins ∧
        y.corners = old.corners ++ [⟨wStr w0, w0 >>> 35, bitsAt w1 16 16, bitsAt w1 32 16, t⟩]) ∧
      (w1 % 16 = 2 → ∃ y, ((s.featureTo g w0 w1 t).gr g).slots.find? (fun y => y.n == n) = some y ∧ y.corners = old.corners ∧
        (Tab.get z y.bins key).w = (Tab.get z old.bins key).w + bitsAt w1 48 16 ∧
        ∀ j, j ≠ key → Tab.get z y.bins j = Tab.get z old.bins j)) ∧
  (∀ (s b : State) (t : Nat) (f : Flit), (s.advance t).takeFlit (fun f => f.toHub 0xB 0 && f.words.getD 0 0 >>> 60 == 2) = some (f, b) →
    let w := f.words.getD 0 0
    let g := s.rg MXC.GROUP (srcMx f.aux)
    (((s.sch g).starts.find? fun p => p.1 % 2 ^ 46 == bitsAt w 2 46) = none → exec (.slotDone t) s = .next b) ∧
    ∀ n x, ((s.sch g).starts.find? fun p => p.1 % 2 ^ 46 == bitsAt w 2 46) = some (n, x) →
    ((s.gr g).past n = true → exec (.slotDone t) s = .next b) ∧
    ((s.gr g).past n = false → ∃ u y, exec (.slotDone t) s = .next u ∧ (u.gr g).slots.find? (fun y => y.n == n) = some y ∧ u.net = b.net ∧
      y.done = (((s.gr g).slots.find? fun y => y.n == n).getD ⟨n, [], [], [], []⟩).done ++ [(srcMx f.aux, w % 4)])) ∧
  ∀ (s b : State) (t : Nat) (f : Flit), (s.advance t).takeHub Flit.isResult = some (f, b) →
    let g := bitsAt f.aux 14 2
    let n := f.aux >>> 32
    let kind := bitsAt f.aux 16 8
    let i := bitsAt f.aux 24 8
    let data := resultBytes f.words
    let bad := exec (.resultReceive t) s = .next (b.inc FUSE.BAD_RESULT 0)
    let count := leNat (data.take 4)
    let max := if kind = 1 then 256 else 32
    let per := if kind = 1 then 32 else 4
    let sane := 64 ≤ data.length ∧ count ≤ max ∧ 64 + per * count ≤ data.length ∧ ∃ h, h < 4 ∧ (b.setOf h).testBit i = true
    (kind ≠ 1 → kind ≠ 2 → kind ≠ 3 → bad) ∧
    (kind = 1 ∨ kind = 2 → (¬ sane ∨ b.srcInstant g n = none) → bad) ∧
    (∀ h src, kind = 1 ∨ kind = 2 → h < 4 → sane → b.srcInstant g n = some src →
      (∀ k, k < 4 → (b.groupOn k && (b.setOf k).testBit i) = decide (k = h)) →
      ∃ u r, exec (.resultReceive t) s = .next u ∧
        (kind = 1 → Tab.get [] (u.gr h).dets i = (r :: Tab.get [] (b.gr h).dets i).take 4 ∧ r.dets.length = count) ∧
        (kind = 2 → Tab.get [] (u.gr h).depth i = (r :: Tab.get [] (b.gr h).depth i).take 4 ∧ r.depth.length = count) ∧
        r.tm = ((src : Int) + signed 32 (leNat ((data.drop 4).take 4))).toNat) ∧
    (kind = 3 → b.groupOn g = false ∨ (b.gr g).past n = true → exec (.resultReceive t) s = .next b) ∧
    (kind = 3 → b.groupOn g = true → (b.gr g).past n = false → ∃ u y, exec (.resultReceive t) s = .next u ∧
      (u.gr g).slots.find? (fun y => y.n == n) = some y ∧ u.net = b.net ∧
      y.user = (((b.gr g).slots.find? fun y => y.n == n).getD ⟨n, [], [], [], []⟩).user ++ [(srcMx f.src, data)])

/-- FUSION_CUTOFF with a slot due appends exactly one incomplete report for that slot to the group's reports, closes the slot and
all earlier inputs, and sets RUNNING; the report starts with its magic, version 1 and group, carries its own length and slot number,
and is a multiple of 64 bytes; its sample points wait where a fence does not allow them yet. Association takes each track and each
detection at most once. REPORT_COMPLETE marks the first incomplete report complete and counts SLOTS_DONE, once the sample points it
waits for may be read, which it then puts into the report. REPORT_RELEASE of a due report removes it from the buffer and interrupts;
with the host ring as destination, live and with room before its end, the report's bytes with output time and flags filled in are
written at the producer place, which moves on by their number. With nothing due, none of the three changes anything but the time. -/
def Obligations.FusionReportsReachTheHostRing : Prop :=
  (∀ (s : State) (t : Nat) (g : Fin 4), let b := s.advance t
    (b.cutDue g = none → exec (.fusionCutoff t g) s = .next b) ∧
    ∀ n f, b.cutDue g = some (n, f) → ∃ u bytes, exec (.fusionCutoff t g) s = .next u ∧
      (u.gr g).reports = (s.gr g).reports ++ [⟨n, f, false, bytes, b.dt, s.rg FG.DEST g, s.on FG.TIMEBASE g, s.outTarget g n f, (s.gr g).step,
        if (b.smpTable g).all (b.smpReady g n f) = true then [] else b.smpTable g, s.on FG.SAMPLE_RELEASE g⟩] ∧ (u.gr g).cut = some n ∧ (u.gr g).prev = some f ∧
      (u.gr g).slots = (s.gr g).slots.filter (fun z => decide (n < z.n)) ∧ u.on FG.RUNNING g = true ∧
      leAt bytes 0 2 = 0x5846 ∧ leAt bytes 2 1 = 1 ∧ leAt bytes 3 1 = g ∧ leAt bytes 4 4 = bytes.length % 2 ^ 32 ∧ leAt bytes 8 8 = n % 2 ^ 64 ∧
      bytes.length % 64 = 0 ∧ (∀ h : Fin 4, h ≠ g → (u.gr h).reports = (s.gr h).reports)) ∧
  (∀ (l : List Pair), let k := takePairs l [] []
    k.Sublist l ∧ (k.map fun p => p.2.1).Nodup ∧ (k.map fun p => p.2.2).Nodup ∧
      ∀ p ∈ l, p ∈ k ∨ ∃ q ∈ k, q.2.1 = p.2.1 ∨ q.2.2 = p.2.2) ∧
  (∀ (s : State) (t : Nat) (g : Fin 4),
    ((s.gr g).reports.find? (fun r => !r.done) = none → exec (.reportComplete t g) s = .next (s.advance t)) ∧
    ∀ r, (s.gr g).reports.find? (fun r => !r.done) = some r →
      (r.pend = [] → ∃ u, exec (.reportComplete t g) s = .next u ∧
        (u.gr g).reports = (s.gr g).reports.map (fun y => if y.n = r.n ∧ y.done = false then { r with done := true } else y) ∧
        u.rg FG.SLOTS_DONE g = (s.rg FG.SLOTS_DONE g + 1) % 2 ^ 32) ∧
      (r.pend ≠ [] → r.pend.all ((s.advance t).smpReady g r.n r.f) = false → exec (.reportComplete t g) s = .next (s.advance t)) ∧
      (r.pend ≠ [] → r.pend.all ((s.advance t).smpReady g r.n r.f) = true → ∃ u v, exec (.reportComplete t g) s = .next u ∧
        v = ((s.advance t).samples g r.n r.f r.pend r.rel).1 ∧
        (u.gr g).reports = (s.gr g).reports.map (fun y => if y.n = r.n ∧ y.done = false then { r with
          done := true, pend := [], bytes := patch r.bytes (64 * leAt r.bytes 0x3A 2) (v.flatMap (leBytes 2 ·)) } else y) ∧
        u.rg FG.SLOTS_DONE g = (s.rg FG.SLOTS_DONE g + 1) % 2 ^ 32)) ∧
  ∀ (s : State) (t : Nat) (g : Fin 4), let b := s.advance t
    (b.releaseDue g = none → exec (.reportRelease t g) s = .next b) ∧
    ∀ r, b.releaseDue g = some r → ∃ u, exec (.reportRelease t g) s = .next u ∧ (u.gr g).reports = (s.gr g).reports.drop 1 ∧
      (u.rg (Hdr.IRQ_RAW .fg) g).testBit 8 = true ∧
      (let k := 3 + g.val
       let len := (b.outBytes r).length
       let prod := s.rg HQ.RING_PROD 0 k
       let cap := s.ringCap k
       r.dest = 1 → b.ringLive k = true → s.ringFill k + len ≤ cap → prod % cap + len ≤ cap →
         s.out ++ [.hostWrite (s.rg HQ.RING_BASE 0 k + prod % cap) (b.outBytes r)] <+: u.out ∧
           u.rg HQ.RING_PROD 0 k = (prod + len) % 2 ^ 32)

/-- For writes that reach their page. PERIOD_NS of 0 disables an enabled group; on an enabled group, or outside 100 us to 100 ms, it
only sets ERR_PARAM; if the group's bounds do not hold it also sets ENABLE_REFUSED, and clears it if only its track range is bad;
otherwise the period is set and (DT timebase) the next slot is the first instant ANCHOR + n x PERIOD_NS after now. CAL_SWITCH while
one is pending, or for a generation that is not newer, counts as refused; otherwise with no group enabled the banks swap at once and
GEN is the requested one, and with a group still to latch it stays pending. CAL_DATA writes the selected word of the inactive bank
and moves on (not while a switch is pending); a read returns that word and moves on. ZONE_CFG commits the selected zone's members as
last written, and the written group and enable, and no other zone's, unless it enables fewer than two or repeated members. KILL with
its bit set queues the deletion of the track. -/
def Obligations.FusionRegisterWritesCommitOrRefuse : Prop :=
  (∀ (s : State) (t : Nat) (c : Req) (g : Fin 4) (v : Word), Reaches s t c ⟨.fg, g⟩ → let b := s.advance t
    (v = 0 → s.groupOn g = false → exec (.fgEnable t c g v) s = .next b) ∧
    (v = 0 → s.groupOn g = true → ∃ u, exec (.fgEnable t c g v) s = .next u ∧ u.groupOn g = false ∧ (u.sch g).next = none ∧
      (u.sch g).starts = [] ∧ (u.gr g).slots = [] ∧ (u.gr g).reports = (s.gr g).reports) ∧
    (v ≠ 0 → s.groupOn g = true ∨ v.toNat < 100000 ∨ 100000000 < v.toNat → exec (.fgEnable t c g v) s = .next (b.irqSet ⟨.fg, g⟩ 4)) ∧
    (s.groupOn g = false → 100000 ≤ v.toNat → v.toNat ≤ 100000000 →
      (s.fgOk g v.toNat = false → exec (.fgEnable t c g v) s = .next ((b.irqSet ⟨.fg, g⟩ 4).rb FG.ENABLE_REFUSED g true)) ∧
      (s.fgOk g v.toNat = true → s.tracksOk g = false →
        exec (.fgEnable t c g v) s = .next ((b.irqSet ⟨.fg, g⟩ 4).rb FG.ENABLE_REFUSED g false)) ∧
      (s.fgOk g v.toNat = true → s.tracksOk g = true → s.on FG.TIMEBASE g = false → ∃ u n f, exec (.fgEnable t c g v) s = .next u ∧
        u.rg FG.PERIOD_NS g = v.toNat ∧ u.on FG.ENABLE_REFUSED g = false ∧ (u.sch g).next = some (n, f) ∧ (u.sch g).starts = [] ∧
        f = s.rg FG.ANCHOR g + n * v.toNat ∧ b.dt < f ∧ (n = 0 ∨ f ≤ b.dt + v.toNat)))) ∧
  (∀ (s : State) (t : Nat) (c : Req) (v : Word), Reaches s t c ⟨.cal, 0⟩ → let b := s.advance t
    let a := (1 - s.activeBank) * calWords + s.rg CAL.CAL_SENSOR 0 * 2194 + s.rg CAL.CAL_WORD 0
    let next := if s.rg CAL.CAL_WORD 0 + 1 < 2194 then s.rg CAL.CAL_WORD 0 + 1 else 0
    (CAL.CAL_SWITCH.of v = 0 → exec (.calSwitch t c v) s = .next b) ∧
    (CAL.CAL_SWITCH.of v ≠ 0 →
      ((s.on CAL.PENDING 0 || !newer 8 (s.rg CAL.CAL_REQ_GEN 0) (s.rg CAL.GEN 0)) = true →
        exec (.calSwitch t c v) s = .next ((b.inc CAL.SWITCHES_REFUSED 0).irqSet ⟨.cal, 0⟩ 9)) ∧
      ((s.on CAL.PENDING 0 || !newer 8 (s.rg CAL.CAL_REQ_GEN 0) (s.rg CAL.GEN 0)) = false →
        ((∀ g, g < 4 → s.groupOn g = false) → ∃ u, exec (.calSwitch t c v) s = .next u ∧ u.activeBank = (1 - s.activeBank) % 2 ∧
          u.rg CAL.GEN 0 = s.rg CAL.CAL_REQ_GEN 0 % 2 ^ CAL.GEN.width ∧ u.on CAL.PENDING 0 = false ∧
          u.rg CAL.SWITCHES 0 = (s.rg CAL.SWITCHES 0 + 1) % 2 ^ CAL.SWITCHES.width ∧ u.cal = s.cal) ∧
        (∀ g, g < 4 → s.groupOn g = true → (s.gr g).latched = false → exec (.calSwitch t c v) s =
          .next ((b.rb CAL.PENDING 0 true).rs CAL.PEND_GEN 0 (s.rg CAL.CAL_REQ_GEN 0))))) ∧
    (s.on CAL.PENDING 0 = true → exec (.calDataAccess t c true v) s = .next (b.irqSet ⟨.cal, 0⟩ 4)) ∧
    (s.on CAL.PENDING 0 = false →
      exec (.calDataAccess t c true v) s = .next ({ b with cal := Tab.put 0 s.cal a v.toNat }.rs CAL.CAL_WORD 0 next)) ∧
    (c ≠ .obs → b.mayRead c (Page.addr ⟨.cal, 0⟩) = true → s.latch = [] → ∃ u, exec (.calDataAccess t c false v) s = .next u ∧
      u.out = s.out ++ [.readData c [Tab.get 0 s.cal a]] ∧ u.rg CAL.CAL_WORD 0 = next % 2 ^ CAL.CAL_WORD.width ∧ u.cal = s.cal)) ∧
  (∀ (s : State) (t : Nat) (c : Req) (v : Word), Reaches s t c ⟨.fuse, 0⟩ →
    let z := s.rg FUSE.ZONE_INDEX 0
    let ms := (List.range 8).filterMap fun j =>
      let w := bitsAt (s.rg (FUSE.ZONE_MEM.nth (j / 2)) 0 z) (16 * (j % 2)) 16
      if w.testBit 15 then some (bitsAt w 0 6) else none
    let bad := FUSE.ZONE_EN.of v = 1 ∧ (ms.length < 2 ∨ ¬ ms.Nodup)
    (bad → exec (.zoneCfgWrite t c v) s = .next ((s.advance t).irqSet ⟨.fuse, 0⟩ 4)) ∧
    (¬ bad → ∃ u, exec (.zoneCfgWrite t c v) s = .next u ∧ u.rg FUSE.ZONE_EN 0 z = FUSE.ZONE_EN.of v ∧
      u.rg FUSE.ZONE_GROUP 0 z = FUSE.ZONE_GROUP.of v ∧
      (∀ j, j < 4 → u.rg (FUSE.ZONE_MEM.nth j) 0 (zoneIdx z) = s.rg (FUSE.ZONE_MEM.nth j) 0 z % 2 ^ 32) ∧
      ∀ y j, y ≠ z → y < 64 → j < 4 → u.rg (FUSE.ZONE_MEM.nth j) 0 (zoneIdx y) = s.rg (FUSE.ZONE_MEM.nth j) 0 (zoneIdx y))) ∧
  ∀ (s : State) (t : Nat) (c : Req) (v : Word), Reaches s t c ⟨.trk, 0⟩ →
    (TRK.KILL.of v = 1 → exec (.trkKill t c v) s = .next { s.advance t with kills := s.kills ++ [TRK.KILL_INDEX.of v] }) ∧
    (TRK.KILL.of v = 0 → exec (.trkKill t c v) s = .next (s.advance t))

/-- An event word gives back the stream, position, polarity and time it was made of. Enabling with the staging total in bounds
starts a new history (WP 0, no marks, an open gap kept), at once where nothing is staged; above the bounds it only sets ERR_PARAM;
disabling, and the flush after FLUSH_NS without a copy, pad a partial line with PAD words to a full one. JOURNAL_LINE_ISSUE moves
the oldest line to those in flight while fewer than 4,096 are; JOURNAL_LINE_DONE, unless its channel has a request of a higher
level, puts the words of the oldest one at WP's ring place, moves WP on by 64 and makes VALID the marks whose event it wrote.
MARK_CMD sets (if enabled) or clears the mark, or is rejected. Starting a replay from a valid mark, with a target and no clash, runs
it at the mark's position with its shift (a LENGTH of 0 is DONE at once); otherwise it is refused with its reason (a running
channel: BUSY, or MARK where the mark is not valid). Cancelling a running replay ends it CANCELLED. REPLAY_ISSUE, unless it yields,
ends the replay at WP DONE and SHORT; at an event record with pace and credits it sends its flits and moves on. Where nothing is to
be done, only time passes. -/
def Obligations.JournalRecordsMarksAndReplays : Prop :=
  (∀ str x y p t, str < 64 → x < 2048 → y < 2048 → p < 2 → t < 2 ^ 35 →
    let w := evWord str x y p t
    wStr w = str ∧ wX w = x ∧ wY w = y ∧ wP w = p ∧ wT w = t ∧ recKind w = str ∧ w < 2 ^ 64) ∧
  (∀ (s : State) (t : Nat) (c : Req) (i : Fin 36) (v : Word), Reaches s t c ⟨.jstr, i⟩ →
    let total := ((List.range 36).map fun k => if s.on (Hdr.ENABLE .jstr) k then s.rg JSTR.STAGE_LINES k else 0).sum
    (s.on (Hdr.ENABLE .jstr) i = false → (Hdr.ENABLE .jstr).of v = 1 →
      (65536 < total + s.rg JSTR.STAGE_LINES i → exec (.journalEnable t c i v) s = .next ((s.advance t).irqSet ⟨.jstr, i⟩ 4)) ∧
      (total + s.rg JSTR.STAGE_LINES i ≤ 65536 →
        ∃ u, exec (.journalEnable t c i v) s = .next u ∧ u.on (Hdr.ENABLE .jstr) i = true ∧ u.rg JSTR.WP i = 0 ∧
          u.rg JSTR.OVERTAKEN i = 0 ∧ u.jr i = { Jrn.init with gap := (s.jr i).gap } ∧
          ((s.jr i).lines = [] → (s.jr i).flight = [] → u.ddr4 = s.ddr4))) ∧
    ((s.on (Hdr.ENABLE .jstr) i = true ↔ (Hdr.ENABLE .jstr).of v = 1) →
      exec (.journalEnable t c i v) s = .next (s.advance t) ∧ exec (.journalDisable t c i v) s = .next (s.advance t)) ∧
    (s.on (Hdr.ENABLE .jstr) i = true → (Hdr.ENABLE .jstr).of v = 0 →
      ∃ u, exec (.journalDisable t c i v) s = .next u ∧ u.on (Hdr.ENABLE .jstr) i = false ∧
        u.jr i = if (s.jr i).part = [] then s.jr i else
          (s.jr i).putAll (List.replicate (8 - (s.jr i).part.length) (61 <<< 58)))) ∧
  (∀ (j : Jrn) (x : Nat), j.part ≠ [] → j.part.length < 8 →
    (j.putAll (List.replicate (8 - j.part.length) x)).part = [] ∧
    (j.putAll (List.replicate (8 - j.part.length) x)).lines = j.lines ++ [j.part ++ List.replicate (8 - j.part.length) x]) ∧
  (∀ (s : State) (t : Nat) (i : Fin 36), s.on (Hdr.ENABLE .jstr) i = true → (s.jr i).part ≠ [] →
    let n := 8 - (s.jr i).part.length
    ((s.jr i).lastCopy + s.rg JRNL.FLUSH_NS 0 ≤ (s.advance t).dt → ∃ u, exec (.journalFlush t i) s = .next u ∧
      u.jr i = (s.jr i).putAll (List.replicate n (61 <<< 58)) ∧
      u.rg JSTR.PAD_WORDS i = (s.rg JSTR.PAD_WORDS i + n) % 2 ^ JSTR.PAD_WORDS.width) ∧
    ((s.advance t).dt < (s.jr i).lastCopy + s.rg JRNL.FLUSH_NS 0 → exec (.journalFlush t i) s = .next (s.advance t))) ∧
  (∀ (s : State) (t : Nat) (i : Fin 36),
    (s.on (Hdr.ENABLE .jstr) i = false ∨ (s.jr i).part = [] → exec (.journalFlush t i) s = .next (s.advance t)) ∧
    ((s.jr i).lines = [] ∨ 4096 ≤ s.linesInFlight → exec (.journalLineIssue t i) s = .next (s.advance t)) ∧
    ((s.jr i).flight = [] ∨ s.ddrYields (s.lineAt i) 5 = true → exec (.journalLineDone t i) s = .next (s.advance t))) ∧
  (∀ (s : State) (t : Nat) (i : Fin 36) (l : List Nat) (rest : List (List Nat)),
    ((s.jr i).lines = l :: rest → s.linesInFlight < 4096 → ∃ u, exec (.journalLineIssue t i) s = .next u ∧ (u.jr i).lines = rest ∧
      (u.jr i).flight = (s.jr i).flight ++ [l] ∧ (u.jr i).part = (s.jr i).part ∧ u.ddr4 = s.ddr4) ∧
    ((s.jr i).flight = l :: rest → s.ddrYields (s.lineAt i) 5 = false →
      let wp := s.rg JSTR.WP i
      let a := s.rg JSTR.RING_BASE i + wp % 2 ^ s.rg JSTR.SIZE_LOG i
      ∃ u, exec (.journalLineDone t i) s = .next u ∧ (u.jr i).flight = rest ∧ u.rg JSTR.WP i = (wp + 64) % 2 ^ JSTR.WP.width ∧
        (∀ j w, l[j]? = some w → Mem.rdLE u.ddr4 (a + 8 * j) 8 = w % 2 ^ 64) ∧
        (∀ y, y < a ∨ a + 8 * l.length ≤ y → Mem.rd u.ddr4 y = Mem.rd s.ddr4 y) ∧
        ∀ m k, Tab.get Mark.init (s.jr i).marks m = k → k.placed = true → k.evPos < wp + 64 →
          Tab.get Mark.init (u.jr i).marks m = { k with placed := false, valid := true })) ∧
  (∀ (s : State) (t : Nat) (c : Req) (i : Fin 36) (v : Word), Reaches s t c ⟨.jstr, i⟩ →
    let m := JSTR.MARK_CMD_INDEX.of v
    let op := JSTR.MARK_CMD_OP.of v
    (op = 1 → s.on (Hdr.ENABLE .jstr) i = true → ∃ u, exec (.markSet t c i v) s = .next u ∧ (u.mark i m).set = true ∧
      (u.mark i m).valid = (s.mark i m).valid ∧ ∀ n, n ≠ m → u.mark i n = s.mark i n) ∧
    ((op = 1 ∧ s.on (Hdr.ENABLE .jstr) i = false) ∨ op = 0 ∨ op = 3 → exec (.markSet t c i v) s = .next ((s.advance t).irqSet ⟨.jstr, i⟩ 4)) ∧
    (op = 2 → ∃ u, exec (.markClear t c i v) s = .next u ∧ (u.mark i m).valid = false ∧ (u.mark i m).set = false ∧
      ∀ n, n ≠ m → u.mark i n = s.mark i n)) ∧
  (∀ (s : State) (t : Nat) (c : Req) (ch : Fin 4) (v : Word), Reaches s t c ⟨.jrnl, 0⟩ → let b := s.advance t
    let i := s.rg JCH.STREAM ch
    let m := s.mark i (s.rg JCH.MARK ch)
    let shift := (b.dt + s.rg JCH.START_DELAY_NS ch + 2 ^ 64 - m.dt % 2 ^ 64) % 2 ^ 64
    (JCH.START.of v = 1 → JCH.CANCEL.of v = 0 →
      (s.replaying ch = true → exec (.replayStart t c ch v) s = .next (b.rs JCH.REFUSE_REASON ch (if m.valid then 2 else 1))) ∧
      (s.replaying ch = false → m.valid = false →
        exec (.replayStart t c ch v) s = .next ((b.rs JCH.STATE ch 4).rs JCH.REFUSE_REASON ch 1)) ∧
      (s.replaying ch = false → m.valid = true → s.on JCH.TGT_LEDGER ch = false → s.on JCH.TGT_CORES ch = false →
        exec (.replayStart t c ch v) s = .next ((b.rs JCH.STATE ch 4).rs JCH.REFUSE_REASON ch 3)) ∧
      (s.replaying ch = false → m.valid = true → (s.on JCH.TGT_LEDGER ch || s.on JCH.TGT_CORES ch) = true →
        b.shiftClash ch shift (s.replayClusters i (s.rg JCH.CLUSTER_MASK ch)) = true →
        exec (.replayStart t c ch v) s = .next ((b.rs JCH.STATE ch 4).rs JCH.REFUSE_REASON ch 4)) ∧
      (s.replaying ch = false → m.valid = true → (s.on JCH.TGT_LEDGER ch || s.on JCH.TGT_CORES ch) = true → s.rg JCH.LENGTH ch ≠ 0 →
        b.shiftClash ch shift (s.replayClusters i (s.rg JCH.CLUSTER_MASK ch)) = false →
        ∃ u, exec (.replayStart t c ch v) s = .next u ∧ u.replaying ch = true ∧ u.rg JCH.SHIFT ch = shift ∧
          u.rg JCH.POSITION ch = m.pos % 2 ^ JCH.POSITION.width ∧ u.rg JCH.EVENTS_DONE ch = 0 ∧ u.rg JCH.REFUSE_REASON ch = 0) ∧
      (s.replaying ch = false → m.valid = true → (s.on JCH.TGT_LEDGER ch || s.on JCH.TGT_CORES ch) = true → s.rg JCH.LENGTH ch = 0 →
        b.shiftClash ch shift (s.replayClusters i (s.rg JCH.CLUSTER_MASK ch)) = false →
        ∃ u, exec (.replayStart t c ch v) s = .next u ∧ u.rg JCH.STATE ch = 2 ∧ u.on JCH.SHORT ch = false ∧ u.rg JCH.SHIFT ch = shift)) ∧
    (JCH.START.of v = 0 → JCH.CANCEL.of v = 1 → s.replaying ch = true → ∃ u, exec (.replayCancel t c ch v) s = .next u ∧
      u.rg JCH.STATE ch = 5 ∧ u.on JCH.SHORT ch = false ∧ (u.rg (Hdr.IRQ_RAW .jrnl) 0).testBit 8 = true) ∧
    (JCH.START.of v = 0 → s.replaying ch = false ∨ JCH.CANCEL.of v = 0 →
      exec (.replayStart t c ch v) s = .next b ∧ exec (.replayCancel t c ch v) s = .next b)) ∧
  (∀ (s : State) (t : Nat) (ch : Fin 4), s.replaying ch = false ∨ s.ddrYields (s.replayAt ch (s.rg JCH.POSITION ch)) 4 = true →
    exec (.replayIssue t ch) s = .next (s.advance t)) ∧
  ∀ (s : State) (t : Nat) (ch : Fin 4), s.replaying ch = true → s.ddrYields (s.replayAt ch (s.rg JCH.POSITION ch)) 4 = false →
    let b := s.advance t
    let i := s.rg JCH.STREAM ch
    let pos := s.rg JCH.POSITION ch
    let len := s.rg JCH.LENGTH ch
    let w := Mem.rdLE s.ddr4 (s.rg JSTR.RING_BASE i + pos % 2 ^ s.rg JSTR.SIZE_LOG i) 8
    len ≠ 0xFFFFFFFF →
    (s.rg JSTR.WP i ≤ pos → ∃ u, exec (.replayIssue t ch) s = .next u ∧ u.rg JCH.STATE ch = 2 ∧ u.on JCH.SHORT ch = true) ∧
    ∀ x, pos < s.rg JSTR.WP i → recKind w < 36 → b.replayEvent ch w (rebuild (Tab.get RepCh.init s.rep ch).lastT (wT w)) = some x →
      ∃ u, exec (.replayIssue t ch) s = .next u ∧ u.net = x.net ∧ u.rg JCH.POSITION ch = (pos + 8) % 2 ^ JCH.POSITION.width ∧
        u.rg JCH.EVENTS_DONE ch = (s.rg JCH.EVENTS_DONE ch + 1) % 2 ^ 32

/-- A doorbell write (CMD_TAIL, CPL_HEAD, NTC_HEAD, RPT_CONS) that the endpoint takes moves its index when the ring is live and the
new distance fits, and otherwise only counts in DB_BAD and raises its interrupt. RING_ENABLE sets size and enable of a ring and
starts a newly enabled one at index 0; a size out of range (but the present one while the ring stays disabled), or another size on
an enabled ring, is rejected. A message is sent while enabled and unmasked, left pending while masked, and not sent while MSI-X is
off; COAL_EXPIRY sends the one message into which events were folded, or does nothing. PERST_ASSERT takes the link down, counts,
disables every ring, Bus Master Enable and MSI-X; FLR does the latter and counts; both silence a running command and raise their
interrupts; PERST_DEASSERT ends PERST#. PCIE_LINK_UP needs the endpoint released, PERST# high, its PLL locked, and one of the rates
1 to 5 and widths 1, 2, 4 and 8; PCIE_LINK_DOWN clears the link's fields. CONFIG_REQUEST answers CRS until ready, identity fields
and constants after, and sets the function's bits (what BAR sizing and a capability answer is the model's form, assumption 155). -/
def Obligations.HostRingsMessagesAndLink : Prop :=
  (∀ (s : State) (t : Nat) (v : Word) (g : Fin 4), let b := s.advance t
    b.answers hqPage = true → b.host.perst = false → b.mayWrite .host hqPage.addr = true →
    let room := fun r => (v.toNat + 2 ^ 32 - s.rg HQ.RING_CONS 0 r) % 2 ^ 32
    let left := fun r => (s.rg HQ.RING_PROD 0 r + 2 ^ 32 - v.toNat) % 2 ^ 32
    (b.ringLive 0 = true → room 0 ≤ b.ringCap 0 → exec (.cmdTail t v) s = .next (b.rs HQ.RING_PROD 0 v.toNat 0)) ∧
    (b.ringLive 0 = false ∨ b.ringCap 0 < room 0 → exec (.cmdTail t v) s = .next b.dbBad) ∧
    ∀ x ∈ ([(Instr.cplHead t v, 1), (Instr.ntcHead t v, 2), (Instr.rptCons t g v, 3 + g.val)] : List (Instr × Nat)),
      (b.ringLive x.2 = true → left x.2 ≤ b.ringCap x.2 → room x.2 ≤ b.ringFill x.2 →
        exec x.1 s = .next (b.rs HQ.RING_CONS 0 v.toNat x.2)) ∧
      (b.ringLive x.2 = false ∨ b.ringCap x.2 < left x.2 ∨ b.ringFill x.2 < room x.2 → exec x.1 s = .next b.dbBad)) ∧
  (∀ s : State, let u := s.dbBad
    u.rg HQ.DB_BAD 0 = (s.rg HQ.DB_BAD 0 + 1) % 2 ^ 32 ∧ (u.rg (Hdr.IRQ_RAW .hq) 0).testBit 8 = true ∧
      ∀ r, u.rg HQ.RING_PROD 0 r = s.rg HQ.RING_PROD 0 r ∧ u.rg HQ.RING_CONS 0 r = s.rg HQ.RING_CONS 0 r) ∧
  (∀ (s : State) (t : Nat) (c : Req) (v : Word), Reaches s t c hqPage →
    let r := s.rg HQ.RING_INDEX 0
    let k := HQ.RING_SIZE_LOG.of v
    let fits := if r < 3 then 4 ≤ k ∧ k ≤ 12 else 16 ≤ k ∧ k ≤ 30
    (HQ.RING_EN.of v = 1 → s.on HQ.RING_EN 0 r = false → fits → ∃ u, exec (.ringEnable t c v) s = .next u ∧ u.on HQ.RING_EN 0 r = true ∧
      u.rg HQ.RING_SIZE_LOG 0 r = k ∧ u.rg HQ.RING_PROD 0 r = 0 ∧ u.rg HQ.RING_CONS 0 r = 0 ∧
      ∀ q, q < 7 → q ≠ r → r < 7 → u.on HQ.RING_EN 0 q = s.on HQ.RING_EN 0 q ∧ u.rg HQ.RING_PROD 0 q = s.rg HQ.RING_PROD 0 q) ∧
    (HQ.RING_EN.of v = 1 → s.on HQ.RING_EN 0 r = true → fits → k = s.rg HQ.RING_SIZE_LOG 0 r → ∃ u, exec (.ringEnable t c v) s = .next u ∧
      u.on HQ.RING_EN 0 r = true ∧ u.rg HQ.RING_PROD 0 r = s.rg HQ.RING_PROD 0 r ∧ u.rg HQ.RING_CONS 0 r = s.rg HQ.RING_CONS 0 r) ∧
    (HQ.RING_EN.of v = 0 → fits ∨ k = s.rg HQ.RING_SIZE_LOG 0 r → (s.on HQ.RING_EN 0 r = true → k = s.rg HQ.RING_SIZE_LOG 0 r) → ∃ u, exec (.ringEnable t c v) s = .next u ∧
      u.on HQ.RING_EN 0 r = false ∧ u.rg HQ.RING_SIZE_LOG 0 r = k ∧ u.rg HQ.RING_PROD 0 r = s.rg HQ.RING_PROD 0 r) ∧
    ((¬ fits ∧ (HQ.RING_EN.of v = 1 ∨ k ≠ s.rg HQ.RING_SIZE_LOG 0 r)) ∨ (s.on HQ.RING_EN 0 r = true ∧ k ≠ s.rg HQ.RING_SIZE_LOG 0 r) →
      exec (.ringEnable t c v) s = .next ((s.advance t).irqSet hqPage 4))) ∧
  (∀ (s : State) (v : Nat), let masked := s.host.funcMask || (Tab.get (msixDefault (4 * v + 3)) s.host.msix (4 * v + 3)) % 2 = 1 || !s.hostUp
    (s.host.msixEn = false → s.msixSend v = s) ∧
    (s.host.msixEn = true → masked = false → s.msixSend v = s.emit (.msix v)) ∧
    (s.host.msixEn = true → masked = true → (s.msixSend v).out = s.out ∧ (s.msixSend v).regs = s.regs ∧
      (s.msixSend v).host.pba.testBit v = true)) ∧
  (∀ (s : State) (t : Nat) (r : Fin 6), let b := s.advance t
    (Tab.get false b.host.coalFold r = true → Tab.get 0 b.host.coalEnd r ≤ b.dt → exec (.coalExpiry t r) s =
      .next (State.msixSend { b with host := { b.host with coalFold := Tab.put false b.host.coalFold r false } } r)) ∧
    (Tab.get false b.host.coalFold r = false ∨ b.dt < Tab.get 0 b.host.coalEnd r → exec (.coalExpiry t r) s = .next b)) ∧
  (∀ (s : State) (t : Nat), ∀ x ∈ ([(Instr.perstAssert t, PCIE.PERST_COUNT, 9, true, false), (Instr.flr t, PCIE.FLR_COUNT, 10, s.host.perst, s.on PCIE.LINK_UP 0)] :
      List (Instr × Fld × Nat × Bool × Bool)), ∃ u, exec x.1 s = .next u ∧ u.rg x.2.1 0 = (s.rg x.2.1 0 + 1) % 2 ^ 32 ∧
    (u.rg (Hdr.IRQ_RAW .pcie) 0).testBit x.2.2.1 = true ∧ u.host.perst = x.2.2.2.1 ∧ u.on PCIE.LINK_UP 0 = x.2.2.2.2 ∧
    u.on PCIE.BME 0 = false ∧ u.host.msixEn = false ∧ u.host.msix = [] ∧ u.host.pba = 0 ∧ (∀ r, u.on HQ.RING_EN 0 r = false) ∧
    u.host.parts = s.host.parts ∧ u.ddr4 = s.ddr4 ∧
    (∀ r, s.host.cmd = some r → u.host.cmd = if r.opcode = 1 ∧ r.phase = 1 then none else some { r with silent := true })) ∧
  (∀ x : PcieCap, capPresent x = true ↔ x ∈ ([.powerManagement, .pciExpress, .msix, .advancedErrors, .serialNumber, .secondaryPcie,
    .dataLinkFeature, .physical16, .physical32, .laneMargining, .l1Substates, .latencyTolerance] : List PcieCap)) ∧
  (∀ (s : State) (t : Nat), exec (.perstDeassert t) s = .next { s.advance t with host := { s.host with perst := false } }) ∧
  (∀ (s : State) (t : Nat),
    (s.on PCIE.LINK_UP 0 = true → ∃ u, exec (.pcieLinkDown t) s = .next u ∧ u.on PCIE.LINK_UP 0 = false ∧ u.rg PCIE.LINK_SPEED 0 = 0 ∧
      u.rg PCIE.LINK_WIDTH 0 = 0 ∧ (u.rg (Hdr.IRQ_RAW .pcie) 0).testBit 8 = true) ∧
    (s.on PCIE.LINK_UP 0 = false → exec (.pcieLinkDown t) s = .next (s.advance t))) ∧
  (∀ (s : State) (t : Nat) (sp : Fin 16) (wd : Fin 64), let able := s.boot.hubUp && !s.host.perst && bit s.boot.lock 8 && decide (1 ≤ sp.val ∧ sp.val ≤ 5) && [1, 2, 4, 8].contains wd.val
    (able = true → ∃ u, exec (.pcieLinkUp t sp wd) s = .next u ∧ u.on PCIE.LINK_UP 0 = true ∧
      u.rg PCIE.LINK_SPEED 0 = sp.val % 2 ^ PCIE.LINK_SPEED.width ∧ u.rg PCIE.LINK_WIDTH 0 = wd.val % 2 ^ PCIE.LINK_WIDTH.width) ∧
    (able = false → exec (.pcieLinkUp t sp wd) s = .next (s.advance t))) ∧
  ∀ (s : State) (t : Nat) (q : CfgReq), let b := s.advance t
    (s.on PCIE.LINK_UP 0 = false ∨ s.host.perst = true → exec (.configRequest t q) s = .next b) ∧
    (s.on PCIE.LINK_UP 0 = true → s.host.perst = false →
      (s.host.ready = false → exec (.configRequest t q) s = .next (b.emit (.cfg none))) ∧
      (s.host.ready = true →
        exec (.configRequest t .readVendor) s = .next (b.emit (.cfg (some 0x1F7A))) ∧
        exec (.configRequest t .readDevice) s = .next (b.emit (.cfg (some 0x3640))) ∧
        exec (.configRequest t .readClass) s = .next (b.emit (.cfg (some 0x120000))) ∧
        exec (.configRequest t .readRom) s = .next (b.emit (.cfg (some 0))) ∧
        exec (.configRequest t .readIntPin) s = .next (b.emit (.cfg (some 0))) ∧
        exec (.configRequest t .readMaxPayload) s = .next (b.emit (.cfg (some 512))) ∧
        (∀ i, exec (.configRequest t (.readBar i)) s = .next (b.emit (.cfg (some (barSizing i))))) ∧
        (∀ x, exec (.configRequest t (.readCap x)) s = .next (b.emit (.cfg (some (capPresent x).toNat)))) ∧
        exec (.configRequest t .readSerial) s = .next (b.emit (.cfg (some Config.uid))) ∧
        (∃ n, exec (.configRequest t .readSubsystem) s = .next (b.emit (.cfg (some n)))) ∧
        ∀ on, (∃ u, exec (.configRequest t (.setBme on)) s = .next u ∧ u.on PCIE.BME 0 = on) ∧
          (∀ m, ∃ u, exec (.configRequest t (.setMsix on m)) s = .next u ∧ u.host.msixEn = on ∧ u.host.funcMask = m) ∧
          (∃ u, exec (.configRequest t (.setD3 on)) s = .next u ∧ u.host.d3 = on) ∧
          ∃ u, exec (.configRequest t (.setL12 on)) s = .next u ∧ u.host.aspmL12 = on))

/-- Taking a command reads its entry at the consumer's place of the command ring, moves the consumer, shows opcode and tag and keeps
the entry; where no command can be taken nothing happens but time. Completing one writes the 32-byte entry with tag, code, DETAIL,
VALUE and both times at the producer's place of the completion ring, unless the command was silenced, moves the producer, counts
CMDS_DONE and keeps LAST_CODE. NOP completes LOAD_OK; QUERY answers generation, clusters and variant; an unlisted opcode, or a byte
that an opcode does not use not 0, completes E_PARAM; UNLOAD of an empty partition completes at once, of a loaded one gates its
first cluster. ATTEST writes its report, which begins with its magic number, length, device identity and time. FW_UPDATE refuses its
operands, or an image that fails its check; with CHECK_ONLY it completes with the version; else firmware goes down; FW_RESTARTED
runs the image, counts and notices it; FW_PERSIST_DONE completes with the outcome of programming the flash. The VALUE of a
completion that the spec does not state is free, of LOAD and QUERY the 40 bits laid out (assumption 73). -/
def Obligations.HostCommandsCompleteOnce : Prop :=
  (∀ (s : State) (cmd : List Byte), let u := s.cmdTake cmd
    u.rg HQ.RING_CONS 0 0 = (s.rg HQ.RING_CONS 0 0 + 1) % 2 ^ 32 ∧ u.rg HQ.CMD_STATE 0 = 1 ∧ u.rg HQ.CUR_OPCODE 0 = leAt cmd 0 1 % 2 ^ 8 ∧
      u.rg HQ.CUR_TAG 0 = leAt cmd 2 2 % 2 ^ 16 ∧ ∃ r, u.host.cmd = some r ∧ r.opcode = leAt cmd 0 1 ∧ r.tag = leAt cmd 2 2 ∧
        r.entry = cmd ∧ r.dtStart = s.dt ∧ r.phase = 1 ∧ r.silent = false ∧ r.fenced = [] ∧ r.held = [] ∧
        Out.hostRead (s.rg HQ.RING_BASE 0 0 + s.rg HQ.RING_CONS 0 0 % s.ringCap 0 * 64) 64 ∈ u.out) ∧
  (∀ (s : State) (t : Nat) (cmd pkg : List Byte) (ok : Bool), (s.advance t).cmdReady = false ∨ cmd.length ≠ 64 →
    ∀ x ∈ ([.cmdNop t cmd, .load t cmd pkg ok, .unload t cmd, .query t cmd, .attest t cmd, .fwUpdate t cmd pkg ok,
        .cmdUnlistedOpcode t cmd] : List Instr), exec x s = .next (s.advance t)) ∧
  (∀ (s : State) (r : CmdRun) (code detail value : Nat), s.host.cmd = some r → code < 256 →
    let u := s.complete code detail value
    let i := s.rg HQ.RING_PROD 0 1
    let k := s.rg HQ.RING_SIZE_LOG 0 1
    let e := cplBytes r code (s.detailOf code detail).1 value s.dt (ringPhase i k)
    u.host.cmd = none ∧ u.rg HQ.CMD_STATE 0 = 0 ∧ u.rg HQ.LAST_CODE 0 = code ∧ u.rg HQ.LAST_OPCODE 0 = r.opcode % 2 ^ HQ.LAST_OPCODE.width ∧
    (r.silent = false → s.ringLive 1 = true → u.rg HQ.RING_PROD 0 1 = (i + 1) % 2 ^ 32 ∧ u.rg HQ.CMDS_DONE 0 = (s.rg HQ.CMDS_DONE 0 + 1) % 2 ^ 32 ∧
      Out.hostWrite (s.rg HQ.RING_BASE 0 1 + i % 2 ^ k * 32) e ∈ u.out) ∧
    (r.silent = true → u.rg HQ.RING_PROD 0 1 = i ∧ u.rg HQ.CMDS_DONE 0 = s.rg HQ.CMDS_DONE 0) ∧
    (s.detailOf code detail).1 = if code = 0 then Config.freeValue s.free % 2 ^ 16 else detail) ∧
  (∀ (r : CmdRun) (code detail value dt phase : Nat), let e := cplBytes r code detail value dt phase
    e.length = 32 ∧ leAt e 0 2 = r.tag % 2 ^ 16 ∧ leAt e 2 1 = r.opcode % 256 ∧ leAt e 4 1 = code % 256 ∧ leAt e 6 2 = detail % 2 ^ 16 ∧
      leAt e 8 8 = value % 2 ^ 64 ∧ leAt e 16 8 = r.dtStart % 2 ^ 64 ∧ leAt e 24 8 = dt % 2 ^ 64) ∧
  (∀ (s : State) (r : CmdRun) (code detail : Nat), s.host.cmd = some r →
    let v := Config.freeValue s.free % (if r.opcode = 1 ∨ r.opcode = 3 then 2 ^ 40 else 2 ^ 64)
    let w := State.complete { s with free := s.free + 1 } code detail v
    s.completeOpen code detail = w) ∧
  (∀ (s : State) (t : Nat) (cmd : List Byte), (s.advance t).cmdReady = true → cmd.length = 64 →
    let b := (s.advance t).cmdTake cmd
    (5 < leAt cmd 0 1 ∨ cmdUnused cmd = true → exec (.cmdUnlistedOpcode t cmd) s = .next (b.completeOpen 0x0D 0xFFFF)) ∧
    (cmdUnused cmd = true → ∀ pkg ok, ∀ x ∈ ([(0, Instr.cmdNop t cmd), (1, Instr.load t cmd pkg ok), (2, Instr.unload t cmd), (3, Instr.query t cmd),
        (4, Instr.attest t cmd), (5, Instr.fwUpdate t cmd pkg ok)] : List (Nat × Instr)), leAt cmd 0 1 = x.1 →
      exec x.2 s = .next (b.completeOpen 0x0D 0xFFFF)) ∧
    (cmdUnused cmd = false → leAt cmd 0 1 = 0 → exec (.cmdNop t cmd) s = .next (b.completeOpen 0 0xFFFF)) ∧
    (cmdUnused cmd = false → leAt cmd 0 1 = 3 → let x := s.part (leAt cmd 8 1)
      (leAt cmd 8 1 < 16 → exec (.query t cmd) s = .next (b.complete 0 0xFFFF (x.gen + x.clusters * 65536 + x.variant * 2 ^ 32))) ∧
      (15 < leAt cmd 8 1 → exec (.query t cmd) s = .next (b.completeOpen 0x0D 0xFFFF))) ∧
    (cmdUnused cmd = false → leAt cmd 0 1 = 2 → let x := s.part (leAt cmd 8 1)
      (15 < leAt cmd 8 1 → exec (.unload t cmd) s = .next (b.completeOpen 0x0D 0xFFFF)) ∧
      (leAt cmd 8 1 < 16 → x.clusters = 0 → exec (.unload t cmd) s = .next ((b.partEmpty (leAt cmd 8 1)).completeOpen 0 0xFFFF)) ∧
      (leAt cmd 8 1 < 16 → ∀ k ks, (List.range 16).filter (bit x.clusters) = k :: ks → ∃ u r, exec (.unload t cmd) s = .next u ∧
        u.host.cmd = some r ∧ r.opcode = 2 ∧ r.phase = 3 ∧ r.todo.map (fun e => (e.1, e.2.1)) = (k, 1) :: ks.map (fun q => (q, 0)) ∧
        u.rg HQ.CMD_STATE 0 = 3 ∧ (u.rg DIST.CLUSTER_GATE 0).testBit k = true)) ∧
    (cmdUnused cmd = false → leAt cmd 0 1 = 4 →
      let mask := leAt cmd 0x34 2
      let len := attestLen ((List.range 16).filter (bit mask)).length
      (len ≤ leAt cmd 0x30 4 → leAt cmd 0x28 8 % 64 = 0 → exec (.attest t cmd) s =
        .next ((b.dmaWrite (leAt cmd 0x28 8) (b.attestReport ((cmd.drop 8).take 32) mask)).complete 0 0xFFFF len)) ∧
      (leAt cmd 0x30 4 < len ∨ leAt cmd 0x28 8 % 64 ≠ 0 → exec (.attest t cmd) s = .next (b.completeOpen 0x0D 0xFFFF)))) ∧
  (∀ (s : State) (nonce : List Byte) (mask : Nat), mask < 2 ^ 16 → let d := s.attestReport nonce mask
    leAt d 0 4 = 0x52545441 ∧ leAt d 4 2 = 1 ∧ leAt d 8 4 = attestLen ((List.range 16).filter (bit mask)).length ∧
      leAt d 16 8 = Config.uid % 2 ^ 64 ∧ leAt d 24 8 = s.dt % 2 ^ 64) ∧
  (∀ (s : State) (p : Nat), ((s.partEmpty p).part p).state = 0 ∧ ((s.partEmpty p).part p).clusters = 0 ∧ ((s.partEmpty p).part p).ddrSize = 0 ∧
    ∀ q, q ≠ p → (s.partEmpty p).part q = s.part q) ∧
  (∀ (s : State) (t : Nat) (cmd img : List Byte) (ok : Bool), (s.advance t).cmdReady = true → cmd.length = 64 → leAt cmd 0 1 = 5 →
    cmdUnused cmd = false → let b := (s.advance t).cmdTake cmd
    (s.rg PWR.PWR_STATE 0 ≠ 0 ∨ leAt cmd 8 8 % 64 ≠ 0 → exec (.fwUpdate t cmd img ok) s = .next (b.completeOpen 0x0D 0xFFFF)) ∧
    (s.rg PWR.PWR_STATE 0 = 0 → leAt cmd 8 8 % 64 = 0 → s.rg HQ.STAGE_SIZE 0 < leAt cmd 0x10 4 →
      exec (.fwUpdate t cmd img ok) s = .next (b.completeOpen 7 0xFFFF)) ∧
    (s.rg PWR.PWR_STATE 0 = 0 → leAt cmd 8 8 % 64 = 0 → leAt cmd 0x10 4 ≤ s.rg HQ.STAGE_SIZE 0 → 8388608 < leAt cmd 0x10 4 →
      exec (.fwUpdate t cmd img ok) s = .next (b.completeOpen 0x0C 0xFFFF))) ∧
  (∀ (s : State) (t : Nat) (cmd img : List Byte), (s.advance t).cmdReady = true → cmd.length = 64 → leAt cmd 0 1 = 5 → cmdUnused cmd = false →
    s.rg PWR.PWR_STATE 0 = 0 → leAt cmd 8 8 % 64 = 0 → leAt cmd 0x10 4 ≤ s.rg HQ.STAGE_SIZE 0 → img.length = leAt cmd 0x10 4 →
    img.length ≤ 8388608 →
    let r := imageCheck (some img)
    (r ≠ 0 → ∃ u, exec (.fwUpdate t cmd img true) s = .next u ∧ u.host.cmd = none ∧ u.rg HQ.LAST_CODE 0 = (if r = 2 then 0x0C else 0x0A) ∧
      u.host.fwDown = false) ∧
    (r = 0 → (leAt cmd 0x14 4).testBit 0 = true → ∃ u, exec (.fwUpdate t cmd img true) s = .next u ∧ u.host.cmd = none ∧
      u.rg HQ.LAST_CODE 0 = 0 ∧ u.host.fwDown = false ∧ Mem.rdBytes u.ddr4 (s.rg HQ.STAGE_BASE 0) img.length = img) ∧
    (r = 0 → (leAt cmd 0x14 4).testBit 0 = false → ∃ u x, exec (.fwUpdate t cmd img true) s = .next u ∧ u.host.cmd = some x ∧
      x.opcode = 5 ∧ x.phase = 2 ∧ x.data = img ∧ u.host.fwDown = true)) ∧
  (∀ (s : State) (t : Nat) (r : CmdRun), s.host.cmd = some r → r.opcode = 5 →
    (s.host.fwDown = true → ∃ w : State, w.host.fwDown = false ∧ w.host.cmd = some r ∧ w.host.noticeQ = [] ∧
      w.rg MGMT.RESTARTS 0 = (s.rg MGMT.RESTARTS 0 + 1) % 2 ^ 32 ∧ w.sec.fwDigest = imageDigest r.data ∧
      w.rg VAULT.IMG_VERSION 0 = imageVersion r.data % 2 ^ 32 ∧
      exec (.fwRestarted t) s = .next (if (leAt r.entry 0x14 4).testBit 1 then w.fwFrames w.rxHeld.length
        else (w.fwFrames w.rxHeld.length).complete 0 0xFFFF (imageVersion r.data))) ∧
    (s.host.fwDown = false → exec (.fwRestarted t) s = .next (s.advance t)) ∧
    (s.host.fwDown = false → r.phase = 2 → (leAt r.entry 0x14 4).testBit 1 = true →
      exec (.fwPersistDone t true) s = .next (((s.advance t).emit (.flash 0 r.data)).complete 0 0xFFFF (imageVersion r.data + 2 ^ 32)) ∧
      exec (.fwPersistDone t false) s = .next ((s.advance t).complete 0 0xFFFF (imageVersion r.data + 2 ^ 33))))

/-- LOAD reads a package that fits into the staging area, or refuses its operands. PACKAGE_STAGED refuses a package that could not
be read or fails a check, with that check's code and section; with VERIFY_ONLY completes with what would be placed; otherwise begins
the first mapped cluster, which is gated and has no valid group entry. A package passes only if its header and every section are
well formed, it is signed where a signature is needed, is newer than the partition's generation, and claims distinct clusters that
no other partition holds. CLUSTER_QUIESCED, once W + 1 ticks have passed and no core queue holds a flit, stops the cores and holds
the bound matrix cores, and, when no slot program runs and the cluster's pages are idle, begins their resets; with ATOMIC no cluster
takes a step before all have ended the one before. CLUSTER_RESETS_DONE writes the cluster's sections, whose images stand byte for
byte in their memories, and starts its cores when its Ledger clears are done; CLUSTER_RESUME, at a later tick, clears the gate and
records partition and generation, then begins the next cluster or ends the load, whose partition then holds the new generation. A
job that stops meanwhile ends the load E_FENCED; where a cluster is at another step, only time passes. -/
def Obligations.ModelLoadsCheckThenApply : Prop :=
  (∀ (s : State) (t : Nat) (cmd pkg : List Byte) (ok : Bool), (s.advance t).cmdReady = true → cmd.length = 64 → leAt cmd 0 1 = 1 →
    cmdUnused cmd = false → let b := (s.advance t).cmdTake cmd
    let len := leAt cmd 0x10 4
    (s.rg PWR.PWR_STATE 0 ≠ 0 ∨ leAt cmd 8 8 % 64 ≠ 0 → exec (.load t cmd pkg ok) s = .next (b.completeOpen 0x0D 0xFFFF)) ∧
    (s.rg PWR.PWR_STATE 0 = 0 → leAt cmd 8 8 % 64 = 0 → (s.rg HQ.STAGE_SIZE 0 < len ∨ s.rg HQ.STAGE_SIZE 0 = 0 ∨ s.channels = []) →
      exec (.load t cmd pkg ok) s = .next (b.completeOpen 7 0xFFFF)) ∧
    (s.rg PWR.PWR_STATE 0 = 0 → leAt cmd 8 8 % 64 = 0 → len ≤ s.rg HQ.STAGE_SIZE 0 → s.rg HQ.STAGE_SIZE 0 ≠ 0 → s.channels ≠ [] →
      ∃ u r, exec (.load t cmd pkg ok) s = .next u ∧ u.host.cmd = some r ∧ r.phase = 1 ∧ r.entry = cmd ∧ r.data = pkg ∧
        (r.readErr = false ↔ ok = true ∧ pkg.length = len) ∧
        (ok = true → pkg.length = len → Mem.rdBytes u.ddr4 (s.rg HQ.STAGE_BASE 0) len = pkg))) ∧
  (∀ (s : State) (t : Nat) (r : CmdRun), s.host.cmd = some r → r.opcode = 1 → r.phase = 1 → let b := s.advance t
    let c := (b.rs HQ.CMD_STATE 0 2).upCmd fun (r : CmdRun) => { r with phase := 2, fenceSeen := false, jobStop := false }
    let map := leAt r.entry 0x18 8
    let chk := c.loadCheck r.data (leAt r.entry 0x10 4) map
    (r.readErr = true → exec (.packageStaged t) s = .next (b.completeOpen 0x0C 0xFFFE)) ∧
    (r.readErr = false → ∀ e, chk = .error e → exec (.packageStaged t) s = .next (c.completeOpen e.1 e.2)) ∧
    (r.readErr = false → ∀ v n, chk = .ok (v, n) →
      let ks := (List.range 16).filter fun k => ((List.range (pkgClusters r.data)).map (mapOf map)).contains k
      ((leAt r.entry 0x14 4).testBit 0 = true → exec (.packageStaged t) s =
        .next (c.complete 0 0xFFFF (pkgGen r.data + ks.foldl (fun m k => m ||| 2 ^ k) 0 * 65536 + v * 2 ^ 32))) ∧
      ((leAt r.entry 0x14 4).testBit 0 = false → ∀ k rest, ks = k :: rest → ∃ u x, exec (.packageStaged t) s = .next u ∧
        u.host.cmd = some x ∧ x.phase = 3 ∧ x.variant = v ∧ x.fenced = (s.placeOf r.data map).fenced ∧ x.todo.map (fun e => e.1) = ks ∧ (x.todo.map fun e => e.2.1).head? = some 1 ∧
        u.rg HQ.CMD_STATE 0 = 3 ∧ (u.part (pkgPart r.data)).state = 2 ∧ (u.rg DIST.CLUSTER_GATE 0).testBit k = true ∧
        (∀ e, e < 1024 → u.on CLU.GT_VALID k e = false) ∧ u.sram = s.sram))) ∧
  (∀ (s : State) (t : Nat), (∀ r, s.host.cmd = some r → r.opcode ≠ 1 ∨ r.phase ≠ 1) → exec (.packageStaged t) s = .next (s.advance t)) ∧
  (∀ (s : State) (d : List Byte) (len map v n : Nat), s.loadCheck d len map = .ok (v, n) →
    headerOk d len = true ∧ headerRanges d = true ∧ (∀ x ∈ sections d, sectFormatBad d x = false) ∧
    (pkgSigned d = true → s.pkgSigOk d = true) ∧ (bit (s.opt 1) 0 = true → pkgSigned d = true) ∧
    ((s.part (pkgPart d)).loaded = true → newer 16 (pkgGen d) (s.part (pkgPart d)).gen = true) ∧
    (∀ i, i < pkgClusters d → ∀ q, q < 16 → q ≠ pkgPart d → bit (s.part q).clusters (mapOf map i) = false) ∧
    s.variantFor d map = some v ∧ s.firstParam d (s.placeOf d map) = none ∧ s.variantCheck d (s.placeOf d map) v = .ok n) ∧
  (∀ (s : State) (t : Nat) (k : Fin 16), let b := s.advance t
    (b.clusterStep k = none → ∀ x ∈ ([.clusterQuiesced t k, .clusterResetsDone t k, .clusterResume t k] : List Instr), exec x s = .next b) ∧
    ∀ r st t0, b.clusterStep k = some (r, st, t0) →
      ((r.jobStop && r.opcode == 1) = true →
        ∀ x ∈ ([.clusterQuiesced t k, .clusterResetsDone t k, .clusterResume t k] : List Instr), exec x s = .next b.loadStopped) ∧
      ((r.jobStop && r.opcode == 1) = false →
        (st = 1 → t0 + s.rg CLU.TS_WINDOW k + 1 ≤ s.tick → (∀ n, n < 256 → (s.core (256 * k + n)).queue = []) →
          ∃ c : State, (∀ n, n < 256 → c.on CGS.RUN (256 * k + n) = false) ∧ (c.clusterStep k).map (fun x => x.2.1) = some 2 ∧
            c.sram = s.sram ∧ (∀ m, (m = 2 * k.val ∨ m = 2 * k.val + 1) → s.on MXC.BOUND m = true →
              ∃ x, c.host.cmd = some x ∧ (m, s.rg MXC.GROUP m) ∈ x.held) ∧
            exec (.clusterQuiesced t k) s = .next (if s.on MXC.SLOT_RUNNING (2 * k) || s.on MXC.SLOT_RUNNING (2 * k + 1) then c.clusterResets
              else (c.setStep k 3).clusterResets)) ∧
        (st = 1 → s.tick < t0 + s.rg CLU.TS_WINDOW k + 1 ∨ (∃ n, n < 256 ∧ (s.core (256 * k + n)).queue ≠ []) →
          exec (.clusterQuiesced t k) s = .next b.clusterResets) ∧
        (st = 2 → exec (.clusterQuiesced t k) s = .next (if s.on MXC.SLOT_RUNNING (2 * k) || s.on MXC.SLOT_RUNNING (2 * k + 1)
          then b.clusterResets else (b.setStep k 3).clusterResets)) ∧
        (st ≠ 1 → st ≠ 2 → exec (.clusterQuiesced t k) s = .next b.clusterResets) ∧
        (st ≠ 4 → exec (.clusterResetsDone t k) s = .next b) ∧
        (st = 4 → let c := (loaderPages k).foldl (fun s p => s.resetDone p.addr) b
          let rest := r.todo.filter fun e => e.1 != k.val
          let d := c.upCmd fun (r : CmdRun) => { r with todo := rest }
          (r.opcode = 1 → exec (.clusterResetsDone t k) s = .next (c.setStep k 5).clusterWrites) ∧
          (r.opcode ≠ 1 → rest = [] → exec (.clusterResetsDone t k) s = .next ((d.partEmpty (leAt r.entry 8 1)).completeOpen 0 0xFFFF)) ∧
          (r.opcode ≠ 1 → rest ≠ [] → exec (.clusterResetsDone t k) s = .next d.beginNext)) ∧
        (r.opcode ≠ 1 ∨ k.val ∉ b.atStep 7 ∨ s.tick ≤ t0 → exec (.clusterResume t k) s = .next b) ∧
        (r.opcode = 1 → k.val ∈ b.atStep 7 → t0 < s.tick → r.atomic = false →
          let p := pkgPart r.data
          let rest := r.todo.filter fun e => e.1 != k.val
          ∃ w : State, exec (.clusterResume t k) s = .next (if rest.isEmpty then (w.fgtApply r).loadEnd r else w.beginNext) ∧
            (w.rg DIST.CLUSTER_GATE 0).testBit k = false ∧ bitsAt (w.rg HQ.CLUSTER_PART 0) (4 * k) 4 = p % 16 ∧
            bitsAt (w.rg (HQ.CLUSTER_GEN.nth (k / 2)) 0) (16 * (k % 2)) 16 = pkgGen r.data % 2 ^ 16 ∧ bit (w.part p).clusters k = true) ∧
        (r.opcode = 1 → k.val ∈ b.atStep 7 → t0 < s.tick → r.atomic = true →
          ∃ w : State, exec (.clusterResume t k) s = .next ((w.fgtApply r).loadEnd r) ∧
            ∀ e ∈ r.todo, (w.rg DIST.CLUSTER_GATE 0).testBit e.1 = false))) ∧
  (∀ (s : State) (st : Nat), (∀ k, k ∈ s.atStep st ↔ ∃ r t0, s.host.cmd = some r ∧ (k, st, t0) ∈ r.todo ∧
    (r.atomic = true → ∀ x ∈ r.todo, st ≤ x.2.1))) ∧
  (∀ (s : State) (r : CmdRun), s.host.cmd = some r → r.opcode = 1 → r.phase = 3 →
    s.loadStopped = State.completeOpen (s.upPart (pkgPart r.data) fun x => { x with state := 3 }) 9 0xFFFF) ∧
  (∀ (s : State) (k : Nat) (r : CmdRun), s.host.cmd = some r →
    (s.atStep 3 = [] → s.clusterResets = s) ∧
    (s.atStep 3 = [k] → s.clusterResets =
      if (loaderPages k).all fun p => s.idle p && !s.resetting.contains p && !s.heldPages.contains p then
        ((loaderPages k).foldl (fun s p => s.resetAccept p false) s).setStep k 4
      else s) ∧
    (s.atStep 5 = [k] → s.clusterWrites = (((s.step4 r.data r.place (r.sectsOf k)).2).setStep k 6).clusterRuns) ∧
    (s.atStep 6 = [k] → s.clusterRuns = if s.clearsDone k then (s.clusterRun r k).setStep k 7 else s)) ∧
  (∀ (s : State) (d : List Byte) (pl : Place) (x : Sect),
    let n := 256 * pl.cluster x.lc + pl.core (pl.cluster x.lc) x.unit
    ∀ e ∈ [(1, coreBase n), (3, coreBase n + 0x800), (4, coreBase n + 0x1800), (0x0A, mxBase (2 * pl.cluster x.lc + x.unit % 2))],
      x.type = e.1 → let u := s.imageApply d pl x
      Mem.rdBytes u.sram e.2 (x.body d).length = x.body d ∧ u.regs = s.regs ∧
        ∀ y, y < e.2 ∨ e.2 + (x.body d).length ≤ y → Mem.rd u.sram y = Mem.rd s.sram y) ∧
  ∀ (s : State) (r : CmdRun), ∃ w : State, s.loadEnd r = w.complete 0 0xFFFF (pkgGen r.data + (w.part (pkgPart r.data)).clusters * 65536 + r.variant * 2 ^ 32) ∧
    (w.part (pkgPart r.data)).state = 1 ∧ (w.part (pkgPart r.data)).loaded = true ∧ (w.part (pkgPart r.data)).gen = pkgGen r.data

/-- ETH_FRAME_RX: a frame on a link that is down, or shorter than 64 bytes, has no effect; a long one, one with a bad FCS, a PAUSE,
a PTP message of an enabled domain and one with no consumer each add one to their counter; a frame for management firmware is
answered in turn, or held while firmware restarts. A link rises on an enabled, clocked port and falls with its interrupt. PDELAY_REQ
of a port with a domain sends the two answers, DELAY_REQ_TIMER one request; both leave the state when a frame may not start.
LAUNCH_START at its launch DT takes the first entry: on a link that is up and a free wire sends one frame per fragment, with
LAST_LAUNCH_DT within 16 ns, on a link that is down counts LINK_DROPS, and before its launch DT leaves the state; no entry of the
queue comes before the first one. A write of TPL_DATA sets the word at TPL_WORD and moves on, or is rejected while the queue is
enabled. How far the first frame leaves from its launch DT is free (assumption 3). -/
def Obligations.EthernetFramesAndLaunches : Prop :=
  (∀ (s : State) (t : Nat) (p : Fin 2) (f : List Byte) (ok : Bool), let b := s.advance t
    let c := b.inc ETH.RX_FRAMES p
    let g := f.take (f.length - 4)
    (s.on ETH.LINK_UP p = false ∨ f.length < 64 → exec (.ethFrameRx t p f ok) s = .next b) ∧
    (s.on ETH.LINK_UP p = true → 9022 < f.length → exec (.ethFrameRx t p f ok) s = .next (b.inc ETH.RX_LONG p)) ∧
    (s.on ETH.LINK_UP p = true → 64 ≤ f.length → f.length ≤ 9022 →
      exec (.ethFrameRx t p f false) s = .next (b.inc ETH.RX_FCS_ERR p) ∧
      (etherType g = 0x8808 → exec (.ethFrameRx t p f true) s = .next (c.inc ETH.RX_PAUSE p)) ∧
      (etherType g ≠ 0x8808 →
        (∀ ty, b.ptpFor p g = some ty → exec (.ethFrameRx t p f true) s =
          .next (if ty ≤ 3 then c.inc ETH.PTP_RX p else if ty = 13 then c.inc ETH.MGMT_MSGS p else c)) ∧
        (b.ptpFor p g = none → b.forFirmware p g = false → exec (.ethFrameRx t p f true) s = .next (c.inc ETH.RX_NO_CONSUMER p)) ∧
        (b.ptpFor p g = none → b.forFirmware p g = true →
          (s.host.fwDown = true → ∃ u, exec (.ethFrameRx t p f true) s = .next u ∧ u.rxHeld = s.rxHeld ++ [(p.val, g)] ∧
            u.rg ETH.RX_LATE_STAMP p = (s.rg ETH.RX_LATE_STAMP p + 1) % 2 ^ 32) ∧
          (s.host.fwDown = false → s.rxHeld = [] →
            (b.fwReply p g = none → exec (.ethFrameRx t p f true) s = .next c) ∧
            ∀ r, b.fwReply p g = some r → b.maySend p r.length = true → exec (.ethFrameRx t p f true) s = .next (c.sendFrame p b.dt r)))))) ∧
  (∀ (s : State) (p at_ : Nat) (f : List Byte), let u := s.sendFrame p at_ f
    u.out = s.out ++ [.ethTx p (f ++ leBytes 4 (crc32 f))] ∧ u.rg ETH.TX_FRAMES p = (s.rg ETH.TX_FRAMES p + 1) % 2 ^ 64 ∧
      Tab.get 0 s.wireEnd p ≤ Tab.get 0 u.wireEnd p ∧ ∀ q, q ≠ p → Tab.get 0 u.wireEnd q = Tab.get 0 s.wireEnd q) ∧
  (∀ (s : State) (t : Nat) (p : Fin 2), let b := s.advance t
    (s.on ETH.LINK_UP p = true → ∃ u, exec (.ethLinkDown t p) s = .next u ∧ u.on ETH.LINK_UP p = false ∧
      (u.rg (Hdr.IRQ_RAW .eth) p).testBit 8 = true ∧ ∀ d, d < 2 → s.on PTPD.DOM_EN d = true → s.on PTPD.FAILOVER d = true →
        s.rg PTPD.ON_PORT d = p → s.on ETH.LINK_UP (1 - p) = true → u.rg PTPD.ON_PORT d = 1 - p ∧ u.rg PTPD.STATE d = 1) ∧
    (s.on ETH.LINK_UP p = false → exec (.ethLinkDown t p) s = .next b) ∧
    (s.on (Hdr.ENABLE .eth) p = true → s.ethFenced p = false → s.clkGood (ethPage p) = true → s.inReset (ethPage p) = false → b.asleep = false →
      exec (.ethLinkUp t p) s = .next (b.rb ETH.LINK_UP p true)) ∧
    (s.on (Hdr.ENABLE .eth) p = false ∨ s.ethFenced p = true ∨ s.clkGood (ethPage p) = false ∨ s.inReset (ethPage p) = true ∨ b.asleep = true →
      exec (.ethLinkUp t p) s = .next b)) ∧
  (∀ (s : State) (t : Nat) (p : Fin 2) (f : List Byte), let b := s.advance t
    let n := (Config.ptpFrame 2 [b.dt] f).length + (Config.ptpFrame 3 [b.dt] f).length + 24
    (s.host.fwDown = false → (∃ d, d < 2 ∧ s.on PTPD.DOM_EN d = true ∧ s.rg PTPD.ON_PORT d = p) → b.maySend p n = true →
      ∃ u, exec (.pdelayReq t p f) s = .next u ∧ u.rg ETH.TX_FRAMES p = (s.rg ETH.TX_FRAMES p + 2) % 2 ^ 64 ∧
        u.rg ETH.PTP_TX p = (s.rg ETH.PTP_TX p + 1) % 2 ^ 32) ∧
    (s.host.fwDown = true ∨ (∀ d, d < 2 → s.on PTPD.DOM_EN d = true → s.rg PTPD.ON_PORT d ≠ p) ∨ b.maySend p n = false →
      exec (.pdelayReq t p f) s = .next b)) ∧
  (∀ (s : State) (t : Nat) (d : Fin 2), let b := s.advance t
    let p := s.rg PTPD.ON_PORT d
    let kind := if s.on PTPD.PROFILE d || s.on PTPD.DELAY_MECH d then 1 else 0
    let may := b.maySend p (Config.ptpFrame kind [d.val, b.dt] []).length
    (s.host.fwDown = false → s.on PTPD.DOM_EN d = true → may = true → exec (.delayReqTimer t d) s =
      .next ((b.sendFrame p b.dt (Config.ptpFrame kind [d.val, b.dt] [])).inc ETH.PTP_TX p)) ∧
    (s.host.fwDown = true ∨ s.on PTPD.DOM_EN d = false ∨ may = false → exec (.delayReqTimer t d) s = .next b)) ∧
  (∀ (l : List LEntry) (e : LEntry), firstEntry l = some e → e ∈ l ∧ ∀ x ∈ l, x.before e = false) ∧
  (∀ (s : State) (t at_ : Nat) (p : Fin 2) (e : LEntry), firstEntry (s.entries p) = some e → e.dt = some at_ → let b := s.advance t
    let i := 4 * p.val + e.q
    (b.dt < at_ → exec (.launchStart t p) s = .next b) ∧
    (at_ ≤ b.dt → s.on ETH.LINK_UP p = false → ∃ u, exec (.launchStart t p) s = .next u ∧ u.entries p = (s.entries p).erase e ∧
      u.rg LNQ.LINK_DROPS i = (s.rg LNQ.LINK_DROPS i + 1) % 2 ^ 32 ∧ u.out = s.out) ∧
    (at_ ≤ b.dt → s.on ETH.LINK_UP p = true → Tab.get 0 s.wireEnd p ≤ at_ → ∃ u x, exec (.launchStart t p) s = .next u ∧
      u.entries p = (s.entries p).erase e ∧ u.rg LNQ.LAUNCHED i = (s.rg LNQ.LAUNCHED i + 1) % 2 ^ 32 ∧
      u.rg LNQ.LAST_LAUNCH_DT i = x % 2 ^ 64 ∧ at_ - 16 ≤ x ∧ x ≤ at_ + 16 ∧
      u.rg ETH.TX_FRAMES p = (s.rg ETH.TX_FRAMES p + s.nFrag i e.bytes.length) % 2 ^ 64) ∧
    (at_ ≤ b.dt → s.on ETH.LINK_UP p = true → at_ < Tab.get 0 s.wireEnd p → s.on LNQ.LATE_SEND i = false →
      ∃ u, exec (.launchStart t p) s = .next u ∧ u.entries p = (s.entries p).erase e ∧ (u.rg (Hdr.IRQ_RAW .lnch) p).testBit 8 = true ∧
        u.rg LNQ.LATE_DROPS i = (s.rg LNQ.LATE_DROPS i + 1) % 2 ^ 32)) ∧
  ∀ (s : State) (t : Nat) (c : Req) (p : Fin 2) (q : Fin 4) (v : Word), Reaches s t c ⟨.lnch, p⟩ → let i := 4 * p.val + q.val
    let w := s.rg LNQ.TPL_WORD i
    (s.on LNQ.Q_EN i = true → exec (.tplDataWrite t c p q v) s = .next ((s.advance t).irqSet ⟨.lnch, p⟩ 4)) ∧
    (s.on LNQ.Q_EN i = false → ∃ u, exec (.tplDataWrite t c p q v) s = .next u ∧ u.rg LNQ.TPL_DATA i w = v.toNat ∧
      u.rg LNQ.TPL_WORD i = (w + 1) % 2 ^ 4 ∧ ∀ k, k ≠ w → u.rg LNQ.TPL_DATA i k = s.rg LNQ.TPL_DATA i k)

/-- A PTP_SYNC of a domain that neither tracks nor is locked, or while firmware restarts, changes nothing; otherwise it counts,
shows the saturated offset and runs the servo. The servo steps a domain that was never locked by an offset over SLEW_LIMIT; on a
normal sample of a domain whose rate is not held adds it to the integral and sets the rate they give, WT at that instant standing;
an offset over the limit of a domain once locked joins the run and moves no time, and JUMP_CONFIRM of them make a jump, which is
judged while the other domain is sound, else left as a pending step. The rate that the servo computes lies within 500 ppm.
PTP_ANNOUNCE of the selected transmitter starts tracking; PTP_TIMEOUT goes to holdover or to another transmitter; the end of a
judging window makes the domain suspect. Writes enable, disable and move a domain, set RATE (WT standing) or OFFSET, resolve a
pending step by stepping or slewing, clear the integral, or are rejected. -/
def Obligations.PtpDomainsFollowTheirTransmitter : Prop :=
  (∀ (s : State) (t t1 t2 iv : Nat) (d : Fin 2) (corr mpd : Int), let b := s.advance t
    let o : Int := (s.wt d t2 : Int) - (t1 + corr + mpd + signed 32 (s.rg PTPD.ASYM_CORR d))
    (s.host.fwDown = true ∨ (s.rg PTPD.STATE d ≠ 2 ∧ s.rg PTPD.STATE d ≠ 3) → exec (.ptpSync t d t1 corr t2 mpd iv) s = .next b) ∧
    (s.host.fwDown = false → s.rg PTPD.STATE d = 2 ∨ s.rg PTPD.STATE d = 3 → ∃ w : State,
      w.rg PTPD.SYNCS d = (s.rg PTPD.SYNCS d + 1) % 2 ^ 32 ∧ w.rg PTPD.LAST_OFFSET d = unsigned 32 (satS 32 o) ∧ (w.dm d).syncAt = b.dt ∧
      (w.dm d).syncIv = iv ∧ w.wtOff = s.wtOff ∧ w.wtRate = s.wtRate ∧ w.dm (1 - d) = s.dm (1 - d) ∧
      exec (.ptpSync t d t1 corr t2 mpd iv) s = .next (if s.on PTPD.SERVO_EN d then w.servo d o mpd else w.rs PTPD.MEAN_PATH d (unsigned 32 mpd)))) ∧
  (∀ (s : State) (d : Fin 2) (o mpd : Int), let u := s.servo d o mpd
    let big := s.rg PTPD.SLEW_LIMIT d < o.natAbs
    let x := s.dm d
    (s.on PTPD.EVER_LOCKED d = false → big → u.wtO d = s.wtO d - o * 2 ^ 32 ∧ u.rg PTPD.STEPS d = (s.rg PTPD.STEPS d + 1) % 2 ^ 32) ∧
    (s.on PTPD.SLEWING d = false → ¬ big → s.heldNow d = false → ∀ a, x.applied = some a → a < s.dt →
      (u.dm d).iAcc = satS 48 (x.iAcc + o) ∧ (u.dm d).run = 0 ∧ (u.dm d).applied = some s.dt ∧ u.wt d s.dt = s.wt d s.dt ∧
      u.wtR d = clampRate (2 ^ 32 - Int.tdiv ((o * s.rg PTPD.KP d + satS 48 (x.iAcc + o) * s.rg PTPD.KI d) * 65536) (s.dt - a : Nat))) ∧
    (s.on PTPD.EVER_LOCKED d = true → s.on PTPD.SLEWING d = false → big → x.run + 1 ≠ s.rg PTPD.JUMP_CONFIRM d →
      (u.dm d).run = x.run + 1 ∧ (u.dm d).iAcc = x.iAcc ∧ u.wtO d = s.wtO d ∧ u.wtR d = s.wtR d ∧ u.rg PTPD.JUMPS d = s.rg PTPD.JUMPS d) ∧
    (s.on PTPD.EVER_LOCKED d = true → s.on PTPD.SLEWING d = false → big → x.run + 1 = s.rg PTPD.JUMP_CONFIRM d →
      u.rg PTPD.JUMPS d = (s.rg PTPD.JUMPS d + 1) % 2 ^ 32 ∧ u.rg PTPD.JUMP_OFFSET d = unsigned 64 o ∧ u.wtO d = s.wtO d ∧ u.wtR d = s.wtR d ∧
      u.on PTPD.RATE_HELD d = true)) ∧
  (∀ (s : State) (d : Fin 2) (o mpd : Int), let u := s.jump d o mpd
    let other := 1 - d.val
    (∀ j, (s.dm other).jumpAt = some j → s.dt ≤ j + s.rg PTPD.JUMP_WINDOW_NS d →
      u.on PTPD.STEP_PENDING d = true ∧ u.on PTPD.STEP_PENDING other = true) ∧
    ((s.dm other).jumpAt = none → s.rg PTPD.STATE other ≠ 3 ∨ s.heldNow other = true →
      u.on PTPD.STEP_PENDING d = true ∧ u.on PTPD.JUDGING d = false) ∧
    ((s.dm other).jumpAt = none → s.rg PTPD.STATE other = 3 → s.heldNow other = false →
      u.on PTPD.JUDGING d = true ∧ u.on PTPD.STEP_PENDING d = s.on PTPD.STEP_PENDING d ∧
      (u.dm d).judgeEnd = s.dt + s.rg PTPD.JUMP_WINDOW_NS d)) ∧
  (∀ (c : Int) (n v : Nat), rateOk (servoRate c n v) = true) ∧
  (∀ (s : State) (t iv : Nat) (d : Fin 2) (gm : BitVec 64) (sel ok : Bool) (utc : BitVec 16), let st := s.rg PTPD.STATE d
    (s.host.fwDown = true ∨ st = 0 ∨ (sel = false ∧ s.rg PTPD.GM_ID d ≠ gm.toNat) →
      exec (.ptpAnnounce t d gm sel utc ok iv) s = .next (s.advance t)) ∧
    (s.host.fwDown = false → 1 ≤ st → st ≤ 4 → sel = true → ∃ u, exec (.ptpAnnounce t d gm sel utc ok iv) s = .next u ∧
      u.rg PTPD.GM_ID d = gm.toNat ∧ u.rg PTPD.STATE d = (if st = 1 ∨ st = 4 then 2 else st) ∧ u.rg PTPD.UTC_OFFSET d = utc.toNat ∧
      u.on PTPD.UTC_VALID d = ok ∧ (u.dm d).annAt = (s.advance t).dt ∧ (u.dm d).annIv = iv)) ∧
  (∀ (s : State) (t : Nat) (d : Fin 2), let b := s.advance t
    let due := s.host.fwDown = false ∧ (s.rg PTPD.STATE d = 2 ∨ s.rg PTPD.STATE d = 3) ∧ b.ptpLate d = true
    (¬ due → ∀ alt, exec (.ptpTimeout t d alt) s = .next b) ∧
    (due → ∃ u, exec (.ptpTimeout t d none) s = .next u ∧ u.rg PTPD.STATE d = 4 ∧ u.on PTPD.RATE_HELD d = true ∧
      u.rg PTPD.TIMEOUTS d = (s.rg PTPD.TIMEOUTS d + 1) % 2 ^ 32) ∧
    (due → ∀ g : BitVec 64, ∃ u, exec (.ptpTimeout t d (some g)) s = .next u ∧ u.rg PTPD.STATE d = 2 ∧ u.rg PTPD.GM_ID d = g.toNat) ∧
    (s.on PTPD.JUDGING d = true → (s.dm d).judgeEnd ≤ b.dt → ∃ u, exec (.jumpWindowExpiry t d) s = .next u ∧
      u.on PTPD.JUDGING d = false ∧ u.on PTPD.SUSPECT d = true) ∧
    (s.on PTPD.JUDGING d = false ∨ b.dt < (s.dm d).judgeEnd → exec (.jumpWindowExpiry t d) s = .next b)) ∧
  (∀ (s : State) (t : Nat) (c : Req) (d : Fin 2) (v : Word), Reaches s t c ⟨.ptpd, d⟩ →
    let ok := PTPD.JUMP_CONFIRM.of v ≠ 0 ∧ ∀ f ∈ [PTPD.ANN_TIMEOUT, PTPD.SYNC_TIMEOUT], 2 ≤ f.of v ∧ f.of v ≤ 10
    let frozen := ∀ f ∈ [PTPD.PROFILE, PTPD.DELAY_MECH, PTPD.TRANSPORT, PTPD.DOMAIN_NUM], f.of v = s.rg f d
    (¬ ok ∨ (s.on PTPD.DOM_EN d = true ∧ ¬ frozen) → exec (.domEnWrite t c d v) s = .next ((s.advance t).irqSet ⟨.ptpd, d⟩ 4)) ∧
    (ok → s.on PTPD.DOM_EN d = false → PTPD.DOM_EN.of v = 1 → ∃ u, exec (.domEnWrite t c d v) s = .next u ∧ u.on PTPD.DOM_EN d = true ∧
      u.rg PTPD.STATE d = 1 ∧ u.on PTPD.EVER_LOCKED d = false ∧ u.rg PTPD.ON_PORT d = PTPD.PORT.of v ∧ u.on PTPD.RATE_HELD d = true) ∧
    (ok → frozen → s.on PTPD.DOM_EN d = true → PTPD.DOM_EN.of v = 0 → ∃ u, exec (.domEnWrite t c d v) s = .next u ∧
      u.on PTPD.DOM_EN d = false ∧ u.rg PTPD.STATE d = 0) ∧
    (ok → frozen → s.on PTPD.DOM_EN d = true → PTPD.DOM_EN.of v = 1 → s.rg PTPD.ON_PORT d ≠ PTPD.PORT.of v →
      ∃ u, exec (.domEnWrite t c d v) s = .next u ∧ u.rg PTPD.STATE d = 1 ∧ u.rg PTPD.ON_PORT d = PTPD.PORT.of v)) ∧
  ∀ (s : State) (t : Nat) (c : Req) (d : Fin 2) (v : Word), Reaches s t c ⟨.ptpd, d⟩ → let b := s.advance t
    let r := v.toNat * 2 ^ 32 + s.rg PTPD.RATE d % 2 ^ 32
    let only := fun f : Fld => ∀ g ∈ [PTPD.SET_OFFSET, PTPD.RESOLVE_STEP, PTPD.RESOLVE_SLEW, PTPD.CLEAR_INTEGRAL], g.of v = if g = f then 1 else 0
    let pend := (s.on PTPD.STEP_PENDING d || s.on PTPD.SUSPECT d) = true
    (rateOk r = true → ∃ u, exec (.rateWrite t c d v) s = .next u ∧ u.wtR d = r ∧ u.wt d b.dt = s.wt d b.dt ∧ u.wtR (1 - d) = s.wtR (1 - d) ∧
      u.wtO (1 - d) = s.wtO (1 - d)) ∧
    (rateOk r = false → exec (.rateWrite t c d v) s = .next (b.irqSet ⟨.ptpd, d⟩ 4)) ∧
    (only PTPD.SET_OFFSET → ∃ u, exec (.setOffset t c d v) s = .next u ∧ u.wtO d = signed 128 (s.rg PTPD.OFFSET d) ∧ u.wtR d = s.wtR d ∧
      u.rg PTPD.STEPS d = (s.rg PTPD.STEPS d + 1) % 2 ^ 32 ∧ u.on PTPD.STEP_PENDING d = false ∧ u.on PTPD.SUSPECT d = false) ∧
    (only PTPD.RESOLVE_STEP → pend → ∃ u, exec (.resolveStep t c d v) s = .next u ∧
      u.wtO d = s.wtO d - signed 64 (s.rg PTPD.JUMP_OFFSET d) * 2 ^ 32 ∧ u.on PTPD.STEP_PENDING d = false ∧ u.on PTPD.SUSPECT d = false) ∧
    (only PTPD.RESOLVE_STEP → ¬ pend → exec (.resolveStep t c d v) s = .next (b.irqSet ⟨.ptpd, d⟩ 4)) ∧
    (only PTPD.RESOLVE_SLEW → pend → ∃ u, exec (.resolveSlew t c d v) s = .next u ∧ u.on PTPD.SLEWING d = true ∧
      u.on PTPD.STEP_PENDING d = false ∧ u.on PTPD.SUSPECT d = false ∧ u.wtO d = s.wtO d ∧ u.wtR d = s.wtR d) ∧
    (only PTPD.RESOLVE_SLEW → ¬ pend → exec (.resolveSlew t c d v) s = .next (b.irqSet ⟨.ptpd, d⟩ 4)) ∧
    (only PTPD.CLEAR_INTEGRAL → ∃ u, exec (.clearIntegral t c d v) s = .next u ∧ (u.dm d).iAcc = 0 ∧ u.regs = s.regs ∧
      (u.dm d).run = (s.dm d).run ∧ u.wtOff = s.wtOff ∧ u.wtRate = s.wtRate)

/-- A write of the PTP control word with a legal width sets its fields, switches to the domain it names and counts and signals a
switch; an illegal width is rejected. At the first edge whose second has not been emitted yet PPS_OUT rises, unless it is gated by a
domain that is not locked, when the second only counts as passed; it does nothing while off or when the second was emitted. PPS_OUT
falls when its width has passed. The next pulse's second is never one already emitted. -/
def Obligations.ActiveDomainAndPulsePerSecond : Prop :=
  (∀ (s : State) (t : Nat) (c : Req) (v : Word), Reaches s t c ⟨.ptp, 0⟩ → let w := PTP.PPS_WIDTH_MS.of v
    (w = 0 ∨ 999 < w → exec (.activeWrite t c v) s = .next ((s.advance t).irqSet ⟨.ptp, 0⟩ 4)) ∧
    (1 ≤ w → w ≤ 999 → ∃ u, exec (.activeWrite t c v) s = .next u ∧ u.rg PTP.ACTIVE 0 = PTP.ACTIVE.of v ∧ u.rg PTP.PPS_WIDTH_MS 0 = w ∧
      u.rg PTP.AUTO_SWITCH 0 = PTP.AUTO_SWITCH.of v ∧ u.rg PTP.PPS_EN 0 = PTP.PPS_EN.of v ∧ u.rg PTP.PPS_GATE 0 = PTP.PPS_GATE.of v ∧
      (PTP.ACTIVE.of v ≠ s.rg PTP.ACTIVE 0 → u.rg PTP.SWITCHES 0 = (s.rg PTP.SWITCHES 0 + 1) % 2 ^ 32 ∧
        (u.rg (Hdr.IRQ_RAW .ptp) 0).testBit 9 = true) ∧
      (PTP.ACTIVE.of v = s.rg PTP.ACTIVE 0 → u.rg PTP.SWITCHES 0 = s.rg PTP.SWITCHES 0) ∧ u.wtOff = s.wtOff ∧ u.wtRate = s.wtRate)) ∧
  (∀ (s : State) (t : Nat), let b := s.advance t
    let due := s.on PTP.PPS_EN 0 = true ∧ b.asleep = false ∧ s.boot.hubUp = true ∧ s.pps.base < b.ppsSecond
    let gated := s.on PTP.PPS_GATE 0 = true ∧ s.rg PTPD.STATE s.activeDom ≠ 3
    (¬ due → exec (.ppsOutEdge t) s = .next b) ∧
    (due → ∃ u, exec (.ppsOutEdge t) s = .next u ∧ u.pps.base = b.ppsSecond ∧ u.regs = s.regs ∧
      (gated → u.pps.high = s.pps.high ∧ u.out = s.out) ∧
      (¬ gated → u.pps.high = true ∧ u.pps.fallAt = b.dt + s.rg PTP.PPS_WIDTH_MS 0 * 1000000 ∧ u.out = s.out ++ [.pin "PPS_OUT" true]) ∧
      exec (.ppsOutEdge t) u = .next u) ∧
    (s.pps.fallAt ≤ b.dt → ∃ u, exec (.ppsOutFall t) s = .next u ∧ u.pps.high = false ∧ u.pps.base = s.pps.base ∧
      (s.pps.high = true → u.out = s.out ++ [.pin "PPS_OUT" false]) ∧ (s.pps.high = false → u.out = s.out)) ∧
    (b.dt < s.pps.fallAt → exec (.ppsOutFall t) s = .next b)) ∧
  ∀ (s : State) (k : Int), (s.ppsSecond = k ↔ (k * 1000000000 + s.ppsOff ≤ (s.wt s.activeDom s.dt : Int) ∧
    (s.wt s.activeDom s.dt : Int) < (k + 1) * 1000000000 + s.ppsOff))

/-- Every sequenced flit (EVENT, TENSOR, MGMT, TIME, HELLO, ROUTE and one of a TYPE without a message) on a port that is down or
fenced changes nothing; one that carries the expected SEQ, which had not failed before, has its message's effect, once, after its
header has been taken; any other leaves the expected SEQ and owes no further NAK, and one beyond it marks the expected one failed.
The header counts the flit, dates the link, takes what it acknowledges out of the retry buffer and gives four flits of credit back.
A routed message takes the buffer slot of its class and HOP into its effect, which returns it. A flit that fails its CRC counts; its
SEQ failing a second time is lasting and fences the port. Sending puts a message at the end of the retry buffer with the next SEQ,
or lets it wait while that is full, the receiver's buffer is, or one for the same buffer waits. PORT_UP of a trained port makes it
UP; LOS_TIMEOUT takes it down, its buffer discarded. The timers send HELLO on every live port, the device's advertisement on every
UP port while it is a member, and a TIME request on every UP port. -/
def Obligations.PisteLinksDeliverInOrder : Prop :=
  (∀ (s : State) (t : Nat) (p : Fin 6) (h : PHdr) (w : List (BitVec 64)) (rsp : Bool) (g : Option (Fin 64)), let b := s.advance t
    let m := (List.range 7).map (bw w)
    ∀ x ∈ ([(Instr.pisteEvent t p h w, fun s => s.eventIn p m (some (p.val, 0, msgHop 1 m))),
        (Instr.tensor t p h w, fun s => s.tensorIn p m (some (p.val, 1, msgHop 2 m))),
        (Instr.pisteMgmt t p h w, fun s => s.mgmtIn m (some (p.val, 2, msgHop 6 m))),
        (Instr.pisteTime t p h rsp w, fun s => if rsp then s.timeResponse p m else s.timeAnswer p),
        (Instr.hello t p h w g, fun s => s.helloIn p m (g.map fun n => n.val)), (Instr.route t p h w, fun s => s.routeIn p m),
        (Instr.pisteBadType t p h, fun s => s.inc PST.BAD_TYPE p)] : List (Instr × (State → State))),
      (s.rg PST.LINK_STATE p = 0 ∨ s.rg PST.LINK_STATE p = 3 → exec x.1 s = .next b) ∧
      (s.rg PST.LINK_STATE p = 1 ∨ s.rg PST.LINK_STATE p = 2 →
        (h.seq.val = (s.pp p).rxSeq → h.seq.val ∉ (s.pp p).failed → ∃ c : State, (c.pp p).rxSeq = (h.seq.val + 1) % 1024 ∧
          c.regs = (b.rxHeader p h).regs ∧ c.net = s.net ∧ c.ddr4 = s.ddr4 ∧ (c.pp p).retry = ((b.rxHeader p h).pp p).retry ∧
          (c.pp p).t1 = (s.pp p).t1 ∧ exec x.1 s = .next ((x.2 c).pisteNull p)) ∧
        (h.seq.val ≠ (s.pp p).rxSeq → ∃ u, exec x.1 s = .next u ∧ (u.pp p).rxSeq = (s.pp p).rxSeq ∧ (u.pp p).nak = false ∧
          (if seqLe h.seq.val (s.pp p).rxSeq then (u.pp p).failed = (s.pp p).failed else (s.pp p).rxSeq ∈ (u.pp p).failed) ∧
          u.net = s.net ∧ u.ddr4 = s.ddr4))) ∧
  (∀ (s : State) (t : Nat) (p : Fin 6) (h : PHdr), let b := s.advance t
    (s.rg PST.LINK_STATE p = 0 ∨ s.rg PST.LINK_STATE p = 3 → exec (.pisteNull t p h) s = .next b) ∧
    (s.rg PST.LINK_STATE p = 1 ∨ s.rg PST.LINK_STATE p = 2 → ∃ u, exec (.pisteNull t p h) s = .next u ∧ u = b.rxHeader p h ∧
      (u.pp p).rxSeq = (s.pp p).rxSeq ∧ (u.pp p).lastGood = b.dt ∧ u.rg PST.FLITS_RX p = (s.rg PST.FLITS_RX p + 1) % 2 ^ 64 ∧
      ((s.pp p).wait = [] → (u.pp p).retry = ((s.pp p).retry.filter fun e => !seqLe e.1 h.ack) ∧
        ∀ k, Tab.get 0 (u.pp p).out k = Tab.get 0 (s.pp p).out k - (if h.cv = true ∧ k = h.cclass.val * 8 + h.chop.val then 4 else 0)))) ∧
  (∀ (s : State) (t : Nat) (p : Fin 6) (q : Fin 1024), s.rg PST.LINK_STATE p = 0 ∨ s.rg PST.LINK_STATE p = 3 →
    exec (.pisteCrcFail t p q) s = .next (s.advance t)) ∧
  (∀ (s : State) (t : Nat) (p : Fin 6) (q : Fin 1024), s.rg PST.LINK_STATE p = 1 ∨ s.rg PST.LINK_STATE p = 2 →
    ∃ u, exec (.pisteCrcFail t p q) s = .next u ∧ u.rg PST.CRC_ERR p = (s.rg PST.CRC_ERR p + 1) % 2 ^ 32 ∧
      (q.val ∉ (s.pp p).failed → (u.pp p).failed = q.val :: (s.pp p).failed ∧ (u.pp p).rxSeq = (s.pp p).rxSeq ∧
        u.rg PST.LINK_STATE p = s.rg PST.LINK_STATE p) ∧
      (q.val ∈ (s.pp p).failed → u.pisteFenced p = true ∧ u.linkUp p = false)) ∧
  (∀ (s : State) (p ty : Nat) (body : List Nat), let u := s.pisteSend p ty body
    let k := msgBuf ty body
    let free := (s.pp p).retry.length < 256 ∧ (∀ i, k = some i → Tab.get 0 (s.pp p).out i < s.bufs) ∧ ∀ m ∈ (s.pp p).wait, m.buf ≠ k
    (free → (u.pp p).retry = (s.pp p).retry ++ [((s.pp p).txSeq, ty, body)] ∧ (u.pp p).wait = (s.pp p).wait ∧
      (u.pp p).txSeq = ((s.pp p).txSeq + 1) % 1024 ∧ u.rg PST.FLITS_TX p = (s.rg PST.FLITS_TX p + 1) % 2 ^ 64 ∧ u.net = s.net ∧
      ∀ i, Tab.get 0 (u.pp p).out i = Tab.get 0 (s.pp p).out i + if k = some i then 1 else 0) ∧
    (¬ free → (u.pp p).wait = (s.pp p).wait ++ [⟨ty, body, none⟩] ∧ (u.pp p).retry = (s.pp p).retry ∧
      (u.pp p).txSeq = (s.pp p).txSeq ∧ u.out = s.out) ∧
    ∀ q, q ≠ p → u.pp q = s.pp q) ∧
  (∀ (s : State) (p cls hop : Nat), let u := s.consumed p cls hop
    let n := Tab.get 0 (s.pp p).used (cls * 8 + hop)
    (n ≠ 3 → (u.pp p).owed = (s.pp p).owed ∧ Tab.get 0 (u.pp p).used (cls * 8 + hop) = n + 1) ∧
    (n = 3 → (u.pp p).owed = (s.pp p).owed ++ [(cls, hop)] ∧ Tab.get 0 (u.pp p).used (cls * 8 + hop) = 0) ∧
    s.credited (some (p, cls, hop)) = u.pisteNull p ∧ s.credited none = s) ∧
  (∀ (s : State) (t : Nat) (p : Fin 6), let b := s.advance t
    let able := s.rg PST.LINK_STATE p = 1 ∧ (s.pp p).hello = true ∧ s.pisteFenced p = false ∧ s.clkGood ⟨.pst, p⟩ = true
    (able → ∃ u, exec (.portUp t p) s = .next u ∧ u.rg PST.LINK_STATE p = 2 ∧ (u.rg (Hdr.IRQ_RAW .pst) p).testBit 9 = true ∧
      (u.pp p).lastGood = b.dt ∧ u.rg FAB.MSTATE 0 ≠ 0) ∧
    (¬ able → exec (.portUp t p) s = .next b) ∧
    (s.rg PST.LINK_STATE p = 2 → (s.pp p).lastGood + s.rg PST.LOS_NS p < b.dt → ∃ u, exec (.losTimeout t p) s = .next u ∧
      u.rg PST.LINK_STATE p = (if s.pisteFenced p then 3 else if s.on (Hdr.ENABLE .pst) p && !b.asleep then 1 else 0) ∧
      u.rg PST.LINK_DOWNS p = (s.rg PST.LINK_DOWNS p + 1) % 2 ^ 32 ∧ (u.rg (Hdr.IRQ_RAW .pst) p).testBit 8 = true ∧ (u.pp p).retry = [] ∧
      (u.pp p).wait = []) ∧
    (s.rg PST.LINK_STATE p ≠ 2 ∨ b.dt ≤ (s.pp p).lastGood + s.rg PST.LOS_NS p → exec (.losTimeout t p) s = .next b)) ∧
  ∀ (s : State) (t : Nat), let b := s.advance t
    (∃ u, exec (.helloTimer t) s = .next u ∧ (∀ p, p < 6 → s.rg PST.LINK_STATE p = 1 ∨ s.rg PST.LINK_STATE p = 2 →
      (s.pp p).retry.length < 256 → (s.pp p).wait = [] → (u.pp p).retry = (s.pp p).retry ++ [((s.pp p).txSeq, 4, s.helloWords p)]) ∧
      ∀ p, s.rg PST.LINK_STATE p = 0 ∨ s.rg PST.LINK_STATE p = 3 → u.pp p = s.pp p) ∧
    (s.rg FAB.MSTATE 0 ≠ 2 → exec (.routeTimer t) s = .next b) ∧
    (s.rg FAB.MSTATE 0 = 2 → ∃ u, exec (.routeTimer t) s = .next u ∧ u.fab.advSeq = s.fab.advSeq + 1 ∧
      (∀ p, p < 6 → s.linkUp p = true → (s.pp p).retry.length < 256 → (s.pp p).wait = [] →
        (u.pp p).retry = (s.pp p).retry ++ [((s.pp p).txSeq, 5, u.ownAdv)]) ∧ ∀ p, s.linkUp p = false → u.pp p = s.pp p) ∧
    ∃ u, exec (.timeRequestTimer t) s = .next u ∧ (∀ p, p < 6 → s.linkUp p = true → (u.pp p).t1 = some b.dt ∧
      ((s.pp p).retry.length < 256 → (s.pp p).wait = [] → (u.pp p).retry = (s.pp p).retry ++ [((s.pp p).txSeq, 3, [b.dt])])) ∧
      ∀ p, s.linkUp p = false → u.pp p = s.pp p

/-- An EVENT for this device delivers its spikes, at the DT nearest its fabric time, to each cluster of its group's entry while the
links there have room, and keeps the rest with its buffer, or counts misses; one with 0 or 7 spikes counts as bad; a message for
another device leaves by its route with HOP one higher, or is dropped and counted. A TENSOR flit joins its transfer, the last one
puts the padded record into the inbox ring, or counts its drop. A TIME response sets LINK_DELAY, and from the parent FT_ERR; the
eighth shared sample locks FT to their rounded mean. HELLO shows the neighbour, ROUTE keeps a newer advertisement, ROUTE_RECOMPUTE
takes the shortest path, lowest device, lowest port. PISTE_EGRESS, unless an egress buffer is full, copies a spike to every other
device of its entry; PACK_TIMEOUT leaves no overdue open flit. RMT_READ and RMT_WRITE start an access or are rejected, its response
or its timeout ends it. DEV_NUM_REQ, FGT_CLUSTERS and INBOX_ENABLE writes take effect or are rejected. -/
def Obligations.FabricMessagesAndRegisters : Prop :=
  (∀ (s : State) (p : Nat) (m : List Nat) (src : Option (Nat × Nat × Nat)), let w0 := m.getD 0 0
    let n := bitsAt w0 52 3
    let l := (m.drop 1).take n
    let u := s.eventIn p m src
    let y := s.spikesIn w0 l
    (n = 0 ∨ n = 7 → u = (s.inc PST.BAD_TYPE p).credited src) ∧
    (1 ≤ n → n ≤ 6 → bitsAt w0 55 6 ≠ s.devNum → u = s.forward 1 m src) ∧
    (1 ≤ n → n ≤ 6 → p < 6 → m ≠ [] → bitsAt w0 55 6 = s.devNum → (∀ q, q < 6 → (s.pp q).rx = []) →
      (y.1 = [] → u.rg FAB.SPIKES_RX 0 = (s.rg FAB.SPIKES_RX 0 + l.length) % 2 ^ 64 ∧ (u.pp p).rx = [] ∧
        (s.fgt (bitsAt w0 35 16) = none → u.rg FAB.FGT_MISS 0 = (s.rg FAB.FGT_MISS 0 + l.length) % 2 ^ 32 ∧ u.net = s.net) ∧
        ∀ e, s.fgt (bitsAt w0 35 16) = some e → u.net = s.net ++ l.flatMap fun w => s.spikeUnits e w0 (bitsAt w0 35 16) (bitsAt w0 51 1) w) ∧
      (y.1 ≠ [] → (u.pp p).rx = [⟨1, w0 :: y.1, src⟩] ∧ u.net = y.2.net))) ∧
  (∀ (s : State) (e w0 g c w : Nat), let d := s.dtOfFt (rebuild (s.ft s.dt) (bitsAt w0 0 35))
    s.spikeUnits e w0 g c w = (clustersOf (s.rg FAB.FGT_CLUSTERS 0 e)).map fun k =>
      ⟨2, 1, k, 0, srcField 2 0 2, [st35 d ||| bitsAt w 32 29 <<< 35, bitsAt w 0 32 ||| g <<< 32 ||| c <<< 48]⟩) ∧
  (∀ (s : State) (w0 w : Nat) (ws : List Nat), let g := bitsAt w0 35 16
    (s.spikesIn w0 []).1 = [] ∧ (s.spikesIn w0 []).2 = s ∧
    (s.fgt g = none → (s.spikesIn w0 (w :: ws)).1 = [] ∧ (s.spikesIn w0 (w :: ws)).2.net = s.net) ∧
    ∀ e, s.fgt g = some e → let us := s.spikeUnits e w0 g (bitsAt w0 51 1) w
      (us.all s.linkRoom = false → s.spikesIn w0 (w :: ws) = (w :: ws, s)) ∧
      (us.all s.linkRoom = true → s.spikesIn w0 (w :: ws) = (us.foldl (fun s f => s.send f) (s.inc FAB.SPIKES_RX 0)).spikesIn w0 ws)) ∧
  (∀ (s : State) (ty : Nat) (m : List Nat) (src : Option (Nat × Nat × Nat)), let h := msgHop ty m + 1
    (6 < h ∨ s.routePort (msgDest ty (setHop ty m h)) = none → s.forward ty m src = (s.inc FAB.UNREACH_DROPS 0).credited src) ∧
    (h ≤ 6 → m ≠ [] → ∀ q, s.routePort (msgDest ty m) = some q → s.forward ty m src = s.pisteSend q ty (setHop ty m h) src ∧
      msgHop ty (setHop ty m h) = h ∧ msgDest ty (setHop ty m h) = msgDest ty m)) ∧
  (∀ (s : State) (d q : Nat), s.routePort d = some q → s.linkUp q = true ∧ s.rg FAB.MSTATE 0 ≠ 3 ∧
    (q = s.rg FAB.PRIMARY 0 d ∨ (q = s.rg FAB.ALT 0 d ∧ (s.on FAB.P_VALID 0 d = false ∨ s.linkUp (s.rg FAB.PRIMARY 0 d) = false)))) ∧
  (∀ (s : State) (p : Nat) (m : List Nat) (held : Option (Nat × Nat × Nat)), let w0 := m.getD 0 0
    let src := bitsAt w0 9 6
    let tid := bitsAt w0 16 16
    let data := (List.range 6).flatMap fun i => leBytes 8 (m.getD (i + 1) 0)
    let rest := s.fab.xfers.filter fun x => !(x.src == src && x.tid == tid)
    let x := (s.fab.xfers.find? fun x => x.src == src && x.tid == tid).getD ⟨src, tid, p, []⟩
    (bitsAt w0 0 6 ≠ s.devNum → s.tensorIn p m held = s.forward 2 m held) ∧
    (bitsAt w0 0 6 = s.devNum → s.tensorIn p m held = (s.tensorHere p m).credited held) ∧
    (x.port = 6 → s.tensorHere p m = s.setXfers (if w0.testBit 15 then rest else s.fab.xfers)) ∧
    (x.port ≠ 6 → x.port ≠ p ∨ bitsAt w0 32 32 ≠ x.data.length → ∃ u, s.tensorHere p m = u ∧
      u.rg FAB.TENSOR_DISCARD 0 = (s.rg FAB.TENSOR_DISCARD 0 + 1) % 2 ^ 32 ∧ u.ddr4 = s.ddr4) ∧
    (x.port ≠ 6 → x.port = p → bitsAt w0 32 32 = x.data.length →
      (w0.testBit 15 = false → s.tensorHere p m = s.setXfers ({ x with data := x.data ++ data } :: rest)) ∧
      (w0.testBit 15 = true → s.tensorHere p m = (s.setXfers rest).transferDone (x.data ++ data)))) ∧
  (∀ (s : State) (data : List Byte), let total := 16 + leNat (slice data 4 4)
    let r := pad64 (data.take total)
    let size := 2 ^ s.rg FAB.INBOX_SIZE_LOG 0
    let used := (s.rg FAB.INBOX_PROD 0 + 2 ^ 32 - s.rg FAB.INBOX_CONS 0) % 2 ^ 32
    let at_ := s.rg FAB.INBOX_PROD 0 % size
    total ≤ data.length →
    (s.on FAB.INBOX_EN 0 = false ∨ size < used + r.length → s.transferDone data = s.inc FAB.INBOX_DROPS 0) ∧
    (s.on FAB.INBOX_EN 0 = true → used + r.length ≤ size → let u := s.transferDone data
      u.rg FAB.INBOX_PROD 0 = (s.rg FAB.INBOX_PROD 0 + r.length) % 2 ^ 32 ∧ (u.rg (Hdr.IRQ_RAW .fab) 0).testBit 12 = true ∧
      (at_ + r.length ≤ size → Mem.rdBytes u.ddr4 (s.rg FAB.INBOX_BASE 0 + at_) r.length = r))) ∧
  (∀ (s : State) (p t1 : Nat) (m : List Nat), (s.pp p).t1 = some t1 →
    let d := Int.tdiv (((s.dt : Int) - t1) - ((m.getD 1 0 : Int) - (m.getD 0 0 : Int))) 2
    let e : Int := (m.getD 2 0 : Int) + d + signed 32 (s.rg PST.ASYM_CORR p) - s.ft s.dt
    let parent := s.on FAB.PARENT_VALID 0 = true ∧ s.rg FAB.PARENT_PORT 0 = p ∧ s.rg FAB.MSTATE 0 = 2
    let u := s.timeResponse p m
    u.rg PST.LINK_DELAY p = unsigned 32 d ∧ (u.pp p).t1 = none ∧ (parent → u.rg FAB.FT_ERR 0 = unsigned 32 (satS 32 e)) ∧
      (¬ parent → u.rg FAB.FAB_OFFSET 0 = s.rg FAB.FAB_OFFSET 0 ∧ u.rg FAB.FAB_RATE 0 = s.rg FAB.FAB_RATE 0)) ∧
  (∀ (s : State) (e off : Int), s.on FAB.FT_LOCKED 0 = false → let l := off :: s.fab.ftSamples
    (l.length < 8 → (s.ftShared e off).regs = s.regs ∧ (s.ftShared e off).fab.ftSamples = l) ∧
    (l.length = 8 → let m := floorDiv (2 * l.sum + 8) 16
      (s.ftShared e off).rg FAB.FAB_OFFSET 0 = unsigned 128 (m * 2 ^ 32) ∧ (s.ftShared e off).rg FAB.FAB_RATE 0 = 2 ^ 32 ∧
        (s.ftShared e off).on FAB.FT_LOCKED 0 = true)) ∧
  (∀ (s : State) (p : Nat), ∃ t3, s.dt ≤ t3 ∧ t3 ≤ s.dt + 10000 ∧
    s.timeAnswer p = State.pisteSend { s with free := s.free + 1 } p 3 [s.dt, t3, s.ft t3]) ∧
  (∀ (s : State) (p : Nat) (m : List Nat) (g : Option Nat), p < 6 → let u := s.helloIn p m g
    let w1 := m.getD 1 0
    u.rg PST.NBR_UID p = m.getD 0 0 % 2 ^ 64 ∧ u.rg PST.NBR_DEV p = bitsAt w1 0 6 ∧ u.on PST.NBR_VALID p = w1.testBit 6 ∧
      u.rg PST.NBR_PORT p = bitsAt w1 11 3 ∧ (u.pp p).hello = true ∧
      (w1.testBit 6 = true → s.on FAB.PIN_NUM 0 = true → bitsAt w1 0 6 = s.devNum → m.getD 0 0 < s.rg FAB.UID 0 →
        s.on PST.NBR_VALID p = false ∨ s.rg PST.NBR_DEV p ≠ s.devNum ∨ s.rg PST.NBR_UID p ≠ m.getD 0 0 → u.rg FAB.DUP_NUM 0 = (s.rg FAB.DUP_NUM 0 + 1) % 2 ^ 32 ∧ u.rg FAB.MSTATE 0 = 3)) ∧
  (∀ (s : State) (p : Nat) (m : List Nat), let o := bitsAt (m.getD 0 0) 0 6
    let seq := bitsAt (m.getD 0 0) 32 32
    let old := Tab.get none s.fab.advs o
    ((o = s.devNum ∧ s.fab.numOk = true) ∨ (∃ a, old = some a ∧ seq ≤ a.seq) → s.routeIn p m = s) ∧
    (o ≠ s.devNum ∨ s.fab.numOk = false → (∀ a, old = some a → a.seq < seq) → let u := s.routeIn p m
      u.fab.dirty = true ∧ ∃ a, Tab.get none u.fab.advs o = some a ∧ a.seq = seq ∧ a.ports = (List.range 6).map fun i => m.getD (i + 1) 0)) ∧
  (∀ (s : State) (t : Nat), let b := s.advance t
    let ds := (s.upPorts.filter fun p => s.on PST.NBR_VALID p).map fun p => (p, s.dists 6 (s.rg PST.NBR_DEV p))
    (s.fab.dirty = false ∨ s.host.fwDown = true → exec (.routeRecompute t) s = .next b) ∧
    (s.fab.dirty = true → s.host.fwDown = false → ∃ u, exec (.routeRecompute t) s = .next u ∧ u.fab.dirty = false ∧
      ∀ d, d < 64 → d ≠ s.devNum → s.on FAB.PINNED 0 d = false →
        (s.paths ds d = [] → u.on FAB.REACHABLE 0 d = false ∧ u.on FAB.P_VALID 0 d = false) ∧
        ∀ e l, s.paths ds d = e :: l → u.on FAB.REACHABLE 0 d = true ∧ u.on FAB.P_VALID 0 d = true ∧
          u.rg FAB.PRIMARY 0 d = e.2.2 % 8 ∧ u.rg FAB.HOPS_P 0 d = e.1 % 8 ∧ ∀ x ∈ l, e.1 ≤ x.1)) ∧
  (∀ (s : State) (t : Nat), let a := s.advance t
    let x := a.takeUnit fun f => f.toHub 2 2 && !(List.range 6).any a.egressFull
    (x = none → exec (.pisteEgress t) s = .next a) ∧
    ∀ f b, x = some (f, b) → let w0 := f.words.getD 0 0
      let w1 := f.words.getD 1 0
      (b.fgt (bitsAt w1 32 16) = none → exec (.pisteEgress t) s = .next (b.inc FAB.FGT_MISS 0)) ∧
      ∀ e, b.fgt (bitsAt w1 32 16) = some e →
        let devs := (List.range 64).filter fun d => bit (b.rg FAB.FGT_DEVMASK 0 e) d && d != b.devNum
        exec (.pisteEgress t) s = .next (devs.foldl (fun c d => c.joinOpen d (st35 (b.ft (rebuild b.dt (st35 w0)))) (bitsAt w1 32 16)
          (bitsAt w1 48 1) (bitsAt w1 0 32 ||| (w0 >>> 35) <<< 32)) b)) ∧
  (∀ (s : State) (dest ft35 group cls spike : Nat), let u := s.joinOpen dest ft35 group cls spike
    u.rg FAB.SPIKES_TX 0 = (s.rg FAB.SPIKES_TX 0 + 1) % 2 ^ 64 ∧
      (s.rg FAB.PACK_NS 0 ≠ 0 → (∀ f ∈ s.fab.openF, f.dest ≠ dest) → u.fab.openF = s.fab.openF ++ [⟨dest, ft35, group, cls, [spike], s.dt⟩])) ∧
  (∀ (s : State) (t : Nat), ∃ u, exec (.packTimeout t) s = .next u ∧ u.dt = (s.advance t).dt ∧
    ∀ f ∈ u.fab.openF, f ∈ s.fab.openF ∧ u.dt < f.since + s.rg FAB.PACK_NS 0) ∧
  (∀ (s : State) (m : List Nat) (src : Option (Nat × Nat × Nat)), let w0 := m.getD 0 0
    (bitsAt w0 0 6 ≠ s.devNum → s.mgmtIn m src = s.forward 6 m src) ∧
    (bitsAt w0 0 6 = s.devNum → w0.testBit 59 = true → s.rg FAB.RMT_STATUS 0 ≠ 1 → s.mgmtIn m src = s.credited src) ∧
    (bitsAt w0 0 6 = s.devNum → w0.testBit 59 = true → s.rg FAB.RMT_STATUS 0 = 1 → let u := s.mgmtIn m src
      u.rg FAB.RMT_STATUS 0 = 2 ∧ u.on FAB.RMT_DENIED 0 = w0.testBit 60 ∧ u.fab.rmtAt = none ∧
        u.rg FAB.RMT_DATA 0 = if w0.testBit 58 then s.rg FAB.RMT_DATA 0 else m.getD 1 0 % 2 ^ 32) ∧
    (bitsAt w0 0 6 = s.devNum → w0.testBit 59 = false → w0.testBit 58 = false →
      let r := s.regRead .fabric (bitsAt w0 32 26 / 4 * 4)
      let x := if r.2.1 then r.2.2.inc FAB.MGMT_DENIED 0 else r.2.2
      s.mgmtIn m src = (x.sendRouted 6 [mgmtWord (bitsAt w0 9 6) x.devNum (bitsAt w0 32 26) false true r.2.1, r.1]).credited src)) ∧
  (∀ (s : State) (t : Nat) (c : Req) (v : Word), Reaches s t c ⟨.fab, 0⟩ → let b := s.advance t
    let op := FAB.RMT_CMD.of v
    let go := fun i : Instr => ∃ u, exec i s = .next u ∧ u.rg FAB.RMT_STATUS 0 = 1 ∧ u.on FAB.RMT_DENIED 0 = false ∧ u.fab.rmtAt = some b.dt
    (s.rg FAB.RMT_STATUS 0 = 1 ∨ op = 0 ∨ op = 3 → exec (.rmtRead t c v) s = .next (b.irqSet ⟨.fab, 0⟩ 4) ∧
      exec (.rmtWrite t c v) s = .next (b.irqSet ⟨.fab, 0⟩ 4)) ∧
    (s.rg FAB.RMT_STATUS 0 ≠ 1 → (op = 1 → go (.rmtRead t c v)) ∧ (op = 2 → go (.rmtWrite t c v))) ∧
    (∃ u, exec (.devNumReqWrite t c v) s = .next u ∧ u.rg FAB.REQ_NUM 0 = FAB.REQ_NUM.of v ∧ u.rg FAB.REQ_VALID 0 = FAB.REQ_VALID.of v ∧
      (FAB.REQ_VALID.of v = 1 → s.on FAB.IS_ROOT 0 = true → s.on FAB.PIN_NUM 0 = false → s.rg FAB.MSTATE 0 ≠ 0 →
        FAB.REQ_NUM.of v ∉ s.numsTaken → u.rg FAB.DEV_NUM 0 = FAB.REQ_NUM.of v ∧ u.rg FAB.ROOT_DEV 0 = FAB.REQ_NUM.of v)) ∧
    (∃ u, let e := s.rg FAB.FGT_INDEX 0
      exec (.fgtClustersWrite t c v) s = .next u ∧ u.rg FAB.FGT_CLUSTERS 0 e = FAB.FGT_CLUSTERS.of v ∧
        (∀ f ∈ [FAB.FGT_TAG, FAB.FGT_VALID, FAB.FGT_DEVMASK], u.rg f 0 e = s.rg f 0 stageIdx % 2 ^ f.width ∧
          ∀ q, q < 1024 → q ≠ e → u.rg f 0 q = s.rg f 0 q)) ∧
    let k := FAB.INBOX_SIZE_LOG.of v
    (k < 16 ∨ 30 < k ∨ (s.on FAB.INBOX_EN 0 = true ∧ k ≠ s.rg FAB.INBOX_SIZE_LOG 0) →
      exec (.inboxEnable t c v) s = .next (b.irqSet ⟨.fab, 0⟩ 4)) ∧
    (16 ≤ k → k ≤ 30 → s.on FAB.INBOX_EN 0 = false → FAB.INBOX_EN.of v = 1 → ∃ u, exec (.inboxEnable t c v) s = .next u ∧
      u.on FAB.INBOX_EN 0 = true ∧ u.rg FAB.INBOX_SIZE_LOG 0 = k ∧ u.rg FAB.INBOX_PROD 0 = 0 ∧ u.rg FAB.INBOX_CONS 0 = 0)) ∧
  ∀ (s : State) (t : Nat),
    (∀ a, s.fab.rmtAt = some a → a + 100000 ≤ (s.advance t).dt → ∃ u, exec (.rmtTimeout t) s = .next u ∧ u.rg FAB.RMT_STATUS 0 = 3 ∧
      u.rg FAB.RMT_DATA 0 = (if s.fab.rmtRead then 0 else s.rg FAB.RMT_DATA 0) ∧ u.fab.rmtAt = none) ∧
    ((∀ a, s.fab.rmtAt = some a → (s.advance t).dt < a + 100000) → exec (.rmtTimeout t) s = .next (s.advance t))

/-- POR and RESET_N_LOW leave every register field at its reset value but CAUSE_HIST and LAST_CAUSE, DT at 0 and stopped, no PLL
locked, SRAM empty, no unit fenced, and their hold in force; log, keys and fuses stand, and ALERT_N is released. RESET_N_RISE and
POR_RELEASE end their hold, and boot begins when none is left. A warm reset (WDOG_EXPIRY at the end of the period, PKG_RESET with
its keys) takes hold after its wait: every register outside RSTC, TIME and HUB returns to its reset value, DT goes on, the cause is
recorded and counted, the byte contents of DDR4 stand but for the training area, boot goes on at the option load. A PKG_RESET
without its keys is rejected. WDOG_WARN raises its interrupt when half the period is left; WDOG_KICK with its key starts a period;
WDOG_EN starts the watchdog; a period out of range is rejected. Up to 10 µs until an expiry takes hold are free. -/
def Obligations.PackageResetsAndWatchdog : Prop :=
  (∀ (s : State) (t : Nat), ∀ x ∈ ([(Instr.por t, 0, true, s.boot.pinHold), (Instr.resetNLow t, 1, s.boot.porHold, true)] :
      List (Instr × Nat × Bool × Bool)), ∃ u, exec x.1 s = .next u ∧ u.ns = 0 ∧ u.aonRun = false ∧ u.boot.lock = 0 ∧ u.boot.hubUp = false ∧
    u.boot.diesUp = 0 ∧ u.fenced = [] ∧ u.sram = [] ∧ u.net = [] ∧ u.boot.porHold = x.2.2.1 ∧ u.boot.pinHold = x.2.2.2 ∧
    u.sec.flog = s.sec.flog ∧ u.sec.owner = s.sec.owner ∧ u.sec.revoked = s.sec.revoked ∧ u.sec.alert = false ∧ u.pending = s.pending ∧
    (∀ (f : Fld) (i j : Nat), f.key i j ≠ RSTC.CAUSE_HIST.key 0 → f.key i j ≠ RSTC.LAST_CAUSE.key 0 → u.rg f i j = f.reset) ∧
    (u.rg RSTC.CAUSE_HIST 0).testBit x.2.1 = true ∧
    (s.boot.porHold = false → s.boot.pinHold = false → u.rg RSTC.LAST_CAUSE 0 = x.2.1 ∧ u.rg RSTC.CAUSE_HIST 0 = 2 ^ x.2.1)) ∧
  (∀ (s : State) (t : Nat), let b := s.advance t
    (s.boot.pinHold = true → ∃ u, exec (.resetNRise t) s = .next u ∧ u.boot.pinHold = false ∧ u.boot.porHold = s.boot.porHold ∧
      u.phase = if s.boot.porHold then s.phase else 1) ∧
    (s.boot.pinHold = false → exec (.resetNRise t) s = .next b) ∧
    (s.boot.porHold = true → ∃ u, exec (.porRelease t) s = .next u ∧ u.boot.porHold = false ∧ u.boot.pinHold = s.boot.pinHold ∧
      u.phase = if s.boot.pinHold then s.phase else 1) ∧
    (s.boot.porHold = false → exec (.porRelease t) s = .next b)) ∧
  (∀ (s : State) (cause wait : Nat), cause < 6 → let u := s.warmReset cause wait
    u.ns = s.ns + wait ∧ u.aonRun = s.aonRun ∧ u.phase = 2 ∧ u.rg RSTC.LAST_CAUSE 0 = cause ∧
      (u.rg RSTC.CAUSE_HIST 0).testBit cause = true ∧ u.boot.hubUp = false ∧ u.boot.lock = s.boot.lock % 2 ∧ u.sram = [] ∧ u.fenced = [] ∧
      u.net = [] ∧ u.pending = s.pending ∧ u.sec.flog = s.sec.flog ∧ u.sec.owner = s.sec.owner ∧ u.sec.alert = false ∧
      (cause = 2 → u.rg RSTC.WDOG_COUNT 0 = (s.rg RSTC.WDOG_COUNT 0 + 1) % 2 ^ 32 ∧ u.rg RSTC.BOOT_COUNT 0 = (s.rg RSTC.BOOT_COUNT 0 + 1) % 2 ^ 8) ∧
      (cause ≠ 2 → u.rg RSTC.SOFT_COUNT 0 = (s.rg RSTC.SOFT_COUNT 0 + 1) % 2 ^ 32 ∧ u.rg RSTC.BOOT_COUNT 0 = s.rg RSTC.BOOT_COUNT 0) ∧
      (∀ (f : Fld) (i j : Nat), f.pk ≠ .time → f.pk ≠ .rstc → f.pk ≠ .hub → u.rg f i j = f.reset)) ∧
  (∀ (s : State) (cause wait a : Nat), (∀ c, c < 6 → Tab.get [] s.ddrq c = []) → (∀ i, i < 36 → (s.jr i).flight = []) →
    (s.ddrCapacity ≤ a ∨ a + 4194304 < s.ddrCapacity) → Mem.rd (s.warmReset cause wait).ddr4 a = Mem.rd s.ddr4 a) ∧
  (∀ (s : State) (t : Nat), let b := s.advance t
    (s.wdogRuns = true → s.boot.wdogEnd ≤ b.dt + 500000 * s.boot.wdogPer → exec (.wdogWarn t) s = .next (b.irqSet ⟨.rstc, 0⟩ 8)) ∧
    (s.wdogRuns = false ∨ b.dt + 500000 * s.boot.wdogPer < s.boot.wdogEnd → exec (.wdogWarn t) s = .next b) ∧
    (s.wdogRuns = true → s.boot.wdogEnd ≤ b.dt → ∃ w, w ≤ 10000 ∧
      exec (.wdogExpiry t) s = .next (State.warmReset { b with free := s.free + 1 } 2 w)) ∧
    (s.wdogRuns = false ∨ b.dt < s.boot.wdogEnd → exec (.wdogExpiry t) s = .next b)) ∧
  ∀ (s : State) (t : Nat) (c : Req) (v : Word), Reaches s t c ⟨.rstc, 0⟩ → let b := s.advance t
    let p := RSTC.WDOG_PERIOD_MS.of v
    let keyed := RSTC.PKG_RESET_KEY.of v = 0xA5 ∧ RSTC.PKG_RESET_CONFIRM.of v = 0x5A ∧ RSTC.PKG_RESET_REQUEST.of v = 1
    (keyed → exec (.pkgReset t c v) s = .next (b.warmReset 3 1000)) ∧
    (¬ keyed → exec (.pkgReset t c v) s = .next (b.irqSet ⟨.rstc, 0⟩ 4)) ∧
    (bitsAt v.toNat 24 8 = 0xA5 → RSTC.WDOG_KICK.of v = 1 → ∃ u, exec (.wdogKick t c v) s = .next u ∧
      u.boot.wdogEnd = b.dt + 1000000 * s.rg RSTC.WDOG_PERIOD_MS 0 ∧ u.regs = s.regs) ∧
    (bitsAt v.toNat 24 8 ≠ 0xA5 ∨ RSTC.WDOG_KICK.of v = 0 → exec (.wdogKick t c v) s = .next b) ∧
    (p = 0 ∨ 10000 < p → exec (.wdogEnWrite t c v) s = .next (b.irqSet ⟨.rstc, 0⟩ 4)) ∧
    (1 ≤ p → p ≤ 10000 → ∃ u, exec (.wdogEnWrite t c v) s = .next u ∧ u.rg RSTC.WDOG_PERIOD_MS 0 = p ∧
      (RSTC.WDOG_EN.of v = 1 → u.on RSTC.WDOG_EN 0 = true ∧ u.boot.wdogOn = true ∧
        (s.boot.wdogOn = false → u.boot.wdogEnd = b.dt + 1000000 * p)) ∧
      (RSTC.WDOG_EN.of v = 0 → u.boot = s.boot ∧ u.on RSTC.WDOG_EN 0 = s.on RSTC.WDOG_EN 0))

/-- REFCLK_DETECT notes the clock in phase 1. OPTION_LOAD_DONE in phase 2 judges the bytes: blank, valid (which are then in use) or
bad. HUB_PLL_TIMEOUT with no lock ends boot. VAULT_IMAGE_CHECKED starts firmware from a good flash image and goes to host boot with
the reason from a bad one, or after three watchdog resets; in host boot a good image from the host starts it too. DDR_TRAIN_DONE of
a training channel records the result, a failure as a lasting fault; DIE_LINK_TRAINED notes the trained links, a failure is logged;
once no channel trains, dies whose links have trained are released with their SRAM zeroed; BOOT_READY makes READY and the tables of
protection the base ones. BOOT_COUNT_CLEAR after 60 s. HB_GO starts a host load in host boot, which reads the image. OPT_BURN with
its keys burns valid staged bytes into blank ones or fails; BURN_DONE puts them into the fuses. Other states are left as they are.
-/
def Obligations.BootReachesReadyStepByStep : Prop :=
  (∀ (s : State) (t : Nat), let b := s.advance t
    (s.phase = 1 → exec (.refclkDetect t) s = .next { b with boot := { b.boot with refclkOk := true } }) ∧
    (s.phase ≠ 1 → exec (.refclkDetect t) s = .next b) ∧
    (s.phase ≠ 2 → exec (.optionLoadDone t) s = .next b) ∧
    (s.phase = 2 → ∃ u, exec (.optionLoadDone t) s = .next u ∧ u.phase = 3 ∧ u.on OPT.LOADED 0 = true ∧
      u.on OPT.OPT_BLANK 0 = optBlank s.boot.otp ∧ u.on OPT.OPT_BAD 0 = (!optBlank s.boot.otp && !optValid s.boot.otp) ∧
      (optBlank s.boot.otp = false → optValid s.boot.otp = true →
        ∀ w, w < 64 → u.rg (OPT.OPT_IN_USE.nth w) 0 = leAt s.boot.otp (4 * w) 4)) ∧
    (s.phase = 3 → bit s.boot.lock 1 = false → exec (.hubPllTimeout t) s = .next (b.rs RSTC.BOOT_PHASE 0 11)) ∧
    (s.phase ≠ 3 ∨ bit s.boot.lock 1 = true → exec (.hubPllTimeout t) s = .next b) ∧
    (s.phase = 10 → s.boot.readyDT + 60000000000 ≤ b.dt → exec (.bootCountClear t) s = .next (b.rs RSTC.BOOT_COUNT 0 0)) ∧
    (s.phase ≠ 10 ∨ b.dt < s.boot.readyDT + 60000000000 → exec (.bootCountClear t) s = .next b)) ∧
  (∀ (s : State) (t : Nat) (img : Option (List Byte)), let b := s.advance t
    let r := imageCheck img
    (s.phase ≠ 4 → s.phase ≠ 5 → exec (.vaultImageChecked t img) s = .next b) ∧
    (s.phase = 4 → 3 ≤ s.rg RSTC.BOOT_COUNT 0 → exec (.vaultImageChecked t img) s = .next (b.hostBoot 5)) ∧
    (s.phase = 4 → s.rg RSTC.BOOT_COUNT 0 < 3 → r ≠ 0 → exec (.vaultImageChecked t img) s = .next (b.hostBoot r)) ∧
    (s.phase = 4 → s.rg RSTC.BOOT_COUNT 0 < 3 → ∀ d, img = some d → r = 0 → ∃ u, exec (.vaultImageChecked t img) s = .next u ∧
      6 ≤ u.phase ∧ u.phase ≤ 8 ∧ u.rg VAULT.IMG_VERSION 0 = imageVersion d % 2 ^ 32 ∧ u.rg VAULT.BOOT_SRC 0 = 1 ∧
      u.sec.fwDigest = imageDigest d) ∧
    (s.phase = 5 → s.rg VAULT.HB_STATUS 0 = 1 → s.hostUp = false → ∃ u, exec (.vaultImageChecked t img) s = .next u ∧
      u.rg VAULT.HB_STATUS 0 = 3 ∧ u.rg VAULT.FAIL_REASON 0 = 1 ∧ u.phase = 5) ∧
    (s.phase = 5 → s.rg VAULT.HB_STATUS 0 = 1 → s.hostUp = true → ∀ d, img = some d → d.length ≤ s.rg VAULT.HB_LEN 0 → r = 0 →
      ∃ u, exec (.vaultImageChecked t img) s = .next u ∧ u.rg VAULT.HB_STATUS 0 = 4 ∧ u.rg VAULT.FAIL_REASON 0 = 0 ∧ 6 ≤ u.phase ∧
        u.rg VAULT.BOOT_SRC 0 = 2)) ∧
  (∀ (s : State) (reason : Nat), reason < 256 → let u := s.hostBoot reason
    u.phase = 5 ∧ u.rg VAULT.FAIL_REASON 0 = reason ∧ u.host.ready = true ∧
      ∀ p, u.answers p = (s.boot.hubUp && ([.hub, .rstc, .opt, .pcie, .vault] : List PK).contains p.pk)) ∧
  (∀ (s : State) (t : Nat) (c : Fin 6) (fail : BitVec 3) (ranks : BitVec 2) (cap ms rd wr : BitVec 16), let b := s.advance t
    (s.rg DDR.TRAIN_STATE c ≠ 1 ∨ bit s.boot.lock 6 = false → exec (.ddrTrainDone t c fail ranks cap ms rd wr) s = .next b) ∧
    (s.rg DDR.TRAIN_STATE c = 1 → bit s.boot.lock 6 = true → fail = 0 → ∃ u, exec (.ddrTrainDone t c fail ranks cap ms rd wr) s = .next u ∧
      u.rg DDR.TRAIN_STATE c = 2 ∧ u.rg DDR.CAPACITY_MB c = cap.toNat ∧ u.rg DDR.RANKS c = ranks.toNat ∧ u.rg DDR.TRAIN_MS c = ms.toNat ∧
      u.ddr4 = s.ddr4) ∧
    (s.rg DDR.TRAIN_STATE c = 1 → bit s.boot.lock 6 = true → fail ≠ 0 → exec (.ddrTrainDone t c fail ranks cap ms rd wr) s =
      .next ((((((b.rs DDR.TRAIN_FAIL c fail.toNat).rs DDR.TRAIN_MS c ms.toNat).rs DDR.TRAIN_STATE c 3).logFault ⟨.ddr, c⟩ true 7 0).fenceUnit
        (.ddr c) 7).bootNext))) ∧
  (∀ (s : State) (t : Nat) (d : Fin 4), let b := s.advance t
    let able := 6 ≤ s.phase ∧ s.phase ≤ 8 ∧ bit s.boot.diesTrained d = false ∧ bit s.boot.lock (2 + d) = true
    (¬ able → ∀ ok, exec (.dieLinkTrained t d ok) s = .next b) ∧
    (able → exec (.dieLinkTrained t d false) s = .next (b.logFault ⟨.ucie, 4 * d⟩ true 7 0)) ∧
    (able → ∃ u, exec (.dieLinkTrained t d true) s = .next u ∧ bit u.boot.diesTrained d = true ∧
      (∀ j, j < 4 → u.on UCIE.LINK_UP (4 * d + j) = true) ∧ (7 ≤ s.phase → bit u.boot.diesUp d = true))) ∧
  (∀ s : State, let u := s.bootNext
    let busy := (List.range 6).any fun c => s.ddrFitted c && s.rg DDR.TRAIN_STATE c == 1
    (s.phase = 6 → busy = true → u = s) ∧
    (s.phase = 6 ∧ busy = false ∨ s.phase = 7 ∨ s.phase = 8 → ∀ d, d < 4 → bit s.boot.diesTrained d = true →
      bit u.boot.diesUp d = true ∧ (bit s.boot.diesUp d = false →
        ∀ a, d * 0x03800000 ≤ a → a < (d + 1) * 0x03800000 → Mem.rd u.sram a = 0))) ∧
  (∀ (s : State) (t : Nat) (ok : Bool),
    (s.phase = 7 ∨ s.phase = 8 → ∃ u, exec (.bootReady t ok) s = .next u ∧ u.phase = 10 ∧ u.protVault = false ∧ u.prot = [] ∧
      u.host.ready = true ∧ u.boot.readyDT = (s.advance t).dt) ∧
    (s.phase ≠ 7 → s.phase ≠ 8 → exec (.bootReady t ok) s = .next (s.advance t))) ∧
  (∀ (s : State) (t : Nat) (c : Req) (v : Word), Reaches s t c ⟨.vault, 0⟩ → let b := s.advance t
    (VAULT.HB_GO.of v = 0 → exec (.hbGo t c v) s = .next b) ∧
    (VAULT.HB_GO.of v = 1 → s.phase ≠ 5 → exec (.hbGo t c v) s = .next (b.irqSet ⟨.vault, 0⟩ 4)) ∧
    (VAULT.HB_GO.of v = 1 → s.phase = 5 → let n := b.rs VAULT.HB_STATUS 0 1
      exec (.hbGo t c v) s = .next (if n.hostUp then n.hostRead (s.rg VAULT.HB_ADDR 0) (s.rg VAULT.HB_LEN 0) else n))) ∧
  (∀ (s : State) (t : Nat) (c : Req) (v : Word), Reaches s t c ⟨.opt, 0⟩ → let b := s.advance t
    let keyed := bitsAt v.toNat 24 8 = 0xA5 ∧ bitsAt v.toNat 8 8 = 0x5A ∧ OPT.BURN.of v = 1
    let able := s.on OPT.OPT_BLANK 0 = true ∧ optBlank s.boot.otp = true ∧ s.boot.burning = [] ∧ optValid s.optStaged = true
    (¬ keyed → exec (.optBurn t c v) s = .next b) ∧
    (keyed → ¬ able → exec (.optBurn t c v) s = .next ((b.rb OPT.BURN_FAIL 0 true).irqSet ⟨.opt, 0⟩ 4)) ∧
    (keyed → able → ∃ u, exec (.optBurn t c v) s = .next u ∧ u.boot.burning = s.optStaged ∧ u.on OPT.BURN_BUSY 0 = true ∧
      u.on OPT.BURN_FAIL 0 = false ∧ u.boot.otp = s.boot.otp)) ∧
  ∀ (s : State) (t : Nat) (ok : Bool),
    (s.boot.burning = [] → exec (.burnDone t ok) s = .next (s.advance t)) ∧
    (s.boot.burning ≠ [] → ∃ u, exec (.burnDone t ok) s = .next u ∧ u.boot.burning = [] ∧ u.on OPT.BURN_BUSY 0 = false ∧
      u.on OPT.BURN_FAIL 0 = (!ok) ∧ (u.rg (Hdr.IRQ_RAW .opt) 0).testBit 8 = true ∧ (ok = true → u.boot.otp = s.boot.burning) ∧
      (ok = false → optBlank u.boot.otp = false ∧ optValid u.boot.otp = false))

/-- A request for STANDBY (SLEEP) from ACTIVE that nothing bars begins it; one that is barred, or comes during a transition, is
refused with its reason and counted; an illegal one is rejected; a request for ACTIVE begins the exit from either state and drives
CORE_EN on from SLEEP. STANDBY is barred unless every cluster is gated, no matrix core bound and no load runs. When the dies are
quiet STANDBY is reached, or SLEEP entered, in which compute dies and their memory are off and DDR4 refreshes itself; when they are
not within the wait, the state returns to ACTIVE with reason 8. Both exits end in ACTIVE and raise their interrupt; that from SLEEP
marks the models lost; die faults that STANDBY held back apply from the request to leave it. A regulator command at most every 100
µs sends the setpoint, at most 10 mV from the last and within bounds; after one failed retry no further one is sent. A temperature
above the warning raises its interrupt once. -/
def Obligations.PowerStatesAndRegulator : Prop :=
  (∀ (s : State) (t : Nat) (c : Req) (v : Word), Reaches s t c ⟨.pwr, 0⟩ → let b := s.advance t
    let q := PWR.PWR_REQ.of v
    let p := s.pwr
    let go := fun (i : Instr) (n : Nat) => ∃ u, exec i s = .next u ∧ u.pwr = n ∧ u.pow.reqDT = b.dt
    (q = 3 → ∀ i ∈ [Instr.pwrReqStandby t c v, .pwrReqSleep t c v, .pwrReqActive t c v], exec i s = .next (b.irqSet ⟨.pwr, 0⟩ 4)) ∧
    (q ≠ 3 → p = 1 ∨ p = 3 ∨ p = 4 ∨ p = 6 → ∀ i ∈ [Instr.pwrReqStandby t c v, .pwrReqSleep t c v, .pwrReqActive t c v],
      exec i s = .next (b.pwrRefuse 1)) ∧
    (p = 0 ∨ p = 2 ∨ p = 5 →
      (q = 1 → s.standbyBar = 0 → go (.pwrReqStandby t c v) 1) ∧
      (q = 1 → s.standbyBar ≠ 0 → exec (.pwrReqStandby t c v) s = .next (b.pwrRefuse s.standbyBar)) ∧
      (q = 2 → s.sleepBar = 0 → go (.pwrReqSleep t c v) 4) ∧
      (q = 2 → s.sleepBar ≠ 0 → exec (.pwrReqSleep t c v) s = .next (b.pwrRefuse s.sleepBar)) ∧
      (q = 0 → p = 0 → exec (.pwrReqActive t c v) s = .next b) ∧
      (q = 0 → p = 2 → go (.pwrReqActive t c v) 3 ∧ ∃ u, exec (.pwrReqActive t c v) s = .next u ∧ u.pow.late = [] ∧
        ∀ d ∈ s.pow.late, FUnit.die d ∈ u.fenced) ∧
      (q = 0 → p = 5 → go (.pwrReqActive t c v) 6 ∧ ∃ u, exec (.pwrReqActive t c v) s = .next u ∧ u.out = s.out ++ [.pin "CORE_EN" true]))) ∧
  (∀ (s : State) (r : Nat), r < 16 → let u := s.pwrRefuse r
    u.pwr = s.pwr ∧ u.rg PWR.REFUSE_REASON 0 = r ∧ u.rg PWR.REFUSALS 0 = (s.rg PWR.REFUSALS 0 + 1) % 2 ^ 32 ∧
      (u.rg (Hdr.IRQ_RAW .pwr) 0).testBit 9 = true) ∧
  (∀ s : State, (s.standbyBar = 0 ↔ s.pwr = 0 ∧ s.rg DIST.CLUSTER_GATE 0 = 0xFFFF ∧ (∀ m, m < 32 → s.on MXC.BOUND m = false) ∧
      s.loading = false) ∧
    (s.sleepBar = 0 ↔ s.pwr = 0 ∧ (∀ i, i < 36 → s.on (Hdr.ENABLE .stream) i = false ∧ s.on (Hdr.ENABLE .jstr) i = false) ∧
      (∀ ch, ch < 4 → s.replaying ch = false ∧ s.groupOn ch = false) ∧ s.loading = false)) ∧
  (∀ (s : State) (t : Nat), let b := s.advance t
    (s.quiet = false → exec (.standbyQuiet t) s = .next b) ∧
    (s.quiet = true → s.pwr = 1 → ∃ u, exec (.standbyQuiet t) s = .next u ∧ u.pwr = 2 ∧ (u.rg (Hdr.IRQ_RAW .pwr) 0).testBit 8 = true ∧
      u.rg PWR.STANDBY_ENTRIES 0 = (s.rg PWR.STANDBY_ENTRIES 0 + 1) % 2 ^ 32 ∧ u.cores = s.cores) ∧
    (s.quiet = true → s.pwr = 4 → ∃ u, exec (.standbyQuiet t) s = .next u ∧ u.pwr = 5 ∧ (u.rg (Hdr.IRQ_RAW .pwr) 0).testBit 8 = true ∧
      u.rg PWR.SLEEP_ENTRIES 0 = (s.rg PWR.SLEEP_ENTRIES 0 + 1) % 2 ^ 32 ∧ u.boot.diesUp = 0 ∧ u.cores = [] ∧
      (∀ c, c < 6 → s.rg DDR.TRAIN_STATE c = 2 → u.rg DDR.TRAIN_STATE c = 4) ∧
      ∀ a, a < 4 * 0x03800000 → Mem.rd u.sram a = Mem.fill) ∧
    (s.quiet = true → s.pwr ≠ 1 → s.pwr ≠ 4 → exec (.standbyQuiet t) s = .next b) ∧
    (s.quiet = false → s.pwr = 1 ∨ s.pwr = 4 → s.pow.reqDT + 1000 * s.rg PWR.STBY_WAIT_US 0 ≤ b.dt → ∃ u, exec (.standbyTimeout t) s = .next u ∧
      u.pwr = 0 ∧ u.rg PWR.REFUSE_REASON 0 = 8 ∧ (u.rg (Hdr.IRQ_RAW .pwr) 0).testBit 9 = true) ∧
    (s.quiet = true ∨ (s.pwr ≠ 1 ∧ s.pwr ≠ 4) ∨ b.dt < s.pow.reqDT + 1000 * s.rg PWR.STBY_WAIT_US 0 →
      exec (.standbyTimeout t) s = .next b) ∧
    (s.pwr = 3 → ∃ u, exec (.standbyExitDone t) s = .next u ∧ u.pwr = 0 ∧ (u.rg (Hdr.IRQ_RAW .pwr) 0).testBit 8 = true ∧
      u.rg PWR.LAST_EXIT_US 0 = (b.dt - s.pow.reqDT) / 1000 % 2 ^ 32) ∧
    (s.pwr ≠ 3 → exec (.standbyExitDone t) s = .next b)) ∧
  (∀ (s : State) (t : Nat) (ok : Bool) (dies : BitVec 4), let b := s.advance t
    (s.pwr = 6 → ∃ u, exec (.sleepExitDone t ok dies) s = .next u ∧ u.pwr = 0 ∧ (u.rg (Hdr.IRQ_RAW .pwr) 0).testBit 10 = true ∧
      u.on PWR.MODELS_LOST 0 = true ∧ u.boot.diesUp = dies.toNat ∧ u.rg PWR.LAST_EXIT_US 0 = (b.dt - s.pow.reqDT) / 1000 % 2 ^ 32 ∧
      ∀ p, p < 16 → (u.part p).state = 0 ∧ (u.part p).loaded = false) ∧
    (s.pwr ≠ 6 → exec (.sleepExitDone t ok dies) s = .next b)) ∧
  (∀ (s : State) (t : Nat) (want : BitVec 10), let b := s.advance t
    let mv := s.avsNext want.toNat
    let able := s.pow.avsDead = false ∧ s.boot.hubUp = true ∧ b.asleep = false ∧ ∀ a, s.pow.avsAt = some a → a + 100000 ≤ b.dt
    (¬ able → ∀ x y, exec (.avsCommand t want x y) s = .next b) ∧
    (able → ∀ y, ∃ u, exec (.avsCommand t want true y) s = .next u ∧ u.out = s.out ++ [.avs mv] ∧ u.pow = { s.pow with mv := mv, avsAt := some b.dt } ∧
      u.regs = s.regs) ∧
    (able → ∀ y, ∃ u, exec (.avsCommand t want false y) s = .next u ∧ u.pow.mv = (if y then mv else s.pow.mv) ∧ u.pow.avsDead = (!y) ∧
      (u.rg (Hdr.IRQ_RAW .gov) 0).testBit (if y then 0 else 1) = true ∧ (s.out ++ [.avs mv, .avs mv]) <+: u.out)) ∧
  (∀ (s : State) (w : Nat), s.on GOV.AVS_EN 0 = true →
    let mv := s.avsNext w
    s.pow.mv ≤ mv + 10 ∧ mv ≤ s.pow.mv + 10 ∧ (650 ≤ s.pow.mv → s.pow.mv ≤ 850 → 650 ≤ mv ∧ mv ≤ 850)) ∧
  ∀ (s : State) (t : Nat) (tj : BitVec 32) (th : BitVec 8),
    let w := signed 8 (s.rg GOV.TJ_WARN 0)
    let hot := w < signed 8 th.toNat ∨ ∃ d, d < 4 ∧ w < signed 8 (bitsAt tj.toNat (8 * d) 8)
    ∃ u, exec (.tjWarnCross t tj th) s = .next u ∧ u.rg GOV.TJ_DIE 0 = tj.toNat ∧ u.rg GOV.TJ_HUB 0 = th.toNat ∧ (u.sec.hot = true ↔ hot) ∧
      (hot → s.sec.hot = false → (u.rg (Hdr.IRQ_RAW .gov) 0).testBit 8 = true) ∧
      u.sec.alert = (s.on HUB.REPLACE_REQUEST 0 || u.sec.hot)

/-- SRAM_ECC_ERROR and DDR_ECC_ERROR with a good retry are logged as transient on the page of their unit, with the single- or
double-bit code; otherwise as lasting, and the unit is fenced; a lasting error in hub memory asks for replacement. A fence puts the
unit out of service and owes a notice and, but for Piste and Ethernet ports, a log entry; a fenced die or DDR4 channel stops the
job: all clusters gated, no core running. FENCE_FIRMWARE_ACTION carries out the oldest action owed. FAULT_LOG_APPEND writes the
oldest owed entry once per unit and kind, or sets LOG_FAIL when it failed or the log is full. PATROL_SCRUB moves 64 bytes on in a
trained channel and counts a pass at its capacity. MGMT_WARM_RESTART with a good image restarts firmware and counts it, with a bad
one goes to host boot. STALE_CHECK keeps exactly the queued words that are at most 2^33 ns old, in order; BAD_FLIT counts a flit of
a reserved type. -/
def Obligations.FaultsAreClassedFencedAndLogged : Prop :=
  (∀ (s : State) (t : Nat) (dbl : Bool), let b := s.advance t
    let code := if dbl then 2 else 1
    let classed := fun (e : SramSite) (u : FUnit) (p : Page) (w : Nat) =>
      exec (.sramEccError t e dbl true) s = .next (b.logFault p false code w) ∧
      exec (.sramEccError t e dbl false) s = .next ((b.logFault p true code w).fenceUnit u code)
    (∀ n w, classed (.sliver n w) (.core n) ⟨.cg, n / 16⟩ (n.val % 16 * 2 ^ 20 + w.val)) ∧
    (∀ m w, classed (.matrix m w) (.mx m) ⟨.mxc, m⟩ w) ∧ (∀ k w, classed (.ledger k w) (.cluster k) ⟨.ldb, k⟩ w) ∧
    (∀ k w, classed (.router k w) (.cluster k) ⟨.clu, k⟩ w) ∧ (∀ d w, classed (.dieSwitch d w) (.die d) ⟨.die, d⟩ w) ∧
    (∀ (e : SramSite) (p : Page) (w : Nat), (∀ n x, e ≠ .sliver n x) → (∀ m x, e ≠ .matrix m x) → (∀ k x, e ≠ .ledger k x) →
      (∀ k x, e ≠ .router k x) → (∀ d x, e ≠ .dieSwitch d x) → hubSite e = (p, w) →
      exec (.sramEccError t e dbl true) s = .next (b.logFault p false code w) ∧
      exec (.sramEccError t e dbl false) s = .next ((b.hubLost p code w).hubLoss e)) ∧
    ∀ (c : Fin 6) (a : BitVec 40) (ok rank : Bool) (syn : BitVec 8) (bank : BitVec 4), ∃ w : State,
      w.rg DDR.FIRST_ERRORS c = (s.rg DDR.FIRST_ERRORS c + 1) % 2 ^ 32 ∧ w.rg DDR.LAST_ERR_ADDR c = a.toNat ∧ w.rg DDR.SYNDROME c = syn.toNat ∧
      w.on DDR.UNCORRECTABLE c = dbl ∧ w.on DDR.LASTING c = (!ok) ∧ w.on DDR.RANK c = rank ∧ w.rg DDR.BANK c = bank.toNat ∧ w.ddr4 = s.ddr4 ∧
      let f := w.logFault ⟨.ddr, c⟩ (!ok) (if dbl then 4 else 3) (a.toNat / 65536)
      exec (.ddrEccError t c a dbl ok syn rank bank) s = .next (if ok then f else f.fenceUnit (.ddr c) (if dbl then 4 else 3))) ∧
  (∀ (s : State) (u : FUnit) (code : Nat), let f := s.fenceUnit u code
    (u ∈ s.fenced → f = s) ∧
    (u ∉ s.fenced → u ∈ f.fenced ∧ (⟨1, u.word, code, s.dt⟩ : FaultAct) ∈ f.sec.notices ∧
      ((∀ p, u ≠ .piste p) → (∀ e, u ≠ .eth e) → (⟨1, u.word, code, s.dt⟩ : FaultAct) ∈ f.sec.logs) ∧
      (∀ n, u = .core n → (f.core n).run = none ∧ (f.core n).queue = [] ∧ f.on CGS.RUN n = false) ∧
      (∀ m, u = .mx m → (f.mxc m).run = none ∧ f.on MXC.SLOT_RUNNING m = false) ∧
      ((∃ d, u = .die d) ∨ (∃ c, u = .ddr c) → f.rg DIST.CLUSTER_GATE 0 = 0xFFFF ∧ (∀ n, n < 4096 → f.on CGS.RUN n = false) ∧
        ∀ m, m < 32 → f.on MXC.BOUND m = false))) ∧
  (∀ (s : State) (p : Page) (code w : Nat), let u := s.hubLost p code w
    u.on HUB.REPLACE_REQUEST 0 = true ∧ (u.rg HUB.RR_CAUSE 0).testBit 4 = true) ∧
  (∀ (s : State) (t : Nat) (a : FaultAct) (rest : List FaultAct), s.sec.notices = a :: rest → let b := s.advance t
    let c := { b with sec := { b.sec with notices := rest } }
    (∀ u, a.kind = 1 → FUnit.ofWord a.unit = some u → exec (.fenceFirmwareAction t) s =
      .next (c.noticeFor 2 (a.unit % 65536) (c.errLog u.page) a.dt)) ∧
    (a.kind = 2 → exec (.fenceFirmwareAction t) s = .next (c.noticeFor 1 0 c.healthWord a.dt)) ∧
    (3 ≤ a.kind → s.host.fwDown = true → exec (.fenceFirmwareAction t) s = .next b) ∧
    (3 ≤ a.kind → s.host.fwDown = false → ∃ u, exec (.fenceFirmwareAction t) s = .next u ∧ u.on HUB.JOB_STOPPED 0 = true ∧
      (u.rg (Hdr.IRQ_RAW .hub) 0).testBit 9 = true ∧ ∀ p, p < 16 → (u.part p).state = 0)) ∧
  (∀ (s : State) (t : Nat), s.sec.notices = [] → exec (.fenceFirmwareAction t) s = .next (s.advance t)) ∧
  (∀ (s : State) (t : Nat) (ok : Bool) (a : FaultAct) (rest : List FaultAct), let b := s.advance t
    let twice := s.sec.flog.any fun x => leNat ((x.drop 2).take 1) == a.kind && (a.kind == 2 || leNat ((x.drop 4).take 4) == a.unit)
    let n := s.sec.flog.length
    (s.sec.logs = [] ∨ s.host.fwDown = true → exec (.faultLogAppend t ok) s = .next b) ∧
    (s.sec.logs = a :: rest → s.host.fwDown = false →
      (twice = true → exec (.faultLogAppend t ok) s = .next { b with sec := { b.sec with logs := rest } }) ∧
      (twice = false → ok = true → n < 8192 → ∃ u, exec (.faultLogAppend t ok) s = .next u ∧ u.sec.logs = rest ∧
        u.sec.flog = s.sec.flog ++ [logEntry a] ∧ u.out = s.out ++ [.flash (0xFE0000 + 16 * n) (logEntry a)] ∧
        u.rg HUB.LOG_ENTRIES 0 = (s.rg HUB.LOG_ENTRIES 0 + 1) % 2 ^ 14) ∧
      (twice = false → ok = false ∨ 8192 ≤ n → ∃ u, exec (.faultLogAppend t ok) s = .next u ∧ u.sec.logs = rest ∧
        u.sec.flog = s.sec.flog ∧ u.on HUB.LOG_FAIL 0 = true ∧ (u.rg (Hdr.IRQ_RAW .hub) 0).testBit 10 = true))) ∧
  (∀ a : FaultAct, let e := logEntry a
    e.length = 16 ∧ leNat (e.take 2) = 0x4654 ∧ leNat ((e.drop 2).take 1) = a.kind % 256 ∧ leNat ((e.drop 4).take 4) = a.unit % 2 ^ 32 ∧
      leNat ((e.drop 8).take 6) = a.dt % 2 ^ 48 ∧ leNat (e.drop 14) = crc32 (e.take 14) % 65536) ∧
  (∀ (s : State) (t : Nat) (c : Fin 6), let b := s.advance t
    let cap := s.rg DDR.CAPACITY_MB c * 1048576
    let n := Tab.get 0 s.sec.scrub c + 64
    (s.rg DDR.TRAIN_STATE c ≠ 2 ∨ s.ddrFenced c = true ∨ cap = 0 → exec (.patrolScrub t c) s = .next b) ∧
    (s.rg DDR.TRAIN_STATE c = 2 → s.ddrFenced c = false → 0 < cap → ∃ u, exec (.patrolScrub t c) s = .next u ∧
      (n < cap → Tab.get 0 u.sec.scrub c = n ∧ u.regs = s.regs) ∧
      (cap ≤ n → Tab.get 0 u.sec.scrub c = 0 ∧ u.rg DDR.SCRUB_PASSES c = (s.rg DDR.SCRUB_PASSES c + 1) % 2 ^ 32))) ∧
  (∀ (s : State) (t : Nat) (img : Option (List Byte)), let b := s.advance t
    (s.host.fwDown = false → exec (.mgmtWarmRestart t img) s = .next b) ∧
    (s.host.fwDown = true → imageCheck img ≠ 0 → exec (.mgmtWarmRestart t img) s =
      .next (State.hostBoot { b with protVault := true, prot := [] } (imageCheck img))) ∧
    (s.host.fwDown = true → s.host.cmd = none → ∀ d, img = some d → imageCheck img = 0 → ∃ w : State, w.host.fwDown = false ∧
      w.host.noticeQ = [] ∧ w.sec.fwDigest = imageDigest d ∧ w.rg MGMT.RESTARTS 0 = (s.rg MGMT.RESTARTS 0 + 1) % 2 ^ 32 ∧
      exec (.mgmtWarmRestart t img) s = .next (w.fwFrames w.rxHeld.length))) ∧
  (∀ (s : State) (t : Nat), let b := s.advance t
    (∀ n : Fin 4096, ∃ u, exec (.staleCheck t (.coreQueue n)) s = .next u ∧
      (u.core n).queue = (s.core n).queue.filter fun a => a.cls == 3 || !stale b.dt (st35 a.t)) ∧
    (∀ k : Fin 16, ∃ u, exec (.staleCheck t (.ledger k)) s = .next u ∧
      (u.bank k).queue = (s.bank k).queue.filter fun w => w.replay || !stale b.dt (st35 (b.dtEquiv k w.d w.tw))) ∧
    (∀ k : Fin 16, ∃ u, exec (.staleCheck t (.tok k)) s = .next u ∧ (u.tk k).pend = (s.tk k).pend.filter fun p => !stale b.dt (st35 p.t)) ∧
    (∀ k : Fin 16, ∃ u, exec (.staleCheck t (.router k)) s = .next u ∧
      (u.router k).wait = ((s.router k).wait.filter fun c => !stale b.dt (wT c.w0)) ∧
      ∀ i, i < 36 → Tab.get [] u.rqueue (k * 36 + i) = (Tab.get [] s.rqueue (k * 36 + i)).filter fun f => f.t.isSome || !stale b.dt (wT f.word)) ∧
    (∀ k : Fin 16, ∃ u, exec (.staleCheck t (.escape k)) s = .next u ∧
      let all := (List.range (s.router k).escLevel).map fun i => Mem.rdLE s.ddr4 (s.escAddr k ((s.router k).escHead + i)) 8
      (u.router k).escLevel = (all.filter fun w => !stale b.dt (wT w)).length) ∧
    ∃ u, exec (.staleCheck t .piste) s = .next u ∧ (u.fab.openF = s.fab.openF.filter fun f => !stale (s.ft b.dt) f.ft35) ∧
      ∀ p, p < 6 → let old := fun m : PMsg => m.ty == 1 && stale (s.ft b.dt) (wT (m.body.getD 0 0))
        ((u.pp p).wait = (s.pp p).wait.filter fun m => !old m) ∧ (u.pp p).rx = (s.pp p).rx.filter fun m => !old m) ∧
  (∀ now f : Nat, f < 2 ^ 35 → (stale now f = true ↔ ∃ a, a % 2 ^ 35 = f ∧ a ≤ now ∧ now - a ≤ 2 ^ 34 ∧ 2 ^ 33 < now - a)) ∧
  ∀ (s : State) (t : Nat) (k ty : Fin 16),
    (14 ≤ ty.val → ∃ u, exec (.badFlit t k ty) s = .next u ∧ u.rg CLU.BAD_FLIT k = (s.rg CLU.BAD_FLIT k + 1) % 2 ^ 32 ∧
      (u.rg (Hdr.IRQ_RAW .clu) k).testBit 10 = true ∧ u.net = s.net) ∧
    (ty.val < 14 → exec (.badFlit t k ty) s = .next (s.advance t))

/-- KEY_PROGRAM with its keys burns the staged key into an empty, unrevoked slot, else fails; KEY_REVOKE revokes a slot at once;
KEY_BURN_DONE puts the key into the fuses. PT_REQ_GO keeps the request, PT_REQ_APPLIED refuses it or puts the grants into force for
its entry alone; a request of the fabric, and one that would let the host write PROT, is always refused. TRACE_CLEAR zeroes the
buffer while tracing is off, else it is rejected; a record of an enabled kind stands at WR_INDEX with its time and data, and FW_MARK
writes one. An observation frame while the port is enabled counts and is answered: READ_REG with 0xA5 and its words, READ_MEM with
the bytes of a die's memory, READ_ID, OBS_DATA_TIMEOUT with 0xEE, OBS_UNKNOWN_COMMAND, which counts, with 0xFF; otherwise it is
ignored. IDCODE shifts out the identity, SAMPLE a value that is free (assumption 3), BYPASS selects bypass. -/
def Obligations.KeysProtectionTraceAndObservation : Prop :=
  (∀ (s : State) (t : Nat) (c : Req) (v : Word), Reaches s t c ⟨.vault, 0⟩ → let b := s.advance t
    let op := VAULT.KEY_CMD_OP.of v
    let slot := VAULT.KEY_CMD_SLOT.of v
    let keyed := VAULT.KEY_CMD_KEY.of v = 0xA5 ∧ VAULT.KEY_CMD_CONFIRM.of v = 0x5A
    let filled := Tab.get [] s.sec.owner slot ≠ []
    let gone := bit s.sec.revoked slot = true
    ∀ i ∈ [Instr.keyProgram t c v, .keyRevoke t c v],
      (¬ keyed → exec i s = .next b) ∧
      (keyed → op = 0 ∨ op = 3 ∨ s.sec.burn ≠ none → exec i s = .next (b.irqSet ⟨.vault, 0⟩ 4)) ∧
      (keyed → s.sec.burn = none →
        (op = 1 → filled ∨ gone → exec i s = .next ((b.rs VAULT.KEY_STATUS 0 3).irqSet ⟨.vault, 0⟩ 4)) ∧
        (op = 1 → ¬ filled → ¬ gone → ∃ u, exec i s = .next u ∧ u.sec.burn = some (1, slot, s.keyStaged) ∧ u.rg VAULT.KEY_STATUS 0 = 1 ∧
          u.sec.owner = s.sec.owner) ∧
        (op = 2 → gone → exec i s = .next ((b.rs VAULT.KEY_STATUS 0 3).irqSet ⟨.vault, 0⟩ 4)) ∧
        (op = 2 → ¬ gone → ∃ u, exec i s = .next u ∧ bit u.sec.revoked slot = true ∧ u.rg VAULT.KEY_STATUS 0 = 2 ∧
          u.rg VAULT.REVOKED 0 = u.sec.revoked % 16 ∧ ∀ q, q ≠ slot → bit u.sec.revoked q = bit s.sec.revoked q))) ∧
  (∀ (s : State) (t : Nat),
    (s.sec.burn = none → exec (.keyBurnDone t) s = .next (s.advance t)) ∧
    ∀ op slot k, s.sec.burn = some (op, slot, k) → ∃ u, exec (.keyBurnDone t) s = .next u ∧ u.sec.burn = none ∧
      Tab.get [] u.sec.owner slot = k ∧ u.rg VAULT.KEY_STATUS 0 = 2 ∧ (slot < 4 → k ≠ [] → (u.rg VAULT.FILLED 0).testBit slot = true)) ∧
  (∀ (s : State) (t : Nat) (c : Req) (v : Word), Reaches s t c ⟨.mgmt, 0⟩ →
    (MGMT.PT_REQ_GO.of v = 0 → exec (.ptReqGo t c v) s = .next (s.advance t)) ∧
    (MGMT.PT_REQ_GO.of v = 1 → ∃ u, exec (.ptReqGo t c v) s = .next u ∧ u.rg MGMT.PT_REQ_STATUS 0 = 1 ∧ u.prot = s.prot ∧
      u.sec.ptReq = some (decide (c = .fabric), s.rg MGMT.PT_REQ_INDEX 0, s.rg MGMT.PT_REQ_ENTRY 0))) ∧
  (∀ (s : State) (t : Nat), let b := s.advance t
    (s.sec.ptReq = none ∨ s.host.fwDown = true → exec (.ptReqApplied t) s = .next b) ∧
    ∀ fab ix g, s.sec.ptReq = some (fab, ix, g) → s.host.fwDown = false → ∃ u, exec (.ptReqApplied t) s = .next u ∧ u.sec.ptReq = none ∧
      (u.rg (Hdr.IRQ_RAW .mgmt) 0).testBit 8 = true ∧
      (ptRefused fab ix g = true → u.rg MGMT.PT_REQ_STATUS 0 = 3 ∧ u.prot = s.prot) ∧
      (ptRefused fab ix g = false → u.rg MGMT.PT_REQ_STATUS 0 = 2 ∧ u.grants (ptEntry ix) = g ∧
        ∀ e, e ≠ ptEntry ix → u.grants e = s.grants e)) ∧
  (∀ (fab : Bool) (ix g : Nat), (fab = true → ptRefused fab ix g = true) ∧
    (ix < 2 ^ 16 → Page.ofAddr (ptEntry ix) = some ⟨.prot, 0⟩ → g.testBit 1 = true → ptRefused fab ix g = true)) ∧
  (∀ (s : State) (t : Nat) (c : Req) (v : Word), Reaches s t c ⟨.trace, 0⟩ → let b := s.advance t
    (TRACE.CLEAR.of v = 0 → exec (.traceClear t c v) s = .next b) ∧
    (TRACE.CLEAR.of v = 1 → s.on TRACE.TR_EN 0 = true → exec (.traceClear t c v) s = .next (b.irqSet ⟨.trace, 0⟩ 4)) ∧
    (TRACE.CLEAR.of v = 1 → s.on TRACE.TR_EN 0 = false → ∃ u, exec (.traceClear t c v) s = .next u ∧ u.rg TRACE.WR_INDEX 0 = 0 ∧
      u.rg TRACE.LAPS 0 = 0 ∧ (∀ a, 0x0F600000 ≤ a → a < 0x0F800000 → Mem.rd u.sram a = 0) ∧
      ∀ a, a < 0x0F600000 ∨ 0x0F800000 ≤ a → Mem.rd u.sram a = Mem.rd s.sram a) ∧
    exec (.fwMark t c v) s = .next (b.trace ⟨.trace, 0⟩ 9 0 v.toNat)) ∧
  (∀ (s : State) (p : Page) (kind arg data : Nat), kind < 16 → let u := s.trace p kind arg data
    let i := s.rg TRACE.WR_INDEX 0
    (s.on TRACE.TR_EN 0 = false ∨ (s.rg TRACE.KIND_MASK 0).testBit kind = false → u = s) ∧
    (s.on TRACE.TR_EN 0 = true → (s.rg TRACE.KIND_MASK 0).testBit kind = true →
      Mem.rdLE u.sram (0x0F600000 + 16 * i + 8) 8 = kind + arg % 2 ^ 16 * 2 ^ 16 + data % 2 ^ 32 * 2 ^ 32 ∧
      Mem.rdLE u.sram (0x0F600000 + 16 * i) 8 % 2 ^ 48 = s.dt % 2 ^ 48 ∧
      (i + 1 < 131072 → u.rg TRACE.WR_INDEX 0 = i + 1) ∧
      (131072 ≤ i + 1 → s.on TRACE.STOP_FULL 0 = true → u.on TRACE.TR_EN 0 = false) ∧
      (131072 ≤ i + 1 → s.on TRACE.STOP_FULL 0 = false → u.rg TRACE.WR_INDEX 0 = 0 ∧ u.rg TRACE.LAPS 0 = (s.rg TRACE.LAPS 0 + 1) % 2 ^ 32))) ∧
  (∀ (s : State) (t n : Nat) (a : BitVec 26) (m : BitVec 28), let b := s.advance t
    let c := b.inc OBS.FRAMES 0
    (s.on OBS.ENABLED 0 = false ∨ s.boot.hubUp = false →
      ∀ i ∈ [Instr.readReg t a n, .readMem t m n, .readId t, .obsDataTimeout t, .obsUnknownCommand t], exec i s = .next b) ∧
    (s.on OBS.ENABLED 0 = true → s.boot.hubUp = true →
      (∃ u d, exec (.readReg t a n) s = .next u ∧ d.length = 4 * n ∧ u.out.getLast? = some (.obs (0xA5 :: d)) ∧
        (0 < n → leNat ((d.take 4).map fun x => BitVec.ofNat 8 x) = (c.regRead .obs (a.toNat / 4 * 4)).1 % 2 ^ 32)) ∧
      (∀ w, w = windowOf m.toNat → m.toNat % 8 = 0 → w.1 < 12 → m.toNat + n ≤ w.2 → s.mayRead .obs (0x10000 + w.1) = true → s.dieDown (w.1 / 3) = false →
        exec (.readMem t m n) s = .next (c.emit (.obs (0xA5 :: (Mem.rdBytes s.sram m.toNat n).map BitVec.toNat)))) ∧
      exec (.readId t) s = .next (c.emit (.obs (0xA5 :: (leBytes 2 0x3640 ++ leBytes 8 Config.uid).map BitVec.toNat))) ∧
      exec (.obsDataTimeout t) s = .next (c.emit (.obs [0xEE, 0xFF])) ∧
      exec (.obsUnknownCommand t) s = .next ((c.inc OBS.BAD_CMD 0).emit (.obs [0xFF])))) ∧
  ∀ (s : State) (t : Nat),
    (∃ u, exec (.idcode t) s = .next u ∧ u.out = s.out ++ [.jtag 0x136405EB] ∧ u.regs = s.regs) ∧
    (∃ u n, exec (.sample t) s = .next u ∧ n < 2 ^ 700 ∧ u.out = s.out ++ [.jtag n] ∧ u.regs = s.regs) ∧
    ∃ u, exec (.bypass t) s = .next u ∧ u.out = s.out ∧ u.regs = s.regs ∧ u.sec.ir = 15
end

