-- ==== Sys2Proof/Laws/Tab.lean ====
section
/-!
SUPPORT. The laws of the sparse tables and of the byte memories: read after write, and that every operation keeps the canonical
form.
-/
namespace Sys2Proof.Machine

variable {α : Type}

theorem Tab.get_ins_same (d : α) (m : Tab α) (a : Nat) (v : α) : Tab.get d (Tab.ins m a v) a = v := by
  induction m with
  | nil => simp [Tab.ins, Tab.get]
  | cons e r ih =>
    obtain ⟨k, w⟩ := e
    simp only [Tab.ins]
    split
    · simp [Tab.get]
    · split
      · simp [Tab.get]
      · have : k ≠ a := fun h => by omega
        simp [Tab.get, this, ih]

theorem Tab.get_ins_other (d : α) (m : Tab α) (a b : Nat) (v : α) (h : b ≠ a) :
    Tab.get d (Tab.ins m a v) b = Tab.get d m b := by
  induction m with
  | nil => simp [Tab.ins, Tab.get, Ne.symm h]
  | cons e r ih =>
    obtain ⟨k, w⟩ := e
    simp only [Tab.ins]
    split
    · simp [Tab.get, Ne.symm h]
    · split
      · subst k; simp [Tab.get, Ne.symm h]
      · simp [Tab.get, ih]

theorem Tab.get_filter_same (d : α) (m : Tab α) (a : Nat) : Tab.get d (m.filter fun p => decide (p.1 ≠ a)) a = d := by
  induction m with
  | nil => rfl
  | cons e r ih =>
    obtain ⟨k, w⟩ := e
    by_cases h : k = a <;> simp [List.filter, h, Tab.get] <;> simpa using ih

theorem Tab.get_filter_other (d : α) (m : Tab α) (a b : Nat) (h : b ≠ a) :
    Tab.get d (m.filter fun p => decide (p.1 ≠ a)) b = Tab.get d m b := by
  induction m with
  | nil => rfl
  | cons e r ih =>
    obtain ⟨k, w⟩ := e
    by_cases hk : k = a
    · subst k; simpa [List.filter, Tab.get, Ne.symm h] using ih
    · by_cases hb : k = b
      · subst k; simp [hk, Tab.get]
      · simpa [List.filter, hk, Tab.get, hb] using ih

/-- A table reads what was written. -/
theorem Tab.get_put_same [DecidableEq α] (d : α) (m : Tab α) (a : Nat) (v : α) : Tab.get d (Tab.put d m a v) a = v := by
  unfold Tab.put
  split
  · rename_i h; rw [Tab.get_filter_same, h]
  · exact Tab.get_ins_same d m a v

/-- A write leaves every other key alone. -/
theorem Tab.get_put_other [DecidableEq α] (d : α) (m : Tab α) (a b : Nat) (v : α) (h : b ≠ a) :
    Tab.get d (Tab.put d m a v) b = Tab.get d m b := by
  unfold Tab.put
  split
  · exact Tab.get_filter_other d m a b h
  · exact Tab.get_ins_other d m a b v h

theorem Tab.mem_ins (m : Tab α) (a : Nat) (v : α) (e : Nat × α) (h : e ∈ Tab.ins m a v) : e = (a, v) ∨ e ∈ m := by
  induction m with
  | nil => simp [Tab.ins] at h; exact .inl h
  | cons x r ih =>
    obtain ⟨k, w⟩ := x
    simp only [Tab.ins] at h
    split at h
    · exact (List.mem_cons.1 h).imp_right id
    · split at h
      · exact (List.mem_cons.1 h).imp_right (List.mem_cons_of_mem _)
      · rcases List.mem_cons.1 h with h | h
        · exact .inr (h ▸ List.mem_cons_self)
        · exact (ih h).imp_right (List.mem_cons_of_mem _)

theorem Tab.rising_ins (m : Tab α) (a : Nat) (v : α) (h : Tab.rising m) : Tab.rising (Tab.ins m a v) := by
  unfold Tab.rising at *
  induction m with
  | nil => simp [Tab.ins]
  | cons x r ih =>
    obtain ⟨k, w⟩ := x
    rw [List.pairwise_cons] at h
    simp only [Tab.ins]
    split
    · rename_i hk
      rw [List.pairwise_cons, List.pairwise_cons]
      refine ⟨fun e he => ?_, h⟩
      rcases List.mem_cons.1 he with rfl | he
      · exact hk
      · exact Nat.lt_trans hk (h.1 e he)
    · split
      · rename_i hk; subst hk
        rw [List.pairwise_cons]; exact ⟨h.1, h.2⟩
      · rw [List.pairwise_cons]
        refine ⟨fun e he => ?_, ih h.2⟩
        rcases Tab.mem_ins r a v e he with rfl | he
        · simp only; omega
        · exact h.1 e he

/-- A write keeps the keys rising. -/
theorem Tab.rising_put [DecidableEq α] (d : α) (m : Tab α) (a : Nat) (v : α) (h : Tab.rising m) : Tab.rising (Tab.put d m a v) := by
  unfold Tab.put
  split
  · exact h.filter _
  · exact Tab.rising_ins m a v h

/-- Dropping a range keeps the keys rising. -/
theorem Tab.rising_keep (p : Nat → Bool) (m : Tab α) (h : Tab.rising m) : Tab.rising (m.keep p) := h.filter _

/-- The canonical form, said of the entries. -/
theorem Tab.wf_iff [DecidableEq α] (d : α) (m : Tab α) : Tab.wf d m = true ↔ Tab.rising m ∧ ∀ e ∈ m, e.2 ≠ d := by
  induction m with
  | nil => simp [Tab.wf, Tab.rising]
  | cons e r ih =>
    cases r with
    | nil => obtain ⟨k, v⟩ := e; simp [Tab.wf, Tab.rising]
    | cons e' r' =>
      obtain ⟨k, v⟩ := e
      obtain ⟨k', v'⟩ := e'
      simp only [Tab.wf, Bool.and_eq_true, decide_eq_true_eq, ih]
      unfold Tab.rising
      rw [List.pairwise_cons (a := (k, v))]
      constructor
      · rintro ⟨⟨h1, h2⟩, h3, h4⟩
        refine ⟨⟨fun e he => ?_, h3⟩, fun e he => ?_⟩
        · rcases List.mem_cons.1 he with rfl | he
          · exact h2
          · exact Nat.lt_trans h2 ((List.pairwise_cons.1 h3).1 e he)
        · rcases List.mem_cons.1 he with rfl | he
          · exact h1
          · exact h4 e he
      · rintro ⟨⟨h1, h2⟩, h3⟩
        exact ⟨⟨h3 _ List.mem_cons_self, h1 _ List.mem_cons_self⟩, h2, fun e he => h3 e (List.mem_cons_of_mem _ he)⟩

/-- A write keeps the canonical form. -/
theorem Tab.wf_put [DecidableEq α] (d : α) (m : Tab α) (a : Nat) (v : α) (h : Tab.wf d m = true) :
    Tab.wf d (Tab.put d m a v) = true := by
  rw [Tab.wf_iff] at *
  refine ⟨Tab.rising_put d m a v h.1, fun e he => ?_⟩
  unfold Tab.put at he
  split at he
  · exact h.2 e (List.mem_filter.1 he).1
  · rename_i hv
    rcases Tab.mem_ins m a v e he with rfl | he
    · exact hv
    · exact h.2 e he

/-- Dropping a range keeps the canonical form. -/
theorem Tab.wf_keep [DecidableEq α] (d : α) (p : Nat → Bool) (m : Tab α) (h : Tab.wf d m = true) : Tab.wf d (m.keep p) = true := by
  rw [Tab.wf_iff] at *
  exact ⟨Tab.rising_keep p m h.1, fun e he => h.2 e (List.mem_filter.1 he).1⟩

/-! ## Byte memories -/

theorem Mem.wf_nil : Mem.wf [] = true := rfl

theorem Mem.wf_wr (m : Mem) (a : Nat) (v : Byte) (h : Mem.wf m = true) : Mem.wf (Mem.wr m a v) = true := Tab.wf_put _ m a v h

theorem Mem.wf_keep (p : Nat → Bool) (m : Mem) (h : Mem.wf m = true) : Mem.wf (Tab.keep p m) = true := Tab.wf_keep _ p m h

theorem Mem.wf_wrLE (n : Nat) : ∀ (m : Mem) (a v : Nat), Mem.wf m = true → Mem.wf (Mem.wrLE m a n v) = true := by
  induction n with
  | zero => intro m a v h; exact h
  | succ n ih => intro m a v h; exact ih _ _ _ (Mem.wf_wr m a _ h)

theorem Mem.wf_wrBytes (b : List Byte) : ∀ (m : Mem) (a : Nat), Mem.wf m = true → Mem.wf (Mem.wrBytes m a b) = true := by
  induction b with
  | nil => intro m a h; exact h
  | cons x b ih => intro m a h; exact ih _ _ (Mem.wf_wr m a _ h)

/-- A fold of steps that keep the canonical form keeps it. -/
theorem Mem.wf_foldl {β : Type} (f : Mem → β → Mem) (hf : ∀ m x, Mem.wf m = true → Mem.wf (f m x) = true) (l : List β) :
    ∀ m : Mem, Mem.wf m = true → Mem.wf (l.foldl f m) = true := by
  induction l with
  | nil => intro m h; exact h
  | cons x l ih => intro m h; exact ih _ (hf m x h)

theorem Mem.wf_ofList (l : List (Nat × Byte)) : Mem.wf (Mem.ofList l) = true :=
  Mem.wf_foldl _ (fun m c h => Mem.wf_wr m c.1 c.2 h) l _ Mem.wf_nil

/-- A byte reads what was written there. -/
theorem Mem.rd_wr_same (m : Mem) (a : Nat) (v : Byte) : (Mem.wr m a v).rd a = v := Tab.get_put_same _ m a v

/-- A byte write leaves every other byte alone. -/
theorem Mem.rd_wr_other (m : Mem) (a b : Nat) (v : Byte) (h : b ≠ a) : (Mem.wr m a v).rd b = m.rd b :=
  Tab.get_put_other _ m a b v h

/-- A multi-byte write leaves every byte outside its range alone. -/
theorem Mem.rd_wrLE_outside (n : Nat) : ∀ (m : Mem) (a v b : Nat), (b < a ∨ a + n ≤ b) → (Mem.wrLE m a n v).rd b = m.rd b := by
  induction n with
  | zero => intro m a v b _; rfl
  | succ n ih =>
    intro m a v b h
    rw [Mem.wrLE, ih _ _ _ _ (by omega), Mem.rd_wr_other _ _ _ _ (by omega)]

/-- What a multi-byte write wrote reads back, modulo its width. -/
theorem Mem.rdLE_wrLE_same (n : Nat) : ∀ (m : Mem) (a v : Nat), Mem.rdLE (Mem.wrLE m a n v) a n = v % 256 ^ n := by
  induction n with
  | zero => intro m a v; simp [Mem.rdLE, Nat.mod_one]
  | succ n ih =>
    intro m a v
    rw [Mem.rdLE, Mem.wrLE, ih, Mem.rd_wrLE_outside _ _ _ _ _ (by omega), Mem.rd_wr_same]
    simp only [BitVec.toNat_ofNat]
    rw [Nat.pow_succ 256 n, Nat.mul_comm (256 ^ n) 256, Nat.mod_mul]

end Sys2Proof.Machine
end

