-- ==== Sys2Proof/Laws/State.lean ====
section
/-!
SUPPORT. What each basic update of the state leaves in every field: one lemma per field and update, so that no proof unfolds a
record update; and what a register field reads as after a write.
-/
namespace Sys2Proof.Machine

/-! ## `rs` -/

@[simp] theorem State.rs_dt (s : State) (f : Fld) (i v x : Nat) : (s.rs f i v x).dt = s.dt := rfl
@[simp] theorem State.rs_laps (s : State) (f : Fld) (i v x : Nat) : (s.rs f i v x).laps = s.laps := rfl
@[simp] theorem State.rs_aonRun (s : State) (f : Fld) (i v x : Nat) : (s.rs f i v x).aonRun = s.aonRun := rfl
@[simp] theorem State.rs_tick (s : State) (f : Fld) (i v x : Nat) : (s.rs f i v x).tick = s.tick := rfl
@[simp] theorem State.rs_free (s : State) (f : Fld) (i v x : Nat) : (s.rs f i v x).free = s.free := rfl
@[simp] theorem State.rs_latch (s : State) (f : Fld) (i v x : Nat) : (s.rs f i v x).latch = s.latch := rfl
@[simp] theorem State.rs_fenced (s : State) (f : Fld) (i v x : Nat) : (s.rs f i v x).fenced = s.fenced := rfl
@[simp] theorem State.rs_resetting (s : State) (f : Fld) (i v x : Nat) : (s.rs f i v x).resetting = s.resetting := rfl
@[simp] theorem State.rs_heldPages (s : State) (f : Fld) (i v x : Nat) : (s.rs f i v x).heldPages = s.heldPages := rfl
@[simp] theorem State.rs_sram (s : State) (f : Fld) (i v x : Nat) : (s.rs f i v x).sram = s.sram := rfl
@[simp] theorem State.rs_ddr4 (s : State) (f : Fld) (i v x : Nat) : (s.rs f i v x).ddr4 = s.ddr4 := rfl
@[simp] theorem State.rs_out (s : State) (f : Fld) (i v x : Nat) : (s.rs f i v x).out = s.out := rfl
@[simp] theorem State.rs_boot (s : State) (f : Fld) (i v x : Nat) : (s.rs f i v x).boot = s.boot := rfl
@[simp] theorem State.rs_protVault (s : State) (f : Fld) (i v x : Nat) : (s.rs f i v x).protVault = s.protVault := rfl
@[simp] theorem State.rs_prot (s : State) (f : Fld) (i v x : Nat) : (s.rs f i v x).prot = s.prot := rfl
@[simp] theorem State.rs_host (s : State) (f : Fld) (i v x : Nat) : (s.rs f i v x).host = s.host := rfl
@[simp] theorem State.rs_net (s : State) (f : Fld) (i v x : Nat) : (s.rs f i v x).net = s.net := rfl
@[simp] theorem State.rs_bufs (s : State) (f : Fld) (i v x : Nat) : (s.rs f i v x).bufs = s.bufs := rfl
@[simp] theorem State.rs_dcred (s : State) (f : Fld) (i v x : Nat) : (s.rs f i v x).dcred = s.dcred := rfl
@[simp] theorem State.rs_rqueue (s : State) (f : Fld) (i v x : Nat) : (s.rs f i v x).rqueue = s.rqueue := rfl
@[simp] theorem State.rs_phasePend (s : State) (f : Fld) (i v x : Nat) : (s.rs f i v x).phasePend = s.phasePend := rfl
@[simp] theorem State.rs_sync (s : State) (f : Fld) (i v x : Nat) : (s.rs f i v x).sync = s.sync := rfl
@[simp] theorem State.rs_strm (s : State) (f : Fld) (i v x : Nat) : (s.rs f i v x).strm = s.strm := rfl
@[simp] theorem State.rs_lanes (s : State) (f : Fld) (i v x : Nat) : (s.rs f i v x).lanes = s.lanes := rfl
@[simp] theorem State.rs_aer (s : State) (f : Fld) (i v x : Nat) : (s.rs f i v x).aer = s.aer := rfl
@[simp] theorem State.rs_rfb (s : State) (f : Fld) (i v x : Nat) : (s.rs f i v x).rfb = s.rfb := rfl
@[simp] theorem State.rs_jrn (s : State) (f : Fld) (i v x : Nat) : (s.rs f i v x).jrn = s.jrn := rfl
@[simp] theorem State.rs_jcap (s : State) (f : Fld) (i v x : Nat) : (s.rs f i v x).jcap = s.jcap := rfl
@[simp] theorem State.rs_rep (s : State) (f : Fld) (i v x : Nat) : (s.rs f i v x).rep = s.rep := rfl
@[simp] theorem State.rs_waits (s : State) (f : Fld) (i v x : Nat) : (s.rs f i v x).waits = s.waits := rfl
@[simp] theorem State.rs_banks (s : State) (f : Fld) (i v x : Nat) : (s.rs f i v x).banks = s.banks := rfl
@[simp] theorem State.rs_wtRate (s : State) (f : Fld) (i v x : Nat) : (s.rs f i v x).wtRate = s.wtRate := rfl
@[simp] theorem State.rs_wtOff (s : State) (f : Fld) (i v x : Nat) : (s.rs f i v x).wtOff = s.wtOff := rfl
@[simp] theorem State.rs_sched (s : State) (f : Fld) (i v x : Nat) : (s.rs f i v x).sched = s.sched := rfl
@[simp] theorem State.rs_cores (s : State) (f : Fld) (i v x : Nat) : (s.rs f i v x).cores = s.cores := rfl
@[simp] theorem State.rs_routers (s : State) (f : Fld) (i v x : Nat) : (s.rs f i v x).routers = s.routers := rfl
@[simp] theorem State.rs_mx (s : State) (f : Fld) (i v x : Nat) : (s.rs f i v x).mx = s.mx := rfl
@[simp] theorem State.rs_tok (s : State) (f : Fld) (i v x : Nat) : (s.rs f i v x).tok = s.tok := rfl
@[simp] theorem State.rs_ddrq (s : State) (f : Fld) (i v x : Nat) : (s.rs f i v x).ddrq = s.ddrq := rfl
@[simp] theorem State.rs_ddrNext (s : State) (f : Fld) (i v x : Nat) : (s.rs f i v x).ddrNext = s.ddrNext := rfl
@[simp] theorem State.rs_rateAct (s : State) (f : Fld) (i v x : Nat) : (s.rs f i v x).rateAct = s.rateAct := rfl
@[simp] theorem State.rs_grp (s : State) (f : Fld) (i v x : Nat) : (s.rs f i v x).grp = s.grp := rfl
@[simp] theorem State.rs_tracks (s : State) (f : Fld) (i v x : Nat) : (s.rs f i v x).tracks = s.tracks := rfl
@[simp] theorem State.rs_kills (s : State) (f : Fld) (i v x : Nat) : (s.rs f i v x).kills = s.kills := rfl
@[simp] theorem State.rs_health (s : State) (f : Fld) (i v x : Nat) : (s.rs f i v x).health = s.health := rfl
@[simp] theorem State.rs_cal (s : State) (f : Fld) (i v x : Nat) : (s.rs f i v x).cal = s.cal := rfl
@[simp] theorem State.rs_featCap (s : State) (f : Fld) (i v x : Nat) : (s.rs f i v x).featCap = s.featCap := rfl
@[simp] theorem State.rs_sec (s : State) (f : Fld) (i v x : Nat) : (s.rs f i v x).sec = s.sec := rfl
@[simp] theorem State.rs_dom (s : State) (f : Fld) (i v x : Nat) : (s.rs f i v x).dom = s.dom := rfl
@[simp] theorem State.rs_pps (s : State) (f : Fld) (i v x : Nat) : (s.rs f i v x).pps = s.pps := rfl
@[simp] theorem State.rs_launch (s : State) (f : Fld) (i v x : Nat) : (s.rs f i v x).launch = s.launch := rfl
@[simp] theorem State.rs_wireEnd (s : State) (f : Fld) (i v x : Nat) : (s.rs f i v x).wireEnd = s.wireEnd := rfl
@[simp] theorem State.rs_rxHeld (s : State) (f : Fld) (i v x : Nat) : (s.rs f i v x).rxHeld = s.rxHeld := rfl
@[simp] theorem State.rs_fab (s : State) (f : Fld) (i v x : Nat) : (s.rs f i v x).fab = s.fab := rfl
@[simp] theorem State.rs_pow (s : State) (f : Fld) (i v x : Nat) : (s.rs f i v x).pow = s.pow := rfl
@[simp] theorem State.rs_pending (s : State) (f : Fld) (i v x : Nat) : (s.rs f i v x).pending = s.pending := rfl

/-! ## `rb` -/

@[simp] theorem State.rb_dt (s : State) (f : Fld) (i : Nat) (b : Bool) (x : Nat) : (s.rb f i b x).dt = s.dt := rfl
@[simp] theorem State.rb_laps (s : State) (f : Fld) (i : Nat) (b : Bool) (x : Nat) : (s.rb f i b x).laps = s.laps := rfl
@[simp] theorem State.rb_aonRun (s : State) (f : Fld) (i : Nat) (b : Bool) (x : Nat) : (s.rb f i b x).aonRun = s.aonRun := rfl
@[simp] theorem State.rb_tick (s : State) (f : Fld) (i : Nat) (b : Bool) (x : Nat) : (s.rb f i b x).tick = s.tick := rfl
@[simp] theorem State.rb_free (s : State) (f : Fld) (i : Nat) (b : Bool) (x : Nat) : (s.rb f i b x).free = s.free := rfl
@[simp] theorem State.rb_latch (s : State) (f : Fld) (i : Nat) (b : Bool) (x : Nat) : (s.rb f i b x).latch = s.latch := rfl
@[simp] theorem State.rb_fenced (s : State) (f : Fld) (i : Nat) (b : Bool) (x : Nat) : (s.rb f i b x).fenced = s.fenced := rfl
@[simp] theorem State.rb_resetting (s : State) (f : Fld) (i : Nat) (b : Bool) (x : Nat) : (s.rb f i b x).resetting = s.resetting := rfl
@[simp] theorem State.rb_heldPages (s : State) (f : Fld) (i : Nat) (b : Bool) (x : Nat) : (s.rb f i b x).heldPages = s.heldPages := rfl
@[simp] theorem State.rb_sram (s : State) (f : Fld) (i : Nat) (b : Bool) (x : Nat) : (s.rb f i b x).sram = s.sram := rfl
@[simp] theorem State.rb_ddr4 (s : State) (f : Fld) (i : Nat) (b : Bool) (x : Nat) : (s.rb f i b x).ddr4 = s.ddr4 := rfl
@[simp] theorem State.rb_out (s : State) (f : Fld) (i : Nat) (b : Bool) (x : Nat) : (s.rb f i b x).out = s.out := rfl
@[simp] theorem State.rb_boot (s : State) (f : Fld) (i : Nat) (b : Bool) (x : Nat) : (s.rb f i b x).boot = s.boot := rfl
@[simp] theorem State.rb_protVault (s : State) (f : Fld) (i : Nat) (b : Bool) (x : Nat) : (s.rb f i b x).protVault = s.protVault := rfl
@[simp] theorem State.rb_prot (s : State) (f : Fld) (i : Nat) (b : Bool) (x : Nat) : (s.rb f i b x).prot = s.prot := rfl
@[simp] theorem State.rb_host (s : State) (f : Fld) (i : Nat) (b : Bool) (x : Nat) : (s.rb f i b x).host = s.host := rfl
@[simp] theorem State.rb_net (s : State) (f : Fld) (i : Nat) (b : Bool) (x : Nat) : (s.rb f i b x).net = s.net := rfl
@[simp] theorem State.rb_bufs (s : State) (f : Fld) (i : Nat) (b : Bool) (x : Nat) : (s.rb f i b x).bufs = s.bufs := rfl
@[simp] theorem State.rb_dcred (s : State) (f : Fld) (i : Nat) (b : Bool) (x : Nat) : (s.rb f i b x).dcred = s.dcred := rfl
@[simp] theorem State.rb_rqueue (s : State) (f : Fld) (i : Nat) (b : Bool) (x : Nat) : (s.rb f i b x).rqueue = s.rqueue := rfl
@[simp] theorem State.rb_phasePend (s : State) (f : Fld) (i : Nat) (b : Bool) (x : Nat) : (s.rb f i b x).phasePend = s.phasePend := rfl
@[simp] theorem State.rb_sync (s : State) (f : Fld) (i : Nat) (b : Bool) (x : Nat) : (s.rb f i b x).sync = s.sync := rfl
@[simp] theorem State.rb_strm (s : State) (f : Fld) (i : Nat) (b : Bool) (x : Nat) : (s.rb f i b x).strm = s.strm := rfl
@[simp] theorem State.rb_lanes (s : State) (f : Fld) (i : Nat) (b : Bool) (x : Nat) : (s.rb f i b x).lanes = s.lanes := rfl
@[simp] theorem State.rb_aer (s : State) (f : Fld) (i : Nat) (b : Bool) (x : Nat) : (s.rb f i b x).aer = s.aer := rfl
@[simp] theorem State.rb_rfb (s : State) (f : Fld) (i : Nat) (b : Bool) (x : Nat) : (s.rb f i b x).rfb = s.rfb := rfl
@[simp] theorem State.rb_jrn (s : State) (f : Fld) (i : Nat) (b : Bool) (x : Nat) : (s.rb f i b x).jrn = s.jrn := rfl
@[simp] theorem State.rb_jcap (s : State) (f : Fld) (i : Nat) (b : Bool) (x : Nat) : (s.rb f i b x).jcap = s.jcap := rfl
@[simp] theorem State.rb_rep (s : State) (f : Fld) (i : Nat) (b : Bool) (x : Nat) : (s.rb f i b x).rep = s.rep := rfl
@[simp] theorem State.rb_waits (s : State) (f : Fld) (i : Nat) (b : Bool) (x : Nat) : (s.rb f i b x).waits = s.waits := rfl
@[simp] theorem State.rb_banks (s : State) (f : Fld) (i : Nat) (b : Bool) (x : Nat) : (s.rb f i b x).banks = s.banks := rfl
@[simp] theorem State.rb_wtRate (s : State) (f : Fld) (i : Nat) (b : Bool) (x : Nat) : (s.rb f i b x).wtRate = s.wtRate := rfl
@[simp] theorem State.rb_wtOff (s : State) (f : Fld) (i : Nat) (b : Bool) (x : Nat) : (s.rb f i b x).wtOff = s.wtOff := rfl
@[simp] theorem State.rb_sched (s : State) (f : Fld) (i : Nat) (b : Bool) (x : Nat) : (s.rb f i b x).sched = s.sched := rfl
@[simp] theorem State.rb_cores (s : State) (f : Fld) (i : Nat) (b : Bool) (x : Nat) : (s.rb f i b x).cores = s.cores := rfl
@[simp] theorem State.rb_routers (s : State) (f : Fld) (i : Nat) (b : Bool) (x : Nat) : (s.rb f i b x).routers = s.routers := rfl
@[simp] theorem State.rb_mx (s : State) (f : Fld) (i : Nat) (b : Bool) (x : Nat) : (s.rb f i b x).mx = s.mx := rfl
@[simp] theorem State.rb_tok (s : State) (f : Fld) (i : Nat) (b : Bool) (x : Nat) : (s.rb f i b x).tok = s.tok := rfl
@[simp] theorem State.rb_ddrq (s : State) (f : Fld) (i : Nat) (b : Bool) (x : Nat) : (s.rb f i b x).ddrq = s.ddrq := rfl
@[simp] theorem State.rb_ddrNext (s : State) (f : Fld) (i : Nat) (b : Bool) (x : Nat) : (s.rb f i b x).ddrNext = s.ddrNext := rfl
@[simp] theorem State.rb_rateAct (s : State) (f : Fld) (i : Nat) (b : Bool) (x : Nat) : (s.rb f i b x).rateAct = s.rateAct := rfl
@[simp] theorem State.rb_grp (s : State) (f : Fld) (i : Nat) (b : Bool) (x : Nat) : (s.rb f i b x).grp = s.grp := rfl
@[simp] theorem State.rb_tracks (s : State) (f : Fld) (i : Nat) (b : Bool) (x : Nat) : (s.rb f i b x).tracks = s.tracks := rfl
@[simp] theorem State.rb_kills (s : State) (f : Fld) (i : Nat) (b : Bool) (x : Nat) : (s.rb f i b x).kills = s.kills := rfl
@[simp] theorem State.rb_health (s : State) (f : Fld) (i : Nat) (b : Bool) (x : Nat) : (s.rb f i b x).health = s.health := rfl
@[simp] theorem State.rb_cal (s : State) (f : Fld) (i : Nat) (b : Bool) (x : Nat) : (s.rb f i b x).cal = s.cal := rfl
@[simp] theorem State.rb_featCap (s : State) (f : Fld) (i : Nat) (b : Bool) (x : Nat) : (s.rb f i b x).featCap = s.featCap := rfl
@[simp] theorem State.rb_sec (s : State) (f : Fld) (i : Nat) (b : Bool) (x : Nat) : (s.rb f i b x).sec = s.sec := rfl
@[simp] theorem State.rb_dom (s : State) (f : Fld) (i : Nat) (b : Bool) (x : Nat) : (s.rb f i b x).dom = s.dom := rfl
@[simp] theorem State.rb_pps (s : State) (f : Fld) (i : Nat) (b : Bool) (x : Nat) : (s.rb f i b x).pps = s.pps := rfl
@[simp] theorem State.rb_launch (s : State) (f : Fld) (i : Nat) (b : Bool) (x : Nat) : (s.rb f i b x).launch = s.launch := rfl
@[simp] theorem State.rb_wireEnd (s : State) (f : Fld) (i : Nat) (b : Bool) (x : Nat) : (s.rb f i b x).wireEnd = s.wireEnd := rfl
@[simp] theorem State.rb_rxHeld (s : State) (f : Fld) (i : Nat) (b : Bool) (x : Nat) : (s.rb f i b x).rxHeld = s.rxHeld := rfl
@[simp] theorem State.rb_fab (s : State) (f : Fld) (i : Nat) (b : Bool) (x : Nat) : (s.rb f i b x).fab = s.fab := rfl
@[simp] theorem State.rb_pow (s : State) (f : Fld) (i : Nat) (b : Bool) (x : Nat) : (s.rb f i b x).pow = s.pow := rfl
@[simp] theorem State.rb_pending (s : State) (f : Fld) (i : Nat) (b : Bool) (x : Nat) : (s.rb f i b x).pending = s.pending := rfl

/-! ## `inc` -/

@[simp] theorem State.inc_dt (s : State) (f : Fld) (i n x : Nat) : (s.inc f i n x).dt = s.dt := rfl
@[simp] theorem State.inc_laps (s : State) (f : Fld) (i n x : Nat) : (s.inc f i n x).laps = s.laps := rfl
@[simp] theorem State.inc_aonRun (s : State) (f : Fld) (i n x : Nat) : (s.inc f i n x).aonRun = s.aonRun := rfl
@[simp] theorem State.inc_tick (s : State) (f : Fld) (i n x : Nat) : (s.inc f i n x).tick = s.tick := rfl
@[simp] theorem State.inc_free (s : State) (f : Fld) (i n x : Nat) : (s.inc f i n x).free = s.free := rfl
@[simp] theorem State.inc_latch (s : State) (f : Fld) (i n x : Nat) : (s.inc f i n x).latch = s.latch := rfl
@[simp] theorem State.inc_fenced (s : State) (f : Fld) (i n x : Nat) : (s.inc f i n x).fenced = s.fenced := rfl
@[simp] theorem State.inc_resetting (s : State) (f : Fld) (i n x : Nat) : (s.inc f i n x).resetting = s.resetting := rfl
@[simp] theorem State.inc_heldPages (s : State) (f : Fld) (i n x : Nat) : (s.inc f i n x).heldPages = s.heldPages := rfl
@[simp] theorem State.inc_sram (s : State) (f : Fld) (i n x : Nat) : (s.inc f i n x).sram = s.sram := rfl
@[simp] theorem State.inc_ddr4 (s : State) (f : Fld) (i n x : Nat) : (s.inc f i n x).ddr4 = s.ddr4 := rfl
@[simp] theorem State.inc_out (s : State) (f : Fld) (i n x : Nat) : (s.inc f i n x).out = s.out := rfl
@[simp] theorem State.inc_boot (s : State) (f : Fld) (i n x : Nat) : (s.inc f i n x).boot = s.boot := rfl
@[simp] theorem State.inc_protVault (s : State) (f : Fld) (i n x : Nat) : (s.inc f i n x).protVault = s.protVault := rfl
@[simp] theorem State.inc_prot (s : State) (f : Fld) (i n x : Nat) : (s.inc f i n x).prot = s.prot := rfl
@[simp] theorem State.inc_host (s : State) (f : Fld) (i n x : Nat) : (s.inc f i n x).host = s.host := rfl
@[simp] theorem State.inc_net (s : State) (f : Fld) (i n x : Nat) : (s.inc f i n x).net = s.net := rfl
@[simp] theorem State.inc_bufs (s : State) (f : Fld) (i n x : Nat) : (s.inc f i n x).bufs = s.bufs := rfl
@[simp] theorem State.inc_dcred (s : State) (f : Fld) (i n x : Nat) : (s.inc f i n x).dcred = s.dcred := rfl
@[simp] theorem State.inc_rqueue (s : State) (f : Fld) (i n x : Nat) : (s.inc f i n x).rqueue = s.rqueue := rfl
@[simp] theorem State.inc_phasePend (s : State) (f : Fld) (i n x : Nat) : (s.inc f i n x).phasePend = s.phasePend := rfl
@[simp] theorem State.inc_sync (s : State) (f : Fld) (i n x : Nat) : (s.inc f i n x).sync = s.sync := rfl
@[simp] theorem State.inc_strm (s : State) (f : Fld) (i n x : Nat) : (s.inc f i n x).strm = s.strm := rfl
@[simp] theorem State.inc_lanes (s : State) (f : Fld) (i n x : Nat) : (s.inc f i n x).lanes = s.lanes := rfl
@[simp] theorem State.inc_aer (s : State) (f : Fld) (i n x : Nat) : (s.inc f i n x).aer = s.aer := rfl
@[simp] theorem State.inc_rfb (s : State) (f : Fld) (i n x : Nat) : (s.inc f i n x).rfb = s.rfb := rfl
@[simp] theorem State.inc_jrn (s : State) (f : Fld) (i n x : Nat) : (s.inc f i n x).jrn = s.jrn := rfl
@[simp] theorem State.inc_jcap (s : State) (f : Fld) (i n x : Nat) : (s.inc f i n x).jcap = s.jcap := rfl
@[simp] theorem State.inc_rep (s : State) (f : Fld) (i n x : Nat) : (s.inc f i n x).rep = s.rep := rfl
@[simp] theorem State.inc_waits (s : State) (f : Fld) (i n x : Nat) : (s.inc f i n x).waits = s.waits := rfl
@[simp] theorem State.inc_banks (s : State) (f : Fld) (i n x : Nat) : (s.inc f i n x).banks = s.banks := rfl
@[simp] theorem State.inc_wtRate (s : State) (f : Fld) (i n x : Nat) : (s.inc f i n x).wtRate = s.wtRate := rfl
@[simp] theorem State.inc_wtOff (s : State) (f : Fld) (i n x : Nat) : (s.inc f i n x).wtOff = s.wtOff := rfl
@[simp] theorem State.inc_sched (s : State) (f : Fld) (i n x : Nat) : (s.inc f i n x).sched = s.sched := rfl
@[simp] theorem State.inc_cores (s : State) (f : Fld) (i n x : Nat) : (s.inc f i n x).cores = s.cores := rfl
@[simp] theorem State.inc_routers (s : State) (f : Fld) (i n x : Nat) : (s.inc f i n x).routers = s.routers := rfl
@[simp] theorem State.inc_mx (s : State) (f : Fld) (i n x : Nat) : (s.inc f i n x).mx = s.mx := rfl
@[simp] theorem State.inc_tok (s : State) (f : Fld) (i n x : Nat) : (s.inc f i n x).tok = s.tok := rfl
@[simp] theorem State.inc_ddrq (s : State) (f : Fld) (i n x : Nat) : (s.inc f i n x).ddrq = s.ddrq := rfl
@[simp] theorem State.inc_ddrNext (s : State) (f : Fld) (i n x : Nat) : (s.inc f i n x).ddrNext = s.ddrNext := rfl
@[simp] theorem State.inc_rateAct (s : State) (f : Fld) (i n x : Nat) : (s.inc f i n x).rateAct = s.rateAct := rfl
@[simp] theorem State.inc_grp (s : State) (f : Fld) (i n x : Nat) : (s.inc f i n x).grp = s.grp := rfl
@[simp] theorem State.inc_tracks (s : State) (f : Fld) (i n x : Nat) : (s.inc f i n x).tracks = s.tracks := rfl
@[simp] theorem State.inc_kills (s : State) (f : Fld) (i n x : Nat) : (s.inc f i n x).kills = s.kills := rfl
@[simp] theorem State.inc_health (s : State) (f : Fld) (i n x : Nat) : (s.inc f i n x).health = s.health := rfl
@[simp] theorem State.inc_cal (s : State) (f : Fld) (i n x : Nat) : (s.inc f i n x).cal = s.cal := rfl
@[simp] theorem State.inc_featCap (s : State) (f : Fld) (i n x : Nat) : (s.inc f i n x).featCap = s.featCap := rfl
@[simp] theorem State.inc_sec (s : State) (f : Fld) (i n x : Nat) : (s.inc f i n x).sec = s.sec := rfl
@[simp] theorem State.inc_dom (s : State) (f : Fld) (i n x : Nat) : (s.inc f i n x).dom = s.dom := rfl
@[simp] theorem State.inc_pps (s : State) (f : Fld) (i n x : Nat) : (s.inc f i n x).pps = s.pps := rfl
@[simp] theorem State.inc_launch (s : State) (f : Fld) (i n x : Nat) : (s.inc f i n x).launch = s.launch := rfl
@[simp] theorem State.inc_wireEnd (s : State) (f : Fld) (i n x : Nat) : (s.inc f i n x).wireEnd = s.wireEnd := rfl
@[simp] theorem State.inc_rxHeld (s : State) (f : Fld) (i n x : Nat) : (s.inc f i n x).rxHeld = s.rxHeld := rfl
@[simp] theorem State.inc_fab (s : State) (f : Fld) (i n x : Nat) : (s.inc f i n x).fab = s.fab := rfl
@[simp] theorem State.inc_pow (s : State) (f : Fld) (i n x : Nat) : (s.inc f i n x).pow = s.pow := rfl
@[simp] theorem State.inc_pending (s : State) (f : Fld) (i n x : Nat) : (s.inc f i n x).pending = s.pending := rfl

/-! ## `incSat` -/

@[simp] theorem State.incSat_dt (s : State) (f : Fld) (i n x : Nat) : (s.incSat f i n x).dt = s.dt := rfl
@[simp] theorem State.incSat_laps (s : State) (f : Fld) (i n x : Nat) : (s.incSat f i n x).laps = s.laps := rfl
@[simp] theorem State.incSat_aonRun (s : State) (f : Fld) (i n x : Nat) : (s.incSat f i n x).aonRun = s.aonRun := rfl
@[simp] theorem State.incSat_tick (s : State) (f : Fld) (i n x : Nat) : (s.incSat f i n x).tick = s.tick := rfl
@[simp] theorem State.incSat_free (s : State) (f : Fld) (i n x : Nat) : (s.incSat f i n x).free = s.free := rfl
@[simp] theorem State.incSat_latch (s : State) (f : Fld) (i n x : Nat) : (s.incSat f i n x).latch = s.latch := rfl
@[simp] theorem State.incSat_fenced (s : State) (f : Fld) (i n x : Nat) : (s.incSat f i n x).fenced = s.fenced := rfl
@[simp] theorem State.incSat_resetting (s : State) (f : Fld) (i n x : Nat) : (s.incSat f i n x).resetting = s.resetting := rfl
@[simp] theorem State.incSat_heldPages (s : State) (f : Fld) (i n x : Nat) : (s.incSat f i n x).heldPages = s.heldPages := rfl
@[simp] theorem State.incSat_sram (s : State) (f : Fld) (i n x : Nat) : (s.incSat f i n x).sram = s.sram := rfl
@[simp] theorem State.incSat_ddr4 (s : State) (f : Fld) (i n x : Nat) : (s.incSat f i n x).ddr4 = s.ddr4 := rfl
@[simp] theorem State.incSat_out (s : State) (f : Fld) (i n x : Nat) : (s.incSat f i n x).out = s.out := rfl
@[simp] theorem State.incSat_boot (s : State) (f : Fld) (i n x : Nat) : (s.incSat f i n x).boot = s.boot := rfl
@[simp] theorem State.incSat_protVault (s : State) (f : Fld) (i n x : Nat) : (s.incSat f i n x).protVault = s.protVault := rfl
@[simp] theorem State.incSat_prot (s : State) (f : Fld) (i n x : Nat) : (s.incSat f i n x).prot = s.prot := rfl
@[simp] theorem State.incSat_host (s : State) (f : Fld) (i n x : Nat) : (s.incSat f i n x).host = s.host := rfl
@[simp] theorem State.incSat_net (s : State) (f : Fld) (i n x : Nat) : (s.incSat f i n x).net = s.net := rfl
@[simp] theorem State.incSat_bufs (s : State) (f : Fld) (i n x : Nat) : (s.incSat f i n x).bufs = s.bufs := rfl
@[simp] theorem State.incSat_dcred (s : State) (f : Fld) (i n x : Nat) : (s.incSat f i n x).dcred = s.dcred := rfl
@[simp] theorem State.incSat_rqueue (s : State) (f : Fld) (i n x : Nat) : (s.incSat f i n x).rqueue = s.rqueue := rfl
@[simp] theorem State.incSat_phasePend (s : State) (f : Fld) (i n x : Nat) : (s.incSat f i n x).phasePend = s.phasePend := rfl
@[simp] theorem State.incSat_sync (s : State) (f : Fld) (i n x : Nat) : (s.incSat f i n x).sync = s.sync := rfl
@[simp] theorem State.incSat_strm (s : State) (f : Fld) (i n x : Nat) : (s.incSat f i n x).strm = s.strm := rfl
@[simp] theorem State.incSat_lanes (s : State) (f : Fld) (i n x : Nat) : (s.incSat f i n x).lanes = s.lanes := rfl
@[simp] theorem State.incSat_aer (s : State) (f : Fld) (i n x : Nat) : (s.incSat f i n x).aer = s.aer := rfl
@[simp] theorem State.incSat_rfb (s : State) (f : Fld) (i n x : Nat) : (s.incSat f i n x).rfb = s.rfb := rfl
@[simp] theorem State.incSat_jrn (s : State) (f : Fld) (i n x : Nat) : (s.incSat f i n x).jrn = s.jrn := rfl
@[simp] theorem State.incSat_jcap (s : State) (f : Fld) (i n x : Nat) : (s.incSat f i n x).jcap = s.jcap := rfl
@[simp] theorem State.incSat_rep (s : State) (f : Fld) (i n x : Nat) : (s.incSat f i n x).rep = s.rep := rfl
@[simp] theorem State.incSat_waits (s : State) (f : Fld) (i n x : Nat) : (s.incSat f i n x).waits = s.waits := rfl
@[simp] theorem State.incSat_banks (s : State) (f : Fld) (i n x : Nat) : (s.incSat f i n x).banks = s.banks := rfl
@[simp] theorem State.incSat_wtRate (s : State) (f : Fld) (i n x : Nat) : (s.incSat f i n x).wtRate = s.wtRate := rfl
@[simp] theorem State.incSat_wtOff (s : State) (f : Fld) (i n x : Nat) : (s.incSat f i n x).wtOff = s.wtOff := rfl
@[simp] theorem State.incSat_sched (s : State) (f : Fld) (i n x : Nat) : (s.incSat f i n x).sched = s.sched := rfl
@[simp] theorem State.incSat_cores (s : State) (f : Fld) (i n x : Nat) : (s.incSat f i n x).cores = s.cores := rfl
@[simp] theorem State.incSat_routers (s : State) (f : Fld) (i n x : Nat) : (s.incSat f i n x).routers = s.routers := rfl
@[simp] theorem State.incSat_mx (s : State) (f : Fld) (i n x : Nat) : (s.incSat f i n x).mx = s.mx := rfl
@[simp] theorem State.incSat_tok (s : State) (f : Fld) (i n x : Nat) : (s.incSat f i n x).tok = s.tok := rfl
@[simp] theorem State.incSat_ddrq (s : State) (f : Fld) (i n x : Nat) : (s.incSat f i n x).ddrq = s.ddrq := rfl
@[simp] theorem State.incSat_ddrNext (s : State) (f : Fld) (i n x : Nat) : (s.incSat f i n x).ddrNext = s.ddrNext := rfl
@[simp] theorem State.incSat_rateAct (s : State) (f : Fld) (i n x : Nat) : (s.incSat f i n x).rateAct = s.rateAct := rfl
@[simp] theorem State.incSat_grp (s : State) (f : Fld) (i n x : Nat) : (s.incSat f i n x).grp = s.grp := rfl
@[simp] theorem State.incSat_tracks (s : State) (f : Fld) (i n x : Nat) : (s.incSat f i n x).tracks = s.tracks := rfl
@[simp] theorem State.incSat_kills (s : State) (f : Fld) (i n x : Nat) : (s.incSat f i n x).kills = s.kills := rfl
@[simp] theorem State.incSat_health (s : State) (f : Fld) (i n x : Nat) : (s.incSat f i n x).health = s.health := rfl
@[simp] theorem State.incSat_cal (s : State) (f : Fld) (i n x : Nat) : (s.incSat f i n x).cal = s.cal := rfl
@[simp] theorem State.incSat_featCap (s : State) (f : Fld) (i n x : Nat) : (s.incSat f i n x).featCap = s.featCap := rfl
@[simp] theorem State.incSat_sec (s : State) (f : Fld) (i n x : Nat) : (s.incSat f i n x).sec = s.sec := rfl
@[simp] theorem State.incSat_dom (s : State) (f : Fld) (i n x : Nat) : (s.incSat f i n x).dom = s.dom := rfl
@[simp] theorem State.incSat_pps (s : State) (f : Fld) (i n x : Nat) : (s.incSat f i n x).pps = s.pps := rfl
@[simp] theorem State.incSat_launch (s : State) (f : Fld) (i n x : Nat) : (s.incSat f i n x).launch = s.launch := rfl
@[simp] theorem State.incSat_wireEnd (s : State) (f : Fld) (i n x : Nat) : (s.incSat f i n x).wireEnd = s.wireEnd := rfl
@[simp] theorem State.incSat_rxHeld (s : State) (f : Fld) (i n x : Nat) : (s.incSat f i n x).rxHeld = s.rxHeld := rfl
@[simp] theorem State.incSat_fab (s : State) (f : Fld) (i n x : Nat) : (s.incSat f i n x).fab = s.fab := rfl
@[simp] theorem State.incSat_pow (s : State) (f : Fld) (i n x : Nat) : (s.incSat f i n x).pow = s.pow := rfl
@[simp] theorem State.incSat_pending (s : State) (f : Fld) (i n x : Nat) : (s.incSat f i n x).pending = s.pending := rfl

/-! ## `emit` -/

@[simp] theorem State.emit_dt (s : State) (o : Out) : (s.emit o).dt = s.dt := rfl
@[simp] theorem State.emit_laps (s : State) (o : Out) : (s.emit o).laps = s.laps := rfl
@[simp] theorem State.emit_aonRun (s : State) (o : Out) : (s.emit o).aonRun = s.aonRun := rfl
@[simp] theorem State.emit_tick (s : State) (o : Out) : (s.emit o).tick = s.tick := rfl
@[simp] theorem State.emit_free (s : State) (o : Out) : (s.emit o).free = s.free := rfl
@[simp] theorem State.emit_regs (s : State) (o : Out) : (s.emit o).regs = s.regs := rfl
@[simp] theorem State.emit_latch (s : State) (o : Out) : (s.emit o).latch = s.latch := rfl
@[simp] theorem State.emit_fenced (s : State) (o : Out) : (s.emit o).fenced = s.fenced := rfl
@[simp] theorem State.emit_resetting (s : State) (o : Out) : (s.emit o).resetting = s.resetting := rfl
@[simp] theorem State.emit_heldPages (s : State) (o : Out) : (s.emit o).heldPages = s.heldPages := rfl
@[simp] theorem State.emit_sram (s : State) (o : Out) : (s.emit o).sram = s.sram := rfl
@[simp] theorem State.emit_ddr4 (s : State) (o : Out) : (s.emit o).ddr4 = s.ddr4 := rfl
@[simp] theorem State.emit_boot (s : State) (o : Out) : (s.emit o).boot = s.boot := rfl
@[simp] theorem State.emit_protVault (s : State) (o : Out) : (s.emit o).protVault = s.protVault := rfl
@[simp] theorem State.emit_prot (s : State) (o : Out) : (s.emit o).prot = s.prot := rfl
@[simp] theorem State.emit_host (s : State) (o : Out) : (s.emit o).host = s.host := rfl
@[simp] theorem State.emit_net (s : State) (o : Out) : (s.emit o).net = s.net := rfl
@[simp] theorem State.emit_bufs (s : State) (o : Out) : (s.emit o).bufs = s.bufs := rfl
@[simp] theorem State.emit_dcred (s : State) (o : Out) : (s.emit o).dcred = s.dcred := rfl
@[simp] theorem State.emit_rqueue (s : State) (o : Out) : (s.emit o).rqueue = s.rqueue := rfl
@[simp] theorem State.emit_phasePend (s : State) (o : Out) : (s.emit o).phasePend = s.phasePend := rfl
@[simp] theorem State.emit_sync (s : State) (o : Out) : (s.emit o).sync = s.sync := rfl
@[simp] theorem State.emit_strm (s : State) (o : Out) : (s.emit o).strm = s.strm := rfl
@[simp] theorem State.emit_lanes (s : State) (o : Out) : (s.emit o).lanes = s.lanes := rfl
@[simp] theorem State.emit_aer (s : State) (o : Out) : (s.emit o).aer = s.aer := rfl
@[simp] theorem State.emit_rfb (s : State) (o : Out) : (s.emit o).rfb = s.rfb := rfl
@[simp] theorem State.emit_jrn (s : State) (o : Out) : (s.emit o).jrn = s.jrn := rfl
@[simp] theorem State.emit_jcap (s : State) (o : Out) : (s.emit o).jcap = s.jcap := rfl
@[simp] theorem State.emit_rep (s : State) (o : Out) : (s.emit o).rep = s.rep := rfl
@[simp] theorem State.emit_waits (s : State) (o : Out) : (s.emit o).waits = s.waits := rfl
@[simp] theorem State.emit_banks (s : State) (o : Out) : (s.emit o).banks = s.banks := rfl
@[simp] theorem State.emit_wtRate (s : State) (o : Out) : (s.emit o).wtRate = s.wtRate := rfl
@[simp] theorem State.emit_wtOff (s : State) (o : Out) : (s.emit o).wtOff = s.wtOff := rfl
@[simp] theorem State.emit_sched (s : State) (o : Out) : (s.emit o).sched = s.sched := rfl
@[simp] theorem State.emit_cores (s : State) (o : Out) : (s.emit o).cores = s.cores := rfl
@[simp] theorem State.emit_routers (s : State) (o : Out) : (s.emit o).routers = s.routers := rfl
@[simp] theorem State.emit_mx (s : State) (o : Out) : (s.emit o).mx = s.mx := rfl
@[simp] theorem State.emit_tok (s : State) (o : Out) : (s.emit o).tok = s.tok := rfl
@[simp] theorem State.emit_ddrq (s : State) (o : Out) : (s.emit o).ddrq = s.ddrq := rfl
@[simp] theorem State.emit_ddrNext (s : State) (o : Out) : (s.emit o).ddrNext = s.ddrNext := rfl
@[simp] theorem State.emit_rateAct (s : State) (o : Out) : (s.emit o).rateAct = s.rateAct := rfl
@[simp] theorem State.emit_grp (s : State) (o : Out) : (s.emit o).grp = s.grp := rfl
@[simp] theorem State.emit_tracks (s : State) (o : Out) : (s.emit o).tracks = s.tracks := rfl
@[simp] theorem State.emit_kills (s : State) (o : Out) : (s.emit o).kills = s.kills := rfl
@[simp] theorem State.emit_health (s : State) (o : Out) : (s.emit o).health = s.health := rfl
@[simp] theorem State.emit_cal (s : State) (o : Out) : (s.emit o).cal = s.cal := rfl
@[simp] theorem State.emit_featCap (s : State) (o : Out) : (s.emit o).featCap = s.featCap := rfl
@[simp] theorem State.emit_sec (s : State) (o : Out) : (s.emit o).sec = s.sec := rfl
@[simp] theorem State.emit_dom (s : State) (o : Out) : (s.emit o).dom = s.dom := rfl
@[simp] theorem State.emit_pps (s : State) (o : Out) : (s.emit o).pps = s.pps := rfl
@[simp] theorem State.emit_launch (s : State) (o : Out) : (s.emit o).launch = s.launch := rfl
@[simp] theorem State.emit_wireEnd (s : State) (o : Out) : (s.emit o).wireEnd = s.wireEnd := rfl
@[simp] theorem State.emit_rxHeld (s : State) (o : Out) : (s.emit o).rxHeld = s.rxHeld := rfl
@[simp] theorem State.emit_fab (s : State) (o : Out) : (s.emit o).fab = s.fab := rfl
@[simp] theorem State.emit_pow (s : State) (o : Out) : (s.emit o).pow = s.pow := rfl
@[simp] theorem State.emit_pending (s : State) (o : Out) : (s.emit o).pending = s.pending := rfl

/-! ## `takeFree` -/

@[simp] theorem State.takeFree_dt (s : State) : (s.takeFree.2).dt = s.dt := rfl
@[simp] theorem State.takeFree_laps (s : State) : (s.takeFree.2).laps = s.laps := rfl
@[simp] theorem State.takeFree_aonRun (s : State) : (s.takeFree.2).aonRun = s.aonRun := rfl
@[simp] theorem State.takeFree_tick (s : State) : (s.takeFree.2).tick = s.tick := rfl
@[simp] theorem State.takeFree_regs (s : State) : (s.takeFree.2).regs = s.regs := rfl
@[simp] theorem State.takeFree_latch (s : State) : (s.takeFree.2).latch = s.latch := rfl
@[simp] theorem State.takeFree_fenced (s : State) : (s.takeFree.2).fenced = s.fenced := rfl
@[simp] theorem State.takeFree_resetting (s : State) : (s.takeFree.2).resetting = s.resetting := rfl
@[simp] theorem State.takeFree_heldPages (s : State) : (s.takeFree.2).heldPages = s.heldPages := rfl
@[simp] theorem State.takeFree_sram (s : State) : (s.takeFree.2).sram = s.sram := rfl
@[simp] theorem State.takeFree_ddr4 (s : State) : (s.takeFree.2).ddr4 = s.ddr4 := rfl
@[simp] theorem State.takeFree_out (s : State) : (s.takeFree.2).out = s.out := rfl
@[simp] theorem State.takeFree_boot (s : State) : (s.takeFree.2).boot = s.boot := rfl
@[simp] theorem State.takeFree_protVault (s : State) : (s.takeFree.2).protVault = s.protVault := rfl
@[simp] theorem State.takeFree_prot (s : State) : (s.takeFree.2).prot = s.prot := rfl
@[simp] theorem State.takeFree_host (s : State) : (s.takeFree.2).host = s.host := rfl
@[simp] theorem State.takeFree_net (s : State) : (s.takeFree.2).net = s.net := rfl
@[simp] theorem State.takeFree_bufs (s : State) : (s.takeFree.2).bufs = s.bufs := rfl
@[simp] theorem State.takeFree_dcred (s : State) : (s.takeFree.2).dcred = s.dcred := rfl
@[simp] theorem State.takeFree_rqueue (s : State) : (s.takeFree.2).rqueue = s.rqueue := rfl
@[simp] theorem State.takeFree_phasePend (s : State) : (s.takeFree.2).phasePend = s.phasePend := rfl
@[simp] theorem State.takeFree_sync (s : State) : (s.takeFree.2).sync = s.sync := rfl
@[simp] theorem State.takeFree_strm (s : State) : (s.takeFree.2).strm = s.strm := rfl
@[simp] theorem State.takeFree_lanes (s : State) : (s.takeFree.2).lanes = s.lanes := rfl
@[simp] theorem State.takeFree_aer (s : State) : (s.takeFree.2).aer = s.aer := rfl
@[simp] theorem State.takeFree_rfb (s : State) : (s.takeFree.2).rfb = s.rfb := rfl
@[simp] theorem State.takeFree_jrn (s : State) : (s.takeFree.2).jrn = s.jrn := rfl
@[simp] theorem State.takeFree_jcap (s : State) : (s.takeFree.2).jcap = s.jcap := rfl
@[simp] theorem State.takeFree_rep (s : State) : (s.takeFree.2).rep = s.rep := rfl
@[simp] theorem State.takeFree_waits (s : State) : (s.takeFree.2).waits = s.waits := rfl
@[simp] theorem State.takeFree_banks (s : State) : (s.takeFree.2).banks = s.banks := rfl
@[simp] theorem State.takeFree_wtRate (s : State) : (s.takeFree.2).wtRate = s.wtRate := rfl
@[simp] theorem State.takeFree_wtOff (s : State) : (s.takeFree.2).wtOff = s.wtOff := rfl
@[simp] theorem State.takeFree_sched (s : State) : (s.takeFree.2).sched = s.sched := rfl
@[simp] theorem State.takeFree_cores (s : State) : (s.takeFree.2).cores = s.cores := rfl
@[simp] theorem State.takeFree_routers (s : State) : (s.takeFree.2).routers = s.routers := rfl
@[simp] theorem State.takeFree_mx (s : State) : (s.takeFree.2).mx = s.mx := rfl
@[simp] theorem State.takeFree_tok (s : State) : (s.takeFree.2).tok = s.tok := rfl
@[simp] theorem State.takeFree_ddrq (s : State) : (s.takeFree.2).ddrq = s.ddrq := rfl
@[simp] theorem State.takeFree_ddrNext (s : State) : (s.takeFree.2).ddrNext = s.ddrNext := rfl
@[simp] theorem State.takeFree_rateAct (s : State) : (s.takeFree.2).rateAct = s.rateAct := rfl
@[simp] theorem State.takeFree_grp (s : State) : (s.takeFree.2).grp = s.grp := rfl
@[simp] theorem State.takeFree_tracks (s : State) : (s.takeFree.2).tracks = s.tracks := rfl
@[simp] theorem State.takeFree_kills (s : State) : (s.takeFree.2).kills = s.kills := rfl
@[simp] theorem State.takeFree_health (s : State) : (s.takeFree.2).health = s.health := rfl
@[simp] theorem State.takeFree_cal (s : State) : (s.takeFree.2).cal = s.cal := rfl
@[simp] theorem State.takeFree_featCap (s : State) : (s.takeFree.2).featCap = s.featCap := rfl
@[simp] theorem State.takeFree_sec (s : State) : (s.takeFree.2).sec = s.sec := rfl
@[simp] theorem State.takeFree_dom (s : State) : (s.takeFree.2).dom = s.dom := rfl
@[simp] theorem State.takeFree_pps (s : State) : (s.takeFree.2).pps = s.pps := rfl
@[simp] theorem State.takeFree_launch (s : State) : (s.takeFree.2).launch = s.launch := rfl
@[simp] theorem State.takeFree_wireEnd (s : State) : (s.takeFree.2).wireEnd = s.wireEnd := rfl
@[simp] theorem State.takeFree_rxHeld (s : State) : (s.takeFree.2).rxHeld = s.rxHeld := rfl
@[simp] theorem State.takeFree_fab (s : State) : (s.takeFree.2).fab = s.fab := rfl
@[simp] theorem State.takeFree_pow (s : State) : (s.takeFree.2).pow = s.pow := rfl
@[simp] theorem State.takeFree_pending (s : State) : (s.takeFree.2).pending = s.pending := rfl

@[simp] theorem State.emit_out (s : State) (o : Out) : (s.emit o).out = s.out ++ [o] := rfl
@[simp] theorem State.takeFree_free (s : State) : s.takeFree.2.free = s.free + 1 := rfl

/-! ## `advance`: only DT moves -/

@[simp] theorem State.advance_aonRun (s : State) (t : Nat) : (s.advance t).aonRun = s.aonRun := by unfold State.advance; split <;> (try split) <;> rfl
@[simp] theorem State.advance_tick (s : State) (t : Nat) : (s.advance t).tick = s.tick := by unfold State.advance; split <;> (try split) <;> rfl
@[simp] theorem State.advance_free (s : State) (t : Nat) : (s.advance t).free = s.free := by unfold State.advance; split <;> (try split) <;> rfl
@[simp] theorem State.advance_regs (s : State) (t : Nat) : (s.advance t).regs = s.regs := by unfold State.advance; split <;> (try split) <;> rfl
@[simp] theorem State.advance_latch (s : State) (t : Nat) : (s.advance t).latch = s.latch := by unfold State.advance; split <;> (try split) <;> rfl
@[simp] theorem State.advance_fenced (s : State) (t : Nat) : (s.advance t).fenced = s.fenced := by unfold State.advance; split <;> (try split) <;> rfl
@[simp] theorem State.advance_resetting (s : State) (t : Nat) : (s.advance t).resetting = s.resetting := by unfold State.advance; split <;> (try split) <;> rfl
@[simp] theorem State.advance_heldPages (s : State) (t : Nat) : (s.advance t).heldPages = s.heldPages := by unfold State.advance; split <;> (try split) <;> rfl
@[simp] theorem State.advance_sram (s : State) (t : Nat) : (s.advance t).sram = s.sram := by unfold State.advance; split <;> (try split) <;> rfl
@[simp] theorem State.advance_ddr4 (s : State) (t : Nat) : (s.advance t).ddr4 = s.ddr4 := by unfold State.advance; split <;> (try split) <;> rfl
@[simp] theorem State.advance_out (s : State) (t : Nat) : (s.advance t).out = s.out := by unfold State.advance; split <;> (try split) <;> rfl
@[simp] theorem State.advance_boot (s : State) (t : Nat) : (s.advance t).boot = s.boot := by unfold State.advance; split <;> (try split) <;> rfl
@[simp] theorem State.advance_protVault (s : State) (t : Nat) : (s.advance t).protVault = s.protVault := by unfold State.advance; split <;> (try split) <;> rfl
@[simp] theorem State.advance_prot (s : State) (t : Nat) : (s.advance t).prot = s.prot := by unfold State.advance; split <;> (try split) <;> rfl
@[simp] theorem State.advance_host (s : State) (t : Nat) : (s.advance t).host = s.host := by unfold State.advance; split <;> (try split) <;> rfl
@[simp] theorem State.advance_net (s : State) (t : Nat) : (s.advance t).net = s.net := by unfold State.advance; split <;> (try split) <;> rfl
@[simp] theorem State.advance_bufs (s : State) (t : Nat) : (s.advance t).bufs = s.bufs := by unfold State.advance; split <;> (try split) <;> rfl
@[simp] theorem State.advance_dcred (s : State) (t : Nat) : (s.advance t).dcred = s.dcred := by unfold State.advance; split <;> (try split) <;> rfl
@[simp] theorem State.advance_rqueue (s : State) (t : Nat) : (s.advance t).rqueue = s.rqueue := by unfold State.advance; split <;> (try split) <;> rfl
@[simp] theorem State.advance_phasePend (s : State) (t : Nat) : (s.advance t).phasePend = s.phasePend := by unfold State.advance; split <;> (try split) <;> rfl
@[simp] theorem State.advance_sync (s : State) (t : Nat) : (s.advance t).sync = s.sync := by unfold State.advance; split <;> (try split) <;> rfl
@[simp] theorem State.advance_strm (s : State) (t : Nat) : (s.advance t).strm = s.strm := by unfold State.advance; split <;> (try split) <;> rfl
@[simp] theorem State.advance_lanes (s : State) (t : Nat) : (s.advance t).lanes = s.lanes := by unfold State.advance; split <;> (try split) <;> rfl
@[simp] theorem State.advance_aer (s : State) (t : Nat) : (s.advance t).aer = s.aer := by unfold State.advance; split <;> (try split) <;> rfl
@[simp] theorem State.advance_rfb (s : State) (t : Nat) : (s.advance t).rfb = s.rfb := by unfold State.advance; split <;> (try split) <;> rfl
@[simp] theorem State.advance_jrn (s : State) (t : Nat) : (s.advance t).jrn = s.jrn := by unfold State.advance; split <;> (try split) <;> rfl
@[simp] theorem State.advance_jcap (s : State) (t : Nat) : (s.advance t).jcap = s.jcap := by unfold State.advance; split <;> (try split) <;> rfl
@[simp] theorem State.advance_rep (s : State) (t : Nat) : (s.advance t).rep = s.rep := by unfold State.advance; split <;> (try split) <;> rfl
@[simp] theorem State.advance_waits (s : State) (t : Nat) : (s.advance t).waits = s.waits := by unfold State.advance; split <;> (try split) <;> rfl
@[simp] theorem State.advance_banks (s : State) (t : Nat) : (s.advance t).banks = s.banks := by unfold State.advance; split <;> (try split) <;> rfl
@[simp] theorem State.advance_wtRate (s : State) (t : Nat) : (s.advance t).wtRate = s.wtRate := by unfold State.advance; split <;> (try split) <;> rfl
@[simp] theorem State.advance_wtOff (s : State) (t : Nat) : (s.advance t).wtOff = s.wtOff := by unfold State.advance; split <;> (try split) <;> rfl
@[simp] theorem State.advance_sched (s : State) (t : Nat) : (s.advance t).sched = s.sched := by unfold State.advance; split <;> (try split) <;> rfl
@[simp] theorem State.advance_cores (s : State) (t : Nat) : (s.advance t).cores = s.cores := by unfold State.advance; split <;> (try split) <;> rfl
@[simp] theorem State.advance_routers (s : State) (t : Nat) : (s.advance t).routers = s.routers := by unfold State.advance; split <;> (try split) <;> rfl
@[simp] theorem State.advance_mx (s : State) (t : Nat) : (s.advance t).mx = s.mx := by unfold State.advance; split <;> (try split) <;> rfl
@[simp] theorem State.advance_tok (s : State) (t : Nat) : (s.advance t).tok = s.tok := by unfold State.advance; split <;> (try split) <;> rfl
@[simp] theorem State.advance_ddrq (s : State) (t : Nat) : (s.advance t).ddrq = s.ddrq := by unfold State.advance; split <;> (try split) <;> rfl
@[simp] theorem State.advance_ddrNext (s : State) (t : Nat) : (s.advance t).ddrNext = s.ddrNext := by unfold State.advance; split <;> (try split) <;> rfl
@[simp] theorem State.advance_rateAct (s : State) (t : Nat) : (s.advance t).rateAct = s.rateAct := by unfold State.advance; split <;> (try split) <;> rfl
@[simp] theorem State.advance_grp (s : State) (t : Nat) : (s.advance t).grp = s.grp := by unfold State.advance; split <;> (try split) <;> rfl
@[simp] theorem State.advance_tracks (s : State) (t : Nat) : (s.advance t).tracks = s.tracks := by unfold State.advance; split <;> (try split) <;> rfl
@[simp] theorem State.advance_kills (s : State) (t : Nat) : (s.advance t).kills = s.kills := by unfold State.advance; split <;> (try split) <;> rfl
@[simp] theorem State.advance_health (s : State) (t : Nat) : (s.advance t).health = s.health := by unfold State.advance; split <;> (try split) <;> rfl
@[simp] theorem State.advance_cal (s : State) (t : Nat) : (s.advance t).cal = s.cal := by unfold State.advance; split <;> (try split) <;> rfl
@[simp] theorem State.advance_featCap (s : State) (t : Nat) : (s.advance t).featCap = s.featCap := by unfold State.advance; split <;> (try split) <;> rfl
@[simp] theorem State.advance_sec (s : State) (t : Nat) : (s.advance t).sec = s.sec := by unfold State.advance; split <;> (try split) <;> rfl
@[simp] theorem State.advance_dom (s : State) (t : Nat) : (s.advance t).dom = s.dom := by unfold State.advance; split <;> (try split) <;> rfl
@[simp] theorem State.advance_pps (s : State) (t : Nat) : (s.advance t).pps = s.pps := by unfold State.advance; split <;> (try split) <;> rfl
@[simp] theorem State.advance_launch (s : State) (t : Nat) : (s.advance t).launch = s.launch := by unfold State.advance; split <;> (try split) <;> rfl
@[simp] theorem State.advance_wireEnd (s : State) (t : Nat) : (s.advance t).wireEnd = s.wireEnd := by unfold State.advance; split <;> (try split) <;> rfl
@[simp] theorem State.advance_rxHeld (s : State) (t : Nat) : (s.advance t).rxHeld = s.rxHeld := by unfold State.advance; split <;> (try split) <;> rfl
@[simp] theorem State.advance_fab (s : State) (t : Nat) : (s.advance t).fab = s.fab := by unfold State.advance; split <;> (try split) <;> rfl
@[simp] theorem State.advance_pow (s : State) (t : Nat) : (s.advance t).pow = s.pow := by unfold State.advance; split <;> (try split) <;> rfl
@[simp] theorem State.advance_pending (s : State) (t : Nat) : (s.advance t).pending = s.pending := by unfold State.advance; split <;> (try split) <;> rfl

@[simp] theorem State.setNs_ns (s : State) (n : Nat) : (s.setNs n).ns = n := Nat.mod_add_div n (2 ^ 64)

/-- With the AON PLL locked DT, counted through its wraps, runs up to the command's time (R42). -/
theorem State.advance_ns (s : State) (t : Nat) (h : s.aonRun = true) (l : s.boot.lock % 2 = 1) : (s.advance t).ns = max s.ns t := by
  unfold State.advance; simp [h, l]

/-- DT reads that time modulo 2^64 (R42). -/
theorem State.advance_dt (s : State) (t : Nat) (h : s.aonRun = true) (l : s.boot.lock % 2 = 1) :
    (s.advance t).dt = max s.ns t % 2 ^ 64 := by
  unfold State.advance; simp [h, l, State.setNs]

/-- DT, counted through its wraps, never runs backwards (R42). -/
theorem State.advance_ns_le (s : State) (t : Nat) : s.ns ≤ (s.advance t).ns := by
  unfold State.advance
  split
  · exact Nat.le_refl _
  · split
    · rw [State.setNs_ns]; exact Nat.le_max_left _ _
    · rw [State.setNs_ns]; exact Nat.le_add_right _ _

@[simp] theorem State.advance_rg (s : State) (t : Nat) (f : Fld) (i x : Nat) : (s.advance t).rg f i x = s.rg f i x := by
  unfold State.rg; rw [State.advance_regs]

@[simp] theorem State.advance_on (s : State) (t : Nat) (f : Fld) (i x : Nat) : (s.advance t).on f i x = s.on f i x := by
  unfold State.on; rw [State.advance_rg]

/-! ## Register fields -/

@[simp] theorem State.emit_rg (s : State) (o : Out) (f : Fld) (i x : Nat) : (s.emit o).rg f i x = s.rg f i x := rfl

@[simp] theorem State.takeFree_rg (s : State) (f : Fld) (i x : Nat) : s.takeFree.2.rg f i x = s.rg f i x := rfl

/-- A field reads as what was written, cut to its width. -/
@[simp] theorem State.rs_rg_same (s : State) (f : Fld) (i v x : Nat) : (s.rs f i v x).rg f i x = v % 2 ^ f.width :=
  Tab.get_put_same _ _ _ _

/-- A write leaves every field of another key alone. -/
theorem State.rs_rg_other (s : State) (f g : Fld) (i j v x y : Nat) (h : g.key j y ≠ f.key i x) :
    (s.rs f i v x).rg g j y = s.rg g j y := by
  unfold State.rg State.rs
  show Tab.get _ (Tab.put _ _ _ _) _ = _
  unfold Tab.put
  split
  · exact Tab.get_filter_other _ _ _ _ h
  · exact Tab.get_ins_other _ _ _ _ _ h

/-- The key of a field tells its index, page kind, instance, offset and low bit apart. -/
theorem regKey_inj {p q : PK} {i j o u l m x y : Nat} (h : regKey p i o l x = regKey q j u m y) :
    x = y ∧ p.num = q.num ∧ i % 4096 = j % 4096 ∧ o % 4096 = u % 4096 ∧ l % 64 = m % 64 := by
  have hp : ∀ k : PK, k.num < 64 := by intro k; cases k <;> decide
  have := hp p; have := hp q
  unfold regKey at h
  omega

/-- Fields that differ in offset, low bit or page kind have different keys; `rfl` proves the hypothesis for fields of the tables. -/
theorem Fld.key_ne {f g : Fld} {i j x y : Nat}
    (h : decide (f.off % 4096 ≠ g.off % 4096 ∨ f.lsb % 64 ≠ g.lsb % 64 ∨ f.pk ≠ g.pk) = true) : f.key i x ≠ g.key j y := by
  have hp : ∀ p q : PK, p.num = q.num → p = q := by intro p q; cases p <;> cases q <;> first | (intro; rfl) | (intro h; exact absurd h (by decide))
  intro e
  have e := regKey_inj e
  rcases of_decide_eq_true h with h | h | h
  · exact h e.2.2.2.1
  · exact h e.2.2.2.2
  · exact h (hp _ _ e.2.1)

/-- Two entries of an index, or two page instances, have different keys. -/
theorem Fld.key_ne_idx {f g : Fld} {i j x y : Nat} (h : x ≠ y ∨ i % 4096 ≠ j % 4096) : f.key i x ≠ g.key j y := by
  intro e
  have e := regKey_inj e
  rcases h with h | h
  · exact h e.1
  · exact h e.2.2.1

theorem State.rb_rg_same (s : State) (f : Fld) (i x : Nat) (b : Bool) (h : f.width ≠ 0) :
    (s.rb f i b x).rg f i x = if b then 1 else 0 := by
  unfold State.rb; rw [State.rs_rg_same]
  have : 2 ≤ 2 ^ f.width := by
    have := Nat.pow_le_pow_right (n := 2) (by decide) (Nat.one_le_iff_ne_zero.mpr h)
    simpa using this
  cases b <;> simp <;> omega

theorem State.rb_rg_other (s : State) (f g : Fld) (i j x y : Nat) (b : Bool) (h : g.key j y ≠ f.key i x) :
    (s.rb f i b x).rg g j y = s.rg g j y := s.rs_rg_other f g i j _ x y h

/-- A counter takes its sum modulo its width (R14). -/
@[simp] theorem State.inc_rg_same (s : State) (f : Fld) (i n x : Nat) : (s.inc f i n x).rg f i x = (s.rg f i x + n) % 2 ^ f.width :=
  s.rs_rg_same f i _ x

theorem State.inc_rg_other (s : State) (f g : Fld) (i j n x y : Nat) (h : g.key j y ≠ f.key i x) :
    (s.inc f i n x).rg g j y = s.rg g j y := s.rs_rg_other f g i j _ x y h

end Sys2Proof.Machine
end

