-- ==== Sys2Proof/Laws/Ops.lean ====
section
/-!
SUPPORT. One lemma for each shared operation that says what it can do: the gate of a register write, the trace unit, page
interrupts and their messages, the log of a fault.
-/
namespace Sys2Proof.Machine
open Regs

/-! ## The gate of a register write -/

/-- A write that reaches its page has its effect. -/
theorem Reaches.gate {s : State} {t : Nat} {c : Req} {p : Page} (h : Reaches s t c p) (off : Nat) (f : State → State) :
    (s.advance t).gateWrite c p off f = f (s.advance t) := by
  unfold State.gateWrite
  cases hp : p.die? with
  | none => simp [h.answers, h.may, h.clock, h.live]
  | some d => simp [h.answers, h.may, h.clock, h.live, h.up d hp]

/-- A command that writes a register it reaches. -/
theorem Reaches.cmd {s : State} {t : Nat} {c : Req} {p : Page} (h : Reaches s t c p) (off : Nat) (f : State → State) :
    s.cmdWrite t c p off f = .next (f (s.advance t)) := by
  unfold State.cmdWrite; rw [h.gate]

/-! ## Bits of a mask -/

theorem setBit_same (m i : Nat) : (setBit m i true).testBit i = true := by
  simp [setBit, Nat.testBit_two_pow_self]

theorem setBit_other (m i j : Nat) (h : j ≠ i) : (setBit m i true).testBit j = m.testBit j := by
  simp [setBit, Nat.testBit_two_pow_of_ne (Ne.symm h)]

theorem setBit_lt (m i n : Nat) (hm : m < 2 ^ n) (hi : i < n) : setBit m i true < 2 ^ n := by
  simp only [setBit, if_true]
  exact Nat.or_lt_two_pow hm (Nat.pow_lt_pow_right (by decide) hi)

/-! ## Traces, messages, interrupts -/

/-- A field that the trace unit does not write itself. -/
def Fld.notTrace (g : Fld) : Prop := g.pk ≠ .trace ∨ g.off % 4096 < 0x40

/-- For a field of the tables `rfl` proves the hypothesis. -/
theorem Fld.notTrace_of {g : Fld} (h : decide (g.off % 4096 < 0x40 ∨ g.pk ≠ .trace) = true) : g.notTrace :=
  (of_decide_eq_true h).symm

theorem Fld.notTrace_key {g f : Fld} (h : g.notTrace) (hf : f.pk = .trace) (ho : 0x40 ≤ f.off % 4096) (j y i x : Nat) :
    g.key j y ≠ f.key i x := by
  intro e
  have := regKey_inj e
  rcases h with h | h
  · rw [hf] at this
    exact h (by generalize g.pk = k at this; cases k <;> first | rfl | exact absurd this.2.1 (by decide))
  · omega

/-- The trace unit changes its own registers and the trace window only. -/
theorem State.trace_rg (s : State) (p : Page) (k a d : Nat) (g : Fld) (h : g.notTrace) (j y : Nat) :
    (s.trace p k a d).rg g j y = s.rg g j y := by
  unfold State.trace
  dsimp only
  split
  · rfl
  split
  · rw [State.rs_rg_other _ _ _ _ _ _ _ _ (Fld.notTrace_key h rfl (by decide) _ _ _ _)]; rfl
  split
  · rw [State.rb_rg_other _ _ _ _ _ _ _ _ (Fld.notTrace_key h rfl (by decide) _ _ _ _)]; rfl
  · rw [State.inc_rg_other _ _ _ _ _ _ _ _ (Fld.notTrace_key h rfl (by decide) _ _ _ _),
      State.rs_rg_other _ _ _ _ _ _ _ _ (Fld.notTrace_key h rfl (by decide) _ _ _ _)]; rfl

theorem State.trace_frame (s : State) (p : Page) (k a d : Nat) : { s.trace p k a d with regs := s.regs, sram := s.sram } = s := by
  unfold State.trace
  dsimp only
  split
  · rfl
  split
  · rfl
  split <;> rfl

theorem State.msixSend_frame (s : State) (v : Nat) : { s.msixSend v with out := s.out, host := s.host } = s := by
  unfold State.msixSend
  dsimp only
  split
  · rfl
  split <;> rfl

theorem State.msixSend_regs (s : State) (v : Nat) : (s.msixSend v).regs = s.regs := by
  have := congrArg State.regs (s.msixSend_frame v); exact this

theorem State.irqMessage_frame (s : State) (p : Page) : { s.irqMessage p with out := s.out, host := s.host } = s := by
  unfold State.irqMessage
  dsimp only
  split
  · rename_i v _
    have e := State.msixSend_frame (s.emit (.mgmtIrq p)) v
    have := congrArg (fun u : State => { u with out := s.out }) e
    exact this
  · rfl

theorem State.irqMessage_regs (s : State) (p : Page) : (s.irqMessage p).regs = s.regs := by
  have := congrArg State.regs (s.irqMessage_frame p); exact this

theorem State.irqMessage_rg (s : State) (p : Page) (g : Fld) (j y : Nat) : (s.irqMessage p).rg g j y = s.rg g j y := by
  unfold State.rg; rw [State.irqMessage_regs]

/-- Setting an interrupt bit changes IRQ_RAW of the page, the trace unit's registers, and no other field. -/
theorem State.irqSet_rg (s : State) (p : Page) (b : Nat) (g : Fld) (h : g.notTrace) (j y : Nat)
    (hk : g.key j y ≠ (Hdr.IRQ_RAW p.pk).key p.inst) : (s.irqSet p b).rg g j y = s.rg g j y := by
  unfold State.irqSet
  dsimp only
  split
  · rw [State.irqMessage_rg, State.trace_rg _ _ _ _ _ _ h, State.rs_rg_other _ _ _ _ _ _ _ _ hk]
  · rw [State.rs_rg_other _ _ _ _ _ _ _ _ hk]

/-- The bit is set in IRQ_RAW, which keeps its other bits. -/
theorem State.irqSet_raw (s : State) (p : Page) (b : Nat) :
    (s.irqSet p b).rg (Hdr.IRQ_RAW p.pk) p.inst = setBit (s.rg (Hdr.IRQ_RAW p.pk) p.inst) b true % 2 ^ 32 := by
  have h : (Hdr.IRQ_RAW p.pk).notTrace := .inr (by decide : (0x010 : Nat) % 4096 < 0x40)
  unfold State.irqSet
  dsimp only
  split
  · rw [State.irqMessage_rg, State.trace_rg _ _ _ _ _ _ h, State.rs_rg_same]; rfl
  · rw [State.rs_rg_same]; rfl

/-- Besides registers and the trace window, an interrupt touches the messages and their pending bits only. -/
theorem State.irqSet_frame (s : State) (p : Page) (b : Nat) :
    { s.irqSet p b with regs := s.regs, sram := s.sram, out := s.out, host := s.host } = s := by
  unfold State.irqSet
  dsimp only
  split
  · generalize hq : s.rs _ _ _ = q
    have h1 := State.irqMessage_frame (q.trace p 1 b (q.rg (Hdr.IRQ_RAW p.pk) p.inst)) p
    have h2 := State.trace_frame q p 1 b (q.rg (Hdr.IRQ_RAW p.pk) p.inst)
    have h3 : { q with regs := s.regs } = s := by rw [← hq]; rfl
    have k1 := congrArg (fun u : State => { u with regs := q.regs, sram := q.sram, out := q.out, host := q.host }) h1
    have k2 := congrArg (fun u : State => { u with out := q.out, host := q.host }) h2
    have k3 := congrArg (fun u : State => { u with regs := s.regs, sram := s.sram, out := s.out, host := s.host }) (k1.trans k2)
    have k4 := congrArg (fun u : State => { u with sram := s.sram, out := s.out, host := s.host }) h3
    exact k3.trans k4
  · rfl

/-! ## Taking a unit off the network -/

theorem takeInOrder_first (p : Flit → Bool) (f : Flit) (after : List Flit) (hf : p f = true) :
    ∀ (before seen : List Flit), (∀ x ∈ before, p x = false ∧ f.sameFlow x = false) → (∀ x ∈ seen, f.sameFlow x = false) →
      takeInOrder p seen (before ++ f :: after) = some (f, before ++ after)
  | [], seen, _, hs => by
    have : seen.any f.sameFlow = false := by simpa using hs
    simp [takeInOrder, hf, this]
  | x :: xs, seen, hb, hs => by
    have hx := hb x (by simp)
    have ih := takeInOrder_first p f after hf xs (x :: seen) (fun y hy => hb y (by simp [hy])) (by
      intro y hy; rcases List.mem_cons.mp hy with rfl | hy
      · exact hx.2
      · exact hs y hy)
    simp only [List.cons_append, takeInOrder, hx.1, Bool.false_and, Bool.false_eq_true, if_false, ih, Option.map_some]

/-- The next unit is taken off the network, and nothing else changes. -/
theorem Arrives.take {s : State} {p : Flit → Bool} {before after : List Flit} {f : Flit} (h : Arrives s p before f after) :
    s.takeFlit p = some (f, { s with net := before ++ after }) := by
  have hm : (f.dk == 2 || !s.computeStopped) = true := by
    rcases h.moves with h | h <;> simp [h]
  unfold State.takeFlit
  rw [h.net, takeInOrder_first _ f after (by simp [h.fits, hm]) before [] (fun x hx => ⟨by simp [(h.first x hx).1], (h.first x hx).2⟩) (by simp)]
  rfl

end Sys2Proof.Machine
end

