-- ==== Sys2Proof/Laws/Keeps.lean ====
section
/-!
SUPPORT. The relation `Keeps` and how it passes through the ways a state is changed.
-/
namespace Sys2Proof.Machine

theorem Keeps.refl (s : State) : Keeps s s := ⟨rfl, List.prefix_refl _, Nat.le_refl _, .inl (Nat.le_refl _), id, id, id⟩

/-- A record update that leaves the queue alone, drops no output and keeps the canonical forms. -/
theorem Keeps.upd {a s : State}
    {dt' : Nat} {laps' : Nat} {aonRun : Bool} {tick : Nat} {free' : Nat} {regs' : RegFile} {latch : List ((Req ×
    PK × Nat × Nat) × Nat)} {fenced : List FUnit} {resetting : List Page} {heldPages : List Page} {sram' : Mem}
    {ddr4' : Mem} {out' : List Out} {boot' : Boot} {protVault : Bool} {prot : Tab (Option Nat)} {host : HostIf}
    {net : List Flit} {bufs : Nat} {dcred : Tab Nat} {rqueue : Tab (List QFlit)} {phasePend : Option Nat} {sync
    : Tab SyncLine} {strm : Tab Strm} {lanes : List Nat} {aer : Tab AerPort} {rfb : Rfb} {jrn : Tab Jrn} {jcap :
    List Nat} {rep : Tab RepCh} {waits : Tab (Option Nat)} {banks : Tab Bank} {wtRate : Tab Nat} {wtOff : Tab
    Int} {sched : Tab Sched} {cores : Tab Core} {routers : Tab Router} {mx : Tab Mx} {tok : Tab Tok} {ddrq : Tab
    (List DdrReq)} {ddrNext : Tab Nat} {rateAct : Tab (List Nat)} {grp : Tab Grp} {tracks : Tab (Option Track)}
    {kills : List Nat} {health : Tab Health} {cal : Tab Nat} {featCap : List Nat} {sec : Sec} {dom : Tab Dom}
    {pps : Pps} {launch : Tab (List LEntry)} {wireEnd : Tab Nat} {rxHeld : List (Nat × List Byte)} {fab : Fab}
    {pow : Pow} {pending' : List Instr}
    (h : Keeps a s) (hp : pending' = s.pending) (ho : s.out <+: out') (hf : s.free ≤ free')
    (ht : s.dt + 2 ^ 64 * s.laps ≤ dt' + 2 ^ 64 * laps')
    (hb : s.boot.porHold = true → boot'.porHold = true) (hb' : s.boot.pinHold = true → boot'.pinHold = true)
    (hs : Mem.wf s.sram = true → Mem.wf sram' = true) (hd : Mem.wf s.ddr4 = true → Mem.wf ddr4' = true)
    (hr : Tab.rising s.regs → Tab.rising regs') :
    Keeps a (State.mk dt' laps' aonRun tick free' regs' latch fenced resetting heldPages sram' ddr4' out' boot'
      protVault prot host net bufs dcred rqueue phasePend sync strm lanes aer rfb jrn jcap rep waits banks
      wtRate wtOff sched cores routers mx tok ddrq ddrNext rateAct grp tracks kills health cal featCap sec dom
      pps launch wireEnd rxHeld fab pow pending') :=
  ⟨hp.trans h.pending, h.out.trans ho, Nat.le_trans h.free hf, h.time.imp (fun x => Nat.le_trans x ht) (fun x => x.imp hb hb'), fun x => hs (h.sram x),
    fun x => hd (h.ddr4 x), fun x => hr (h.regs x)⟩

/-- Time set no earlier, counted through the wraps of DT. -/
theorem State_setNs_keeps {a : State} (s : State) (n : Nat) (h : Keeps a s) (hn : s.ns ≤ n) : Keeps a (s.setNs n) :=
  ⟨h.pending, h.out, h.free,
    h.time.imp (fun x => Nat.le_trans (Nat.le_trans x hn) (Nat.le_of_eq (Nat.mod_add_div n (2 ^ 64)).symm)) id, h.sram, h.ddr4, h.regs⟩

/-- A command that answers a next state, which keeps what every command keeps. -/
def KeepsR (a : State) (r : Res) : Prop := ∃ s, r = .next s ∧ Keeps a s

theorem KeepsR.next {a s : State} (h : Keeps a s) : KeepsR a (.next s) := ⟨s, rfl, h⟩

theorem Keeps.foldl {a : State} {β : Type} {f : State → β → State} {l : List β} {s : State} (h : Keeps a s)
    (hf : ∀ s x, Keeps a s → Keeps a (f s x)) : Keeps a (l.foldl f s) := by
  induction l generalizing s with
  | nil => exact h
  | cons x l ih => exact ih (hf s x h)

/-- What a good outcome of a sequence of checks passed through. -/
theorem except_bind_ok {ε α β : Type} {x : Except ε α} {f : α → Except ε β} {b : β} (e : (x >>= f) = .ok b) :
    ∃ a, x = .ok a ∧ f a = .ok b := by
  cases x with
  | error _ => cases e
  | ok a => exact ⟨a, rfl, e⟩

theorem except_map_ok {ε α β : Type} {x : Except ε α} {f : α → β} {b : β} (e : x.map f = .ok b) : ∃ a, x = .ok a ∧ f a = b := by
  cases x with
  | error _ => cases e
  | ok a => exact ⟨a, rfl, Except.ok.inj e⟩

theorem pair_eta {α β : Type} (p : α × β) : p = (p.1, p.2) := rfl
theorem triple_eta {α β γ : Type} (p : α × β × γ) : p = (p.1, p.2.1, p.2.2) := rfl

/-- A fold that carries a state beside a value. -/
theorem Keeps.foldl_snd {a : State} {β γ : Type} {f : γ × State → β → γ × State} {l : List β} {p : γ × State} (h : Keeps a p.2)
    (hf : ∀ p x, Keeps a p.2 → Keeps a (f p x).2) : Keeps a (l.foldl f p).2 := by
  induction l generalizing p with
  | nil => exact h
  | cons x l ih => exact ih (hf p x h)

theorem Keeps.foldl_thd {a : State} {β γ δ : Type} {f : γ × δ × State → β → γ × δ × State} {l : List β} {p : γ × δ × State}
    (h : Keeps a p.2.2) (hf : ∀ p x, Keeps a p.2.2 → Keeps a (f p x).2.2) : Keeps a (l.foldl f p).2.2 := by
  induction l generalizing p with
  | nil => exact h
  | cons x l ih => exact ih (hf p x h)

theorem Keeps.foldl_fst {a : State} {β γ : Type} {f : State × γ → β → State × γ} {l : List β} {p : State × γ} (h : Keeps a p.1)
    (hf : ∀ p x, Keeps a p.1 → Keeps a (f p x).1) : Keeps a (l.foldl f p).1 := by
  induction l generalizing p with
  | nil => exact h
  | cons x l ih => exact ih (hf p x h)

end Sys2Proof.Machine
end

