-- ==== Sys2Proof/Laws/KeepsOps.lean ====
section
/-!
SUPPORT. `Keeps` for the functions of Machine/Ops.lean: each leaves the queue alone, drops no output and keeps the canonical forms.
-/
set_option linter.unusedVariables false
namespace Sys2Proof.Machine
open Regs



theorem State_advance_keeps {a : State} (s : State) (t : Nat) (h : Keeps a s) : Keeps a (s.advance t) := by
  unfold State.advance
  split
  · exact h
  · split
    · exact State_setNs_keeps _ _ h (Nat.le_max_left _ _)
    · exact State_setNs_keeps _ _ h (Nat.le_add_right _ _)


theorem State_rs_keeps {a : State} (s : State) (f : Fld) (inst : Nat) (v : Nat) (idx : Nat) (h : Keeps a s)  : Keeps a (State.rs s f inst v idx) := by
  unfold State.rs
  try dsimp -iota only
  repeat' first
    | with_reducible assumption | split | with_reducible exact List.prefix_refl _ | with_reducible exact Nat.le_refl _
    | with_reducible exact id | with_reducible exact Tab.rising_put _ _ _ _ | with_reducible exact List.prefix_append _ _
    | with_reducible exact Nat.le_succ _ | (intro _; try dsimp -iota only) | with_reducible apply Keeps.upd (hp := rfl)

theorem State_rb_keeps {a : State} (s : State) (f : Fld) (inst : Nat) (b : Bool) (idx : Nat) (h : Keeps a s)  : Keeps a (State.rb s f inst b idx) := by
  unfold State.rb
  try dsimp -iota only
  repeat' first
    | with_reducible assumption | with_reducible apply State_rs_keeps | split

theorem State_inc_keeps {a : State} (s : State) (f : Fld) (inst : Nat) (n : Nat) (idx : Nat) (h : Keeps a s)  : Keeps a (State.inc s f inst n idx) := by
  unfold State.inc
  try dsimp -iota only
  repeat' first
    | with_reducible assumption | with_reducible apply State_rs_keeps | split

theorem State_incSat_keeps {a : State} (s : State) (f : Fld) (inst : Nat) (n : Nat) (idx : Nat) (h : Keeps a s)  : Keeps a (State.incSat s f inst n idx) := by
  unfold State.incSat
  try dsimp -iota only
  repeat' first
    | with_reducible assumption | with_reducible apply State_rs_keeps | split

theorem State_peak_keeps {a : State} (s : State) (f : Fld) (inst : Nat) (level : Nat) (h : Keeps a s)  : Keeps a (State.peak s f inst level) := by
  unfold State.peak
  try dsimp -iota only
  repeat' first
    | with_reducible assumption | with_reducible apply State_rs_keeps | split

theorem State_resetPage_keeps {a : State} (s : State) (pk : PK) (inst : Nat) (keep : Nat → Bool) (h : Keeps a s)  : Keeps a (State.resetPage s pk inst keep) := by
  unfold State.resetPage
  try dsimp -iota only
  repeat' first
    | with_reducible assumption | split | with_reducible exact List.prefix_refl _ | with_reducible exact Nat.le_refl _
    | with_reducible exact id | with_reducible exact Tab.rising_keep _ _ | with_reducible exact List.prefix_append _ _
    | with_reducible exact Nat.le_succ _ | with_reducible apply Mem.wf_keep | (intro _; try dsimp -iota only)
    | with_reducible apply Keeps.upd (hp := rfl)

theorem State_takeFree_keeps {a : State} (s : State) {v0' : Nat} {s' : State} (h : Keeps a s)  (e : State.takeFree s = (v0', s')) : Keeps a s' := by
  unfold State.takeFree at e
  try dsimp -iota only at e
  repeat' split at e
  all_goals (have e2 := congrArg (fun p => p.2) e; dsimp only at e2; subst e2)
  repeat' first
    | with_reducible assumption | split | with_reducible exact List.prefix_refl _ | with_reducible exact Nat.le_refl _
    | with_reducible exact id | with_reducible exact List.prefix_append _ _ | with_reducible exact Nat.le_succ _
    | (intro _; try dsimp -iota only) | with_reducible apply Keeps.upd (hp := rfl)

theorem State_emit_keeps {a : State} (s : State) (o : Out) (h : Keeps a s)  : Keeps a (State.emit s o) := by
  unfold State.emit
  try dsimp -iota only
  repeat' first
    | with_reducible assumption | split | with_reducible exact List.prefix_refl _ | with_reducible exact Nat.le_refl _
    | with_reducible exact id | with_reducible exact List.prefix_append _ _ | with_reducible exact Nat.le_succ _
    | (intro _; try dsimp -iota only) | with_reducible apply Keeps.upd (hp := rfl)

theorem State_waitBegin_keeps {a : State} (s : State) (f : Fld) (inst : Nat) (who : Nat) (h : Keeps a s)  : Keeps a (State.waitBegin s f inst who) := by
  unfold State.waitBegin
  try dsimp -iota only
  repeat' first
    | with_reducible assumption | split | with_reducible exact List.prefix_refl _ | with_reducible exact Nat.le_refl _
    | with_reducible exact id | with_reducible exact Tab.rising_put _ _ _ _ | with_reducible exact List.prefix_append _ _
    | with_reducible exact Nat.le_succ _ | (intro _; try dsimp -iota only) | with_reducible apply Keeps.upd (hp := rfl)

theorem State_waitEnd_keeps {a : State} (s : State) (f : Fld) (inst : Nat) (who : Nat) (h : Keeps a s)  : Keeps a (State.waitEnd s f inst who) := by
  unfold State.waitEnd
  try dsimp -iota only
  repeat' first
    | with_reducible assumption | with_reducible apply State_inc_keeps | split | with_reducible exact List.prefix_refl _
    | with_reducible exact Nat.le_refl _ | with_reducible exact id | with_reducible exact Tab.rising_put _ _ _ _
    | with_reducible exact List.prefix_append _ _ | with_reducible exact Nat.le_succ _ | (intro _; try dsimp -iota only)
    | with_reducible apply Keeps.upd (hp := rfl)

theorem State_trace_keeps {a : State} (s : State) (p : Page) (kind : Nat) (arg : Nat) (data : Nat) (h : Keeps a s)  : Keeps a (State.trace s p kind arg data) := by
  unfold State.trace
  try dsimp -iota only
  repeat' first
    | with_reducible assumption | with_reducible apply State_rs_keeps | with_reducible apply State_rb_keeps
    | with_reducible apply State_inc_keeps | split | with_reducible exact List.prefix_refl _
    | with_reducible exact Nat.le_refl _ | with_reducible exact id | with_reducible exact List.prefix_append _ _
    | with_reducible exact Nat.le_succ _ | with_reducible apply Mem.wf_wrLE | (intro _; try dsimp -iota only)
    | with_reducible apply Keeps.upd (hp := rfl)

theorem State_msixSend_keeps {a : State} (s : State) (v : Nat) (h : Keeps a s)  : Keeps a (State.msixSend s v) := by
  unfold State.msixSend
  try dsimp -iota only
  repeat' first
    | with_reducible assumption | with_reducible apply State_emit_keeps | split | with_reducible exact List.prefix_refl _
    | with_reducible exact Nat.le_refl _ | with_reducible exact id | with_reducible exact List.prefix_append _ _
    | with_reducible exact Nat.le_succ _ | (intro _; try dsimp -iota only) | with_reducible apply Keeps.upd (hp := rfl)

theorem State_ringSignal_keeps {a : State} (s : State) (v : Nat) (coalNs : Nat) (h : Keeps a s)  : Keeps a (State.ringSignal s v coalNs) := by
  unfold State.ringSignal
  try dsimp -iota only
  repeat' first
    | with_reducible assumption | with_reducible apply State_msixSend_keeps | split | with_reducible exact List.prefix_refl _
    | with_reducible exact Nat.le_refl _ | with_reducible exact id | with_reducible exact Tab.rising_put _ _ _ _
    | with_reducible exact List.prefix_append _ _ | with_reducible exact Nat.le_succ _ | (intro _; try dsimp -iota only)
    | with_reducible apply Keeps.upd (hp := rfl)

theorem State_irqMessage_keeps {a : State} (s : State) (p : Page) (h : Keeps a s)  : Keeps a (State.irqMessage s p) := by
  unfold State.irqMessage
  try dsimp -iota only
  repeat' first
    | with_reducible assumption | with_reducible apply State_emit_keeps | with_reducible apply State_msixSend_keeps | split

theorem State_irqSet_keeps {a : State} (s : State) (p : Page) (b : Nat) (h : Keeps a s)  : Keeps a (State.irqSet s p b) := by
  unfold State.irqSet
  try dsimp -iota only
  repeat' first
    | with_reducible assumption | with_reducible apply State_rs_keeps | with_reducible apply State_irqMessage_keeps
    | with_reducible apply State_trace_keeps | split

theorem State_errParam_keeps {a : State} (s : State) (p : Page) (h : Keeps a s)  : Keeps a (State.errParam s p) := by
  unfold State.errParam
  try dsimp -iota only
  repeat' first
    | with_reducible assumption | with_reducible apply State_irqSet_keeps | split

theorem State_logFault_keeps {a : State} (s : State) (p : Page) (lasting : Bool) (code : Nat) (where_ : Nat) (h : Keeps a s)  : Keeps a (State.logFault s p lasting code where_) := by
  unfold State.logFault
  try dsimp -iota only
  repeat' first
    | with_reducible assumption | with_reducible apply State_irqSet_keeps | with_reducible apply State_inc_keeps
    | with_reducible apply State_rs_keeps | with_reducible apply State_rb_keeps | with_reducible apply State_trace_keeps
    | split

theorem State_dmaWrite_keeps {a : State} (s : State) (addr : Nat) (data : List Sys2Proof.Byte) (h : Keeps a s)  : Keeps a (State.dmaWrite s addr data) := by
  unfold State.dmaWrite
  try dsimp -iota only
  repeat' first
    | with_reducible assumption | with_reducible apply State_inc_keeps | with_reducible apply State_emit_keeps | split

theorem State_hostRead_keeps {a : State} (s : State) (addr : Nat) (len : Nat) (h : Keeps a s)  : Keeps a (State.hostRead s addr len) := by
  unfold State.hostRead
  try dsimp -iota only
  repeat' first
    | with_reducible assumption | with_reducible apply State_inc_keeps | with_reducible apply State_emit_keeps | split

theorem State_ringPut_keeps {a : State} (s : State) (r : Nat) (x2 : Nat → List Sys2Proof.Byte) (h : Keeps a s)  : Keeps a (State.ringPut s r x2) := by
  unfold State.ringPut
  try dsimp -iota only
  repeat' first
    | with_reducible assumption | with_reducible apply State_rs_keeps | with_reducible apply State_dmaWrite_keeps | split

theorem State_noticeAt_keeps {a : State} (s : State) (type : Nat) (arg : Nat) (info : Nat) (dt : Nat) (h : Keeps a s)  : Keeps a (State.noticeAt s type arg info dt) := by
  unfold State.noticeAt
  try dsimp -iota only
  repeat' first
    | with_reducible assumption | with_reducible apply State_trace_keeps | with_reducible apply State_ringSignal_keeps
    | with_reducible apply State_ringPut_keeps | with_reducible apply State_inc_keeps | split

theorem State_notice_keeps {a : State} (s : State) (type : Nat) (arg : Nat) (info : Nat) (h : Keeps a s)  : Keeps a (State.notice s type arg info) := by
  unfold State.notice
  try dsimp -iota only
  repeat' first
    | with_reducible assumption | with_reducible apply State_inc_keeps | with_reducible apply State_noticeAt_keeps | split
    | with_reducible exact List.prefix_refl _ | with_reducible exact Nat.le_refl _ | with_reducible exact id
    | with_reducible exact List.prefix_append _ _ | with_reducible exact Nat.le_succ _ | (intro _; try dsimp -iota only)
    | with_reducible apply Keeps.upd (hp := rfl)

theorem State_denied_keeps {a : State} (s : State) (c : Sys2Proof.Req) (addr : Nat) (bar2 : Bool) (write : Bool) (h : Keeps a s)  : Keeps a (State.denied s c addr bar2 write) := by
  unfold State.denied
  try dsimp -iota only
  repeat' first
    | with_reducible assumption | with_reducible apply State_rs_keeps | with_reducible apply State_rb_keeps
    | with_reducible apply State_inc_keeps | split

theorem State_gateWrite_keeps {a : State} (s : State) (c : Sys2Proof.Req) (p : Page) (off : Nat) (f : State → State) (h : Keeps a s) (h_f : ∀ s, Keeps a s → Keeps a (f s)) : Keeps a (State.gateWrite s c p off f) := by
  unfold State.gateWrite
  try dsimp -iota only
  repeat' first
    | with_reducible assumption | with_reducible exact h_f _ ‹_› | with_reducible apply h_f
    | with_reducible refine h_f _ _ _ _ _ ‹_› ?_ | with_reducible exact h_f _ _ _ _ _ ‹_› ‹_›
    | with_reducible exact h_f _ _ ‹_› | with_reducible exact h_f _ _ _ _ ‹_› | with_reducible apply State_denied_keeps
    | with_reducible apply State_inc_keeps | split | (intro _ _; try dsimp -iota only)

end Sys2Proof.Machine
end

