-- ==== Sys2Proof/Laws/KeepsTimeBase.lean ====
section
/-!
SUPPORT. `Keeps` for the functions of Machine/TimeBase.lean: each leaves the queue alone, drops no output and keeps the canonical forms.
-/
set_option linter.unusedVariables false
namespace Sys2Proof.Machine
open Regs

theorem State_cmdWrite_keeps {a : State} (s : State) (t : Nat) (c : Sys2Proof.Req) (p : Page) (off : Nat) (f : State → State) (h : Keeps a s) (h_f : ∀ s, Keeps a s → Keeps a (f s)) : KeepsR a (State.cmdWrite s t c p off f) := by
  unfold State.cmdWrite
  try dsimp -iota only
  repeat' first
    | with_reducible assumption | with_reducible exact h_f _ ‹_› | with_reducible apply h_f
    | with_reducible refine h_f _ _ _ _ _ ‹_› ?_ | with_reducible exact h_f _ _ _ _ _ ‹_› ‹_›
    | with_reducible exact h_f _ _ ‹_› | with_reducible exact h_f _ _ _ _ ‹_› | with_reducible apply KeepsR.next
    | with_reducible apply State_gateWrite_keeps | with_reducible apply State_advance_keeps | split
    | (intro _ _; try dsimp -iota only)

theorem State_upSt_keeps {a : State} (s : State) (i : Nat) (f : Strm → Strm) (h : Keeps a s)  : Keeps a (State.upSt s i f) := by
  unfold State.upSt
  try dsimp -iota only
  repeat' first
    | with_reducible assumption | split | with_reducible exact List.prefix_refl _ | with_reducible exact Nat.le_refl _
    | with_reducible exact id | with_reducible exact Tab.rising_put _ _ _ _ | with_reducible exact List.prefix_append _ _
    | with_reducible exact Nat.le_succ _ | (intro _; try dsimp -iota only) | with_reducible apply Keeps.upd (hp := rfl)

theorem State_upLine_keeps {a : State} (s : State) (n : Nat) (f : SyncLine → SyncLine) (h : Keeps a s)  : Keeps a (State.upLine s n f) := by
  unfold State.upLine
  try dsimp -iota only
  repeat' first
    | with_reducible assumption | split | with_reducible exact List.prefix_refl _ | with_reducible exact Nat.le_refl _
    | with_reducible exact id | with_reducible exact Tab.rising_put _ _ _ _ | with_reducible exact List.prefix_append _ _
    | with_reducible exact Nat.le_succ _ | (intro _; try dsimp -iota only) | with_reducible apply Keeps.upd (hp := rfl)

theorem State_lineLow_keeps {a : State} (s : State) (n : Nat) (h : Keeps a s)  : Keeps a (State.lineLow s n) := by
  unfold State.lineLow
  try dsimp -iota only
  repeat' first
    | with_reducible assumption | with_reducible apply State_emit_keeps | with_reducible apply State_upLine_keeps | split

theorem State_lineSet_keeps {a : State} (s : State) (n : Nat) (on : Bool) (h : Keeps a s)  : Keeps a (State.lineSet s n on) := by
  unfold State.lineSet
  try dsimp -iota only
  repeat' first
    | with_reducible assumption | with_reducible apply State_upLine_keeps | with_reducible apply State_lineLow_keeps | split

theorem State_syncEnWrite_keeps {a : State} (s : State) (v : Sys2Proof.Word) (h : Keeps a s)  : Keeps a (State.syncEnWrite s v) := by
  unfold State.syncEnWrite
  try dsimp -iota only
  repeat' first
    | with_reducible assumption | with_reducible apply State_errParam_keeps | with_reducible apply State_rs_keeps
    | with_reducible apply State_lineSet_keeps | with_reducible refine Keeps.foldl ?_ ?_
    | with_reducible refine Keeps.foldl_snd ?_ ?_ | with_reducible refine Keeps.foldl_thd ?_ ?_
    | with_reducible refine Keeps.foldl_fst ?_ ?_ | split | (intro _ _ _; try dsimp -iota only)
    | (intro _ _; try dsimp -iota only)

theorem State_syncPeriodWrite_keeps {a : State} (s : State) (n : Nat) (v : Sys2Proof.Word) (h : Keeps a s)  : Keeps a (State.syncPeriodWrite s n v) := by
  unfold State.syncPeriodWrite
  try dsimp -iota only
  repeat' first
    | with_reducible assumption | with_reducible apply State_errParam_keeps | with_reducible apply State_rs_keeps
    | with_reducible apply State_upLine_keeps | split

theorem State_syncWidthWrite_keeps {a : State} (s : State) (v : Sys2Proof.Word) (h : Keeps a s)  : Keeps a (State.syncWidthWrite s v) := by
  unfold State.syncWidthWrite
  try dsimp -iota only
  repeat' first
    | with_reducible assumption | with_reducible apply State_errParam_keeps | with_reducible apply State_rs_keeps | split

theorem State_periodPassed_keeps {a : State} (s : State) (n : Nat) (h : Keeps a s)  : Keeps a (State.periodPassed s n) := by
  unfold State.periodPassed
  try dsimp -iota only
  repeat' first
    | with_reducible assumption | with_reducible apply State_upSt_keeps | with_reducible refine Keeps.foldl ?_ ?_
    | with_reducible refine Keeps.foldl_snd ?_ ?_ | with_reducible refine Keeps.foldl_thd ?_ ?_
    | with_reducible refine Keeps.foldl_fst ?_ ?_ | split | (intro _ _ _; try dsimp -iota only)
    | (intro _ _; try dsimp -iota only)

theorem State_syncEdge_keeps {a : State} (s : State) (n : Nat) (h : Keeps a s)  : Keeps a (State.syncEdge s n) := by
  unfold State.syncEdge
  try dsimp -iota only
  repeat' first
    | with_reducible assumption | with_reducible apply State_periodPassed_keeps | with_reducible apply State_emit_keeps
    | with_reducible apply State_rs_keeps | with_reducible apply State_upLine_keeps | split

theorem State_setUnaligned_keeps {a : State} (s : State) (i : Nat) (b : Bool) (h : Keeps a s)  : Keeps a (State.setUnaligned s i b) := by
  unfold State.setUnaligned
  try dsimp -iota only
  repeat' first
    | with_reducible assumption | with_reducible apply State_rb_keeps | with_reducible apply State_irqSet_keeps | split

theorem State_sourceIrqs_keeps {a : State} (s : State) (old : State) (h : Keeps a s)  : Keeps a (State.sourceIrqs s old) := by
  unfold State.sourceIrqs
  try dsimp -iota only
  repeat' first
    | with_reducible assumption | with_reducible apply State_irqSet_keeps | with_reducible refine Keeps.foldl ?_ ?_
    | with_reducible refine Keeps.foldl_snd ?_ ?_ | with_reducible refine Keeps.foldl_thd ?_ ?_
    | with_reducible refine Keeps.foldl_fst ?_ ?_ | split | (intro _ _ _; try dsimp -iota only)
    | (intro _ _; try dsimp -iota only)

theorem State_alignUpdate_keeps {a : State} (s : State) (i : Nat) (h : Keeps a s)  : Keeps a (State.alignUpdate s i) := by
  unfold State.alignUpdate
  try dsimp -iota only
  repeat' first
    | with_reducible assumption | with_reducible apply State_setUnaligned_keeps | split

theorem State_residual_keeps {a : State} (s : State) (i : Nat) (r : Int) (h : Keeps a s)  : Keeps a (State.residual s i r) := by
  unfold State.residual
  try dsimp -iota only
  repeat' first
    | with_reducible assumption | with_reducible apply State_rs_keeps | with_reducible apply State_setUnaligned_keeps | split

theorem State_newEntry_keeps {a : State} (s : State) (i : Nat) (st : Nat) (dt : Nat) {s' : State} {v1' : Option Model} (h : Keeps a s)  (e : State.newEntry s i st dt = (s', v1')) : Keeps a s' := by
  unfold State.newEntry at e
  try dsimp -iota only at e
  repeat' split at e
  all_goals (have e2 := congrArg (fun p => p.1) e; dsimp only at e2; subst e2)
  repeat' first
    | with_reducible assumption | with_reducible apply State_residual_keeps | with_reducible apply State_inc_keeps
    | with_reducible apply State_upSt_keeps | with_reducible apply State_alignUpdate_keeps | split

theorem State_alignAll_keeps {a : State} (s : State) (h : Keeps a s)  : Keeps a (State.alignAll s) := by
  unfold State.alignAll
  try dsimp -iota only
  repeat' first
    | with_reducible assumption | with_reducible apply State_alignUpdate_keeps | with_reducible refine Keeps.foldl ?_ ?_
    | with_reducible refine Keeps.foldl_snd ?_ ?_ | with_reducible refine Keeps.foldl_thd ?_ ?_
    | with_reducible refine Keeps.foldl_fst ?_ ?_ | split | (intro _ _ _; try dsimp -iota only)
    | (intro _ _; try dsimp -iota only)

theorem State_cmCtrlWrite_keeps {a : State} (s : State) (i : Nat) (v : Sys2Proof.Word) (h : Keeps a s)  : Keeps a (State.cmCtrlWrite s i v) := by
  unfold State.cmCtrlWrite
  try dsimp -iota only
  repeat' first
    | with_reducible assumption | with_reducible apply State_errParam_keeps | with_reducible apply State_rs_keeps
    | with_reducible apply State_upSt_keeps | with_reducible apply State_alignUpdate_keeps
    | with_reducible apply State_rb_keeps | split

theorem State_commitModel_keeps {a : State} (s : State) (i : Nat) (m : Model) (h : Keeps a s)  : Keeps a (State.commitModel s i m) := by
  unfold State.commitModel
  try dsimp -iota only
  repeat' first
    | with_reducible assumption | with_reducible apply State_alignUpdate_keeps | with_reducible apply State_upSt_keeps | split

theorem State_cmCommit_keeps {a : State} (s : State) (i : Nat) (v : Sys2Proof.Word) (h : Keeps a s)  : Keeps a (State.cmCommit s i v) := by
  unfold State.cmCommit
  try dsimp -iota only
  repeat' first
    | with_reducible assumption | with_reducible apply State_upSt_keeps | with_reducible apply State_commitModel_keeps | split

theorem State_streamUnitWrite_keeps {a : State} (s : State) (i : Nat) (v : Sys2Proof.Word) (h : Keeps a s)  : Keeps a (State.streamUnitWrite s i v) := by
  unfold State.streamUnitWrite
  try dsimp -iota only
  repeat' first
    | with_reducible assumption | with_reducible apply State_errParam_keeps | with_reducible apply State_upSt_keeps
    | with_reducible apply State_rs_keeps | split

theorem State_pairTrigger_keeps {a : State} (s : State) (i : Nat) (st : Nat) (dt : Nat) {s' : State} {v1' : Option Model} (h : Keeps a s)  (e : State.pairTrigger s i st dt = (s', v1')) : Keeps a s' := by
  unfold State.pairTrigger at e
  try dsimp -iota only at e
  repeat' split at e
  all_goals (have e2 := congrArg (fun p => p.1) e; dsimp only at e2; subst e2)
  repeat' first
    | with_reducible assumption | with_reducible apply State_inc_keeps | with_reducible apply State_rb_keeps
    | with_reducible apply State_upSt_keeps | with_reducible apply State_newEntry_keeps (e := pair_eta _)
    | with_reducible apply State_newEntry_keeps (e := by with_reducible assumption)
    | with_reducible apply State_alignUpdate_keeps | split

theorem execSyncEnWrite_keeps (t : Nat) (c : Sys2Proof.Req) (v : Sys2Proof.Word) (s : State) : KeepsR s (execSyncEnWrite t c v s) := by
  have h := Keeps.refl s
  unfold execSyncEnWrite
  try dsimp -iota only
  repeat' first
    | with_reducible assumption | with_reducible apply KeepsR.next | with_reducible apply State_cmdWrite_keeps
    | with_reducible apply State_syncEnWrite_keeps | split | (intro _ _; try dsimp -iota only)

theorem execSyncPeriodWrite_keeps (t : Nat) (c : Sys2Proof.Req) (line : Fin 4) (v : Sys2Proof.Word) (s : State) : KeepsR s (execSyncPeriodWrite t c line v s) := by
  have h := Keeps.refl s
  unfold execSyncPeriodWrite
  try dsimp -iota only
  repeat' first
    | with_reducible assumption | with_reducible apply KeepsR.next | with_reducible apply State_cmdWrite_keeps
    | with_reducible apply State_syncPeriodWrite_keeps | split | (intro _ _; try dsimp -iota only)

theorem execSyncWidthWrite_keeps (t : Nat) (c : Sys2Proof.Req) (v : Sys2Proof.Word) (s : State) : KeepsR s (execSyncWidthWrite t c v s) := by
  have h := Keeps.refl s
  unfold execSyncWidthWrite
  try dsimp -iota only
  repeat' first
    | with_reducible assumption | with_reducible apply KeepsR.next | with_reducible apply State_cmdWrite_keeps
    | with_reducible apply State_syncWidthWrite_keeps | split | (intro _ _; try dsimp -iota only)

theorem execSyncOutEdge_keeps (t : Nat) (line : Fin 4) (s : State) : KeepsR s (execSyncOutEdge t line s) := by
  have h := Keeps.refl s
  unfold execSyncOutEdge
  try dsimp -iota only
  repeat' first
    | with_reducible assumption | with_reducible apply KeepsR.next | with_reducible apply State_advance_keeps
    | with_reducible apply State_syncEdge_keeps | split

theorem execSyncOutFall_keeps (t : Nat) (line : Fin 4) (s : State) : KeepsR s (execSyncOutFall t line s) := by
  have h := Keeps.refl s
  unfold execSyncOutFall
  try dsimp -iota only
  repeat' first
    | with_reducible assumption | with_reducible apply KeepsR.next | with_reducible apply State_advance_keeps
    | with_reducible apply State_lineLow_keeps | split

theorem execSyncLostTimeout_keeps (t : Nat) (i : Fin 36) (s : State) : KeepsR s (execSyncLostTimeout t i s) := by
  have h := Keeps.refl s
  unfold execSyncLostTimeout
  try dsimp -iota only
  repeat' first
    | with_reducible assumption | with_reducible apply KeepsR.next | with_reducible apply State_advance_keeps
    | with_reducible apply State_alignUpdate_keeps | with_reducible apply State_rb_keeps | split

theorem execCmModeWrite_keeps (t : Nat) (c : Sys2Proof.Req) (i : Fin 36) (v : Sys2Proof.Word) (s : State) : KeepsR s (execCmModeWrite t c i v s) := by
  have h := Keeps.refl s
  unfold execCmModeWrite
  try dsimp -iota only
  repeat' first
    | with_reducible assumption | with_reducible apply KeepsR.next | with_reducible apply State_cmdWrite_keeps
    | with_reducible apply State_cmCtrlWrite_keeps | split | (intro _ _; try dsimp -iota only)

theorem execCmCommit_keeps (t : Nat) (c : Sys2Proof.Req) (i : Fin 36) (v : Sys2Proof.Word) (s : State) : KeepsR s (execCmCommit t c i v s) := by
  have h := Keeps.refl s
  unfold execCmCommit
  try dsimp -iota only
  repeat' first
    | with_reducible assumption | with_reducible apply KeepsR.next | with_reducible apply State_cmdWrite_keeps
    | with_reducible apply State_cmCommit_keeps | split | (intro _ _; try dsimp -iota only)

theorem execStreamUnitWrite_keeps (t : Nat) (c : Sys2Proof.Req) (i : Fin 36) (v : Sys2Proof.Word) (s : State) : KeepsR s (execStreamUnitWrite t c i v s) := by
  have h := Keeps.refl s
  unfold execStreamUnitWrite
  try dsimp -iota only
  repeat' first
    | with_reducible assumption | with_reducible apply KeepsR.next | with_reducible apply State_cmdWrite_keeps
    | with_reducible apply State_streamUnitWrite_keeps | split | (intro _ _; try dsimp -iota only)

end Sys2Proof.Machine
end

