-- ==== Sys2Proof/Laws/KeepsRateFilter.lean ====
section
/-!
SUPPORT. `Keeps` for the functions of Machine/RateFilter.lean: each leaves the queue alone, drops no output and keeps the canonical forms.
-/
set_option linter.unusedVariables false
namespace Sys2Proof.Machine
open Regs

theorem State_upChan_keeps {a : State} (s : State) (ch : Nat) (f : Chan → Chan) (h : Keeps a s)  : Keeps a (State.upChan s ch f) := by
  unfold State.upChan
  try dsimp -iota only
  repeat' first
    | with_reducible assumption | split | with_reducible exact List.prefix_refl _ | with_reducible exact Nat.le_refl _
    | with_reducible exact id | with_reducible exact Tab.rising_put _ _ _ _ | with_reducible exact List.prefix_append _ _
    | with_reducible exact Nat.le_succ _ | (intro _; try dsimp -iota only) | with_reducible apply Keeps.upd (hp := rfl)

theorem State_upProf_keeps {a : State} (s : State) (p : Nat) (f : Prof → Prof) (h : Keeps a s)  : Keeps a (State.upProf s p f) := by
  unfold State.upProf
  try dsimp -iota only
  repeat' first
    | with_reducible assumption | split | with_reducible exact List.prefix_refl _ | with_reducible exact Nat.le_refl _
    | with_reducible exact id | with_reducible exact Tab.rising_put _ _ _ _ | with_reducible exact List.prefix_append _ _
    | with_reducible exact Nat.le_succ _ | (intro _; try dsimp -iota only) | with_reducible apply Keeps.upd (hp := rfl)

theorem State_rateCount_keeps {a : State} (s : State) (str : Nat) (ch : Nat) (tick : Nat) (h : Keeps a s)  : Keeps a (State.rateCount s str ch tick) := by
  unfold State.rateCount
  try dsimp -iota only
  repeat' first
    | with_reducible assumption | with_reducible apply State_inc_keeps | split | with_reducible exact List.prefix_refl _
    | with_reducible exact Nat.le_refl _ | with_reducible exact id | with_reducible exact Tab.rising_put _ _ _ _
    | with_reducible exact List.prefix_append _ _ | with_reducible exact Nat.le_succ _ | (intro _; try dsimp -iota only)
    | with_reducible apply Keeps.upd (hp := rfl)

theorem State_rateClose_keeps {a : State} (s : State) (h : Keeps a s)  : Keeps a (State.rateClose s) := by
  unfold State.rateClose
  try dsimp -iota only
  repeat' first
    | with_reducible assumption | with_reducible refine Keeps.foldl ?_ ?_ | with_reducible refine Keeps.foldl_snd ?_ ?_
    | with_reducible refine Keeps.foldl_thd ?_ ?_ | with_reducible refine Keeps.foldl_fst ?_ ?_ | split
    | with_reducible exact List.prefix_refl _ | with_reducible exact Nat.le_refl _ | with_reducible exact id
    | with_reducible exact Tab.rising_put _ _ _ _ | with_reducible exact Tab.rising_keep _ _
    | with_reducible exact List.prefix_append _ _ | with_reducible exact Nat.le_succ _ | with_reducible apply Mem.wf_keep
    | with_reducible refine Mem.wf_foldl _ ?_ _ _ ?_ | (intro _ _ _; try dsimp -iota only) | (intro _ _; try dsimp -iota only)
    | (intro _; try dsimp -iota only) | with_reducible apply Keeps.upd (hp := rfl)

theorem State_satCount_keeps {a : State} (s : State) (f : Fld) (b : Bool) (h : Keeps a s)  : Keeps a (State.satCount s f b) := by
  unfold State.satCount
  try dsimp -iota only
  repeat' first
    | with_reducible assumption | with_reducible apply State_inc_keeps | split

theorem State_chanOutput_keeps {a : State} (s : State) (ch : Nat) (u : Nat) (x3 : Int) (h : Keeps a s)  : Keeps a (State.chanOutput s ch u x3) := by
  unfold State.chanOutput
  try dsimp -iota only
  repeat' first
    | with_reducible assumption | with_reducible apply State_satCount_keeps | with_reducible apply State_upChan_keeps
    | with_reducible apply State_irqSet_keeps | split

theorem State_chanTick_keeps {a : State} (s : State) (u : Nat) (ch : Nat) (h : Keeps a s)  : Keeps a (State.chanTick s u ch) := by
  unfold State.chanTick
  try dsimp -iota only
  repeat' first
    | with_reducible assumption | with_reducible apply State_satCount_keeps | with_reducible apply State_upChan_keeps
    | with_reducible apply State_chanOutput_keeps | split

theorem State_applySync_keeps {a : State} (s : State) (u : Nat) (h : Keeps a s)  : Keeps a (State.applySync s u) := by
  unfold State.applySync
  try dsimp -iota only
  repeat' first
    | with_reducible assumption | with_reducible apply State_upProf_keeps | with_reducible apply State_irqSet_keeps
    | with_reducible refine Keeps.foldl ?_ ?_ | with_reducible refine Keeps.foldl_snd ?_ ?_
    | with_reducible refine Keeps.foldl_thd ?_ ?_ | with_reducible refine Keeps.foldl_fst ?_ ?_ | split
    | with_reducible exact List.prefix_refl _ | with_reducible exact Nat.le_refl _ | with_reducible exact id
    | with_reducible exact List.prefix_append _ _ | with_reducible exact Nat.le_succ _
    | with_reducible refine Mem.wf_foldl _ ?_ _ _ ?_ | (intro _ _ _; try dsimp -iota only) | (intro _ _; try dsimp -iota only)
    | (intro _; try dsimp -iota only) | with_reducible apply Keeps.upd (hp := rfl)

theorem State_applyCommit_keeps {a : State} (s : State) (u : Nat) (p : Nat) (h : Keeps a s)  : Keeps a (State.applyCommit s u p) := by
  unfold State.applyCommit
  try dsimp -iota only
  repeat' first
    | with_reducible assumption | with_reducible apply State_upProf_keeps | split | with_reducible exact List.prefix_refl _
    | with_reducible exact Nat.le_refl _ | with_reducible exact id | with_reducible exact List.prefix_append _ _
    | with_reducible exact Nat.le_succ _ | (intro _; try dsimp -iota only) | with_reducible apply Keeps.upd (hp := rfl)

theorem State_applySwitch_keeps {a : State} (s : State) (u : Nat) (ch : Nat) (h : Keeps a s)  : Keeps a (State.applySwitch s u ch) := by
  unfold State.applySwitch
  try dsimp -iota only
  repeat' first
    | with_reducible assumption | with_reducible apply State_upChan_keeps | split

theorem State_applySwap_keeps {a : State} (s : State) (u : Nat) (p : Nat) (h : Keeps a s)  : Keeps a (State.applySwap s u p) := by
  unfold State.applySwap
  try dsimp -iota only
  repeat' first
    | with_reducible assumption | with_reducible apply State_upProf_keeps | split

theorem State_stepXf_keeps {a : State} (s : State) (u : Nat) (p : Nat) (h : Keeps a s)  : Keeps a (State.stepXf s u p) := by
  unfold State.stepXf
  try dsimp -iota only
  repeat' first
    | with_reducible assumption | with_reducible apply State_irqSet_keeps | with_reducible apply State_inc_keeps
    | with_reducible apply State_upProf_keeps | split

theorem State_rfbTick_keeps {a : State} (s : State) (h : Keeps a s)  : Keeps a (State.rfbTick s) := by
  unfold State.rfbTick
  try dsimp -iota only
  repeat' first
    | with_reducible assumption | with_reducible apply State_applySync_keeps | with_reducible apply State_applyCommit_keeps
    | with_reducible apply State_applySwitch_keeps | with_reducible apply State_applySwap_keeps
    | with_reducible apply State_chanTick_keeps | with_reducible apply State_stepXf_keeps
    | with_reducible refine Keeps.foldl ?_ ?_ | with_reducible refine Keeps.foldl_snd ?_ ?_
    | with_reducible refine Keeps.foldl_thd ?_ ?_ | with_reducible refine Keeps.foldl_fst ?_ ?_ | split
    | with_reducible exact List.prefix_refl _ | with_reducible exact Nat.le_refl _ | with_reducible exact id
    | with_reducible exact List.prefix_append _ _ | with_reducible exact Nat.le_succ _
    | with_reducible refine Mem.wf_foldl _ ?_ _ _ ?_ | (intro _ _ _; try dsimp -iota only) | (intro _ _; try dsimp -iota only)
    | (intro _; try dsimp -iota only) | with_reducible apply Keeps.upd (hp := rfl)

theorem State_outputAt_keeps {a : State} (s : State) (ch : Nat) (v : Nat) {v0' : ChOut} {s' : State} (h : Keeps a s)  (e : State.outputAt s ch v = (v0', s')) : Keeps a s' := by
  unfold State.outputAt at e
  try dsimp -iota only at e
  repeat' split at e
  all_goals (have e2 := congrArg (fun p => p.2) e; dsimp only at e2; subst e2)
  repeat' first
    | with_reducible assumption | with_reducible apply State_inc_keeps | split

theorem State_flickerFor_keeps {a : State} (s : State) (ch : Nat) (tick : Nat) {v0' : Bool} {s' : State} (h : Keeps a s)  (e : State.flickerFor s ch tick = (v0', s')) : Keeps a s' := by
  unfold State.flickerFor at e
  try dsimp -iota only at e
  repeat' split at e
  all_goals (have e2 := congrArg (fun p => p.2) e; dsimp only at e2; subst e2)
  repeat' first
    | with_reducible assumption | with_reducible apply State_outputAt_keeps (e := pair_eta _)
    | with_reducible apply State_outputAt_keeps (e := by with_reducible assumption) | split

theorem State_syncArm_keeps {a : State} (s : State) (v : Sys2Proof.Word) (h : Keeps a s)  : Keeps a (State.syncArm s v) := by
  unfold State.syncArm
  try dsimp -iota only
  repeat' first
    | with_reducible assumption | with_reducible apply State_irqSet_keeps | with_reducible apply State_inc_keeps | split
    | with_reducible exact List.prefix_refl _ | with_reducible exact Nat.le_refl _ | with_reducible exact id
    | with_reducible exact List.prefix_append _ _ | with_reducible exact Nat.le_succ _ | (intro _; try dsimp -iota only)
    | with_reducible apply Keeps.upd (hp := rfl)

theorem State_rfbCommit_keeps {a : State} (s : State) (v : Sys2Proof.Word) (h : Keeps a s)  : Keeps a (State.rfbCommit s v) := by
  unfold State.rfbCommit
  try dsimp -iota only
  repeat' first
    | with_reducible assumption | with_reducible apply State_upProf_keeps | split

theorem State_rfbSwap_keeps {a : State} (s : State) (v : Sys2Proof.Word) (h : Keeps a s)  : Keeps a (State.rfbSwap s v) := by
  unfold State.rfbSwap
  try dsimp -iota only
  repeat' first
    | with_reducible assumption | with_reducible apply State_irqSet_keeps | with_reducible apply State_inc_keeps
    | with_reducible apply State_upProf_keeps | split

theorem State_coefWrite_keeps {a : State} (s : State) (v : Sys2Proof.Word) (h : Keeps a s)  : Keeps a (State.coefWrite s v) := by
  unfold State.coefWrite
  try dsimp -iota only
  repeat' first
    | with_reducible assumption | with_reducible apply State_errParam_keeps | with_reducible apply State_rs_keeps | split
    | with_reducible exact List.prefix_refl _ | with_reducible exact Nat.le_refl _ | with_reducible exact id
    | with_reducible exact Tab.rising_put _ _ _ _ | with_reducible exact List.prefix_append _ _
    | with_reducible exact Nat.le_succ _ | (intro _; try dsimp -iota only) | with_reducible apply Keeps.upd (hp := rfl)

theorem State_chCfgWrite_keeps {a : State} (s : State) (i : Nat) (r : Nat) (v : Sys2Proof.Word) (h : Keeps a s)  : Keeps a (State.chCfgWrite s i r v) := by
  unfold State.chCfgWrite
  try dsimp -iota only
  repeat' first
    | with_reducible assumption | with_reducible apply State_rs_keeps | with_reducible apply State_upChan_keeps | split

theorem State_rfbEnables_keeps {a : State} (s : State) (f : Nat → Bool) (h : Keeps a s)  : Keeps a (State.rfbEnables s f) := by
  unfold State.rfbEnables
  try dsimp -iota only
  repeat' first
    | with_reducible assumption | with_reducible apply State_upChan_keeps | with_reducible refine Keeps.foldl ?_ ?_
    | with_reducible refine Keeps.foldl_snd ?_ ?_ | with_reducible refine Keeps.foldl_thd ?_ ?_
    | with_reducible refine Keeps.foldl_fst ?_ ?_ | split | (intro _ _ _; try dsimp -iota only)
    | (intro _ _; try dsimp -iota only)

theorem State_rfbCtrl_keeps {a : State} (s : State) (v : Sys2Proof.Word) (h : Keeps a s)  : Keeps a (State.rfbCtrl s v) := by
  unfold State.rfbCtrl
  try dsimp -iota only
  repeat' first
    | with_reducible assumption | with_reducible apply State_rs_keeps | with_reducible apply State_rfbEnables_keeps | split

theorem State_rfbsCtrl_keeps {a : State} (s : State) (i : Nat) (v : Sys2Proof.Word) (h : Keeps a s)  : Keeps a (State.rfbsCtrl s i v) := by
  unfold State.rfbsCtrl
  try dsimp -iota only
  repeat' first
    | with_reducible assumption | with_reducible apply State_rs_keeps | with_reducible apply State_rfbEnables_keeps | split

theorem execRateTickClose_keeps (t : Nat) (s : State) : KeepsR s (execRateTickClose t s) := by
  have h := Keeps.refl s
  unfold execRateTickClose
  try dsimp -iota only
  repeat' first
    | with_reducible assumption | with_reducible apply KeepsR.next | with_reducible apply State_advance_keeps
    | with_reducible apply State_rateClose_keeps | split

theorem execRfbProcessTick_keeps (t : Nat) (s : State) : KeepsR s (execRfbProcessTick t s) := by
  have h := Keeps.refl s
  unfold execRfbProcessTick
  try dsimp -iota only
  repeat' first
    | with_reducible assumption | with_reducible apply KeepsR.next | with_reducible apply State_advance_keeps
    | with_reducible apply State_rfbTick_keeps | split

theorem execSyncArm_keeps (t : Nat) (c : Sys2Proof.Req) (v : Sys2Proof.Word) (s : State) : KeepsR s (execSyncArm t c v s) := by
  have h := Keeps.refl s
  unfold execSyncArm
  try dsimp -iota only
  repeat' first
    | with_reducible assumption | with_reducible apply KeepsR.next | with_reducible apply State_cmdWrite_keeps
    | with_reducible apply State_syncArm_keeps | split | (intro _ _; try dsimp -iota only)

theorem execCommit_keeps (t : Nat) (c : Sys2Proof.Req) (v : Sys2Proof.Word) (s : State) : KeepsR s (execCommit t c v s) := by
  have h := Keeps.refl s
  unfold execCommit
  try dsimp -iota only
  repeat' first
    | with_reducible assumption | with_reducible apply KeepsR.next | with_reducible apply State_cmdWrite_keeps
    | with_reducible apply State_rfbSwap_keeps | with_reducible apply State_rfbCommit_keeps | split
    | (intro _ _; try dsimp -iota only)

theorem execSwap_keeps (t : Nat) (c : Sys2Proof.Req) (v : Sys2Proof.Word) (s : State) : KeepsR s (execSwap t c v s) := by
  have h := Keeps.refl s
  unfold execSwap
  try dsimp -iota only
  repeat' first
    | with_reducible assumption | with_reducible apply KeepsR.next | with_reducible apply State_cmdWrite_keeps
    | with_reducible apply State_rfbSwap_keeps | with_reducible apply State_rfbCommit_keeps | split
    | (intro _ _; try dsimp -iota only)

theorem execCoefDataWrite_keeps (t : Nat) (c : Sys2Proof.Req) (v : Sys2Proof.Word) (s : State) : KeepsR s (execCoefDataWrite t c v s) := by
  have h := Keeps.refl s
  unfold execCoefDataWrite
  try dsimp -iota only
  repeat' first
    | with_reducible assumption | with_reducible apply KeepsR.next | with_reducible apply State_cmdWrite_keeps
    | with_reducible apply State_coefWrite_keeps | split | (intro _ _; try dsimp -iota only)

theorem execChCfgWrite_keeps (t : Nat) (c : Sys2Proof.Req) (i : Fin 36) (r : Fin 32) (v : Sys2Proof.Word) (s : State) : KeepsR s (execChCfgWrite t c i r v s) := by
  have h := Keeps.refl s
  unfold execChCfgWrite
  try dsimp -iota only
  repeat' first
    | with_reducible assumption | with_reducible apply KeepsR.next | with_reducible apply State_cmdWrite_keeps
    | with_reducible apply State_chCfgWrite_keeps | split | (intro _ _; try dsimp -iota only)

theorem execRfbDisable_keeps (t : Nat) (c : Sys2Proof.Req) (v : Sys2Proof.Word) (s : State) : KeepsR s (execRfbDisable t c v s) := by
  have h := Keeps.refl s
  unfold execRfbDisable
  try dsimp -iota only
  repeat' first
    | with_reducible assumption | with_reducible apply KeepsR.next | with_reducible apply State_cmdWrite_keeps
    | with_reducible apply State_rfbCtrl_keeps | split | (intro _ _; try dsimp -iota only)

end Sys2Proof.Machine
end

