-- ==== Sys2Proof/Laws/KeepsIngest.lean ====
section
/-!
SUPPORT. `Keeps` for the functions of Machine/Ingest.lean: each leaves the queue alone, drops no output and keeps the canonical forms.
-/
set_option linter.unusedVariables false
namespace Sys2Proof.Machine
open Regs

theorem State_offerWord_keeps {a : State} (s : State) (i : Nat) (w : Nat) (entry : Nat) (valid : Nat) {s' : State} {v1' : Bool} (h : Keeps a s)  (e : State.offerWord s i w entry valid = (s', v1')) : Keeps a s' := by
  unfold State.offerWord at e
  try dsimp -iota only at e
  repeat' split at e
  all_goals (have e2 := congrArg (fun p => p.1) e; dsimp only at e2; subst e2)
  repeat' first
    | with_reducible assumption | with_reducible apply State_rb_keeps | with_reducible apply State_upSt_keeps
    | with_reducible apply State_irqSet_keeps | with_reducible apply State_inc_keeps | split

theorem State_timeLow_keeps {a : State} (s : State) (i : Nat) (l : Nat) (h : Keeps a s)  : Keeps a (State.timeLow s i l) := by
  unfold State.timeLow
  try dsimp -iota only
  repeat' first
    | with_reducible assumption | with_reducible apply State_inc_keeps | with_reducible apply State_upSt_keeps | split

theorem State_timeHigh_keeps {a : State} (s : State) (i : Nat) (v : Nat) (wd : Nat) (h : Keeps a s)  : Keeps a (State.timeHigh s i v wd) := by
  unfold State.timeHigh
  try dsimp -iota only
  repeat' first
    | with_reducible assumption | with_reducible apply State_upSt_keeps | split

theorem State_arrival_keeps {a : State} (s : State) (i : Nat) (st : Nat) (adt : Nat) {s' : State} {v1' : Option Model} (h : Keeps a s)  (e : State.arrival s i st adt = (s', v1')) : Keeps a s' := by
  unfold State.arrival at e
  try dsimp -iota only at e
  repeat' split at e
  all_goals (have e2 := congrArg (fun p => p.1) e; dsimp only at e2; subst e2)
  repeat' first
    | with_reducible assumption | with_reducible apply State_upSt_keeps
    | with_reducible apply State_newEntry_keeps (e := pair_eta _)
    | with_reducible apply State_newEntry_keeps (e := by with_reducible assumption) | split

theorem State_emitEvent_keeps {a : State} (s : State) (i : Nat) (x : Nat) (y : Nat) (p : Nat) (adt : Nat) (h : Keeps a s)  : Keeps a (State.emitEvent s i x y p adt) := by
  unfold State.emitEvent
  try dsimp -iota only
  repeat' first
    | with_reducible assumption | with_reducible apply State_inc_keeps
    | with_reducible apply State_arrival_keeps (e := pair_eta _)
    | with_reducible apply State_arrival_keeps (e := by with_reducible assumption) | with_reducible apply State_upSt_keeps
    | split

theorem State_decErr_keeps {a : State} (s : State) (i : Nat) (f : Fld) (n : Nat) (h : Keeps a s)  : Keeps a (State.decErr s i f n) := by
  unfold State.decErr
  try dsimp -iota only
  repeat' first
    | with_reducible assumption | with_reducible apply State_irqSet_keeps | with_reducible apply State_inc_keeps | split

theorem State_decodeSensor_keeps {a : State} (s : State) (i : Nat) (w : Nat) (adt : Nat) (h : Keeps a s)  : Keeps a (State.decodeSensor s i w adt) := by
  unfold State.decodeSensor
  try dsimp -iota only
  repeat' first
    | with_reducible assumption | with_reducible apply State_decErr_keeps | with_reducible apply State_timeLow_keeps
    | with_reducible apply State_emitEvent_keeps | with_reducible apply State_upSt_keeps
    | with_reducible apply State_timeHigh_keeps | with_reducible apply State_inc_keeps
    | with_reducible refine Keeps.foldl ?_ ?_ | with_reducible refine Keeps.foldl_snd ?_ ?_
    | with_reducible refine Keeps.foldl_thd ?_ ?_ | with_reducible refine Keeps.foldl_fst ?_ ?_ | split
    | (intro _ _ _; try dsimp -iota only) | (intro _ _; try dsimp -iota only)

theorem State_vectorReset_keeps {a : State} (s : State) (i : Nat) (h : Keeps a s)  : Keeps a (State.vectorReset s i) := by
  unfold State.vectorReset
  try dsimp -iota only
  repeat' first
    | with_reducible assumption | with_reducible apply State_upSt_keeps | split

theorem State_decodeWord_keeps {a : State} (s : State) (i : Nat) (h : Keeps a s)  : Keeps a (State.decodeWord s i) := by
  unfold State.decodeWord
  try dsimp -iota only
  repeat' first
    | with_reducible assumption | with_reducible apply State_upSt_keeps | with_reducible apply State_commitModel_keeps
    | with_reducible apply State_vectorReset_keeps | with_reducible apply State_inc_keeps
    | with_reducible apply State_decodeSensor_keeps | with_reducible refine Keeps.foldl ?_ ?_
    | with_reducible refine Keeps.foldl_snd ?_ ?_ | with_reducible refine Keeps.foldl_thd ?_ ?_
    | with_reducible refine Keeps.foldl_fst ?_ ?_ | split | (intro _ _ _; try dsimp -iota only)
    | (intro _ _; try dsimp -iota only)

theorem State_flickerGate_keeps {a : State} (s : State) (i : Nat) (region : Nat) (tick : Nat) {v0' : Bool} {s' : State} (h : Keeps a s)  (e : State.flickerGate s i region tick = (v0', s')) : Keeps a s' := by
  unfold State.flickerGate at e
  try dsimp -iota only at e
  repeat' split at e
  all_goals (have e2 := congrArg (fun p => p.2) e; dsimp only at e2; subst e2)
  repeat' first
    | with_reducible assumption | with_reducible apply State_upSt_keeps
    | with_reducible apply State_flickerFor_keeps (e := pair_eta _)
    | with_reducible apply State_flickerFor_keeps (e := by with_reducible assumption) | split

theorem State_swapApply_keeps {a : State} (s : State) (i : Nat) (tick : Nat) (h : Keeps a s)  : Keeps a (State.swapApply s i tick) := by
  unfold State.swapApply
  try dsimp -iota only
  repeat' first
    | with_reducible assumption | with_reducible apply State_rb_keeps | with_reducible apply State_rs_keeps | split

theorem State_stampTrigger_keeps {a : State} (s : State) (i : Nat) (x2 : DecEv) (h : Keeps a s)  : Keeps a (State.stampTrigger s i x2) := by
  unfold State.stampTrigger
  try dsimp -iota only
  repeat' first
    | with_reducible assumption | with_reducible apply State_pairTrigger_keeps (e := pair_eta _)
    | with_reducible apply State_pairTrigger_keeps (e := by with_reducible assumption) | with_reducible apply State_upSt_keeps
    | with_reducible apply State_inc_keeps | split

theorem State_stampData_keeps {a : State} (s : State) (i : Nat) (x2 : DecEv) (h : Keeps a s)  : Keeps a (State.stampData s i x2) := by
  unfold State.stampData
  try dsimp -iota only
  repeat' first
    | with_reducible assumption | with_reducible apply State_inc_keeps | with_reducible apply State_upSt_keeps
    | with_reducible apply State_rateCount_keeps | with_reducible apply State_flickerGate_keeps (e := pair_eta _)
    | with_reducible apply State_flickerGate_keeps (e := by with_reducible assumption)
    | with_reducible apply State_swapApply_keeps | split

theorem State_stampEvent_keeps {a : State} (s : State) (i : Nat) (h : Keeps a s)  : Keeps a (State.stampEvent s i) := by
  unfold State.stampEvent
  try dsimp -iota only
  repeat' first
    | with_reducible assumption | with_reducible apply State_upSt_keeps | with_reducible apply State_stampTrigger_keeps
    | with_reducible apply State_stampData_keeps | split

theorem State_grantLane_keeps {a : State} (s : State) (i : Nat) (h : Keeps a s)  : Keeps a (State.grantLane s i) := by
  unfold State.grantLane
  try dsimp -iota only
  repeat' first
    | with_reducible assumption | with_reducible apply State_upSt_keeps | split | with_reducible exact List.prefix_refl _
    | with_reducible exact Nat.le_refl _ | with_reducible exact id | with_reducible exact List.prefix_append _ _
    | with_reducible exact Nat.le_succ _ | (intro _; try dsimp -iota only) | with_reducible apply Keeps.upd (hp := rfl)

theorem State_packetEnd_keeps {a : State} (s : State) (i : Nat) (p : Nat) (crcOk : Bool) (h : Keeps a s)  : Keeps a (State.packetEnd s i p crcOk) := by
  unfold State.packetEnd
  try dsimp -iota only
  repeat' first
    | with_reducible assumption | with_reducible apply State_upSt_keeps | with_reducible apply State_decErr_keeps
    | with_reducible apply State_irqSet_keeps | with_reducible apply State_inc_keeps | split

theorem State_admitRx_keeps {a : State} (s : State) (i : Nat) (x2 : List RxW) (h : Keeps a s)  : Keeps a (State.admitRx s i x2) := by
  induction x2 generalizing s with
  | nil =>
    unfold State.admitRx
    try dsimp -iota only
    repeat' first
      | with_reducible assumption | with_reducible apply State_upSt_keeps
      | with_reducible apply State_offerWord_keeps (e := pair_eta _)
      | with_reducible apply State_offerWord_keeps (e := by with_reducible assumption)
      | with_reducible apply State_packetEnd_keeps | split
  | cons x l ih =>
    unfold State.admitRx
    try dsimp -iota only
    repeat' first
      | with_reducible apply ih | with_reducible assumption | with_reducible apply State_upSt_keeps
      | with_reducible apply State_offerWord_keeps (e := pair_eta _)
      | with_reducible apply State_offerWord_keeps (e := by with_reducible assumption)
      | with_reducible apply State_packetEnd_keeps | split

theorem State_takeIn_keeps {a : State} (s : State) (i : Nat) (h : Keeps a s)  : Keeps a (State.takeIn s i) := by
  unfold State.takeIn
  try dsimp -iota only
  repeat' first
    | with_reducible assumption | with_reducible apply State_admitRx_keeps | split

theorem State_takeInAll_keeps {a : State} (s : State) (h : Keeps a s)  : Keeps a (State.takeInAll s) := by
  unfold State.takeInAll
  try dsimp -iota only
  repeat' first
    | with_reducible assumption | with_reducible apply State_takeIn_keeps | with_reducible refine Keeps.foldl ?_ ?_
    | with_reducible refine Keeps.foldl_snd ?_ ?_ | with_reducible refine Keeps.foldl_thd ?_ ?_
    | with_reducible refine Keeps.foldl_fst ?_ ?_ | split | (intro _ _ _; try dsimp -iota only)
    | (intro _ _; try dsimp -iota only)

theorem State_lockSettle_keeps {a : State} (s : State) (h : Keeps a s)  : Keeps a (State.lockSettle s) := by
  unfold State.lockSettle
  try dsimp -iota only
  repeat' first
    | with_reducible assumption | with_reducible apply State_logFault_keeps | with_reducible refine Keeps.foldl ?_ ?_
    | with_reducible refine Keeps.foldl_snd ?_ ?_ | with_reducible refine Keeps.foldl_thd ?_ ?_
    | with_reducible refine Keeps.foldl_fst ?_ ?_ | split | with_reducible exact List.prefix_refl _
    | with_reducible exact Nat.le_refl _ | with_reducible exact id | with_reducible exact Tab.rising_put _ _ _ _
    | with_reducible exact List.prefix_append _ _ | with_reducible exact Nat.le_succ _
    | with_reducible refine Mem.wf_foldl _ ?_ _ _ ?_ | (intro _ _ _; try dsimp -iota only) | (intro _ _; try dsimp -iota only)
    | (intro _; try dsimp -iota only) | with_reducible apply Keeps.upd (hp := rfl)

theorem State_takeInFor_keeps {a : State} (s : State) (p : Page) (h : Keeps a s)  : Keeps a (State.takeInFor s p) := by
  unfold State.takeInFor
  try dsimp -iota only
  repeat' first
    | with_reducible assumption | with_reducible apply State_takeInAll_keeps | with_reducible apply State_lockSettle_keeps
    | split

theorem State_dropRx_keeps {a : State} (s : State) (i : Nat) (f : Nat → Bool) (count : Bool) (h : Keeps a s)  : Keeps a (State.dropRx s i f count) := by
  unfold State.dropRx
  try dsimp -iota only
  repeat' first
    | with_reducible assumption | with_reducible apply State_takeIn_keeps | with_reducible apply State_upSt_keeps
    | with_reducible apply State_packetEnd_keeps | with_reducible refine Keeps.foldl ?_ ?_
    | with_reducible refine Keeps.foldl_snd ?_ ?_ | with_reducible refine Keeps.foldl_thd ?_ ?_
    | with_reducible refine Keeps.foldl_fst ?_ ?_ | split | (intro _ _ _; try dsimp -iota only)
    | (intro _ _; try dsimp -iota only)

theorem State_mipiPacket_keeps {a : State} (s : State) (p : Nat) (vc : Nat) (dty : Nat) (long : Bool) (ecc : Sys2Proof.EccRes) (data : List Sys2Proof.Byte) (times : List Nat) (crcOk : Bool) (h : Keeps a s)  : Keeps a (State.mipiPacket s p vc dty long ecc data times crcOk) := by
  unfold State.mipiPacket
  try dsimp -iota only
  repeat' first
    | with_reducible assumption | with_reducible apply State_irqSet_keeps | with_reducible apply State_inc_keeps
    | with_reducible apply State_takeIn_keeps | with_reducible apply State_upSt_keeps | split

theorem State_upAer_keeps {a : State} (s : State) (x1 : Nat) (v : AerPort) (h : Keeps a s)  : Keeps a (State.upAer s x1 v) := by
  unfold State.upAer
  try dsimp -iota only
  repeat' first
    | with_reducible assumption | split | with_reducible exact List.prefix_refl _ | with_reducible exact Nat.le_refl _
    | with_reducible exact id | with_reducible exact Tab.rising_put _ _ _ _ | with_reducible exact List.prefix_append _ _
    | with_reducible exact Nat.le_succ _ | (intro _; try dsimp -iota only) | with_reducible apply Keeps.upd (hp := rfl)

theorem State_ackDrive_keeps {a : State} (s : State) (old : State) (x2 : Nat) (h : Keeps a s)  : Keeps a (State.ackDrive s old x2) := by
  unfold State.ackDrive
  try dsimp -iota only
  repeat' first
    | with_reducible assumption | with_reducible apply State_emit_keeps | split

theorem State_mipiDown_keeps {a : State} (s : State) (p : Nat) (h : Keeps a s)  : Keeps a (State.mipiDown s p) := by
  unfold State.mipiDown
  try dsimp -iota only
  repeat' first
    | with_reducible assumption | with_reducible apply State_rb_keeps | with_reducible apply State_dropRx_keeps
    | with_reducible refine Keeps.foldl ?_ ?_ | with_reducible refine Keeps.foldl_snd ?_ ?_
    | with_reducible refine Keeps.foldl_thd ?_ ?_ | with_reducible refine Keeps.foldl_fst ?_ ?_ | split
    | (intro _ _ _; try dsimp -iota only) | (intro _ _; try dsimp -iota only)

theorem State_portCtrl_keeps {a : State} (s : State) (p : Page) (v : Sys2Proof.Word) (h : Keeps a s)  : Keeps a (State.portCtrl s p v) := by
  unfold State.portCtrl
  try dsimp -iota only
  repeat' first
    | with_reducible assumption | with_reducible apply State_mipiDown_keeps | with_reducible apply State_rs_keeps
    | with_reducible apply State_ackDrive_keeps | with_reducible apply State_upAer_keeps | split

theorem State_streamCtrl_keeps {a : State} (s : State) (i : Nat) (v : Sys2Proof.Word) (h : Keeps a s)  : Keeps a (State.streamCtrl s i v) := by
  unfold State.streamCtrl
  try dsimp -iota only
  repeat' first
    | with_reducible assumption | with_reducible apply State_upSt_keeps | with_reducible apply State_vectorReset_keeps
    | with_reducible apply State_rb_keeps | with_reducible apply State_errParam_keeps
    | with_reducible apply State_dropRx_keeps | split

theorem State_hotWrite_keeps {a : State} (s : State) (i : Nat) (v : Sys2Proof.Word) (h : Keeps a s)  : Keeps a (State.hotWrite s i v) := by
  unfold State.hotWrite
  try dsimp -iota only
  repeat' first
    | with_reducible assumption | with_reducible apply State_rs_keeps | with_reducible refine Keeps.foldl ?_ ?_
    | with_reducible refine Keeps.foldl_snd ?_ ?_ | with_reducible refine Keeps.foldl_thd ?_ ?_
    | with_reducible refine Keeps.foldl_fst ?_ ?_ | split | (intro _ _ _; try dsimp -iota only)
    | (intro _ _; try dsimp -iota only)

theorem State_tmapCtrl_keeps {a : State} (s : State) (i : Nat) (v : Sys2Proof.Word) (h : Keeps a s)  : Keeps a (State.tmapCtrl s i v) := by
  unfold State.tmapCtrl
  try dsimp -iota only
  repeat' first
    | with_reducible assumption | with_reducible apply State_upSt_keeps | with_reducible apply State_rb_keeps | split

theorem execMipiPacket_keeps (t : Nat) (mp : Fin 18) (vc : Fin 32) (dty : Fin 64) (long : Bool) (ecc : Sys2Proof.EccRes) (data : List Sys2Proof.Byte) (times : List Nat) (crcOk : Bool) (s : State) : KeepsR s (execMipiPacket t mp vc dty long ecc data times crcOk s) := by
  have h := Keeps.refl s
  unfold execMipiPacket
  try dsimp -iota only
  repeat' first
    | with_reducible assumption | with_reducible apply KeepsR.next | with_reducible apply State_advance_keeps
    | with_reducible apply State_mipiPacket_keeps | split

theorem execDeskewSequence_keeps (t : Nat) (mp : Fin 18) (s : State) : KeepsR s (execDeskewSequence t mp s) := by
  have h := Keeps.refl s
  unfold execDeskewSequence
  try dsimp -iota only
  repeat' first
    | with_reducible assumption | with_reducible apply KeepsR.next | with_reducible apply State_advance_keeps
    | with_reducible apply State_rb_keeps | split

theorem execAerReqRise_keeps (t : Nat) (ap : Fin 2) (s : State) : KeepsR s (execAerReqRise t ap s) := by
  have h := Keeps.refl s
  unfold execAerReqRise
  try dsimp -iota only
  repeat' first
    | with_reducible assumption | with_reducible apply KeepsR.next | with_reducible apply State_advance_keeps
    | with_reducible apply State_upAer_keeps | split

theorem execAerLatch_keeps (t : Nat) (ap : Fin 2) (w : BitVec 24) (s : State) : KeepsR s (execAerLatch t ap w s) := by
  have h := Keeps.refl s
  unfold execAerLatch
  try dsimp -iota only
  repeat' first
    | with_reducible assumption | with_reducible apply KeepsR.next | with_reducible apply State_advance_keeps
    | with_reducible apply State_inc_keeps | with_reducible apply State_emit_keeps | with_reducible apply State_upAer_keeps
    | with_reducible apply State_offerWord_keeps (e := pair_eta _)
    | with_reducible apply State_offerWord_keeps (e := by with_reducible assumption) | split

theorem execAerReqFall_keeps (t : Nat) (ap : Fin 2) (s : State) : KeepsR s (execAerReqFall t ap s) := by
  have h := Keeps.refl s
  unfold execAerReqFall
  try dsimp -iota only
  repeat' first
    | with_reducible assumption | with_reducible apply KeepsR.next | with_reducible apply State_advance_keeps
    | with_reducible apply State_emit_keeps | with_reducible apply State_upAer_keeps | with_reducible apply State_inc_keeps
    | split

theorem execPortEnable_keeps (t : Nat) (c : Sys2Proof.Req) (p : BitVec 14) (v : Sys2Proof.Word) (s : State) : KeepsR s (execPortEnable t c p v s) := by
  have h := Keeps.refl s
  unfold execPortEnable
  try dsimp -iota only
  repeat' first
    | with_reducible assumption | with_reducible apply KeepsR.next | with_reducible apply State_cmdWrite_keeps
    | with_reducible apply State_portCtrl_keeps | with_reducible apply State_advance_keeps | split
    | (intro _ _; try dsimp -iota only)

theorem execDecodeWord_keeps (t : Nat) (i : Fin 36) (s : State) : KeepsR s (execDecodeWord t i s) := by
  have h := Keeps.refl s
  unfold execDecodeWord
  try dsimp -iota only
  repeat' first
    | with_reducible assumption | with_reducible apply KeepsR.next | with_reducible apply State_takeIn_keeps
    | with_reducible apply State_advance_keeps | with_reducible apply State_decodeWord_keeps | split

theorem execStampEvent_keeps (t : Nat) (i : Fin 36) (s : State) : KeepsR s (execStampEvent t i s) := by
  have h := Keeps.refl s
  unfold execStampEvent
  try dsimp -iota only
  repeat' first
    | with_reducible assumption | with_reducible apply KeepsR.next | with_reducible apply State_advance_keeps
    | with_reducible apply State_stampEvent_keeps | with_reducible apply State_grantLane_keeps | split

theorem execHotDataWrite_keeps (t : Nat) (c : Sys2Proof.Req) (i : Fin 36) (v : Sys2Proof.Word) (s : State) : KeepsR s (execHotDataWrite t c i v s) := by
  have h := Keeps.refl s
  unfold execHotDataWrite
  try dsimp -iota only
  repeat' first
    | with_reducible assumption | with_reducible apply KeepsR.next | with_reducible apply State_cmdWrite_keeps
    | with_reducible apply State_hotWrite_keeps | split | (intro _ _; try dsimp -iota only)

theorem execTmapSwap_keeps (t : Nat) (c : Sys2Proof.Req) (i : Fin 36) (v : Sys2Proof.Word) (s : State) : KeepsR s (execTmapSwap t c i v s) := by
  have h := Keeps.refl s
  unfold execTmapSwap
  try dsimp -iota only
  repeat' first
    | with_reducible assumption | with_reducible apply KeepsR.next | with_reducible apply State_cmdWrite_keeps
    | with_reducible apply State_tmapCtrl_keeps | split | (intro _ _; try dsimp -iota only)

theorem execStreamEnable_keeps (t : Nat) (c : Sys2Proof.Req) (i : Fin 36) (v : Sys2Proof.Word) (s : State) : KeepsR s (execStreamEnable t c i v s) := by
  have h := Keeps.refl s
  unfold execStreamEnable
  try dsimp -iota only
  repeat' first
    | with_reducible assumption | with_reducible apply KeepsR.next | with_reducible apply State_cmdWrite_keeps
    | with_reducible apply State_streamCtrl_keeps | split | (intro _ _; try dsimp -iota only)

theorem execStreamDisable_keeps (t : Nat) (c : Sys2Proof.Req) (i : Fin 36) (v : Sys2Proof.Word) (s : State) : KeepsR s (execStreamDisable t c i v s) := by
  have h := Keeps.refl s
  unfold execStreamDisable
  try dsimp -iota only
  repeat' first
    | with_reducible assumption | with_reducible apply KeepsR.next | with_reducible apply State_cmdWrite_keeps
    | with_reducible apply State_streamCtrl_keeps | split | (intro _ _; try dsimp -iota only)

end Sys2Proof.Machine
end

