-- ==== Sys2Proof/Laws/KeepsNetwork.lean ====
section
/-!
SUPPORT. `Keeps` for the functions of Machine/Network.lean: each leaves the queue alone, drops no output and keeps the canonical forms.
-/
set_option linter.unusedVariables false
namespace Sys2Proof.Machine
open Regs

theorem State_meshCount_keeps {a : State} (s : State) (core : Nat) (flits : Nat) (h : Keeps a s)  : Keeps a (State.meshCount s core flits) := by
  unfold State.meshCount
  try dsimp -iota only
  repeat' first
    | with_reducible assumption | with_reducible apply State_inc_keeps | split

theorem State_crossLink_keeps {a : State} (s : State) (f : Flit) (x2 : Link) (h : Keeps a s)  : Keeps a (State.crossLink s f x2) := by
  unfold State.crossLink
  try dsimp -iota only
  repeat' first
    | with_reducible assumption | with_reducible apply State_inc_keeps | split

theorem State_rowCount_keeps {a : State} (s : State) (f : Flit) (h : Keeps a s)  : Keeps a (State.rowCount s f) := by
  unfold State.rowCount
  try dsimp -iota only
  repeat' first
    | with_reducible assumption | with_reducible apply State_meshCount_keeps | split

theorem State_send_keeps {a : State} (s : State) (f : Flit) (h : Keeps a s)  : Keeps a (State.send s f) := by
  unfold State.send
  try dsimp -iota only
  repeat' first
    | with_reducible assumption | with_reducible apply State_crossLink_keeps | with_reducible apply State_rowCount_keeps
    | with_reducible refine Keeps.foldl ?_ ?_ | with_reducible refine Keeps.foldl_snd ?_ ?_
    | with_reducible refine Keeps.foldl_thd ?_ ?_ | with_reducible refine Keeps.foldl_fst ?_ ?_ | split
    | with_reducible exact List.prefix_refl _ | with_reducible exact Nat.le_refl _ | with_reducible exact id
    | with_reducible exact List.prefix_append _ _ | with_reducible exact Nat.le_succ _
    | with_reducible refine Mem.wf_foldl _ ?_ _ _ ?_ | (intro _ _ _; try dsimp -iota only) | (intro _ _; try dsimp -iota only)
    | (intro _; try dsimp -iota only) | with_reducible apply Keeps.upd (hp := rfl)

theorem State_linkWait_keeps {a : State} (s : State) (f : Flit) (who : Nat) (h : Keeps a s)  : Keeps a (State.linkWait s f who) := by
  unfold State.linkWait
  try dsimp -iota only
  repeat' first
    | with_reducible assumption | with_reducible apply State_waitBegin_keeps | split

theorem State_linkMoved_keeps {a : State} (s : State) (f : Flit) (who : Nat) (h : Keeps a s)  : Keeps a (State.linkMoved s f who) := by
  unfold State.linkMoved
  try dsimp -iota only
  repeat' first
    | with_reducible assumption | with_reducible apply State_waitEnd_keeps | with_reducible refine Keeps.foldl ?_ ?_
    | with_reducible refine Keeps.foldl_snd ?_ ?_ | with_reducible refine Keeps.foldl_thd ?_ ?_
    | with_reducible refine Keeps.foldl_fst ?_ ?_ | split | (intro _ _ _; try dsimp -iota only)
    | (intro _ _; try dsimp -iota only)

theorem State_takeFlit_keeps {a : State} (s : State) (p : Flit → Bool) {s' : State} {v' : Flit} (h : Keeps a s)
    (e : State.takeFlit s p = some (v', s')) : Keeps a s' := by
  unfold State.takeFlit at e
  simp only [Option.map_eq_some_iff] at e
  obtain ⟨r, _, e⟩ := e
  cases e
  exact Keeps.upd (hp := rfl) h (List.prefix_refl _) (Nat.le_refl _) (Nat.le_refl _) id id id id id


theorem State_setCredit_keeps {a : State} (s : State) (k : Nat) (i : Nat) (n : Nat) (h : Keeps a s)  : Keeps a (State.setCredit s k i n) := by
  unfold State.setCredit
  try dsimp -iota only
  repeat' first
    | with_reducible assumption | split | with_reducible exact List.prefix_refl _ | with_reducible exact Nat.le_refl _
    | with_reducible exact id | with_reducible exact Tab.rising_put _ _ _ _ | with_reducible exact List.prefix_append _ _
    | with_reducible exact Nat.le_succ _ | (intro _; try dsimp -iota only) | with_reducible apply Keeps.upd (hp := rfl)

theorem State_ddrCount_keeps {a : State} (s : State) (f : Fld) (x2 : Nat) (n : Nat) (h : Keeps a s)  : Keeps a (State.ddrCount s f x2 n) := by
  unfold State.ddrCount
  try dsimp -iota only
  repeat' first
    | with_reducible assumption | with_reducible apply State_inc_keeps | split

theorem State_l2Serve_keeps {a : State} (s : State) (c : Nat) (n : Nat) (h : Keeps a s)  : Keeps a (State.l2Serve s c n) := by
  unfold State.l2Serve
  try dsimp -iota only
  repeat' first
    | with_reducible assumption | with_reducible apply State_inc_keeps | split | with_reducible exact List.prefix_refl _
    | with_reducible exact Nat.le_refl _ | with_reducible exact id | with_reducible exact Tab.rising_put _ _ _ _
    | with_reducible exact List.prefix_append _ _ | with_reducible exact Nat.le_succ _ | (intro _; try dsimp -iota only)
    | with_reducible apply Keeps.upd (hp := rfl)

theorem State_ddrL2_keeps {a : State} (s : State) (x1 : Nat) (n : Nat) (h : Keeps a s)  : Keeps a (State.ddrL2 s x1 n) := by
  unfold State.ddrL2
  try dsimp -iota only
  repeat' first
    | with_reducible assumption | with_reducible apply State_l2Serve_keeps | split

theorem State_ddrPut_keeps {a : State} (s : State) (x1 : Nat) (x2 : List Nat) (h : Keeps a s)  : Keeps a (State.ddrPut s x1 x2) := by
  induction x2 generalizing s x1 with
  | nil =>
    unfold State.ddrPut
    try dsimp -iota only
    repeat' first
      | with_reducible assumption | split | with_reducible exact List.prefix_refl _ | with_reducible exact Nat.le_refl _
      | with_reducible exact id | with_reducible exact List.prefix_append _ _ | with_reducible exact Nat.le_succ _
      | with_reducible apply Mem.wf_wrLE | (intro _; try dsimp -iota only) | with_reducible apply Keeps.upd (hp := rfl)
  | cons x l ih =>
    unfold State.ddrPut
    try dsimp -iota only
    repeat' first
      | with_reducible apply ih | with_reducible assumption | split | with_reducible exact List.prefix_refl _ | with_reducible exact Nat.le_refl _
      | with_reducible exact id | with_reducible exact List.prefix_append _ _ | with_reducible exact Nat.le_succ _
      | with_reducible apply Mem.wf_wrLE | (intro _; try dsimp -iota only) | with_reducible apply Keeps.upd (hp := rfl)

end Sys2Proof.Machine
end

