-- ==== Sys2Proof/Laws/KeepsJournal.lean ====
section
/-!
SUPPORT. `Keeps` for the functions of Machine/Journal.lean: each leaves the queue alone, drops no output and keeps the canonical forms.
-/
set_option linter.unusedVariables false
namespace Sys2Proof.Machine
open Regs

theorem State_upJr_keeps {a : State} (s : State) (i : Nat) (f : Jrn → Jrn) (h : Keeps a s)  : Keeps a (State.upJr s i f) := by
  unfold State.upJr
  try dsimp -iota only
  repeat' first
    | with_reducible assumption | split | with_reducible exact List.prefix_refl _ | with_reducible exact Nat.le_refl _
    | with_reducible exact id | with_reducible exact Tab.rising_put _ _ _ _ | with_reducible exact List.prefix_append _ _
    | with_reducible exact Nat.le_succ _ | (intro _; try dsimp -iota only) | with_reducible apply Keeps.upd (hp := rfl)

theorem State_upMark_keeps {a : State} (s : State) (i : Nat) (m : Nat) (f : Mark → Mark) (h : Keeps a s)  : Keeps a (State.upMark s i m f) := by
  unfold State.upMark
  try dsimp -iota only
  repeat' first
    | with_reducible assumption | with_reducible apply State_upJr_keeps | split

theorem State_gapCopy_keeps {a : State} (s : State) (i : Nat) (dt : Nat) (cap : Bool) (stage : Bool) (h : Keeps a s)  : Keeps a (State.gapCopy s i dt cap stage) := by
  unfold State.gapCopy
  try dsimp -iota only
  repeat' first
    | with_reducible assumption | with_reducible apply State_inc_keeps | with_reducible apply State_upJr_keeps
    | with_reducible apply State_irqSet_keeps | with_reducible apply State_rb_keeps | split

theorem State_acceptCopy_keeps {a : State} (s : State) (i : Nat) (x2 : Ev) (h : Keeps a s)  : Keeps a (State.acceptCopy s i x2) := by
  unfold State.acceptCopy
  try dsimp -iota only
  repeat' first
    | with_reducible assumption | with_reducible apply State_rb_keeps | with_reducible apply State_inc_keeps
    | with_reducible apply State_upJr_keeps | with_reducible apply State_peak_keeps | split
    | with_reducible exact List.prefix_refl _ | with_reducible exact Nat.le_refl _ | with_reducible exact id
    | with_reducible exact List.prefix_append _ _ | with_reducible exact Nat.le_succ _ | (intro _; try dsimp -iota only)
    | with_reducible apply Keeps.upd (hp := rfl)

theorem State_journalCopy_keeps {a : State} (s : State) (x1 : Ev) (h : Keeps a s)  : Keeps a (State.journalCopy s x1) := by
  unfold State.journalCopy
  try dsimp -iota only
  repeat' first
    | with_reducible assumption | with_reducible apply State_gapCopy_keeps | with_reducible apply State_acceptCopy_keeps
    | split

theorem State_padLine_keeps {a : State} (s : State) (i : Nat) (h : Keeps a s)  : Keeps a (State.padLine s i) := by
  unfold State.padLine
  try dsimp -iota only
  repeat' first
    | with_reducible assumption | with_reducible apply State_inc_keeps | with_reducible apply State_upJr_keeps | split

theorem State_overtake_keeps {a : State} (s : State) (i : Nat) (lineEnd : Nat) (h : Keeps a s)  : Keeps a (State.overtake s i lineEnd) := by
  unfold State.overtake
  try dsimp -iota only
  repeat' first
    | with_reducible assumption | with_reducible apply State_irqSet_keeps | with_reducible apply State_inc_keeps
    | with_reducible apply State_rs_keeps | with_reducible apply State_upMark_keeps | with_reducible refine Keeps.foldl ?_ ?_
    | with_reducible refine Keeps.foldl_snd ?_ ?_ | with_reducible refine Keeps.foldl_thd ?_ ?_
    | with_reducible refine Keeps.foldl_fst ?_ ?_ | split | (intro _ _ _; try dsimp -iota only)
    | (intro _ _; try dsimp -iota only)

theorem State_replayEnd_keeps {a : State} (s : State) (ch : Nat) (st : Nat) (short : Bool) (h : Keeps a s)  : Keeps a (State.replayEnd s ch st short) := by
  unfold State.replayEnd
  try dsimp -iota only
  repeat' first
    | with_reducible assumption | with_reducible apply State_irqSet_keeps | with_reducible apply State_rb_keeps
    | with_reducible apply State_rs_keeps | split

theorem State_lapReplays_keeps {a : State} (s : State) (i : Nat) (lineEnd : Nat) (h : Keeps a s)  : Keeps a (State.lapReplays s i lineEnd) := by
  unfold State.lapReplays
  try dsimp -iota only
  repeat' first
    | with_reducible assumption | with_reducible apply State_replayEnd_keeps | with_reducible apply State_rs_keeps
    | with_reducible refine Keeps.foldl ?_ ?_ | with_reducible refine Keeps.foldl_snd ?_ ?_
    | with_reducible refine Keeps.foldl_thd ?_ ?_ | with_reducible refine Keeps.foldl_fst ?_ ?_ | split
    | (intro _ _ _; try dsimp -iota only) | (intro _ _; try dsimp -iota only)

theorem State_issueNow_keeps {a : State} (s : State) (i : Nat) (h : Keeps a s)  : Keeps a (State.issueNow s i) := by
  unfold State.issueNow
  try dsimp -iota only
  repeat' first
    | with_reducible assumption | with_reducible apply State_lapReplays_keeps | with_reducible apply State_overtake_keeps
    | with_reducible apply State_upJr_keeps | split

theorem State_issueLine_keeps {a : State} (s : State) (i : Nat) (h : Keeps a s)  : Keeps a (State.issueLine s i) := by
  unfold State.issueLine
  try dsimp -iota only
  repeat' first
    | with_reducible assumption | with_reducible apply State_issueNow_keeps | split

theorem State_lineWrite_keeps {a : State} (s : State) (i : Nat) (h : Keeps a s)  : Keeps a (State.lineWrite s i) := by
  unfold State.lineWrite
  try dsimp -iota only
  repeat' first
    | with_reducible assumption | with_reducible apply State_ddrCount_keeps | with_reducible apply State_ddrPut_keeps
    | with_reducible apply State_upJr_keeps | with_reducible apply State_rs_keeps | split

theorem State_lineDone_keeps {a : State} (s : State) (i : Nat) (h : Keeps a s)  : Keeps a (State.lineDone s i) := by
  unfold State.lineDone
  try dsimp -iota only
  repeat' first
    | with_reducible assumption | with_reducible apply State_lineWrite_keeps | split

theorem State_finishLines_keeps {a : State} (s : State) (i : Nat) (x2 : Nat) (h : Keeps a s)  : Keeps a (State.finishLines s i x2) := by
  induction x2 generalizing s with
  | zero =>
    unfold State.finishLines
    try dsimp -iota only
    repeat' first
      | with_reducible assumption | with_reducible apply State_lineWrite_keeps | with_reducible apply State_issueNow_keeps
      | split
  | succ n ih =>
    unfold State.finishLines
    try dsimp -iota only
    repeat' first
      | with_reducible apply ih | with_reducible assumption | with_reducible apply State_lineWrite_keeps | with_reducible apply State_issueNow_keeps
      | split

theorem State_jstrCtrl_keeps {a : State} (s : State) (i : Nat) (v : Sys2Proof.Word) (h : Keeps a s)  : Keeps a (State.jstrCtrl s i v) := by
  unfold State.jstrCtrl
  try dsimp -iota only
  repeat' first
    | with_reducible assumption | with_reducible apply State_errParam_keeps | with_reducible apply State_finishLines_keeps
    | with_reducible apply State_upJr_keeps | with_reducible apply State_rs_keeps | with_reducible apply State_rb_keeps
    | with_reducible apply State_padLine_keeps | with_reducible refine Keeps.foldl ?_ ?_
    | with_reducible refine Keeps.foldl_snd ?_ ?_ | with_reducible refine Keeps.foldl_thd ?_ ?_
    | with_reducible refine Keeps.foldl_fst ?_ ?_ | split | (intro _ _ _; try dsimp -iota only)
    | (intro _ _; try dsimp -iota only)

theorem State_markCmd_keeps {a : State} (s : State) (i : Nat) (v : Sys2Proof.Word) (h : Keeps a s)  : Keeps a (State.markCmd s i v) := by
  unfold State.markCmd
  try dsimp -iota only
  repeat' first
    | with_reducible assumption | with_reducible apply State_upMark_keeps | with_reducible apply State_errParam_keeps | split

theorem execJournalEnable_keeps (t : Nat) (c : Sys2Proof.Req) (i : Fin 36) (v : Sys2Proof.Word) (s : State) : KeepsR s (execJournalEnable t c i v s) := by
  have h := Keeps.refl s
  unfold execJournalEnable
  try dsimp -iota only
  repeat' first
    | with_reducible assumption | with_reducible apply KeepsR.next | with_reducible apply State_cmdWrite_keeps
    | with_reducible apply State_jstrCtrl_keeps | split | (intro _ _; try dsimp -iota only)

theorem execJournalDisable_keeps (t : Nat) (c : Sys2Proof.Req) (i : Fin 36) (v : Sys2Proof.Word) (s : State) : KeepsR s (execJournalDisable t c i v s) := by
  have h := Keeps.refl s
  unfold execJournalDisable
  try dsimp -iota only
  repeat' first
    | with_reducible assumption | with_reducible apply KeepsR.next | with_reducible apply State_cmdWrite_keeps
    | with_reducible apply State_jstrCtrl_keeps | split | (intro _ _; try dsimp -iota only)

theorem execJournalFlush_keeps (t : Nat) (i : Fin 36) (s : State) : KeepsR s (execJournalFlush t i s) := by
  have h := Keeps.refl s
  unfold execJournalFlush
  try dsimp -iota only
  repeat' first
    | with_reducible assumption | with_reducible apply KeepsR.next | with_reducible apply State_advance_keeps
    | with_reducible apply State_padLine_keeps | split

theorem execJournalLineIssue_keeps (t : Nat) (i : Fin 36) (s : State) : KeepsR s (execJournalLineIssue t i s) := by
  have h := Keeps.refl s
  unfold execJournalLineIssue
  try dsimp -iota only
  repeat' first
    | with_reducible assumption | with_reducible apply KeepsR.next | with_reducible apply State_issueLine_keeps
    | with_reducible apply State_advance_keeps | split

theorem execJournalLineDone_keeps (t : Nat) (i : Fin 36) (s : State) : KeepsR s (execJournalLineDone t i s) := by
  have h := Keeps.refl s
  unfold execJournalLineDone
  try dsimp -iota only
  repeat' first
    | with_reducible assumption | with_reducible apply KeepsR.next | with_reducible apply State_lineDone_keeps
    | with_reducible apply State_advance_keeps | split

theorem execMarkSet_keeps (t : Nat) (c : Sys2Proof.Req) (i : Fin 36) (v : Sys2Proof.Word) (s : State) : KeepsR s (execMarkSet t c i v s) := by
  have h := Keeps.refl s
  unfold execMarkSet
  try dsimp -iota only
  repeat' first
    | with_reducible assumption | with_reducible apply KeepsR.next | with_reducible apply State_cmdWrite_keeps
    | with_reducible apply State_markCmd_keeps | split | (intro _ _; try dsimp -iota only)

theorem execMarkClear_keeps (t : Nat) (c : Sys2Proof.Req) (i : Fin 36) (v : Sys2Proof.Word) (s : State) : KeepsR s (execMarkClear t c i v s) := by
  have h := Keeps.refl s
  unfold execMarkClear
  try dsimp -iota only
  repeat' first
    | with_reducible assumption | with_reducible apply KeepsR.next | with_reducible apply State_cmdWrite_keeps
    | with_reducible apply State_markCmd_keeps | split | (intro _ _; try dsimp -iota only)

end Sys2Proof.Machine
end

