-- ==== Sys2Proof/Laws/KeepsDistribute.lean ====
section
/-!
SUPPORT. `Keeps` for the functions of Machine/Distribute.lean: each leaves the queue alone, drops no output and keeps the canonical forms.
-/
set_option linter.unusedVariables false
namespace Sys2Proof.Machine
open Regs

theorem State_issueTo_keeps {a : State} (s : State) (i : Nat) (k : Nat) (f : Flit) (h : Keeps a s)  : Keeps a (State.issueTo s i k f) := by
  unfold State.issueTo
  try dsimp -iota only
  repeat' first
    | with_reducible assumption | with_reducible apply State_inc_keeps | with_reducible apply State_send_keeps
    | with_reducible apply State_setCredit_keeps | split

theorem State_distIssue_keeps {a : State} (s : State) (i : Nat) (h : Keeps a s)  : Keeps a (State.distIssue s i) := by
  unfold State.distIssue
  try dsimp -iota only
  repeat' first
    | with_reducible assumption | with_reducible apply State_waitBegin_keeps | with_reducible apply State_upSt_keeps
    | with_reducible apply State_waitEnd_keeps | with_reducible apply State_issueTo_keeps
    | with_reducible apply State_journalCopy_keeps | with_reducible refine Keeps.foldl ?_ ?_
    | with_reducible refine Keeps.foldl_snd ?_ ?_ | with_reducible refine Keeps.foldl_thd ?_ ?_
    | with_reducible refine Keeps.foldl_fst ?_ ?_ | split | (intro _ _ _; try dsimp -iota only)
    | (intro _ _; try dsimp -iota only)

theorem State_shadowShift_keeps {a : State} (s : State) (k : Nat) (map : Nat) (key : Nat) (shift : Nat) (h : Keeps a s)  : Keeps a (State.shadowShift s k map key shift) := by
  unfold State.shadowShift
  try dsimp -iota only
  repeat' first
    | with_reducible assumption | with_reducible apply State_rs_keeps | with_reducible refine Keeps.foldl ?_ ?_
    | with_reducible refine Keeps.foldl_snd ?_ ?_ | with_reducible refine Keeps.foldl_thd ?_ ?_
    | with_reducible refine Keeps.foldl_fst ?_ ?_ | split | (intro _ _ _; try dsimp -iota only)
    | (intro _ _; try dsimp -iota only)

theorem State_replayStart_keeps {a : State} (s : State) (ch : Nat) (h : Keeps a s)  : Keeps a (State.replayStart s ch) := by
  unfold State.replayStart
  try dsimp -iota only
  repeat' first
    | with_reducible assumption | with_reducible apply State_rs_keeps | with_reducible apply State_shadowShift_keeps
    | with_reducible apply State_rb_keeps | with_reducible apply State_replayEnd_keeps
    | with_reducible refine Keeps.foldl ?_ ?_ | with_reducible refine Keeps.foldl_snd ?_ ?_
    | with_reducible refine Keeps.foldl_thd ?_ ?_ | with_reducible refine Keeps.foldl_fst ?_ ?_ | split
    | with_reducible exact List.prefix_refl _ | with_reducible exact Nat.le_refl _ | with_reducible exact id
    | with_reducible exact Tab.rising_put _ _ _ _ | with_reducible exact List.prefix_append _ _
    | with_reducible exact Nat.le_succ _ | with_reducible refine Mem.wf_foldl _ ?_ _ _ ?_
    | (intro _ _ _; try dsimp -iota only) | (intro _ _; try dsimp -iota only) | (intro _; try dsimp -iota only)
    | with_reducible apply Keeps.upd (hp := rfl)

theorem State_replayCmd_keeps {a : State} (s : State) (ch : Nat) (v : Sys2Proof.Word) (h : Keeps a s)  : Keeps a (State.replayCmd s ch v) := by
  unfold State.replayCmd
  try dsimp -iota only
  repeat' first
    | with_reducible assumption | with_reducible apply State_replayStart_keeps | with_reducible apply State_replayEnd_keeps
    | split

theorem State_replayEvent_keeps {a : State} (s : State) (ch : Nat) (w : Nat) (t : Nat) {s' : State} (h : Keeps a s)  (e : State.replayEvent s ch w t = some s') : Keeps a s' := by
  unfold State.replayEvent at e
  try dsimp -iota only at e
  repeat' split at e
  all_goals (try cases e)
  repeat' first
    | with_reducible assumption | with_reducible apply State_issueTo_keeps | with_reducible refine Keeps.foldl ?_ ?_
    | with_reducible refine Keeps.foldl_snd ?_ ?_ | with_reducible refine Keeps.foldl_thd ?_ ?_
    | with_reducible refine Keeps.foldl_fst ?_ ?_ | split | (intro _ _ _; try dsimp -iota only)
    | (intro _ _; try dsimp -iota only)

theorem State_replayRead_keeps {a : State} (s : State) (ch : Nat) (x2 : Nat) (h : Keeps a s)  : Keeps a (State.replayRead s ch x2) := by
  induction x2 generalizing s with
  | zero =>
    unfold State.replayRead
    try dsimp -iota only
    repeat' first
      | with_reducible assumption | with_reducible apply State_replayEnd_keeps | with_reducible apply State_rs_keeps
      | with_reducible apply State_inc_keeps | with_reducible apply State_replayEvent_keeps (e := by with_reducible assumption)
      | split | with_reducible exact List.prefix_refl _ | with_reducible exact Nat.le_refl _ | with_reducible exact id
      | with_reducible exact Tab.rising_put _ _ _ _ | with_reducible exact List.prefix_append _ _
      | with_reducible exact Nat.le_succ _ | (intro _; try dsimp -iota only) | with_reducible apply Keeps.upd (hp := rfl)
  | succ n ih =>
    unfold State.replayRead
    try dsimp -iota only
    repeat' first
      | with_reducible apply ih | with_reducible assumption | with_reducible apply State_replayEnd_keeps | with_reducible apply State_rs_keeps
      | with_reducible apply State_inc_keeps | with_reducible apply State_replayEvent_keeps (e := by with_reducible assumption)
      | split | with_reducible exact List.prefix_refl _ | with_reducible exact Nat.le_refl _ | with_reducible exact id
      | with_reducible exact Tab.rising_put _ _ _ _ | with_reducible exact List.prefix_append _ _
      | with_reducible exact Nat.le_succ _ | (intro _; try dsimp -iota only) | with_reducible apply Keeps.upd (hp := rfl)

theorem execDistIssue_keeps (t : Nat) (i : Fin 36) (s : State) : KeepsR s (execDistIssue t i s) := by
  have h := Keeps.refl s
  unfold execDistIssue
  try dsimp -iota only
  repeat' first
    | with_reducible assumption | with_reducible apply KeepsR.next | with_reducible apply State_distIssue_keeps
    | with_reducible apply State_advance_keeps | split

theorem execReplayStart_keeps (t : Nat) (c : Sys2Proof.Req) (ch : Fin 4) (v : Sys2Proof.Word) (s : State) : KeepsR s (execReplayStart t c ch v s) := by
  have h := Keeps.refl s
  unfold execReplayStart
  try dsimp -iota only
  repeat' first
    | with_reducible assumption | with_reducible apply KeepsR.next | with_reducible apply State_cmdWrite_keeps
    | with_reducible apply State_replayCmd_keeps | split | (intro _ _; try dsimp -iota only)

theorem execReplayCancel_keeps (t : Nat) (c : Sys2Proof.Req) (ch : Fin 4) (v : Sys2Proof.Word) (s : State) : KeepsR s (execReplayCancel t c ch v s) := by
  have h := Keeps.refl s
  unfold execReplayCancel
  try dsimp -iota only
  repeat' first
    | with_reducible assumption | with_reducible apply KeepsR.next | with_reducible apply State_cmdWrite_keeps
    | with_reducible apply State_replayCmd_keeps | split | (intro _ _; try dsimp -iota only)

theorem execReplayIssue_keeps (t : Nat) (ch : Fin 4) (s : State) : KeepsR s (execReplayIssue t ch s) := by
  have h := Keeps.refl s
  unfold execReplayIssue
  try dsimp -iota only
  repeat' first
    | with_reducible assumption | with_reducible apply KeepsR.next | with_reducible apply State_advance_keeps
    | with_reducible apply State_replayRead_keeps | split

end Sys2Proof.Machine
end

