-- ==== Sys2Proof/Laws/KeepsLedger.lean ====
section
/-!
SUPPORT. `Keeps` for the functions of Machine/Ledger.lean: each leaves the queue alone, drops no output and keeps the canonical forms.
-/
set_option linter.unusedVariables false
namespace Sys2Proof.Machine
open Regs

theorem State_upBank_keeps {a : State} (s : State) (k : Nat) (f : Bank → Bank) (h : Keeps a s)  : Keeps a (State.upBank s k f) := by
  unfold State.upBank
  try dsimp -iota only
  repeat' first
    | with_reducible assumption | split | with_reducible exact List.prefix_refl _ | with_reducible exact Nat.le_refl _
    | with_reducible exact id | with_reducible exact Tab.rising_put _ _ _ _ | with_reducible exact List.prefix_append _ _
    | with_reducible exact Nat.le_succ _ | (intro _; try dsimp -iota only) | with_reducible apply Keeps.upd (hp := rfl)

theorem State_writeBack_keeps {a : State} (s : State) (k : Nat) (l : CLine) (h : Keeps a s)  : Keeps a (State.writeBack s k l) := by
  unfold State.writeBack
  try dsimp -iota only
  repeat' first
    | with_reducible assumption | with_reducible apply State_ddrL2_keeps | split | with_reducible exact List.prefix_refl _
    | with_reducible exact Nat.le_refl _ | with_reducible exact id | with_reducible exact List.prefix_append _ _
    | with_reducible exact Nat.le_succ _ | with_reducible apply Mem.wf_wrBytes | (intro _; try dsimp -iota only)
    | with_reducible apply Keeps.upd (hp := rfl)

theorem State_cacheFill_keeps {a : State} (s : State) (k : Nat) (ln : Nat) (h : Keeps a s)  : Keeps a (State.cacheFill s k ln) := by
  unfold State.cacheFill
  try dsimp -iota only
  repeat' first
    | with_reducible assumption | with_reducible apply State_writeBack_keeps | with_reducible apply State_ddrL2_keeps
    | with_reducible apply State_upBank_keeps | split | with_reducible exact List.prefix_refl _
    | with_reducible exact Nat.le_refl _ | with_reducible exact id | with_reducible exact List.prefix_append _ _
    | with_reducible exact Nat.le_succ _ | with_reducible apply Mem.wf_wrBytes | (intro _; try dsimp -iota only)
    | with_reducible apply Keeps.upd (hp := rfl)

theorem State_cacheUse_keeps {a : State} (s : State) (k : Nat) (ln : Nat) (h : Keeps a s)  : Keeps a (State.cacheUse s k ln) := by
  unfold State.cacheUse
  try dsimp -iota only
  repeat' first
    | with_reducible assumption | with_reducible apply State_cacheFill_keeps | with_reducible apply State_inc_keeps
    | with_reducible apply State_upBank_keeps | split

theorem State_cacheFlush_keeps {a : State} (s : State) (k : Nat) (h : Keeps a s)  : Keeps a (State.cacheFlush s k) := by
  unfold State.cacheFlush
  try dsimp -iota only
  repeat' first
    | with_reducible assumption | with_reducible apply State_upBank_keeps | with_reducible apply State_writeBack_keeps
    | with_reducible refine Keeps.foldl ?_ ?_ | with_reducible refine Keeps.foldl_snd ?_ ?_
    | with_reducible refine Keeps.foldl_thd ?_ ?_ | with_reducible refine Keeps.foldl_fst ?_ ?_ | split
    | (intro _ _ _; try dsimp -iota only) | (intro _ _; try dsimp -iota only)

theorem State_setEntry_keeps {a : State} (s : State) (k : Nat) (d : Nat) (i : Nat) (v : Nat) (h : Keeps a s)  : Keeps a (State.setEntry s k d i v) := by
  unfold State.setEntry
  try dsimp -iota only
  repeat' first
    | with_reducible assumption | with_reducible apply State_cacheUse_keeps | with_reducible apply State_upBank_keeps | split
    | with_reducible exact List.prefix_refl _ | with_reducible exact Nat.le_refl _ | with_reducible exact id
    | with_reducible exact List.prefix_append _ _ | with_reducible exact Nat.le_succ _ | with_reducible apply Mem.wf_wrLE
    | (intro _; try dsimp -iota only) | with_reducible apply Keeps.upd (hp := rfl)

theorem State_entryUse_keeps {a : State} (s : State) (k : Nat) (d : Nat) (i : Nat) (h : Keeps a s)  : Keeps a (State.entryUse s k d i) := by
  unfold State.entryUse
  try dsimp -iota only
  repeat' first
    | with_reducible assumption | with_reducible apply State_cacheUse_keeps | split

theorem State_applyEntry_keeps {a : State} (s : State) (k : Nat) (w : LWrite) (h : Keeps a s)  : Keeps a (State.applyEntry s k w) := by
  unfold State.applyEntry
  try dsimp -iota only
  repeat' first
    | with_reducible assumption | with_reducible apply State_inc_keeps | with_reducible apply State_setEntry_keeps
    | with_reducible apply State_entryUse_keeps | split

theorem State_enqueueWrite_keeps {a : State} (s : State) (k : Nat) (w : LWrite) (h : Keeps a s)  : Keeps a (State.enqueueWrite s k w) := by
  unfold State.enqueueWrite
  try dsimp -iota only
  repeat' first
    | with_reducible assumption | with_reducible apply State_upBank_keeps | with_reducible apply State_peak_keeps
    | with_reducible apply State_waitBegin_keeps | with_reducible apply State_irqSet_keeps | split

theorem State_lateWrite_keeps {a : State} (s : State) (k : Nat) (h : Keeps a s)  : Keeps a (State.lateWrite s k) := by
  unfold State.lateWrite
  try dsimp -iota only
  repeat' first
    | with_reducible assumption | with_reducible apply State_irqSet_keeps | with_reducible apply State_inc_keeps | split

theorem State_copyWrite_keeps {a : State} (s : State) (k : Nat) (w : LWrite) (h : Keeps a s)  : Keeps a (State.copyWrite s k w) := by
  unfold State.copyWrite
  try dsimp -iota only
  repeat' first
    | with_reducible assumption | with_reducible apply State_applyEntry_keeps | with_reducible apply State_lateWrite_keeps
    | with_reducible apply State_enqueueWrite_keeps | split

theorem State_copyOf_keeps {a : State} (s : State) (k : Nat) (w : LWrite) (h : Keeps a s)  : Keeps a (State.copyOf s k w) := by
  unfold State.copyOf
  try dsimp -iota only
  repeat' first
    | with_reducible assumption | with_reducible apply State_inc_keeps | with_reducible apply State_copyWrite_keeps | split

theorem State_applyWrite_keeps {a : State} (s : State) (k : Nat) (w : LWrite) (h : Keeps a s)  : Keeps a (State.applyWrite s k w) := by
  unfold State.applyWrite
  try dsimp -iota only
  repeat' first
    | with_reducible assumption | with_reducible apply State_copyOf_keeps | with_reducible apply State_applyEntry_keeps
    | split

theorem State_bankWrite_keeps {a : State} (s : State) (k : Nat) (w : LWrite) (h : Keeps a s)  : Keeps a (State.bankWrite s k w) := by
  unfold State.bankWrite
  try dsimp -iota only
  repeat' first
    | with_reducible assumption | with_reducible apply State_lateWrite_keeps | with_reducible apply State_applyWrite_keeps
    | with_reducible apply State_enqueueWrite_keeps | split

theorem State_bankFreed_keeps {a : State} (s : State) (k : Nat) (h : Keeps a s)  : Keeps a (State.bankFreed s k) := by
  unfold State.bankFreed
  try dsimp -iota only
  repeat' first
    | with_reducible assumption | with_reducible apply State_waitEnd_keeps | split

theorem State_ledgerEvent_keeps {a : State} (s : State) (k : Nat) (q : QFlit) (h : Keeps a s)  : Keeps a (State.ledgerEvent s k q) := by
  unfold State.ledgerEvent
  try dsimp -iota only
  repeat' first
    | with_reducible assumption | with_reducible apply State_inc_keeps | with_reducible apply State_bankWrite_keeps
    | with_reducible refine Keeps.foldl ?_ ?_ | with_reducible refine Keeps.foldl_snd ?_ ?_
    | with_reducible refine Keeps.foldl_thd ?_ ?_ | with_reducible refine Keeps.foldl_fst ?_ ?_ | split
    | (intro _ _ _; try dsimp -iota only) | (intro _ _; try dsimp -iota only)

theorem State_ledgerReplay_keeps {a : State} (s : State) (k : Nat) (w : Nat) (t : Nat) (map : Nat) (h : Keeps a s)  : Keeps a (State.ledgerReplay s k w t map) := by
  unfold State.ledgerReplay
  try dsimp -iota only
  repeat' first
    | with_reducible assumption | with_reducible apply State_inc_keeps | with_reducible apply State_bankWrite_keeps
    | with_reducible refine Keeps.foldl ?_ ?_ | with_reducible refine Keeps.foldl_snd ?_ ?_
    | with_reducible refine Keeps.foldl_thd ?_ ?_ | with_reducible refine Keeps.foldl_fst ?_ ?_ | split
    | (intro _ _ _; try dsimp -iota only) | (intro _ _; try dsimp -iota only)

theorem State_ledgerCwrite_keeps {a : State} (s : State) (k : Nat) (w : Nat) (map : Nat) (h : Keeps a s)  : Keeps a (State.ledgerCwrite s k w map) := by
  unfold State.ledgerCwrite
  try dsimp -iota only
  repeat' first
    | with_reducible assumption | with_reducible apply State_inc_keeps | with_reducible apply State_bankWrite_keeps
    | with_reducible refine Keeps.foldl ?_ ?_ | with_reducible refine Keeps.foldl_snd ?_ ?_
    | with_reducible refine Keeps.foldl_thd ?_ ?_ | with_reducible refine Keeps.foldl_fst ?_ ?_ | split
    | (intro _ _ _; try dsimp -iota only) | (intro _ _; try dsimp -iota only)

theorem State_applyCovered_keeps {a : State} (s : State) (k : Nat) (τ : Nat) (h : Keeps a s)  : Keeps a (State.applyCovered s k τ) := by
  unfold State.applyCovered
  try dsimp -iota only
  repeat' first
    | with_reducible assumption | with_reducible apply State_upBank_keeps | with_reducible apply State_bankFreed_keeps
    | with_reducible apply State_applyWrite_keeps | with_reducible refine Keeps.foldl ?_ ?_
    | with_reducible refine Keeps.foldl_snd ?_ ?_ | with_reducible refine Keeps.foldl_thd ?_ ?_
    | with_reducible refine Keeps.foldl_fst ?_ ?_ | split | (intro _ _ _; try dsimp -iota only)
    | (intro _ _; try dsimp -iota only)

theorem State_advanceA_keeps {a : State} (s : State) (k : Nat) (lim : Nat) (x3 : Nat) (h : Keeps a s)  : Keeps a (State.advanceA s k lim x3) := by
  induction x3 generalizing s with
  | zero =>
    unfold State.advanceA
    try dsimp -iota only
    repeat' first
      | with_reducible assumption | with_reducible apply State_applyCovered_keeps | split
  | succ n ih =>
    unfold State.advanceA
    try dsimp -iota only
    repeat' first
      | with_reducible apply ih | with_reducible assumption | with_reducible apply State_applyCovered_keeps | split

theorem State_tickAdvance_keeps {a : State} (s : State) (k : Nat) (h : Keeps a s)  : Keeps a (State.tickAdvance s k) := by
  unfold State.tickAdvance
  try dsimp -iota only
  repeat' first
    | with_reducible assumption | with_reducible apply State_advanceA_keeps | split

theorem State_setFence_keeps {a : State} (s : State) (k : Nat) (d : Nat) (f : Option Fence) (h : Keeps a s)  : Keeps a (State.setFence s k d f) := by
  unfold State.setFence
  try dsimp -iota only
  repeat' first
    | with_reducible assumption | with_reducible apply State_upBank_keeps | split

theorem State_fenceSettle_keeps {a : State} (s : State) (k : Nat) (d : Nat) (h : Keeps a s)  : Keeps a (State.fenceSettle s k d) := by
  unfold State.fenceSettle
  try dsimp -iota only
  repeat' first
    | with_reducible assumption | with_reducible apply State_setFence_keeps | split

theorem State_fenceRead_keeps {a : State} (s : State) (k : Nat) (d : Nat) (h : Keeps a s)  : Keeps a (State.fenceRead s k d) := by
  unfold State.fenceRead
  try dsimp -iota only
  repeat' first
    | with_reducible assumption | with_reducible apply State_setFence_keeps | split

theorem State_fenceAdvance_keeps {a : State} (s : State) (k : Nat) (d : Nat) (h : Keeps a s)  : Keeps a (State.fenceAdvance s k d) := by
  unfold State.fenceAdvance
  try dsimp -iota only
  repeat' first
    | with_reducible assumption | with_reducible apply State_irqSet_keeps | with_reducible apply State_inc_keeps
    | with_reducible apply State_setFence_keeps | with_reducible apply State_upBank_keeps
    | with_reducible apply State_bankFreed_keeps | with_reducible apply State_applyWrite_keeps
    | with_reducible refine Keeps.foldl ?_ ?_ | with_reducible refine Keeps.foldl_snd ?_ ?_
    | with_reducible refine Keeps.foldl_thd ?_ ?_ | with_reducible refine Keeps.foldl_fst ?_ ?_ | split
    | (intro _ _ _; try dsimp -iota only) | (intro _ _; try dsimp -iota only)

theorem State_ledgerRelease_keeps {a : State} (s : State) (k : Nat) (map : Nat) (src : Bool) (key : Nat) (h : Keeps a s)  : Keeps a (State.ledgerRelease s k map src key) := by
  unfold State.ledgerRelease
  try dsimp -iota only
  repeat' first
    | with_reducible assumption | with_reducible apply State_setFence_keeps | with_reducible refine Keeps.foldl ?_ ?_
    | with_reducible refine Keeps.foldl_snd ?_ ?_ | with_reducible refine Keeps.foldl_thd ?_ ?_
    | with_reducible refine Keeps.foldl_fst ?_ ?_ | split | (intro _ _ _; try dsimp -iota only)
    | (intro _ _; try dsimp -iota only)

theorem State_fencesStart_keeps {a : State} (s : State) (g : Nat) (n : Nat) (f : Nat) (h : Keeps a s)  : Keeps a (State.fencesStart s g n f) := by
  unfold State.fencesStart
  try dsimp -iota only
  repeat' first
    | with_reducible assumption | with_reducible apply State_setFence_keeps | with_reducible refine Keeps.foldl ?_ ?_
    | with_reducible refine Keeps.foldl_snd ?_ ?_ | with_reducible refine Keeps.foldl_thd ?_ ?_
    | with_reducible refine Keeps.foldl_fst ?_ ?_ | split | (intro _ _ _; try dsimp -iota only)
    | (intro _ _; try dsimp -iota only)

theorem State_fencesStop_keeps {a : State} (s : State) (g : Nat) (h : Keeps a s)  : Keeps a (State.fencesStop s g) := by
  unfold State.fencesStop
  try dsimp -iota only
  repeat' first
    | with_reducible assumption | with_reducible apply State_setFence_keeps | with_reducible apply State_upBank_keeps
    | with_reducible apply State_bankFreed_keeps | with_reducible apply State_applyWrite_keeps
    | with_reducible refine Keeps.foldl ?_ ?_ | with_reducible refine Keeps.foldl_snd ?_ ?_
    | with_reducible refine Keeps.foldl_thd ?_ ?_ | with_reducible refine Keeps.foldl_fst ?_ ?_ | split
    | (intro _ _ _; try dsimp -iota only) | (intro _ _; try dsimp -iota only)

theorem State_nbrServe_keeps {a : State} (s : State) (k : Nat) (h : Keeps a s)  : Keeps a (State.nbrServe s k) := by
  unfold State.nbrServe
  try dsimp -iota only
  repeat' first
    | with_reducible assumption | with_reducible apply State_upBank_keeps | with_reducible apply State_inc_keeps
    | with_reducible apply State_send_keeps | split

theorem State_zeroRegion_keeps {a : State} (s : State) (k : Nat) (d : Nat) (h : Keeps a s)  : Keeps a (State.zeroRegion s k d) := by
  unfold State.zeroRegion
  try dsimp -iota only
  repeat' first
    | with_reducible assumption | with_reducible apply State_upBank_keeps | split | with_reducible exact List.prefix_refl _
    | with_reducible exact Nat.le_refl _ | with_reducible exact id | with_reducible exact Tab.rising_keep _ _
    | with_reducible exact List.prefix_append _ _ | with_reducible exact Nat.le_succ _ | with_reducible apply Mem.wf_keep
    | (intro _; try dsimp -iota only) | with_reducible apply Keeps.upd (hp := rfl)

theorem State_linesChange_keeps {a : State} (s : State) (k : Nat) (d : Nat) (h : Keeps a s)  : Keeps a (State.linesChange s k d) := by
  unfold State.linesChange
  try dsimp -iota only
  repeat' first
    | with_reducible assumption | with_reducible apply State_cacheFlush_keeps | split

theorem State_descEnable_keeps {a : State} (s : State) (k : Nat) (d : Nat) (h : Keeps a s)  : Keeps a (State.descEnable s k d) := by
  unfold State.descEnable
  try dsimp -iota only
  repeat' first
    | with_reducible assumption | with_reducible apply State_errParam_keeps | with_reducible apply State_upBank_keeps
    | with_reducible apply State_rb_keeps | with_reducible apply State_linesChange_keeps
    | with_reducible apply State_setFence_keeps | split

theorem State_clearDone_keeps {a : State} (s : State) (k : Nat) (d : Nat) (h : Keeps a s)  : Keeps a (State.clearDone s k d) := by
  unfold State.clearDone
  try dsimp -iota only
  repeat' first
    | with_reducible assumption | with_reducible apply State_zeroRegion_keeps | with_reducible apply State_upBank_keeps
    | with_reducible apply State_rb_keeps | with_reducible apply State_bankFreed_keeps
    | with_reducible apply State_applyWrite_keeps | with_reducible refine Keeps.foldl ?_ ?_
    | with_reducible refine Keeps.foldl_snd ?_ ?_ | with_reducible refine Keeps.foldl_thd ?_ ?_
    | with_reducible refine Keeps.foldl_fst ?_ ?_ | split | (intro _ _ _; try dsimp -iota only)
    | (intro _ _; try dsimp -iota only)

theorem State_descDisable_keeps {a : State} (s : State) (k : Nat) (d : Nat) (h : Keeps a s)  : Keeps a (State.descDisable s k d) := by
  unfold State.descDisable
  try dsimp -iota only
  repeat' first
    | with_reducible assumption | with_reducible apply State_rb_keeps | with_reducible apply State_linesChange_keeps
    | with_reducible apply State_upBank_keeps | with_reducible apply State_bankFreed_keeps | split

theorem State_descCount_keeps {a : State} (s : State) (k : Nat) (h : Keeps a s)  : Keeps a (State.descCount s k) := by
  unfold State.descCount
  try dsimp -iota only
  repeat' first
    | with_reducible assumption | with_reducible apply State_rs_keeps | split

theorem State_descCtrl_keeps {a : State} (s : State) (k : Nat) (v : Sys2Proof.Word) (h : Keeps a s)  : Keeps a (State.descCtrl s k v) := by
  unfold State.descCtrl
  try dsimp -iota only
  repeat' first
    | with_reducible assumption | with_reducible apply State_errParam_keeps | with_reducible apply State_descDisable_keeps
    | with_reducible apply State_descCount_keeps | with_reducible apply State_rs_keeps
    | with_reducible apply State_descEnable_keeps | with_reducible refine Keeps.foldl ?_ ?_
    | with_reducible refine Keeps.foldl_snd ?_ ?_ | with_reducible refine Keeps.foldl_thd ?_ ?_
    | with_reducible refine Keeps.foldl_fst ?_ ?_ | split | (intro _ _ _; try dsimp -iota only)
    | (intro _ _; try dsimp -iota only)

theorem State_scrubEntry_keeps {a : State} (s : State) (k : Nat) (d : Nat) (i : Nat) (h : Keeps a s)  : Keeps a (State.scrubEntry s k d i) := by
  unfold State.scrubEntry
  try dsimp -iota only
  repeat' first
    | with_reducible assumption | with_reducible apply State_inc_keeps | with_reducible apply State_setEntry_keeps | split

theorem State_scrubLine_keeps {a : State} (s : State) (k : Nat) (n : Nat) (h : Keeps a s)  : Keeps a (State.scrubLine s k n) := by
  unfold State.scrubLine
  try dsimp -iota only
  repeat' first
    | with_reducible assumption | with_reducible apply State_scrubEntry_keeps | with_reducible apply State_entryUse_keeps
    | with_reducible refine Keeps.foldl ?_ ?_ | with_reducible refine Keeps.foldl_snd ?_ ?_
    | with_reducible refine Keeps.foldl_thd ?_ ?_ | with_reducible refine Keeps.foldl_fst ?_ ?_ | split
    | (intro _ _ _; try dsimp -iota only) | (intro _ _; try dsimp -iota only)

end Sys2Proof.Machine
end

