-- ==== Sys2Proof/Laws/KeepsMatrix.lean ====
section
/-!
SUPPORT. `Keeps` for the functions of Machine/Matrix.lean: each leaves the queue alone, drops no output and keeps the canonical forms.
-/
set_option linter.unusedVariables false
namespace Sys2Proof.Machine
open Regs

theorem Mem.wf_setEl (m : Mem) (ty a i v : Nat) (h : Mem.wf m = true) : Mem.wf (m.setEl ty a i v) = true := by
  unfold Mem.setEl
  split
  · exact Mem.wf_wr _ _ _ h
  · exact Mem.wf_wrLE _ _ _ _ h

theorem State_countOut_keeps {a : State} (s : State) (m : Nat) (r : Nat × Bool × Bool) (h : Keeps a s)  : Keeps a (State.countOut s m r) := by
  unfold State.countOut
  try dsimp -iota only
  repeat' first
    | with_reducible assumption | with_reducible apply State_inc_keeps | with_reducible apply State_irqSet_keeps | split

theorem State_putVals_keeps {a : State} (s : State) (m : Nat) (ty : Nat) (l : List (Nat × Nat × FVal)) (h : Keeps a s)  : Keeps a (State.putVals s m ty l) := by
  unfold State.putVals
  try dsimp -iota only
  repeat' first
    | with_reducible assumption | with_reducible apply State_countOut_keeps | with_reducible refine Keeps.foldl ?_ ?_
    | with_reducible refine Keeps.foldl_snd ?_ ?_ | with_reducible refine Keeps.foldl_thd ?_ ?_
    | with_reducible refine Keeps.foldl_fst ?_ ?_ | split | with_reducible exact List.prefix_refl _
    | with_reducible exact Nat.le_refl _ | with_reducible exact id | with_reducible exact List.prefix_append _ _
    | with_reducible exact Nat.le_succ _ | with_reducible apply Mem.wf_setEl | with_reducible refine Mem.wf_foldl _ ?_ _ _ ?_
    | (intro _ _ _; try dsimp -iota only) | (intro _ _; try dsimp -iota only) | (intro _; try dsimp -iota only)
    | with_reducible apply Keeps.upd (hp := rfl)

theorem State_macs_keeps {a : State} (s : State) (m : Nat) (n : Nat) (h : Keeps a s)  : Keeps a (State.macs s m n) := by
  unfold State.macs
  try dsimp -iota only
  repeat' first
    | with_reducible assumption | with_reducible apply State_inc_keeps | split

theorem State_putRed_keeps {a : State} (s : State) (m : Nat) (d : Nat) (l : List (Nat × Nat × FVal × Nat)) (h : Keeps a s)  : Keeps a (State.putRed s m d l) := by
  unfold State.putRed
  try dsimp -iota only
  repeat' first
    | with_reducible assumption | with_reducible apply State_putVals_keeps | with_reducible apply State_inc_keeps | split

theorem State_gemm_keeps {a : State} (s : State) (m : Nat) (d : Nat) {s' : State} (h : Keeps a s)  (e : State.gemm s m d = .ok s') : Keeps a s' := by
  unfold State.gemm at e
  try dsimp -iota only at e
  repeat' first | (with_reducible obtain ⟨_, _, e⟩ := except_bind_ok e) | split at e
  all_goals (try cases e)
  repeat' first
    | with_reducible assumption | with_reducible apply State_macs_keeps | with_reducible apply State_putRed_keeps | split

theorem State_conv_keeps {a : State} (s : State) (m : Nat) (d : Nat) {s' : State} (h : Keeps a s)  (e : State.conv s m d = .ok s') : Keeps a s' := by
  unfold State.conv at e
  try dsimp -iota only at e
  repeat' first | (with_reducible obtain ⟨_, _, e⟩ := except_bind_ok e) | split at e
  all_goals (try cases e)
  repeat' first
    | with_reducible assumption | with_reducible apply State_putRed_keeps | with_reducible apply State_macs_keeps | split

theorem State_attn_keeps {a : State} (s : State) (m : Nat) (d : Nat) (tau : F32) {s' : State} (h : Keeps a s)  (e : State.attn s m d tau = .ok s') : Keeps a s' := by
  unfold State.attn at e
  try dsimp -iota only at e
  repeat' first | (with_reducible obtain ⟨_, _, e⟩ := except_bind_ok e) | split at e
  all_goals (try cases e)
  repeat' first
    | with_reducible assumption | with_reducible apply State_macs_keeps | with_reducible apply State_putVals_keeps
    | with_reducible apply State_inc_keeps | split

theorem State_eltwise_keeps {a : State} (s : State) (m : Nat) (d : Nat) {s' : State} (h : Keeps a s)  (e : State.eltwise s m d = .ok s') : Keeps a s' := by
  unfold State.eltwise at e
  try dsimp -iota only at e
  repeat' first | (with_reducible obtain ⟨_, _, e⟩ := except_bind_ok e) | split at e
  all_goals (try cases e)
  repeat' first
    | with_reducible assumption | with_reducible apply State_putVals_keeps | split

theorem State_putWords_keeps {a : State} (s : State) (l : List (Nat × Nat)) (h : Keeps a s)  : Keeps a (State.putWords s l) := by
  unfold State.putWords
  try dsimp -iota only
  repeat' first
    | with_reducible assumption | with_reducible refine Keeps.foldl ?_ ?_ | with_reducible refine Keeps.foldl_snd ?_ ?_
    | with_reducible refine Keeps.foldl_thd ?_ ?_ | with_reducible refine Keeps.foldl_fst ?_ ?_ | split
    | with_reducible exact List.prefix_refl _ | with_reducible exact Nat.le_refl _ | with_reducible exact id
    | with_reducible exact List.prefix_append _ _ | with_reducible exact Nat.le_succ _ | with_reducible apply Mem.wf_wrLE
    | with_reducible refine Mem.wf_foldl _ ?_ _ _ ?_ | (intro _ _ _; try dsimp -iota only) | (intro _ _; try dsimp -iota only)
    | (intro _; try dsimp -iota only) | with_reducible apply Keeps.upd (hp := rfl)

theorem State_topRow_keeps {a : State} (s : State) (m : Nat) (d : Nat) (vals : Nat) (idxs : Nat) (ktop : Nat) (r : Nat) (l : List F32) (h : Keeps a s)  : Keeps a (State.topRow s m d vals idxs ktop r l) := by
  unfold State.topRow
  try dsimp -iota only
  repeat' first
    | with_reducible assumption | with_reducible apply State_putVals_keeps | with_reducible apply State_putWords_keeps
    | with_reducible apply State_takeFree_keeps (e := pair_eta _)
    | with_reducible apply State_takeFree_keeps (e := by with_reducible assumption) | with_reducible refine Keeps.foldl ?_ ?_
    | with_reducible refine Keeps.foldl_snd ?_ ?_ | with_reducible refine Keeps.foldl_thd ?_ ?_
    | with_reducible refine Keeps.foldl_fst ?_ ?_ | split | with_reducible exact List.prefix_refl _
    | with_reducible exact Nat.le_refl _ | with_reducible exact id | with_reducible exact List.prefix_append _ _
    | with_reducible exact Nat.le_succ _ | with_reducible apply Mem.wf_setEl | with_reducible refine Mem.wf_foldl _ ?_ _ _ ?_
    | (intro _ _ _; try dsimp -iota only) | (intro _ _; try dsimp -iota only) | (intro _; try dsimp -iota only)
    | with_reducible apply Keeps.upd (hp := rfl)

theorem State_reduce_keeps {a : State} (s : State) (m : Nat) (d : Nat) {s' : State} (h : Keeps a s)  (e : State.reduce s m d = .ok s') : Keeps a s' := by
  unfold State.reduce at e
  try dsimp -iota only at e
  repeat' first | (with_reducible obtain ⟨_, _, e⟩ := except_bind_ok e) | split at e
  all_goals (try cases e)
  repeat' first
    | with_reducible assumption | with_reducible apply State_putWords_keeps | with_reducible apply State_topRow_keeps
    | with_reducible apply State_putVals_keeps | with_reducible refine Keeps.foldl ?_ ?_
    | with_reducible refine Keeps.foldl_snd ?_ ?_ | with_reducible refine Keeps.foldl_thd ?_ ?_
    | with_reducible refine Keeps.foldl_fst ?_ ?_ | split | (intro _ _ _; try dsimp -iota only)
    | (intro _ _; try dsimp -iota only)

end Sys2Proof.Machine
end

