-- ==== Sys2Proof/Laws/KeepsOperands.lean ====
section
/-!
SUPPORT. `Keeps` for the functions of Machine/Operands.lean: each leaves the queue alone, drops no output and keeps the canonical forms.
-/
set_option linter.unusedVariables false
namespace Sys2Proof.Machine
open Regs

theorem State_setCmem_keeps {a : State} (s : State) (n : Nat) (x2 : Nat) (b : Nat) (v : Nat) (h : Keeps a s)  : Keeps a (State.setCmem s n x2 b v) := by
  unfold State.setCmem
  try dsimp -iota only
  repeat' first
    | with_reducible assumption | split | with_reducible exact List.prefix_refl _ | with_reducible exact Nat.le_refl _
    | with_reducible exact id | with_reducible exact List.prefix_append _ _ | with_reducible exact Nat.le_succ _
    | with_reducible apply Mem.wf_wrLE | (intro _; try dsimp -iota only) | with_reducible apply Keeps.upd (hp := rfl)

end Sys2Proof.Machine
end

