-- ==== Sys2Proof/Laws/KeepsPisteLink.lean ====
section
/-!
SUPPORT. `Keeps` for the functions of Machine/PisteLink.lean: each leaves the queue alone, drops no output and keeps the canonical forms.
-/
set_option linter.unusedVariables false
namespace Sys2Proof.Machine
open Regs

theorem State_upPp_keeps {a : State} (s : State) (p : Nat) (f : PPort → PPort) (h : Keeps a s)  : Keeps a (State.upPp s p f) := by
  unfold State.upPp
  try dsimp -iota only
  repeat' first
    | with_reducible assumption | split | with_reducible exact List.prefix_refl _ | with_reducible exact Nat.le_refl _
    | with_reducible exact id | with_reducible exact Tab.rising_put _ _ _ _ | with_reducible exact List.prefix_append _ _
    | with_reducible exact Nat.le_succ _ | (intro _; try dsimp -iota only) | with_reducible apply Keeps.upd (hp := rfl)

theorem State_pisteEmit_keeps {a : State} (s : State) (p : Nat) (seq : Nat) (ty : Nat) (body : List Nat) (h : Keeps a s)  : Keeps a (State.pisteEmit s p seq ty body) := by
  unfold State.pisteEmit
  try dsimp -iota only
  repeat' first
    | with_reducible assumption | with_reducible apply State_inc_keeps | with_reducible apply State_emit_keeps
    | with_reducible apply State_upPp_keeps | split

theorem State_pisteNull_keeps {a : State} (s : State) (p : Nat) (h : Keeps a s)  : Keeps a (State.pisteNull s p) := by
  unfold State.pisteNull
  try dsimp -iota only
  repeat' first
    | with_reducible assumption | with_reducible apply State_pisteEmit_keeps | split

theorem State_consumed_keeps {a : State} (s : State) (p : Nat) (cls : Nat) (hop : Nat) (h : Keeps a s)  : Keeps a (State.consumed s p cls hop) := by
  unfold State.consumed
  try dsimp -iota only
  repeat' first
    | with_reducible assumption | with_reducible apply State_upPp_keeps | split

theorem State_credited_keeps {a : State} (s : State) (x1 : Option (Nat × Nat × Nat)) (h : Keeps a s)  : Keeps a (State.credited s x1) := by
  unfold State.credited
  try dsimp -iota only
  repeat' first
    | with_reducible assumption | with_reducible apply State_pisteNull_keeps | with_reducible apply State_consumed_keeps
    | split

theorem State_waitWhile_keeps {a : State} (s : State) (f : Fld) (i : Nat) (b : Bool) (h : Keeps a s)  : Keeps a (State.waitWhile s f i b) := by
  unfold State.waitWhile
  try dsimp -iota only
  repeat' first
    | with_reducible assumption | with_reducible apply State_waitBegin_keeps | with_reducible apply State_waitEnd_keeps
    | split

theorem State_pisteStalls_keeps {a : State} (s : State) (p : Nat) (h : Keeps a s)  : Keeps a (State.pisteStalls s p) := by
  unfold State.pisteStalls
  try dsimp -iota only
  repeat' first
    | with_reducible assumption | with_reducible apply State_waitWhile_keeps | split

theorem State_pisteGo_keeps {a : State} (s : State) (p : Nat) (m : PMsg) (h : Keeps a s)  : Keeps a (State.pisteGo s p m) := by
  unfold State.pisteGo
  try dsimp -iota only
  repeat' first
    | with_reducible assumption | with_reducible apply State_upPp_keeps | with_reducible apply State_credited_keeps
    | with_reducible apply State_pisteEmit_keeps | split

theorem State_pisteSend_keeps {a : State} (s : State) (p : Nat) (ty : Nat) (body : List Nat) (src : optParam (Option (Nat × Nat × Nat)) none) (h : Keeps a s)  : Keeps a (State.pisteSend s p ty body src) := by
  unfold State.pisteSend
  try dsimp -iota only
  repeat' first
    | with_reducible assumption | with_reducible apply State_pisteGo_keeps | with_reducible apply State_upPp_keeps
    | with_reducible apply State_pisteStalls_keeps | split

theorem State_pistePump_keeps {a : State} (s : State) (p : Nat) (x2 : Nat) (h : Keeps a s)  : Keeps a (State.pistePump s p x2) := by
  induction x2 generalizing s with
  | zero =>
    unfold State.pistePump
    try dsimp -iota only
    repeat' first
      | with_reducible assumption | with_reducible apply State_pisteStalls_keeps | with_reducible apply State_pisteGo_keeps
      | with_reducible apply State_upPp_keeps | split
  | succ n ih =>
    unfold State.pistePump
    try dsimp -iota only
    repeat' first
      | with_reducible apply ih | with_reducible assumption | with_reducible apply State_pisteStalls_keeps | with_reducible apply State_pisteGo_keeps
      | with_reducible apply State_upPp_keeps | split

theorem State_spikesIn_keeps {a : State} (s : State) (w0 : Nat) (x2 : List Nat) {v0' : List Nat} {s' : State} (h : Keeps a s)  (e : State.spikesIn s w0 x2 = (v0', s')) : Keeps a s' := by
  induction x2 generalizing s v0' s' with
  | nil =>
    unfold State.spikesIn at e
    try dsimp -iota only at e
    repeat' split at e
    all_goals (have e2 := congrArg (fun p => p.2) e; dsimp only at e2; subst e2)
    repeat' first
      | with_reducible assumption | with_reducible apply State_inc_keeps | with_reducible apply State_send_keeps
      | with_reducible refine Keeps.foldl ?_ ?_ | with_reducible refine Keeps.foldl_snd ?_ ?_
      | with_reducible refine Keeps.foldl_thd ?_ ?_ | with_reducible refine Keeps.foldl_fst ?_ ?_ | split
      | (intro _ _; try dsimp -iota only)
  | cons x l ih =>
    unfold State.spikesIn at e
    try dsimp -iota only at e
    repeat' split at e
    all_goals (have e2 := congrArg (fun p => p.2) e; dsimp only at e2; subst e2)
    repeat' first
      | with_reducible apply ih (e := pair_eta _) | with_reducible apply ih (e := by with_reducible assumption) | with_reducible assumption | with_reducible apply State_inc_keeps | with_reducible apply State_send_keeps
      | with_reducible refine Keeps.foldl ?_ ?_ | with_reducible refine Keeps.foldl_snd ?_ ?_
      | with_reducible refine Keeps.foldl_thd ?_ ?_ | with_reducible refine Keeps.foldl_fst ?_ ?_ | split
      | (intro _ _; try dsimp -iota only)

theorem State_ingressFlits_keeps {a : State} (s : State) (held : List (Option Nat)) (x2 : List PMsg) {v0' : List PMsg} {s' : State} (h : Keeps a s)  (e : State.ingressFlits s held x2 = (v0', s')) : Keeps a s' := by
  induction x2 generalizing s held v0' s' with
  | nil =>
    unfold State.ingressFlits at e
    try dsimp -iota only at e
    repeat' split at e
    all_goals (have e2 := congrArg (fun p => p.2) e; dsimp only at e2; subst e2)
    repeat' first
      | with_reducible assumption | with_reducible apply State_spikesIn_keeps (e := pair_eta _)
      | with_reducible apply State_spikesIn_keeps (e := by with_reducible assumption)
      | with_reducible apply State_credited_keeps | with_reducible refine Keeps.foldl ?_ ?_
      | with_reducible refine Keeps.foldl_snd ?_ ?_ | with_reducible refine Keeps.foldl_thd ?_ ?_
      | with_reducible refine Keeps.foldl_fst ?_ ?_ | split | (intro _ _; try dsimp -iota only)
  | cons x l ih =>
    unfold State.ingressFlits at e
    try dsimp -iota only at e
    repeat' split at e
    all_goals (have e2 := congrArg (fun p => p.2) e; dsimp only at e2; subst e2)
    repeat' first
      | with_reducible apply ih (e := pair_eta _) | with_reducible apply ih (e := by with_reducible assumption) | with_reducible assumption | with_reducible apply State_spikesIn_keeps (e := pair_eta _)
      | with_reducible apply State_spikesIn_keeps (e := by with_reducible assumption)
      | with_reducible apply State_credited_keeps | with_reducible refine Keeps.foldl ?_ ?_
      | with_reducible refine Keeps.foldl_snd ?_ ?_ | with_reducible refine Keeps.foldl_thd ?_ ?_
      | with_reducible refine Keeps.foldl_fst ?_ ?_ | split | (intro _ _; try dsimp -iota only)

theorem State_ingressPort_keeps {a : State} (s : State) (p : Nat) (h : Keeps a s)  : Keeps a (State.ingressPort s p) := by
  unfold State.ingressPort
  try dsimp -iota only
  repeat' first
    | with_reducible assumption | with_reducible apply State_ingressFlits_keeps (e := pair_eta _)
    | with_reducible apply State_ingressFlits_keeps (e := by with_reducible assumption)
    | with_reducible apply State_upPp_keeps | split

theorem State_ingressStall_keeps {a : State} (s : State) (h : Keeps a s)  : Keeps a (State.ingressStall s) := by
  unfold State.ingressStall
  try dsimp -iota only
  repeat' first
    | with_reducible assumption | with_reducible apply State_waitWhile_keeps | split

theorem State_ingressGo_keeps {a : State} (s : State) (h : Keeps a s)  : Keeps a (State.ingressGo s) := by
  unfold State.ingressGo
  try dsimp -iota only
  repeat' first
    | with_reducible assumption | with_reducible apply State_ingressStall_keeps | with_reducible apply State_ingressPort_keeps
    | with_reducible refine Keeps.foldl ?_ ?_ | with_reducible refine Keeps.foldl_snd ?_ ?_
    | with_reducible refine Keeps.foldl_thd ?_ ?_ | with_reducible refine Keeps.foldl_fst ?_ ?_ | split
    | (intro _ _ _; try dsimp -iota only) | (intro _ _; try dsimp -iota only)

end Sys2Proof.Machine
end

