-- ==== Sys2Proof/Laws/KeepsSliver.lean ====
section
/-!
SUPPORT. `Keeps` for the functions of Machine/Sliver.lean: each leaves the queue alone, drops no output and keeps the canonical forms.
-/
set_option linter.unusedVariables false
namespace Sys2Proof.Machine
open Regs

theorem State_upCore_keeps {a : State} (s : State) (n : Nat) (f : Core → Core) (h : Keeps a s)  : Keeps a (State.upCore s n f) := by
  unfold State.upCore
  try dsimp -iota only
  repeat' first
    | with_reducible assumption | split | with_reducible exact List.prefix_refl _ | with_reducible exact Nat.le_refl _
    | with_reducible exact id | with_reducible exact Tab.rising_put _ _ _ _ | with_reducible exact List.prefix_append _ _
    | with_reducible exact Nat.le_succ _ | (intro _; try dsimp -iota only) | with_reducible apply Keeps.upd (hp := rfl)

theorem State_portSend_keeps {a : State} (s : State) (n : Nat) (f : Flit) (r : List Flit) (h : Keeps a s)  : Keeps a (State.portSend s n f r) := by
  unfold State.portSend
  try dsimp -iota only
  repeat' first
    | with_reducible assumption | with_reducible apply State_waitEnd_keeps | with_reducible apply State_upCore_keeps
    | with_reducible apply State_send_keeps | with_reducible apply State_linkMoved_keeps | split

theorem State_drainPort_keeps {a : State} (s : State) (n : Nat) (x2 : Nat) (h : Keeps a s)  : Keeps a (State.drainPort s n x2) := by
  induction x2 generalizing s with
  | zero =>
    unfold State.drainPort
    try dsimp -iota only
    repeat' first
      | with_reducible assumption | with_reducible apply State_waitBegin_keeps | with_reducible apply State_linkWait_keeps
      | with_reducible apply State_portSend_keeps | split
  | succ n ih =>
    unfold State.drainPort
    try dsimp -iota only
    repeat' first
      | with_reducible apply ih | with_reducible assumption | with_reducible apply State_waitBegin_keeps | with_reducible apply State_linkWait_keeps
      | with_reducible apply State_portSend_keeps | split

theorem State_walkStall_keeps {a : State} (s : State) (n : Nat) (h : Keeps a s)  : Keeps a (State.walkStall s n) := by
  unfold State.walkStall
  try dsimp -iota only
  repeat' first
    | with_reducible assumption | with_reducible apply State_waitEnd_keeps | with_reducible apply State_waitBegin_keeps
    | split

theorem State_portGo_keeps {a : State} (s : State) (n : Nat) (h : Keeps a s)  : Keeps a (State.portGo s n) := by
  unfold State.portGo
  try dsimp -iota only
  repeat' first
    | with_reducible assumption | with_reducible apply State_walkStall_keeps | with_reducible apply State_drainPort_keeps
    | split

theorem State_portPut_keeps {a : State} (s : State) (n : Nat) (f : Flit) (h : Keeps a s)  : Keeps a (State.portPut s n f) := by
  unfold State.portPut
  try dsimp -iota only
  repeat' first
    | with_reducible assumption | with_reducible apply State_portGo_keeps | with_reducible apply State_upCore_keeps | split

theorem State_tagsBack_keeps {a : State} (s : State) (n : Nat) (k : Nat) (h : Keeps a s)  : Keeps a (State.tagsBack s n k) := by
  unfold State.tagsBack
  try dsimp -iota only
  repeat' first
    | with_reducible assumption | with_reducible apply State_portGo_keeps | with_reducible apply State_upCore_keeps | split

theorem State_portsGo_keeps {a : State} (s : State) (h : Keeps a s)  : Keeps a (State.portsGo s) := by
  unfold State.portsGo
  try dsimp -iota only
  repeat' first
    | with_reducible assumption | with_reducible apply State_portGo_keeps | with_reducible refine Keeps.foldl ?_ ?_
    | with_reducible refine Keeps.foldl_snd ?_ ?_ | with_reducible refine Keeps.foldl_thd ?_ ?_
    | with_reducible refine Keeps.foldl_fst ?_ ?_ | split | (intro _ _ _; try dsimp -iota only)
    | (intro _ _; try dsimp -iota only)

theorem State_takeUnit_keeps {a : State} (s : State) (p : Flit → Bool) {s' : State} {v' : Flit} (h : Keeps a s)
    (e : State.takeUnit s p = some (v', s')) : Keeps a s' := by
  unfold State.takeUnit at e
  simp only [Option.map_eq_some_iff] at e
  obtain ⟨r, hr, e⟩ := e
  cases e
  exact State_ingressGo_keeps _ (State_portsGo_keeps _ (State_takeFlit_keeps s p h hr))


theorem State_setNeuron_keeps {a : State} (s : State) (n : Nat) (i : Nat) (x : Neuron) (h : Keeps a s)  : Keeps a (State.setNeuron s n i x) := by
  unfold State.setNeuron
  try dsimp -iota only
  repeat' first
    | with_reducible assumption | with_reducible apply State_setCmem_keeps | split

theorem State_satV_keeps {a : State} (s : State) (n : Nat) (x : Int) {v0' : Int} {s' : State} (h : Keeps a s)  (e : State.satV s n x = (v0', s')) : Keeps a s' := by
  unfold State.satV at e
  try dsimp -iota only at e
  repeat' split at e
  all_goals (have e2 := congrArg (fun p => p.2) e; dsimp only at e2; subst e2)
  repeat' first
    | with_reducible assumption | with_reducible apply State_inc_keeps | split

theorem State_overdrive_keeps {a : State} (s : State) (n : Nat) (h : Keeps a s)  : Keeps a (State.overdrive s n) := by
  unfold State.overdrive
  try dsimp -iota only
  repeat' first
    | with_reducible assumption | with_reducible apply State_inc_keeps | split

theorem State_fireTest_keeps {a : State} (s : State) (n : Nat) (x : Neuron) {v0' : Neuron} {v1' : Bool} {s' : State} (h : Keeps a s)  (e : State.fireTest s n x = (v0', v1', s')) : Keeps a s' := by
  unfold State.fireTest at e
  try dsimp -iota only at e
  repeat' split at e
  all_goals (have e2 := congrArg (fun p => p.2.2) e; dsimp only at e2; subst e2)
  repeat' first
    | with_reducible assumption | with_reducible apply State_overdrive_keeps | split

theorem State_fanoutZero_keeps {a : State} (s : State) (n : Nat) (h : Keeps a s)  : Keeps a (State.fanoutZero s n) := by
  unfold State.fanoutZero
  try dsimp -iota only
  repeat' first
    | with_reducible assumption | with_reducible apply State_inc_keeps | split

theorem State_spike_keeps {a : State} (s : State) (n : Nat) (i : Nat) (τ : Nat) (payload : Nat) (tag : Nat) (h : Keeps a s)  : Keeps a (State.spike s n i τ payload tag) := by
  unfold State.spike
  try dsimp -iota only
  repeat' first
    | with_reducible assumption | with_reducible apply State_fanoutZero_keeps | with_reducible apply State_portPut_keeps
    | with_reducible apply State_inc_keeps | split

theorem storeFired_keeps {a : State} (n τ i : Nat) (r : Neuron × Bool × State) (h : Keeps a r.2.2) :
    Keeps a (storeFired n τ i r) := by
  unfold storeFired
  split
  · exact State_spike_keeps _ _ _ _ _ _ (State_setNeuron_keeps _ _ _ _ h)
  · exact State_setNeuron_keeps _ _ _ _ h


theorem State_synStore_keeps {a : State} (s : State) (n : Nat) (τ : Nat) (i : Nat) (x : Neuron) (v : Int) (h : Keeps a s)  : Keeps a (State.synStore s n τ i x v) := by
  unfold State.synStore
  try dsimp -iota only
  repeat' first
    | with_reducible assumption | with_reducible apply State_satV_keeps (e := pair_eta _)
    | with_reducible apply State_satV_keeps (e := by with_reducible assumption) | with_reducible apply storeFired_keeps
    | with_reducible apply State_fireTest_keeps (e := triple_eta _)
    | with_reducible apply State_fireTest_keeps (e := by with_reducible assumption) | split

theorem State_synOp_keeps {a : State} (s : State) (n : Nat) (τ : Nat) (i : Nat) (weight : Int) (wshift : Nat) (h : Keeps a s)  : Keeps a (State.synOp s n τ i weight wshift) := by
  unfold State.synOp
  try dsimp -iota only
  repeat' first
    | with_reducible assumption | with_reducible apply State_synStore_keeps | with_reducible apply State_inc_keeps | split

theorem State_walkEntry_keeps {a : State} (s : State) (n : Nat) (τ : Nat) (x3 : Nat) (gna : Nat) (h : Keeps a s)  : Keeps a (State.walkEntry s n τ x3 gna) := by
  unfold State.walkEntry
  try dsimp -iota only
  repeat' first
    | with_reducible assumption | with_reducible apply State_synOp_keeps | with_reducible refine Keeps.foldl ?_ ?_
    | with_reducible refine Keeps.foldl_snd ?_ ?_ | with_reducible refine Keeps.foldl_thd ?_ ?_
    | with_reducible refine Keeps.foldl_fst ?_ ?_ | split | (intro _ _ _; try dsimp -iota only)
    | (intro _ _; try dsimp -iota only)

theorem State_enter_keeps {a : State} (s : State) (n : Nat) (kind : Nat) (arr : Option Arr) (entry : Nat) (ht : Nat) (readTick : Nat) (recT : Nat) (slotN : Nat) (h : Keeps a s)  : Keeps a (State.enter s n kind arr entry ht readTick recT slotN) := by
  unfold State.enter
  try dsimp -iota only
  repeat' first
    | with_reducible assumption | with_reducible apply State_upCore_keeps | split

theorem State_fencedDrop_keeps {a : State} (s : State) (n : Nat) (h : Keeps a s)  : Keeps a (State.fencedDrop s n) := by
  unfold State.fencedDrop
  try dsimp -iota only
  repeat' first
    | with_reducible assumption | with_reducible apply State_inc_keeps | split

theorem State_lateArrival_keeps {a : State} (s : State) (n : Nat) (tick : Nat) (h : Keeps a s)  : Keeps a (State.lateArrival s n tick) := by
  unfold State.lateArrival
  try dsimp -iota only
  repeat' first
    | with_reducible assumption | with_reducible apply State_inc_keeps | with_reducible apply State_rs_keeps
    | with_reducible apply State_irqSet_keeps | split

theorem State_enqueueArr_keeps {a : State} (s : State) (n : Nat) (f : Flit) (h : Keeps a s)  : Keeps a (State.enqueueArr s n f) := by
  unfold State.enqueueArr
  try dsimp -iota only
  repeat' first
    | with_reducible assumption | with_reducible apply State_fencedDrop_keeps | with_reducible apply State_inc_keeps
    | with_reducible apply State_lateArrival_keeps | with_reducible apply State_upCore_keeps
    | with_reducible apply State_peak_keeps | with_reducible apply State_waitBegin_keeps | split

theorem State_queueFreed_keeps {a : State} (s : State) (n : Nat) (h : Keeps a s)  : Keeps a (State.queueFreed s n) := by
  unfold State.queueFreed
  try dsimp -iota only
  repeat' first
    | with_reducible assumption | with_reducible apply State_waitEnd_keeps | split

theorem State_handle_keeps {a : State} (s : State) (n : Nat) (x2 : Arr) (h : Keeps a s)  : Keeps a (State.handle s n x2) := by
  unfold State.handle
  try dsimp -iota only
  repeat' first
    | with_reducible assumption | with_reducible apply State_inc_keeps | with_reducible apply State_irqSet_keeps
    | with_reducible apply State_upCore_keeps | with_reducible apply State_walkEntry_keeps
    | with_reducible apply State_enter_keeps | with_reducible refine Keeps.foldl ?_ ?_
    | with_reducible refine Keeps.foldl_snd ?_ ?_ | with_reducible refine Keeps.foldl_thd ?_ ?_
    | with_reducible refine Keeps.foldl_fst ?_ ?_ | split | (intro _ _ _; try dsimp -iota only)
    | (intro _ _; try dsimp -iota only)

theorem State_release_keeps {a : State} (s : State) (n : Nat) (h : Keeps a s)  : Keeps a (State.release s n) := by
  unfold State.release
  try dsimp -iota only
  repeat' first
    | with_reducible assumption | with_reducible apply State_upCore_keeps | with_reducible apply State_handle_keeps
    | with_reducible apply State_queueFreed_keeps | split

theorem State_restNeuron_keeps {a : State} (s : State) (n : Nat) (i : Nat) (x3 : Nat) (h : Keeps a s)  : Keeps a (State.restNeuron s n i x3) := by
  unfold State.restNeuron
  try dsimp -iota only
  repeat' first
    | with_reducible assumption | with_reducible apply State_inc_keeps | with_reducible apply State_setNeuron_keeps | split

theorem State_sweep_keeps {a : State} (s : State) (n : Nat) (x2 : Nat) (h : Keeps a s)  : Keeps a (State.sweep s n x2) := by
  unfold State.sweep
  try dsimp -iota only
  repeat' first
    | with_reducible assumption | with_reducible apply State_restNeuron_keeps | split

theorem State_report_keeps {a : State} (s : State) (n : Nat) (x2 : Nat) (h : Keeps a s)  : Keeps a (State.report s n x2) := by
  unfold State.report
  try dsimp -iota only
  repeat' first
    | with_reducible assumption | with_reducible apply State_rs_keeps | with_reducible apply State_upCore_keeps
    | with_reducible apply State_portPut_keeps | split

theorem State_closeReport_keeps {a : State} (s : State) (n : Nat) (x2 : Nat) (h : Keeps a s)  : Keeps a (State.closeReport s n x2) := by
  unfold State.closeReport
  try dsimp -iota only
  repeat' first
    | with_reducible assumption | with_reducible apply State_report_keeps | with_reducible apply State_sweep_keeps | split

theorem State_closeSlot_keeps {a : State} (s : State) (n : Nat) (x2 : Nat) (h : Keeps a s)  : Keeps a (State.closeSlot s n x2) := by
  unfold State.closeSlot
  try dsimp -iota only
  repeat' first
    | with_reducible assumption | with_reducible apply State_enter_keeps | with_reducible apply State_closeReport_keeps
    | split

theorem State_closeTick_keeps {a : State} (s : State) (n : Nat) (x2 : Nat) (h : Keeps a s)  : Keeps a (State.closeTick s n x2) := by
  unfold State.closeTick
  try dsimp -iota only
  repeat' first
    | with_reducible assumption | with_reducible apply State_enter_keeps | with_reducible apply State_closeSlot_keeps | split

theorem State_tickClose_keeps {a : State} (s : State) (n : Nat) (h : Keeps a s)  : Keeps a (State.tickClose s n) := by
  unfold State.tickClose
  try dsimp -iota only
  repeat' first
    | with_reducible assumption | with_reducible apply State_closeTick_keeps | split

theorem State_initEnter_keeps {a : State} (s : State) (n : Nat) (h : Keeps a s)  : Keeps a (State.initEnter s n) := by
  unfold State.initEnter
  try dsimp -iota only
  repeat' first
    | with_reducible assumption | with_reducible apply State_enter_keeps | with_reducible apply State_upCore_keeps | split

theorem State_coreStart_keeps {a : State} (s : State) (n : Nat) (h : Keeps a s)  : Keeps a (State.coreStart s n) := by
  unfold State.coreStart
  try dsimp -iota only
  repeat' first
    | with_reducible assumption | with_reducible apply State_rb_keeps | with_reducible apply State_initEnter_keeps
    | with_reducible apply State_upCore_keeps | split

theorem State_runOff_keeps {a : State} (s : State) (n : Nat) (h : Keeps a s)  : Keeps a (State.runOff s n) := by
  unfold State.runOff
  try dsimp -iota only
  repeat' first
    | with_reducible assumption | with_reducible apply State_rb_keeps | with_reducible apply State_upCore_keeps | split

theorem State_ucodeFault_keeps {a : State} (s : State) (n : Nat) (code : Nat) (pc : Nat) (h : Keeps a s)  : Keeps a (State.ucodeFault s n code pc) := by
  unfold State.ucodeFault
  try dsimp -iota only
  repeat' first
    | with_reducible assumption | with_reducible apply State_rb_keeps | with_reducible apply State_rs_keeps
    | with_reducible apply State_irqSet_keeps | with_reducible apply State_inc_keeps
    | with_reducible apply State_queueFreed_keeps | with_reducible apply State_upCore_keeps | split

theorem State_restAged_keeps {a : State} (s : State) (n : Nat) (r : Nat) (x3 : Nat) (i : Nat) (h : Keeps a s)  : Keeps a (State.restAged s n r x3 i) := by
  unfold State.restAged
  try dsimp -iota only
  repeat' first
    | with_reducible assumption | with_reducible apply State_inc_keeps | with_reducible apply State_setNeuron_keeps | split

theorem State_fullPass_keeps {a : State} (s : State) (n : Nat) (r : Nat) (x3 : Nat) (h : Keeps a s)  : Keeps a (State.fullPass s n r x3) := by
  unfold State.fullPass
  try dsimp -iota only
  repeat' first
    | with_reducible assumption | with_reducible apply State_restAged_keeps | with_reducible refine Keeps.foldl ?_ ?_
    | with_reducible refine Keeps.foldl_snd ?_ ?_ | with_reducible refine Keeps.foldl_thd ?_ ?_
    | with_reducible refine Keeps.foldl_fst ?_ ?_ | split | (intro _ _ _; try dsimp -iota only)
    | (intro _ _; try dsimp -iota only)

end Sys2Proof.Machine
end

