-- ==== Sys2Proof/Laws/KeepsMicrocode.lean ====
section
/-!
SUPPORT. `Keeps` for the functions of Machine/Microcode.lean: each leaves the queue alone, drops no output and keeps the canonical forms.
-/
set_option linter.unusedVariables false
namespace Sys2Proof.Machine
open Regs

theorem State_upRun_keeps {a : State} (s : State) (n : Nat) (f : HRun → HRun) (h : Keeps a s)  : Keeps a (State.upRun s n f) := by
  unfold State.upRun
  try dsimp -iota only
  repeat' first
    | with_reducible assumption | with_reducible apply State_upCore_keeps | split

theorem State_countUops_keeps {a : State} (s : State) (n : Nat) (k : Nat) (h : Keeps a s)  : Keeps a (State.countUops s n k) := by
  unfold State.countUops
  try dsimp -iota only
  repeat' first
    | with_reducible assumption | with_reducible apply State_upRun_keeps | with_reducible apply State_inc_keeps | split

theorem State_goto_keeps {a : State} (s : State) (n : Nat) (pc : Nat) (h : Keeps a s)  : Keeps a (State.goto s n pc) := by
  unfold State.goto
  try dsimp -iota only
  repeat' first
    | with_reducible assumption | with_reducible apply State_ucodeFault_keeps | with_reducible apply State_upRun_keeps | split

theorem State_fallThrough_keeps {a : State} (s : State) (n : Nat) (r : HRun) (w : Nat) (old : Eng) (h : Keeps a s)  : Keeps a (State.fallThrough s n r w old) := by
  unfold State.fallThrough
  try dsimp -iota only
  repeat' first
    | with_reducible assumption | with_reducible apply State_upRun_keeps | with_reducible apply State_goto_keeps | split

theorem State_issue_keeps {a : State} (s : State) (n : Nat) (op : Nat) (cost : State → HRun → Nat) (body : State →   HRun → Nat → Eng → Except UStop State) (h : Keeps a s) (h_body : ∀ s r w e s', body s r w e = .ok s' → Keeps a s → Keeps a s') : Keeps a (State.issue s n op cost body) := by
  unfold State.issue
  try dsimp -iota only
  repeat' first
    | with_reducible assumption | with_reducible exact h_body _ ‹_› | with_reducible refine h_body _ _ _ _ _ ‹_› ?_
    | with_reducible exact h_body _ _ _ _ _ ‹_› ‹_› | with_reducible exact h_body _ _ ‹_›
    | with_reducible exact h_body _ _ _ _ ‹_› | with_reducible apply State_ucodeFault_keeps
    | with_reducible apply State_fallThrough_keeps | with_reducible apply State_countUops_keeps
    | with_reducible apply State_waitBegin_keeps | with_reducible apply State_waitEnd_keeps | split
    | (intro _ _; try dsimp -iota only)

theorem State_aluOp_keeps {a : State} (s : State) (n : Nat) (op : Nat) (always : Bool) (f : State → HRun → Nat → Eng → Option AluW) (h : Keeps a s)  : Keeps a (State.aluOp s n op always f) := by
  unfold State.aluOp
  try dsimp -iota only
  repeat' first
    | with_reducible assumption | with_reducible apply State_issue_keeps | with_reducible apply State_upCore_keeps
    | with_reducible apply State_fallThrough_keeps
    | (intro s_ r_ w_ rd_ s'_ e_ h_; (try dsimp -iota only at e_); (repeat' split at e_) <;> (try cases e_))
    | (intro l_ s'_ e_; (try dsimp -iota only at e_); (repeat' split at e_) <;> (try cases e_)) | split
    | (intro _ _; try dsimp -iota only)

theorem State_uDone_keeps {a : State} (s : State) (n : Nat) (r : HRun) (w : Nat) (rd : Eng) (regs : List (Nat × Nat)) (fl : FlagW) (h : Keeps a s)  : Keeps a (State.uDone s n r w rd regs fl) := by
  unfold State.uDone
  try dsimp -iota only
  repeat' first
    | with_reducible assumption | with_reducible apply State_upCore_keeps | with_reducible apply State_fallThrough_keeps
    | with_reducible refine Keeps.foldl ?_ ?_ | with_reducible refine Keeps.foldl_snd ?_ ?_
    | with_reducible refine Keeps.foldl_thd ?_ ?_ | with_reducible refine Keeps.foldl_fst ?_ ?_ | split
    | (intro _ _ _; try dsimp -iota only) | (intro _ _; try dsimp -iota only)

theorem State_uLoad_keeps {a : State} (n : Nat) (size : Nat) (s : State) (r : HRun) (w : Nat) (x5 : Eng) {s' : State} (h : Keeps a s)  (e : State.uLoad n size s r w x5 = .ok s') : Keeps a s' := by
  unfold State.uLoad at e
  try dsimp -iota only at e
  repeat' split at e
  all_goals (try cases e)
  repeat' first
    | with_reducible assumption | with_reducible apply State_uDone_keeps | split

theorem State_uStore_keeps {a : State} (n : Nat) (size : Nat) (s : State) (r : HRun) (w : Nat) (x5 : Eng) {s' : State} (h : Keeps a s)  (e : State.uStore n size s r w x5 = .ok s') : Keeps a s' := by
  unfold State.uStore at e
  try dsimp -iota only at e
  repeat' split at e
  all_goals (try cases e)
  repeat' first
    | with_reducible assumption | with_reducible apply State_uDone_keeps | with_reducible apply State_setCmem_keeps | split

theorem State_uNld_keeps {a : State} (n : Nat) (s : State) (r : HRun) (w : Nat) (x4 : Eng) {s' : State} (h : Keeps a s)  (e : State.uNld n s r w x4 = .ok s') : Keeps a s' := by
  unfold State.uNld at e
  try dsimp -iota only at e
  repeat' split at e
  all_goals (try cases e)
  repeat' first
    | with_reducible assumption | with_reducible apply State_uDone_keeps | with_reducible apply State_upCore_keeps | split

theorem State_withNl_keeps {a : State} (s : State) (n : Nat) (f : NLatch → Except UStop State) {s' : State} (h : Keeps a s) (h_f : ∀ l s', f l = .ok s' → Keeps a s') (e : State.withNl s n f = .ok s') : Keeps a s' := by
  unfold State.withNl at e
  try dsimp -iota only at e
  repeat' split at e
  all_goals (try cases e)
  repeat' first
    | with_reducible assumption | with_reducible exact h_f _ ‹_› | with_reducible refine h_f _ _ _ _ _ ‹_› ?_
    | with_reducible exact h_f _ _ _ _ _ ‹_› ‹_› | with_reducible exact h_f _ _ ‹_› | with_reducible exact h_f _ _ _ _ ‹_›
    | split | (intro _ _; try dsimp -iota only)

theorem State_setNl_keeps {a : State} (s : State) (n : Nat) (x : Neuron) (h : Keeps a s)  : Keeps a (State.setNl s n x) := by
  unfold State.setNl
  try dsimp -iota only
  repeat' first
    | with_reducible assumption | with_reducible apply State_upCore_keeps | split

theorem State_uNst_keeps {a : State} (n : Nat) (s : State) (r : HRun) (w : Nat) (x4 : Eng) {s' : State} (h : Keeps a s)  (e : State.uNst n s r w x4 = .ok s') : Keeps a s' := by
  unfold State.uNst at e
  try dsimp -iota only at e
  repeat' split at e
  all_goals (try cases e)
  repeat' first
    | with_reducible assumption | with_reducible apply State_withNl_keeps (e := by with_reducible assumption)
    | with_reducible apply State_uDone_keeps | with_reducible apply State_setNeuron_keeps
    | (intro s_ r_ w_ rd_ s'_ e_ h_; (try dsimp -iota only at e_); (repeat' split at e_) <;> (try cases e_))
    | (intro l_ s'_ e_; (try dsimp -iota only at e_); (repeat' split at e_) <;> (try cases e_)) | split

theorem State_uLeak_keeps {a : State} (n : Nat) (s : State) (r : HRun) (w : Nat) (x4 : Eng) {s' : State} (h : Keeps a s)  (e : State.uLeak n s r w x4 = .ok s') : Keeps a s' := by
  unfold State.uLeak at e
  try dsimp -iota only at e
  repeat' split at e
  all_goals (try cases e)
  repeat' first
    | with_reducible assumption | with_reducible apply State_withNl_keeps (e := by with_reducible assumption)
    | with_reducible apply State_upCore_keeps | with_reducible apply State_setNl_keeps
    | with_reducible apply State_uDone_keeps
    | (intro s_ r_ w_ rd_ s'_ e_ h_; (try dsimp -iota only at e_); (repeat' split at e_) <;> (try cases e_))
    | (intro l_ s'_ e_; (try dsimp -iota only at e_); (repeat' split at e_) <;> (try cases e_)) | split

theorem State_uNadd_keeps {a : State} (n : Nat) (s : State) (r : HRun) (w : Nat) (x4 : Eng) {s' : State} (h : Keeps a s)  (e : State.uNadd n s r w x4 = .ok s') : Keeps a s' := by
  unfold State.uNadd at e
  try dsimp -iota only at e
  repeat' split at e
  all_goals (try cases e)
  repeat' first
    | with_reducible assumption | with_reducible apply State_withNl_keeps (e := by with_reducible assumption)
    | with_reducible apply State_satV_keeps (e := pair_eta _)
    | with_reducible apply State_satV_keeps (e := by with_reducible assumption) | with_reducible apply State_uDone_keeps
    | with_reducible apply State_setNl_keeps
    | (intro s_ r_ w_ rd_ s'_ e_ h_; (try dsimp -iota only at e_); (repeat' split at e_) <;> (try cases e_))
    | (intro l_ s'_ e_; (try dsimp -iota only at e_); (repeat' split at e_) <;> (try cases e_)) | split

theorem State_uNget_keeps {a : State} (n : Nat) (s : State) (r : HRun) (w : Nat) (x4 : Eng) {s' : State} (h : Keeps a s)  (e : State.uNget n s r w x4 = .ok s') : Keeps a s' := by
  unfold State.uNget at e
  try dsimp -iota only at e
  repeat' split at e
  all_goals (try cases e)
  repeat' first
    | with_reducible assumption | with_reducible apply State_withNl_keeps (e := by with_reducible assumption)
    | with_reducible apply State_uDone_keeps
    | (intro s_ r_ w_ rd_ s'_ e_ h_; (try dsimp -iota only at e_); (repeat' split at e_) <;> (try cases e_))
    | (intro l_ s'_ e_; (try dsimp -iota only at e_); (repeat' split at e_) <;> (try cases e_)) | split

theorem State_uNput_keeps {a : State} (n : Nat) (s : State) (r : HRun) (w : Nat) (x4 : Eng) {s' : State} (h : Keeps a s)  (e : State.uNput n s r w x4 = .ok s') : Keeps a s' := by
  unfold State.uNput at e
  try dsimp -iota only at e
  repeat' split at e
  all_goals (try cases e)
  repeat' first
    | with_reducible assumption | with_reducible apply State_withNl_keeps (e := by with_reducible assumption)
    | with_reducible apply State_satV_keeps (e := pair_eta _)
    | with_reducible apply State_satV_keeps (e := by with_reducible assumption) | with_reducible apply State_uDone_keeps
    | with_reducible apply State_setNl_keeps
    | (intro s_ r_ w_ rd_ s'_ e_ h_; (try dsimp -iota only at e_); (repeat' split at e_) <;> (try cases e_))
    | (intro l_ s'_ e_; (try dsimp -iota only at e_); (repeat' split at e_) <;> (try cases e_)) | split

theorem State_uFire_keeps {a : State} (n : Nat) (s : State) (r : HRun) (w : Nat) (x4 : Eng) {s' : State} (h : Keeps a s)  (e : State.uFire n s r w x4 = .ok s') : Keeps a s' := by
  unfold State.uFire at e
  try dsimp -iota only at e
  repeat' split at e
  all_goals (try cases e)
  repeat' first
    | with_reducible assumption | with_reducible apply State_withNl_keeps (e := by with_reducible assumption)
    | with_reducible apply State_fireTest_keeps (e := triple_eta _)
    | with_reducible apply State_fireTest_keeps (e := by with_reducible assumption) | with_reducible apply State_setNl_keeps
    | with_reducible apply State_spike_keeps | with_reducible apply State_uDone_keeps
    | (intro s_ r_ w_ rd_ s'_ e_ h_; (try dsimp -iota only at e_); (repeat' split at e_) <;> (try cases e_))
    | (intro l_ s'_ e_; (try dsimp -iota only at e_); (repeat' split at e_) <;> (try cases e_)) | split

theorem State_uNclr_keeps {a : State} (n : Nat) (s : State) (r : HRun) (w : Nat) (x4 : Eng) {s' : State} (h : Keeps a s)  (e : State.uNclr n s r w x4 = .ok s') : Keeps a s' := by
  unfold State.uNclr at e
  try dsimp -iota only at e
  repeat' split at e
  all_goals (try cases e)
  repeat' first
    | with_reducible assumption | with_reducible apply State_withNl_keeps (e := by with_reducible assumption)
    | with_reducible apply State_uDone_keeps | with_reducible apply State_setNl_keeps
    | (intro s_ r_ w_ rd_ s'_ e_ h_; (try dsimp -iota only at e_); (repeat' split at e_) <;> (try cases e_))
    | (intro l_ s'_ e_; (try dsimp -iota only at e_); (repeat' split at e_) <;> (try cases e_)) | split

theorem State_uNbr_keeps {a : State} (n : Nat) (s : State) (r : HRun) (w : Nat) (x4 : Eng) {s' : State} (h : Keeps a s)  (e : State.uNbr n s r w x4 = .ok s') : Keeps a s' := by
  unfold State.uNbr at e
  try dsimp -iota only at e
  repeat' split at e
  all_goals (try cases e)
  repeat' first
    | with_reducible assumption | with_reducible apply State_upCore_keeps | with_reducible apply State_portPut_keeps
    | with_reducible apply State_uDone_keeps | split

theorem State_uWaitn_keeps {a : State} (n : Nat) (s : State) (r : HRun) (w : Nat) (x4 : Eng) {s' : State} (h : Keeps a s)  (e : State.uWaitn n s r w x4 = .ok s') : Keeps a s' := by
  unfold State.uWaitn at e
  try dsimp -iota only at e
  repeat' split at e
  all_goals (try cases e)
  repeat' first
    | with_reducible assumption | with_reducible apply State_uDone_keeps | split

theorem State_uCwr_keeps {a : State} (n : Nat) (s : State) (r : HRun) (w : Nat) (x4 : Eng) {s' : State} (h : Keeps a s)  (e : State.uCwr n s r w x4 = .ok s') : Keeps a s' := by
  unfold State.uCwr at e
  try dsimp -iota only at e
  repeat' split at e
  all_goals (try cases e)
  repeat' first
    | with_reducible assumption | with_reducible apply State_portPut_keeps | with_reducible apply State_uDone_keeps | split

theorem State_uEmitt_keeps {a : State} (n : Nat) (s : State) (r : HRun) (w : Nat) (x4 : Eng) {s' : State} (h : Keeps a s)  (e : State.uEmitt n s r w x4 = .ok s') : Keeps a s' := by
  unfold State.uEmitt at e
  try dsimp -iota only at e
  repeat' split at e
  all_goals (try cases e)
  repeat' first
    | with_reducible assumption | with_reducible apply State_portPut_keeps | with_reducible apply State_uDone_keeps | split

theorem State_uEmitf_keeps {a : State} (n : Nat) (s : State) (r : HRun) (w : Nat) (x4 : Eng) {s' : State} (h : Keeps a s)  (e : State.uEmitf n s r w x4 = .ok s') : Keeps a s' := by
  unfold State.uEmitf at e
  try dsimp -iota only at e
  repeat' split at e
  all_goals (try cases e)
  repeat' first
    | with_reducible assumption | with_reducible apply State_portPut_keeps | with_reducible apply State_uDone_keeps | split

theorem State_branch_keeps {a : State} (s : State) (n : Nat) (w : Nat) (h : Keeps a s)  : Keeps a (State.branch s n w) := by
  unfold State.branch
  try dsimp -iota only
  repeat' first
    | with_reducible assumption | with_reducible apply State_upRun_keeps | split

theorem State_uB_keeps {a : State} (n : Nat) (s : State) (x2 : HRun) (w : Nat) (x4 : Eng) {s' : State} (h : Keeps a s)  (e : State.uB n s x2 w x4 = .ok s') : Keeps a s' := by
  unfold State.uB at e
  try dsimp -iota only at e
  repeat' split at e
  all_goals (try cases e)
  repeat' first
    | with_reducible assumption | with_reducible apply State_branch_keeps | split

theorem State_uCall_keeps {a : State} (n : Nat) (s : State) (r : HRun) (w : Nat) (x4 : Eng) {s' : State} (h : Keeps a s)  (e : State.uCall n s r w x4 = .ok s') : Keeps a s' := by
  unfold State.uCall at e
  try dsimp -iota only at e
  repeat' split at e
  all_goals (try cases e)
  repeat' first
    | with_reducible assumption | with_reducible apply State_branch_keeps | with_reducible apply State_upRun_keeps | split

theorem State_uRet_keeps {a : State} (n : Nat) (s : State) (r : HRun) (x3 : Nat) (x4 : Eng) {s' : State} (h : Keeps a s)  (e : State.uRet n s r x3 x4 = .ok s') : Keeps a s' := by
  unfold State.uRet at e
  try dsimp -iota only at e
  repeat' split at e
  all_goals (try cases e)
  repeat' first
    | with_reducible assumption | with_reducible apply State_goto_keeps | with_reducible apply State_upRun_keeps | split

theorem State_uLoop_keeps {a : State} (n : Nat) (s : State) (r : HRun) (w : Nat) (x4 : Eng) {s' : State} (h : Keeps a s)  (e : State.uLoop n s r w x4 = .ok s') : Keeps a s' := by
  unfold State.uLoop at e
  try dsimp -iota only at e
  repeat' split at e
  all_goals (try cases e)
  repeat' first
    | with_reducible assumption | with_reducible apply State_uDone_keeps | with_reducible apply State_branch_keeps
    | with_reducible apply State_upCore_keeps | split

theorem State_uEnd_keeps {a : State} (n : Nat) (s : State) (r : HRun) (x3 : Nat) (x4 : Eng) {s' : State} (h : Keeps a s)
    (e : State.uEnd n s r x3 x4 = .ok s') : Keeps a s' := by
  unfold State.uEnd at e
  split at e
  · cases e
  · dsimp -iota only at e
    obtain rfl := Except.ok.inj e
    apply State_initEnter_keeps
    repeat' first
      | with_reducible assumption | with_reducible apply State_upCore_keeps | with_reducible apply State_closeSlot_keeps
      | with_reducible apply State_closeReport_keeps | split


theorem State_uUnlisted_keeps {a : State} (s : State) (n : Nat) (h : Keeps a s)  : Keeps a (State.uUnlisted s n) := by
  unfold State.uUnlisted
  try dsimp -iota only
  repeat' first
    | with_reducible assumption | with_reducible apply State_ucodeFault_keeps | split

theorem execUopNop_keeps (t : Nat) (core : Fin 4096) (s : State) : KeepsR s (execUopNop t core s) := by
  have h := Keeps.refl s
  unfold execUopNop
  try dsimp -iota only
  repeat' first
    | with_reducible assumption | with_reducible apply KeepsR.next | with_reducible apply State_aluOp_keeps
    | with_reducible apply State_advance_keeps | split | (intro _ _; try dsimp -iota only)

theorem execUopMov_keeps (t : Nat) (core : Fin 4096) (s : State) : KeepsR s (execUopMov t core s) := by
  have h := Keeps.refl s
  unfold execUopMov
  try dsimp -iota only
  repeat' first
    | with_reducible assumption | with_reducible apply KeepsR.next | with_reducible apply State_aluOp_keeps
    | with_reducible apply State_advance_keeps | split | (intro _ _; try dsimp -iota only)

theorem execUopAdd_keeps (t : Nat) (core : Fin 4096) (s : State) : KeepsR s (execUopAdd t core s) := by
  have h := Keeps.refl s
  unfold execUopAdd
  try dsimp -iota only
  repeat' first
    | with_reducible assumption | with_reducible apply KeepsR.next | with_reducible apply State_aluOp_keeps
    | with_reducible apply State_advance_keeps | split | (intro _ _; try dsimp -iota only)

theorem execUopSub_keeps (t : Nat) (core : Fin 4096) (s : State) : KeepsR s (execUopSub t core s) := by
  have h := Keeps.refl s
  unfold execUopSub
  try dsimp -iota only
  repeat' first
    | with_reducible assumption | with_reducible apply KeepsR.next | with_reducible apply State_aluOp_keeps
    | with_reducible apply State_advance_keeps | split | (intro _ _; try dsimp -iota only)

theorem execUopAnd_keeps (t : Nat) (core : Fin 4096) (s : State) : KeepsR s (execUopAnd t core s) := by
  have h := Keeps.refl s
  unfold execUopAnd
  try dsimp -iota only
  repeat' first
    | with_reducible assumption | with_reducible apply KeepsR.next | with_reducible apply State_aluOp_keeps
    | with_reducible apply State_advance_keeps | split | (intro _ _; try dsimp -iota only)

theorem execUopOr_keeps (t : Nat) (core : Fin 4096) (s : State) : KeepsR s (execUopOr t core s) := by
  have h := Keeps.refl s
  unfold execUopOr
  try dsimp -iota only
  repeat' first
    | with_reducible assumption | with_reducible apply KeepsR.next | with_reducible apply State_aluOp_keeps
    | with_reducible apply State_advance_keeps | split | (intro _ _; try dsimp -iota only)

theorem execUopXor_keeps (t : Nat) (core : Fin 4096) (s : State) : KeepsR s (execUopXor t core s) := by
  have h := Keeps.refl s
  unfold execUopXor
  try dsimp -iota only
  repeat' first
    | with_reducible assumption | with_reducible apply KeepsR.next | with_reducible apply State_aluOp_keeps
    | with_reducible apply State_advance_keeps | split | (intro _ _; try dsimp -iota only)

theorem execUopAndn_keeps (t : Nat) (core : Fin 4096) (s : State) : KeepsR s (execUopAndn t core s) := by
  have h := Keeps.refl s
  unfold execUopAndn
  try dsimp -iota only
  repeat' first
    | with_reducible assumption | with_reducible apply KeepsR.next | with_reducible apply State_aluOp_keeps
    | with_reducible apply State_advance_keeps | split | (intro _ _; try dsimp -iota only)

theorem execUopShl_keeps (t : Nat) (core : Fin 4096) (s : State) : KeepsR s (execUopShl t core s) := by
  have h := Keeps.refl s
  unfold execUopShl
  try dsimp -iota only
  repeat' first
    | with_reducible assumption | with_reducible apply KeepsR.next | with_reducible apply State_aluOp_keeps
    | with_reducible apply State_advance_keeps | split | (intro _ _; try dsimp -iota only)

theorem execUopShr_keeps (t : Nat) (core : Fin 4096) (s : State) : KeepsR s (execUopShr t core s) := by
  have h := Keeps.refl s
  unfold execUopShr
  try dsimp -iota only
  repeat' first
    | with_reducible assumption | with_reducible apply KeepsR.next | with_reducible apply State_aluOp_keeps
    | with_reducible apply State_advance_keeps | split | (intro _ _; try dsimp -iota only)

theorem execUopSra_keeps (t : Nat) (core : Fin 4096) (s : State) : KeepsR s (execUopSra t core s) := by
  have h := Keeps.refl s
  unfold execUopSra
  try dsimp -iota only
  repeat' first
    | with_reducible assumption | with_reducible apply KeepsR.next | with_reducible apply State_aluOp_keeps
    | with_reducible apply State_advance_keeps | split | (intro _ _; try dsimp -iota only)

theorem execUopRor_keeps (t : Nat) (core : Fin 4096) (s : State) : KeepsR s (execUopRor t core s) := by
  have h := Keeps.refl s
  unfold execUopRor
  try dsimp -iota only
  repeat' first
    | with_reducible assumption | with_reducible apply KeepsR.next | with_reducible apply State_aluOp_keeps
    | with_reducible apply State_advance_keeps | split | (intro _ _; try dsimp -iota only)

theorem execUopMin_keeps (t : Nat) (core : Fin 4096) (s : State) : KeepsR s (execUopMin t core s) := by
  have h := Keeps.refl s
  unfold execUopMin
  try dsimp -iota only
  repeat' first
    | with_reducible assumption | with_reducible apply KeepsR.next | with_reducible apply State_aluOp_keeps
    | with_reducible apply State_advance_keeps | split | (intro _ _; try dsimp -iota only)

theorem execUopMax_keeps (t : Nat) (core : Fin 4096) (s : State) : KeepsR s (execUopMax t core s) := by
  have h := Keeps.refl s
  unfold execUopMax
  try dsimp -iota only
  repeat' first
    | with_reducible assumption | with_reducible apply KeepsR.next | with_reducible apply State_aluOp_keeps
    | with_reducible apply State_advance_keeps | split | (intro _ _; try dsimp -iota only)

theorem execUopAbs_keeps (t : Nat) (core : Fin 4096) (s : State) : KeepsR s (execUopAbs t core s) := by
  have h := Keeps.refl s
  unfold execUopAbs
  try dsimp -iota only
  repeat' first
    | with_reducible assumption | with_reducible apply KeepsR.next | with_reducible apply State_aluOp_keeps
    | with_reducible apply State_advance_keeps | split | (intro _ _; try dsimp -iota only)

theorem execUopPopc_keeps (t : Nat) (core : Fin 4096) (s : State) : KeepsR s (execUopPopc t core s) := by
  have h := Keeps.refl s
  unfold execUopPopc
  try dsimp -iota only
  repeat' first
    | with_reducible assumption | with_reducible apply KeepsR.next | with_reducible apply State_aluOp_keeps
    | with_reducible apply State_advance_keeps | split | (intro _ _; try dsimp -iota only)

theorem execUopCmp_keeps (t : Nat) (core : Fin 4096) (s : State) : KeepsR s (execUopCmp t core s) := by
  have h := Keeps.refl s
  unfold execUopCmp
  try dsimp -iota only
  repeat' first
    | with_reducible assumption | with_reducible apply KeepsR.next | with_reducible apply State_aluOp_keeps
    | with_reducible apply State_advance_keeps | split | (intro _ _; try dsimp -iota only)

theorem execUopExt_keeps (t : Nat) (core : Fin 4096) (s : State) : KeepsR s (execUopExt t core s) := by
  have h := Keeps.refl s
  unfold execUopExt
  try dsimp -iota only
  repeat' first
    | with_reducible assumption | with_reducible apply KeepsR.next | with_reducible apply State_aluOp_keeps
    | with_reducible apply State_advance_keeps | split | (intro _ _; try dsimp -iota only)

theorem execUopIns_keeps (t : Nat) (core : Fin 4096) (s : State) : KeepsR s (execUopIns t core s) := by
  have h := Keeps.refl s
  unfold execUopIns
  try dsimp -iota only
  repeat' first
    | with_reducible assumption | with_reducible apply KeepsR.next | with_reducible apply State_aluOp_keeps
    | with_reducible apply State_advance_keeps | split | (intro _ _; try dsimp -iota only)

theorem execUopSat_keeps (t : Nat) (core : Fin 4096) (s : State) : KeepsR s (execUopSat t core s) := by
  have h := Keeps.refl s
  unfold execUopSat
  try dsimp -iota only
  repeat' first
    | with_reducible assumption | with_reducible apply KeepsR.next | with_reducible apply State_aluOp_keeps
    | with_reducible apply State_advance_keeps | split | (intro _ _; try dsimp -iota only)

theorem execUopMovs_keeps (t : Nat) (core : Fin 4096) (s : State) : KeepsR s (execUopMovs t core s) := by
  have h := Keeps.refl s
  unfold execUopMovs
  try dsimp -iota only
  repeat' first
    | with_reducible assumption | with_reducible apply KeepsR.next | with_reducible apply State_aluOp_keeps
    | with_reducible apply State_advance_keeps | split | (intro _ _; try dsimp -iota only)

theorem execUopMul_keeps (t : Nat) (core : Fin 4096) (s : State) : KeepsR s (execUopMul t core s) := by
  have h := Keeps.refl s
  unfold execUopMul
  try dsimp -iota only
  repeat' first
    | with_reducible assumption | with_reducible apply KeepsR.next | with_reducible apply State_aluOp_keeps
    | with_reducible apply State_advance_keeps | split | (intro _ _; try dsimp -iota only)

theorem execUopTsb_keeps (t : Nat) (core : Fin 4096) (s : State) : KeepsR s (execUopTsb t core s) := by
  have h := Keeps.refl s
  unfold execUopTsb
  try dsimp -iota only
  repeat' first
    | with_reducible assumption | with_reducible apply KeepsR.next | with_reducible apply State_aluOp_keeps
    | with_reducible apply State_advance_keeps | split | (intro _ _; try dsimp -iota only)

theorem execUopAset_keeps (t : Nat) (core : Fin 4096) (s : State) : KeepsR s (execUopAset t core s) := by
  have h := Keeps.refl s
  unfold execUopAset
  try dsimp -iota only
  repeat' first
    | with_reducible assumption | with_reducible apply KeepsR.next | with_reducible apply State_aluOp_keeps
    | with_reducible apply State_advance_keeps | split | (intro _ _; try dsimp -iota only)

theorem execUopMac_keeps (t : Nat) (core : Fin 4096) (s : State) : KeepsR s (execUopMac t core s) := by
  have h := Keeps.refl s
  unfold execUopMac
  try dsimp -iota only
  repeat' first
    | with_reducible assumption | with_reducible apply KeepsR.next | with_reducible apply State_aluOp_keeps
    | with_reducible apply State_advance_keeps | split | (intro _ _; try dsimp -iota only)

theorem execUopMac2_keeps (t : Nat) (core : Fin 4096) (s : State) : KeepsR s (execUopMac2 t core s) := by
  have h := Keeps.refl s
  unfold execUopMac2
  try dsimp -iota only
  repeat' first
    | with_reducible assumption | with_reducible apply KeepsR.next | with_reducible apply State_aluOp_keeps
    | with_reducible apply State_advance_keeps | split | (intro _ _; try dsimp -iota only)

theorem execUopAadd_keeps (t : Nat) (core : Fin 4096) (s : State) : KeepsR s (execUopAadd t core s) := by
  have h := Keeps.refl s
  unfold execUopAadd
  try dsimp -iota only
  repeat' first
    | with_reducible assumption | with_reducible apply KeepsR.next | with_reducible apply State_aluOp_keeps
    | with_reducible apply State_advance_keeps | split | (intro _ _; try dsimp -iota only)

theorem execUopAget_keeps (t : Nat) (core : Fin 4096) (s : State) : KeepsR s (execUopAget t core s) := by
  have h := Keeps.refl s
  unfold execUopAget
  try dsimp -iota only
  repeat' first
    | with_reducible assumption | with_reducible apply KeepsR.next | with_reducible apply State_aluOp_keeps
    | with_reducible apply State_advance_keeps | split | (intro _ _; try dsimp -iota only)

theorem execUopLd16_keeps (t : Nat) (core : Fin 4096) (s : State) : KeepsR s (execUopLd16 t core s) := by
  have h := Keeps.refl s
  unfold execUopLd16
  try dsimp -iota only
  repeat' first
    | with_reducible assumption | with_reducible apply KeepsR.next | with_reducible apply State_issue_keeps
    | with_reducible apply State_advance_keeps | with_reducible apply State_uLoad_keeps (e := by with_reducible assumption)
    | (intro s_ r_ w_ rd_ s'_ e_ h_)
    | (intro l_ s'_ e_; (try dsimp -iota only at e_); (repeat' split at e_) <;> (try cases e_)) | split
    | (intro _ _; try dsimp -iota only)

theorem execUopLd32_keeps (t : Nat) (core : Fin 4096) (s : State) : KeepsR s (execUopLd32 t core s) := by
  have h := Keeps.refl s
  unfold execUopLd32
  try dsimp -iota only
  repeat' first
    | with_reducible assumption | with_reducible apply KeepsR.next | with_reducible apply State_issue_keeps
    | with_reducible apply State_advance_keeps | with_reducible apply State_uLoad_keeps (e := by with_reducible assumption)
    | (intro s_ r_ w_ rd_ s'_ e_ h_)
    | (intro l_ s'_ e_; (try dsimp -iota only at e_); (repeat' split at e_) <;> (try cases e_)) | split
    | (intro _ _; try dsimp -iota only)

theorem execUopSt16_keeps (t : Nat) (core : Fin 4096) (s : State) : KeepsR s (execUopSt16 t core s) := by
  have h := Keeps.refl s
  unfold execUopSt16
  try dsimp -iota only
  repeat' first
    | with_reducible assumption | with_reducible apply KeepsR.next | with_reducible apply State_issue_keeps
    | with_reducible apply State_advance_keeps | with_reducible apply State_uStore_keeps (e := by with_reducible assumption)
    | (intro s_ r_ w_ rd_ s'_ e_ h_)
    | (intro l_ s'_ e_; (try dsimp -iota only at e_); (repeat' split at e_) <;> (try cases e_)) | split
    | (intro _ _; try dsimp -iota only)

theorem execUopSt32_keeps (t : Nat) (core : Fin 4096) (s : State) : KeepsR s (execUopSt32 t core s) := by
  have h := Keeps.refl s
  unfold execUopSt32
  try dsimp -iota only
  repeat' first
    | with_reducible assumption | with_reducible apply KeepsR.next | with_reducible apply State_issue_keeps
    | with_reducible apply State_advance_keeps | with_reducible apply State_uStore_keeps (e := by with_reducible assumption)
    | (intro s_ r_ w_ rd_ s'_ e_ h_)
    | (intro l_ s'_ e_; (try dsimp -iota only at e_); (repeat' split at e_) <;> (try cases e_)) | split
    | (intro _ _; try dsimp -iota only)

theorem execUopNld_keeps (t : Nat) (core : Fin 4096) (s : State) : KeepsR s (execUopNld t core s) := by
  have h := Keeps.refl s
  unfold execUopNld
  try dsimp -iota only
  repeat' first
    | with_reducible assumption | with_reducible apply KeepsR.next | with_reducible apply State_issue_keeps
    | with_reducible apply State_advance_keeps | with_reducible apply State_uNld_keeps (e := by with_reducible assumption)
    | (intro s_ r_ w_ rd_ s'_ e_ h_)
    | (intro l_ s'_ e_; (try dsimp -iota only at e_); (repeat' split at e_) <;> (try cases e_)) | split
    | (intro _ _; try dsimp -iota only)

theorem execUopNst_keeps (t : Nat) (core : Fin 4096) (s : State) : KeepsR s (execUopNst t core s) := by
  have h := Keeps.refl s
  unfold execUopNst
  try dsimp -iota only
  repeat' first
    | with_reducible assumption | with_reducible apply KeepsR.next | with_reducible apply State_issue_keeps
    | with_reducible apply State_advance_keeps | with_reducible apply State_uNst_keeps (e := by with_reducible assumption)
    | (intro s_ r_ w_ rd_ s'_ e_ h_)
    | (intro l_ s'_ e_; (try dsimp -iota only at e_); (repeat' split at e_) <;> (try cases e_)) | split
    | (intro _ _; try dsimp -iota only)

theorem execUopLeak_keeps (t : Nat) (core : Fin 4096) (s : State) : KeepsR s (execUopLeak t core s) := by
  have h := Keeps.refl s
  unfold execUopLeak
  try dsimp -iota only
  repeat' first
    | with_reducible assumption | with_reducible apply KeepsR.next | with_reducible apply State_issue_keeps
    | with_reducible apply State_advance_keeps | with_reducible apply State_uLeak_keeps (e := by with_reducible assumption)
    | (intro s_ r_ w_ rd_ s'_ e_ h_)
    | (intro l_ s'_ e_; (try dsimp -iota only at e_); (repeat' split at e_) <;> (try cases e_)) | split
    | (intro _ _; try dsimp -iota only)

theorem execUopNadd_keeps (t : Nat) (core : Fin 4096) (s : State) : KeepsR s (execUopNadd t core s) := by
  have h := Keeps.refl s
  unfold execUopNadd
  try dsimp -iota only
  repeat' first
    | with_reducible assumption | with_reducible apply KeepsR.next | with_reducible apply State_issue_keeps
    | with_reducible apply State_advance_keeps | with_reducible apply State_uNadd_keeps (e := by with_reducible assumption)
    | (intro s_ r_ w_ rd_ s'_ e_ h_)
    | (intro l_ s'_ e_; (try dsimp -iota only at e_); (repeat' split at e_) <;> (try cases e_)) | split
    | (intro _ _; try dsimp -iota only)

theorem execUopNget_keeps (t : Nat) (core : Fin 4096) (s : State) : KeepsR s (execUopNget t core s) := by
  have h := Keeps.refl s
  unfold execUopNget
  try dsimp -iota only
  repeat' first
    | with_reducible assumption | with_reducible apply KeepsR.next | with_reducible apply State_issue_keeps
    | with_reducible apply State_advance_keeps | with_reducible apply State_uNget_keeps (e := by with_reducible assumption)
    | (intro s_ r_ w_ rd_ s'_ e_ h_)
    | (intro l_ s'_ e_; (try dsimp -iota only at e_); (repeat' split at e_) <;> (try cases e_)) | split
    | (intro _ _; try dsimp -iota only)

theorem execUopNput_keeps (t : Nat) (core : Fin 4096) (s : State) : KeepsR s (execUopNput t core s) := by
  have h := Keeps.refl s
  unfold execUopNput
  try dsimp -iota only
  repeat' first
    | with_reducible assumption | with_reducible apply KeepsR.next | with_reducible apply State_issue_keeps
    | with_reducible apply State_advance_keeps | with_reducible apply State_uNput_keeps (e := by with_reducible assumption)
    | (intro s_ r_ w_ rd_ s'_ e_ h_)
    | (intro l_ s'_ e_; (try dsimp -iota only at e_); (repeat' split at e_) <;> (try cases e_)) | split
    | (intro _ _; try dsimp -iota only)

theorem execUopFire_keeps (t : Nat) (core : Fin 4096) (s : State) : KeepsR s (execUopFire t core s) := by
  have h := Keeps.refl s
  unfold execUopFire
  try dsimp -iota only
  repeat' first
    | with_reducible assumption | with_reducible apply KeepsR.next | with_reducible apply State_issue_keeps
    | with_reducible apply State_advance_keeps | with_reducible apply State_uFire_keeps (e := by with_reducible assumption)
    | (intro s_ r_ w_ rd_ s'_ e_ h_)
    | (intro l_ s'_ e_; (try dsimp -iota only at e_); (repeat' split at e_) <;> (try cases e_)) | split
    | (intro _ _; try dsimp -iota only)

theorem execUopNclr_keeps (t : Nat) (core : Fin 4096) (s : State) : KeepsR s (execUopNclr t core s) := by
  have h := Keeps.refl s
  unfold execUopNclr
  try dsimp -iota only
  repeat' first
    | with_reducible assumption | with_reducible apply KeepsR.next | with_reducible apply State_issue_keeps
    | with_reducible apply State_advance_keeps | with_reducible apply State_uNclr_keeps (e := by with_reducible assumption)
    | (intro s_ r_ w_ rd_ s'_ e_ h_)
    | (intro l_ s'_ e_; (try dsimp -iota only at e_); (repeat' split at e_) <;> (try cases e_)) | split
    | (intro _ _; try dsimp -iota only)

theorem execUopNbr_keeps (t : Nat) (core : Fin 4096) (s : State) : KeepsR s (execUopNbr t core s) := by
  have h := Keeps.refl s
  unfold execUopNbr
  try dsimp -iota only
  repeat' first
    | with_reducible assumption | with_reducible apply KeepsR.next | with_reducible apply State_issue_keeps
    | with_reducible apply State_advance_keeps | with_reducible apply State_uNbr_keeps (e := by with_reducible assumption)
    | (intro s_ r_ w_ rd_ s'_ e_ h_)
    | (intro l_ s'_ e_; (try dsimp -iota only at e_); (repeat' split at e_) <;> (try cases e_)) | split
    | (intro _ _; try dsimp -iota only)

theorem execUopWaitn_keeps (t : Nat) (core : Fin 4096) (s : State) : KeepsR s (execUopWaitn t core s) := by
  have h := Keeps.refl s
  unfold execUopWaitn
  try dsimp -iota only
  repeat' first
    | with_reducible assumption | with_reducible apply KeepsR.next | with_reducible apply State_issue_keeps
    | with_reducible apply State_advance_keeps | with_reducible apply State_uWaitn_keeps (e := by with_reducible assumption)
    | (intro s_ r_ w_ rd_ s'_ e_ h_)
    | (intro l_ s'_ e_; (try dsimp -iota only at e_); (repeat' split at e_) <;> (try cases e_)) | split
    | (intro _ _; try dsimp -iota only)

theorem execUopCwr_keeps (t : Nat) (core : Fin 4096) (s : State) : KeepsR s (execUopCwr t core s) := by
  have h := Keeps.refl s
  unfold execUopCwr
  try dsimp -iota only
  repeat' first
    | with_reducible assumption | with_reducible apply KeepsR.next | with_reducible apply State_issue_keeps
    | with_reducible apply State_advance_keeps | with_reducible apply State_uCwr_keeps (e := by with_reducible assumption)
    | (intro s_ r_ w_ rd_ s'_ e_ h_)
    | (intro l_ s'_ e_; (try dsimp -iota only at e_); (repeat' split at e_) <;> (try cases e_)) | split
    | (intro _ _; try dsimp -iota only)

theorem execUopEmitt_keeps (t : Nat) (core : Fin 4096) (s : State) : KeepsR s (execUopEmitt t core s) := by
  have h := Keeps.refl s
  unfold execUopEmitt
  try dsimp -iota only
  repeat' first
    | with_reducible assumption | with_reducible apply KeepsR.next | with_reducible apply State_issue_keeps
    | with_reducible apply State_advance_keeps | with_reducible apply State_uEmitt_keeps (e := by with_reducible assumption)
    | (intro s_ r_ w_ rd_ s'_ e_ h_)
    | (intro l_ s'_ e_; (try dsimp -iota only at e_); (repeat' split at e_) <;> (try cases e_)) | split
    | (intro _ _; try dsimp -iota only)

theorem execUopEmitf_keeps (t : Nat) (core : Fin 4096) (s : State) : KeepsR s (execUopEmitf t core s) := by
  have h := Keeps.refl s
  unfold execUopEmitf
  try dsimp -iota only
  repeat' first
    | with_reducible assumption | with_reducible apply KeepsR.next | with_reducible apply State_issue_keeps
    | with_reducible apply State_advance_keeps | with_reducible apply State_uEmitf_keeps (e := by with_reducible assumption)
    | (intro s_ r_ w_ rd_ s'_ e_ h_)
    | (intro l_ s'_ e_; (try dsimp -iota only at e_); (repeat' split at e_) <;> (try cases e_)) | split
    | (intro _ _; try dsimp -iota only)

theorem execUopB_keeps (t : Nat) (core : Fin 4096) (s : State) : KeepsR s (execUopB t core s) := by
  have h := Keeps.refl s
  unfold execUopB
  try dsimp -iota only
  repeat' first
    | with_reducible assumption | with_reducible apply KeepsR.next | with_reducible apply State_issue_keeps
    | with_reducible apply State_advance_keeps | with_reducible apply State_uB_keeps (e := by with_reducible assumption)
    | (intro s_ r_ w_ rd_ s'_ e_ h_)
    | (intro l_ s'_ e_; (try dsimp -iota only at e_); (repeat' split at e_) <;> (try cases e_)) | split
    | (intro _ _; try dsimp -iota only)

theorem execUopCall_keeps (t : Nat) (core : Fin 4096) (s : State) : KeepsR s (execUopCall t core s) := by
  have h := Keeps.refl s
  unfold execUopCall
  try dsimp -iota only
  repeat' first
    | with_reducible assumption | with_reducible apply KeepsR.next | with_reducible apply State_issue_keeps
    | with_reducible apply State_advance_keeps | with_reducible apply State_uCall_keeps (e := by with_reducible assumption)
    | (intro s_ r_ w_ rd_ s'_ e_ h_)
    | (intro l_ s'_ e_; (try dsimp -iota only at e_); (repeat' split at e_) <;> (try cases e_)) | split
    | (intro _ _; try dsimp -iota only)

theorem execUopRet_keeps (t : Nat) (core : Fin 4096) (s : State) : KeepsR s (execUopRet t core s) := by
  have h := Keeps.refl s
  unfold execUopRet
  try dsimp -iota only
  repeat' first
    | with_reducible assumption | with_reducible apply KeepsR.next | with_reducible apply State_issue_keeps
    | with_reducible apply State_advance_keeps | with_reducible apply State_uRet_keeps (e := by with_reducible assumption)
    | (intro s_ r_ w_ rd_ s'_ e_ h_)
    | (intro l_ s'_ e_; (try dsimp -iota only at e_); (repeat' split at e_) <;> (try cases e_)) | split
    | (intro _ _; try dsimp -iota only)

theorem execUopLoop_keeps (t : Nat) (core : Fin 4096) (s : State) : KeepsR s (execUopLoop t core s) := by
  have h := Keeps.refl s
  unfold execUopLoop
  try dsimp -iota only
  repeat' first
    | with_reducible assumption | with_reducible apply KeepsR.next | with_reducible apply State_issue_keeps
    | with_reducible apply State_advance_keeps | with_reducible apply State_uLoop_keeps (e := by with_reducible assumption)
    | (intro s_ r_ w_ rd_ s'_ e_ h_)
    | (intro l_ s'_ e_; (try dsimp -iota only at e_); (repeat' split at e_) <;> (try cases e_)) | split
    | (intro _ _; try dsimp -iota only)

theorem execUopEnd_keeps (t : Nat) (core : Fin 4096) (s : State) : KeepsR s (execUopEnd t core s) := by
  have h := Keeps.refl s
  unfold execUopEnd
  try dsimp -iota only
  repeat' first
    | with_reducible assumption | with_reducible apply KeepsR.next | with_reducible apply State_issue_keeps
    | with_reducible apply State_advance_keeps | with_reducible apply State_uEnd_keeps (e := by with_reducible assumption)
    | (intro s_ r_ w_ rd_ s'_ e_ h_)
    | (intro l_ s'_ e_; (try dsimp -iota only at e_); (repeat' split at e_) <;> (try cases e_)) | split
    | (intro _ _; try dsimp -iota only)

theorem execUnlistedMicroOp_keeps (t : Nat) (core : Fin 4096) (s : State) : KeepsR s (execUnlistedMicroOp t core s) := by
  have h := Keeps.refl s
  unfold execUnlistedMicroOp
  try dsimp -iota only
  repeat' first
    | with_reducible assumption | with_reducible apply KeepsR.next | with_reducible apply State_uUnlisted_keeps
    | with_reducible apply State_advance_keeps | split

end Sys2Proof.Machine
end

