-- ==== Sys2Proof/Laws/KeepsCluster.lean ====
section
/-!
SUPPORT. `Keeps` for the functions of Machine/Cluster.lean: each leaves the queue alone, drops no output and keeps the canonical forms.
-/
set_option linter.unusedVariables false
namespace Sys2Proof.Machine
open Regs

theorem State_upRouter_keeps {a : State} (s : State) (k : Nat) (f : Router → Router) (h : Keeps a s)  : Keeps a (State.upRouter s k f) := by
  unfold State.upRouter
  try dsimp -iota only
  repeat' first
    | with_reducible assumption | split | with_reducible exact List.prefix_refl _ | with_reducible exact Nat.le_refl _
    | with_reducible exact id | with_reducible exact Tab.rising_put _ _ _ _ | with_reducible exact List.prefix_append _ _
    | with_reducible exact Nat.le_succ _ | (intro _; try dsimp -iota only) | with_reducible apply Keeps.upd (hp := rfl)

theorem State_copyTo_keeps {a : State} (s : State) (n : Nat) (ty : Nat) (aux : Nat) (words : List Nat) (h : Keeps a s)  : Keeps a (State.copyTo s n ty aux words) := by
  unfold State.copyTo
  try dsimp -iota only
  repeat' first
    | with_reducible assumption | with_reducible apply State_fencedDrop_keeps | with_reducible apply State_send_keeps | split

theorem State_queuePut_keeps {a : State} (s : State) (k : Nat) (q : QFlit) (h : Keeps a s)  : Keeps a (State.queuePut s k q) := by
  unfold State.queuePut
  try dsimp -iota only
  repeat' first
    | with_reducible assumption | split | with_reducible exact List.prefix_refl _ | with_reducible exact Nat.le_refl _
    | with_reducible exact id | with_reducible exact Tab.rising_put _ _ _ _ | with_reducible exact List.prefix_append _ _
    | with_reducible exact Nat.le_succ _ | (intro _; try dsimp -iota only) | with_reducible apply Keeps.upd (hp := rfl)

theorem State_eventFlit_keeps {a : State} (s : State) (k : Nat) (h : Keeps a s)  : Keeps a (State.eventFlit s k) := by
  unfold State.eventFlit
  try dsimp -iota only
  repeat' first
    | with_reducible assumption | with_reducible apply State_takeFlit_keeps (e := by with_reducible assumption)
    | with_reducible apply State_queuePut_keeps | split

theorem State_deliverLedger_keeps {a : State} (s : State) (k : Nat) (q : QFlit) (h : Keeps a s)  : Keeps a (State.deliverLedger s k q) := by
  unfold State.deliverLedger
  try dsimp -iota only
  repeat' first
    | with_reducible assumption | with_reducible apply State_ledgerEvent_keeps | with_reducible apply State_ledgerReplay_keeps
    | split

theorem State_deliver_keeps {a : State} (s : State) (k : Nat) (q : QFlit) (h : Keeps a s)  : Keeps a (State.deliver s k q) := by
  unfold State.deliver
  try dsimp -iota only
  repeat' first
    | with_reducible assumption | with_reducible apply State_deliverLedger_keeps | with_reducible apply State_inc_keeps
    | with_reducible apply State_copyTo_keeps | with_reducible refine Keeps.foldl ?_ ?_
    | with_reducible refine Keeps.foldl_snd ?_ ?_ | with_reducible refine Keeps.foldl_thd ?_ ?_
    | with_reducible refine Keeps.foldl_fst ?_ ?_ | split | (intro _ _ _; try dsimp -iota only)
    | (intro _ _; try dsimp -iota only)

theorem State_queueDeliver_keeps {a : State} (s : State) (k : Nat) (i : Nat) (h : Keeps a s)  : Keeps a (State.queueDeliver s k i) := by
  unfold State.queueDeliver
  try dsimp -iota only
  repeat' first
    | with_reducible assumption | with_reducible apply State_setCredit_keeps | with_reducible apply State_rs_keeps
    | with_reducible apply State_deliver_keeps | with_reducible apply State_waitEnd_keeps
    | with_reducible apply State_waitBegin_keeps | split | with_reducible exact List.prefix_refl _
    | with_reducible exact Nat.le_refl _ | with_reducible exact id | with_reducible exact Tab.rising_put _ _ _ _
    | with_reducible exact List.prefix_append _ _ | with_reducible exact Nat.le_succ _ | (intro _; try dsimp -iota only)
    | with_reducible apply Keeps.upd (hp := rfl)

theorem State_replayFlit_keeps {a : State} (s : State) (k : Nat) (h : Keeps a s)  : Keeps a (State.replayFlit s k) := by
  unfold State.replayFlit
  try dsimp -iota only
  repeat' first
    | with_reducible assumption | with_reducible apply State_takeFlit_keeps (e := by with_reducible assumption)
    | with_reducible apply State_queuePut_keeps | with_reducible apply State_queueDeliver_keeps | split

theorem State_escPut_keeps {a : State} (s : State) (k : Nat) (c : SpkCopy) (h : Keeps a s)  : Keeps a (State.escPut s k c) := by
  unfold State.escPut
  try dsimp -iota only
  repeat' first
    | with_reducible assumption | with_reducible apply State_ddrL2_keeps | with_reducible apply State_irqSet_keeps
    | with_reducible apply State_upRouter_keeps | with_reducible apply State_inc_keeps | split
    | with_reducible exact List.prefix_refl _ | with_reducible exact Nat.le_refl _ | with_reducible exact id
    | with_reducible exact List.prefix_append _ _ | with_reducible exact Nat.le_succ _ | with_reducible apply Mem.wf_wrLE
    | (intro _; try dsimp -iota only) | with_reducible apply Keeps.upd (hp := rfl)

theorem State_escFull_keeps {a : State} (s : State) (k : Nat) (h : Keeps a s)  : Keeps a (State.escFull s k) := by
  unfold State.escFull
  try dsimp -iota only
  repeat' first
    | with_reducible assumption | with_reducible apply State_irqSet_keeps | with_reducible apply State_waitBegin_keeps | split

theorem State_spikeCopy_keeps {a : State} (s : State) (k : Nat) (c : SpkCopy) (h : Keeps a s)  : Keeps a (State.spikeCopy s k c) := by
  unfold State.spikeCopy
  try dsimp -iota only
  repeat' first
    | with_reducible assumption | with_reducible apply State_fencedDrop_keeps | with_reducible apply State_escPut_keeps
    | with_reducible apply State_upRouter_keeps | with_reducible apply State_escFull_keeps
    | with_reducible apply State_copyTo_keeps | split

theorem State_offerWaiting_keeps {a : State} (s : State) (k : Nat) (h : Keeps a s)  : Keeps a (State.offerWaiting s k) := by
  unfold State.offerWaiting
  try dsimp -iota only
  repeat' first
    | with_reducible assumption | with_reducible apply State_spikeCopy_keeps | with_reducible apply State_upRouter_keeps
    | with_reducible refine Keeps.foldl ?_ ?_ | with_reducible refine Keeps.foldl_snd ?_ ?_
    | with_reducible refine Keeps.foldl_thd ?_ ?_ | with_reducible refine Keeps.foldl_fst ?_ ?_ | split
    | (intro _ _ _; try dsimp -iota only) | (intro _ _; try dsimp -iota only)

theorem State_groupDeliver_keeps {a : State} (s : State) (k : Nat) (w0 : Nat) (w1 : Nat) (h : Keeps a s)  : Keeps a (State.groupDeliver s k w0 w1) := by
  unfold State.groupDeliver
  try dsimp -iota only
  repeat' first
    | with_reducible assumption | with_reducible apply State_inc_keeps | with_reducible apply State_spikeCopy_keeps
    | with_reducible refine Keeps.foldl ?_ ?_ | with_reducible refine Keeps.foldl_snd ?_ ?_
    | with_reducible refine Keeps.foldl_thd ?_ ?_ | with_reducible refine Keeps.foldl_fst ?_ ?_ | split
    | (intro _ _ _; try dsimp -iota only) | (intro _ _; try dsimp -iota only)

theorem State_spikeWait_keeps {a : State} (s : State) (k : Nat) (h : Keeps a s)  : Keeps a (State.spikeWait s k) := by
  unfold State.spikeWait
  try dsimp -iota only
  repeat' first
    | with_reducible assumption | with_reducible apply State_linkWait_keeps | with_reducible refine Keeps.foldl ?_ ?_
    | with_reducible refine Keeps.foldl_snd ?_ ?_ | with_reducible refine Keeps.foldl_thd ?_ ?_
    | with_reducible refine Keeps.foldl_fst ?_ ?_ | split | (intro _ _ _; try dsimp -iota only)
    | (intro _ _; try dsimp -iota only)

theorem State_spikeFlit_keeps {a : State} (s : State) (k : Nat) (h : Keeps a s)  : Keeps a (State.spikeFlit s k) := by
  unfold State.spikeFlit
  try dsimp -iota only
  repeat' first
    | with_reducible assumption | with_reducible apply State_takeUnit_keeps (e := by with_reducible assumption)
    | with_reducible apply State_spikeWait_keeps | with_reducible apply State_groupDeliver_keeps
    | with_reducible apply State_offerWaiting_keeps | with_reducible apply State_send_keeps
    | with_reducible apply State_linkMoved_keeps | with_reducible refine Keeps.foldl ?_ ?_
    | with_reducible refine Keeps.foldl_snd ?_ ?_ | with_reducible refine Keeps.foldl_thd ?_ ?_
    | with_reducible refine Keeps.foldl_fst ?_ ?_ | split | (intro _ _ _; try dsimp -iota only)
    | (intro _ _; try dsimp -iota only)

theorem State_escapeEntry_keeps {a : State} (s : State) (k : Nat) (h : Keeps a s)  : Keeps a (State.escapeEntry s k) := by
  unfold State.escapeEntry
  try dsimp -iota only
  repeat' first
    | with_reducible assumption | with_reducible apply State_escFull_keeps | with_reducible apply State_escPut_keeps
    | with_reducible apply State_upRouter_keeps | split

theorem State_escNext_keeps {a : State} (s : State) (k : Nat) (h : Keeps a s)  : Keeps a (State.escNext s k) := by
  unfold State.escNext
  try dsimp -iota only
  repeat' first
    | with_reducible assumption | with_reducible apply State_escPut_keeps | with_reducible apply State_upRouter_keeps | split

theorem State_escPop_keeps {a : State} (s : State) (k : Nat) (h : Keeps a s)  : Keeps a (State.escPop s k) := by
  unfold State.escPop
  try dsimp -iota only
  repeat' first
    | with_reducible assumption | with_reducible apply State_escNext_keeps | with_reducible apply State_waitEnd_keeps
    | with_reducible apply State_upRouter_keeps | split

theorem State_escapeDrain_keeps {a : State} (s : State) (k : Nat) (h : Keeps a s)  : Keeps a (State.escapeDrain s k) := by
  unfold State.escapeDrain
  try dsimp -iota only
  repeat' first
    | with_reducible assumption | with_reducible apply State_offerWaiting_keeps | with_reducible apply State_escPop_keeps
    | with_reducible apply State_copyTo_keeps | split

theorem State_ackTo_keeps {a : State} (s : State) (n : Nat) (src : Nat) (h : Keeps a s)  : Keeps a (State.ackTo s n src) := by
  unfold State.ackTo
  try dsimp -iota only
  repeat' first
    | with_reducible assumption | with_reducible apply State_send_keeps | split

theorem State_cwrite_keeps {a : State} (s : State) (k : Nat) (h : Keeps a s)  : Keeps a (State.cwrite s k) := by
  unfold State.cwrite
  try dsimp -iota only
  repeat' first
    | with_reducible assumption | with_reducible apply State_takeUnit_keeps (e := by with_reducible assumption)
    | with_reducible apply State_ackTo_keeps | with_reducible apply State_ledgerCwrite_keeps | split

theorem State_nreq_keeps {a : State} (s : State) (k : Nat) (h : Keeps a s)  : Keeps a (State.nreq s k) := by
  unfold State.nreq
  try dsimp -iota only
  repeat' first
    | with_reducible assumption | with_reducible apply State_takeUnit_keeps (e := by with_reducible assumption)
    | with_reducible apply State_upBank_keeps | split

theorem State_nrsp_keeps {a : State} (s : State) (n : Nat) (h : Keeps a s)  : Keeps a (State.nrsp s n) := by
  unfold State.nrsp
  try dsimp -iota only
  repeat' first
    | with_reducible assumption | with_reducible apply State_takeFlit_keeps (e := by with_reducible assumption)
    | with_reducible apply State_setCmem_keeps | with_reducible apply State_tagsBack_keeps
    | with_reducible apply State_upCore_keeps | with_reducible refine Keeps.foldl ?_ ?_
    | with_reducible refine Keeps.foldl_snd ?_ ?_ | with_reducible refine Keeps.foldl_thd ?_ ?_
    | with_reducible refine Keeps.foldl_fst ?_ ?_ | split | (intro _ _ _; try dsimp -iota only)
    | (intro _ _; try dsimp -iota only)

theorem State_progress_keeps {a : State} (s : State) (k : Nat) (h : Keeps a s)  : Keeps a (State.progress s k) := by
  unfold State.progress
  try dsimp -iota only
  repeat' first
    | with_reducible assumption | with_reducible apply State_takeUnit_keeps (e := by with_reducible assumption)
    | with_reducible apply State_upBank_keeps | split

theorem State_ack_keeps {a : State} (s : State) (n : Nat) (h : Keeps a s)  : Keeps a (State.ack s n) := by
  unfold State.ack
  try dsimp -iota only
  repeat' first
    | with_reducible assumption | with_reducible apply State_takeFlit_keeps (e := by with_reducible assumption)
    | with_reducible apply State_tagsBack_keeps | with_reducible apply State_inc_keeps | split

theorem State_arrive_keeps {a : State} (s : State) (n : Nat) (h : Keeps a s)  : Keeps a (State.arrive s n) := by
  unfold State.arrive
  try dsimp -iota only
  repeat' first
    | with_reducible assumption | with_reducible apply State_takeFlit_keeps (e := by with_reducible assumption)
    | with_reducible apply State_enqueueArr_keeps | split

theorem State_phaseTake_keeps {a : State} (s : State) (p : Nat) (h : Keeps a s)  : Keeps a (State.phaseTake s p) := by
  unfold State.phaseTake
  try dsimp -iota only
  repeat' first
    | with_reducible assumption | with_reducible apply State_rs_keeps | with_reducible apply State_irqSet_keeps | split
    | with_reducible exact List.prefix_refl _ | with_reducible exact Nat.le_refl _ | with_reducible exact id
    | with_reducible exact List.prefix_append _ _ | with_reducible exact Nat.le_succ _ | (intro _; try dsimp -iota only)
    | with_reducible apply Keeps.upd (hp := rfl)

theorem State_tickBoundary_keeps {a : State} (s : State) (h : Keeps a s)  : Keeps a (State.tickBoundary s) := by
  unfold State.tickBoundary
  try dsimp -iota only
  repeat' first
    | with_reducible assumption | with_reducible apply State_phaseTake_keeps | split | with_reducible exact List.prefix_refl _
    | with_reducible exact Nat.le_refl _ | with_reducible exact id | with_reducible exact List.prefix_append _ _
    | with_reducible exact Nat.le_succ _ | (intro _; try dsimp -iota only) | with_reducible apply Keeps.upd (hp := rfl)

theorem State_subwinWrite_keeps {a : State} (s : State) (k : Nat) (v : Sys2Proof.Word) (h : Keeps a s)  : Keeps a (State.subwinWrite s k v) := by
  unfold State.subwinWrite
  try dsimp -iota only
  repeat' first
    | with_reducible assumption | with_reducible apply State_errParam_keeps | with_reducible apply State_rs_keeps
    | with_reducible refine Keeps.foldl ?_ ?_ | with_reducible refine Keeps.foldl_snd ?_ ?_
    | with_reducible refine Keeps.foldl_thd ?_ ?_ | with_reducible refine Keeps.foldl_fst ?_ ?_ | split
    | (intro _ _ _; try dsimp -iota only) | (intro _ _; try dsimp -iota only)

theorem State_subHiWrite_keeps {a : State} (s : State) (k : Nat) (v : Sys2Proof.Word) (h : Keeps a s)  : Keeps a (State.subHiWrite s k v) := by
  unfold State.subHiWrite
  try dsimp -iota only
  repeat' first
    | with_reducible assumption | with_reducible apply State_rs_keeps | split

theorem State_rtHiWrite_keeps {a : State} (s : State) (k : Nat) (v : Sys2Proof.Word) (h : Keeps a s)  : Keeps a (State.rtHiWrite s k v) := by
  unfold State.rtHiWrite
  try dsimp -iota only
  repeat' first
    | with_reducible assumption | with_reducible apply State_errParam_keeps | with_reducible apply State_rs_keeps | split

theorem State_gtMask7Write_keeps {a : State} (s : State) (k : Nat) (v : Sys2Proof.Word) (h : Keeps a s)  : Keeps a (State.gtMask7Write s k v) := by
  unfold State.gtMask7Write
  try dsimp -iota only
  repeat' first
    | with_reducible assumption | with_reducible apply State_rs_keeps | with_reducible refine Keeps.foldl ?_ ?_
    | with_reducible refine Keeps.foldl_snd ?_ ?_ | with_reducible refine Keeps.foldl_thd ?_ ?_
    | with_reducible refine Keeps.foldl_fst ?_ ?_ | split | (intro _ _ _; try dsimp -iota only)
    | (intro _ _; try dsimp -iota only)

theorem State_coreCtrl_keeps {a : State} (s : State) (n : Nat) (v : Sys2Proof.Word) (h : Keeps a s)  : Keeps a (State.coreCtrl s n v) := by
  unfold State.coreCtrl
  try dsimp -iota only
  repeat' first
    | with_reducible assumption | with_reducible apply State_errParam_keeps | with_reducible apply State_rs_keeps
    | with_reducible apply State_coreStart_keeps | with_reducible apply State_runOff_keeps
    | with_reducible refine Keeps.foldl ?_ ?_ | with_reducible refine Keeps.foldl_snd ?_ ?_
    | with_reducible refine Keeps.foldl_thd ?_ ?_ | with_reducible refine Keeps.foldl_fst ?_ ?_ | split
    | (intro _ _ _; try dsimp -iota only) | (intro _ _; try dsimp -iota only)

theorem execTickBoundary_keeps (t : Nat) (s : State) : KeepsR s (execTickBoundary t s) := by
  have h := Keeps.refl s
  unfold execTickBoundary
  try dsimp -iota only
  repeat' first
    | with_reducible assumption | with_reducible apply KeepsR.next | with_reducible apply State_tickBoundary_keeps
    | with_reducible apply State_advance_keeps | split

theorem execEventFlit_keeps (t : Nat) (k : Fin 16) (s : State) : KeepsR s (execEventFlit t k s) := by
  have h := Keeps.refl s
  unfold execEventFlit
  try dsimp -iota only
  repeat' first
    | with_reducible assumption | with_reducible apply KeepsR.next | with_reducible apply State_eventFlit_keeps
    | with_reducible apply State_advance_keeps | split

theorem execStreamQueueDeliver_keeps (t : Nat) (k : Fin 16) (str : Fin 36) (s : State) : KeepsR s (execStreamQueueDeliver t k str s) := by
  have h := Keeps.refl s
  unfold execStreamQueueDeliver
  try dsimp -iota only
  repeat' first
    | with_reducible assumption | with_reducible apply KeepsR.next | with_reducible apply State_queueDeliver_keeps
    | with_reducible apply State_advance_keeps | split

theorem execReplayFlit_keeps (t : Nat) (k : Fin 16) (s : State) : KeepsR s (execReplayFlit t k s) := by
  have h := Keeps.refl s
  unfold execReplayFlit
  try dsimp -iota only
  repeat' first
    | with_reducible assumption | with_reducible apply KeepsR.next | with_reducible apply State_replayFlit_keeps
    | with_reducible apply State_advance_keeps | split

theorem execCwrite_keeps (t : Nat) (k : Fin 16) (s : State) : KeepsR s (execCwrite t k s) := by
  have h := Keeps.refl s
  unfold execCwrite
  try dsimp -iota only
  repeat' first
    | with_reducible assumption | with_reducible apply KeepsR.next | with_reducible apply State_cwrite_keeps
    | with_reducible apply State_advance_keeps | split

theorem execScrubVisit_keeps (t : Nat) (k : Fin 16) (ln : Nat) (s : State) : KeepsR s (execScrubVisit t k ln s) := by
  have h := Keeps.refl s
  unfold execScrubVisit
  try dsimp -iota only
  repeat' first
    | with_reducible assumption | with_reducible apply KeepsR.next | with_reducible apply State_scrubLine_keeps
    | with_reducible apply State_advance_keeps | split

theorem execLedgerTickAdvance_keeps (t : Nat) (k : Fin 16) (s : State) : KeepsR s (execLedgerTickAdvance t k s) := by
  have h := Keeps.refl s
  unfold execLedgerTickAdvance
  try dsimp -iota only
  repeat' first
    | with_reducible assumption | with_reducible apply KeepsR.next | with_reducible apply State_tickAdvance_keeps
    | with_reducible apply State_advance_keeps | split

theorem execNreq_keeps (t : Nat) (k : Fin 16) (s : State) : KeepsR s (execNreq t k s) := by
  have h := Keeps.refl s
  unfold execNreq
  try dsimp -iota only
  repeat' first
    | with_reducible assumption | with_reducible apply KeepsR.next | with_reducible apply State_nreq_keeps
    | with_reducible apply State_advance_keeps | split

theorem execNbrServe_keeps (t : Nat) (k : Fin 16) (s : State) : KeepsR s (execNbrServe t k s) := by
  have h := Keeps.refl s
  unfold execNbrServe
  try dsimp -iota only
  repeat' first
    | with_reducible assumption | with_reducible apply KeepsR.next | with_reducible apply State_nbrServe_keeps
    | with_reducible apply State_advance_keeps | split

theorem execNrsp_keeps (t : Nat) (core : Fin 4096) (s : State) : KeepsR s (execNrsp t core s) := by
  have h := Keeps.refl s
  unfold execNrsp
  try dsimp -iota only
  repeat' first
    | with_reducible assumption | with_reducible apply KeepsR.next | with_reducible apply State_nrsp_keeps
    | with_reducible apply State_advance_keeps | split

theorem execFenceSettle_keeps (t : Nat) (k : Fin 16) (d : Fin 64) (s : State) : KeepsR s (execFenceSettle t k d s) := by
  have h := Keeps.refl s
  unfold execFenceSettle
  try dsimp -iota only
  repeat' first
    | with_reducible assumption | with_reducible apply KeepsR.next | with_reducible apply State_fenceSettle_keeps
    | with_reducible apply State_advance_keeps | split

theorem execFenceAdvance_keeps (t : Nat) (k : Fin 16) (d : Fin 64) (s : State) : KeepsR s (execFenceAdvance t k d s) := by
  have h := Keeps.refl s
  unfold execFenceAdvance
  try dsimp -iota only
  repeat' first
    | with_reducible assumption | with_reducible apply KeepsR.next | with_reducible apply State_fenceAdvance_keeps
    | with_reducible apply State_advance_keeps | split

theorem execDescEnable_keeps (t : Nat) (c : Sys2Proof.Req) (k : Fin 16) (v : Sys2Proof.Word) (s : State) : KeepsR s (execDescEnable t c k v s) := by
  have h := Keeps.refl s
  unfold execDescEnable
  try dsimp -iota only
  repeat' first
    | with_reducible assumption | with_reducible apply KeepsR.next | with_reducible apply State_cmdWrite_keeps
    | with_reducible apply State_descCtrl_keeps | split | (intro _ _; try dsimp -iota only)

theorem execDescDisable_keeps (t : Nat) (c : Sys2Proof.Req) (k : Fin 16) (v : Sys2Proof.Word) (s : State) : KeepsR s (execDescDisable t c k v s) := by
  have h := Keeps.refl s
  unfold execDescDisable
  try dsimp -iota only
  repeat' first
    | with_reducible assumption | with_reducible apply KeepsR.next | with_reducible apply State_cmdWrite_keeps
    | with_reducible apply State_descCtrl_keeps | split | (intro _ _; try dsimp -iota only)

theorem execLedgerCacheFill_keeps (t : Nat) (k : Fin 16) (ln : Nat) (s : State) : KeepsR s (execLedgerCacheFill t k ln s) := by
  have h := Keeps.refl s
  unfold execLedgerCacheFill
  try dsimp -iota only
  repeat' first
    | with_reducible assumption | with_reducible apply KeepsR.next | with_reducible apply State_advance_keeps
    | with_reducible apply State_upBank_keeps | with_reducible apply State_writeBack_keeps
    | with_reducible apply State_cacheFill_keeps | split

theorem execProgress_keeps (t : Nat) (k : Fin 16) (s : State) : KeepsR s (execProgress t k s) := by
  have h := Keeps.refl s
  unfold execProgress
  try dsimp -iota only
  repeat' first
    | with_reducible assumption | with_reducible apply KeepsR.next | with_reducible apply State_progress_keeps
    | with_reducible apply State_advance_keeps | split

theorem execArrivalEnqueue_keeps (t : Nat) (core : Fin 4096) (s : State) : KeepsR s (execArrivalEnqueue t core s) := by
  have h := Keeps.refl s
  unfold execArrivalEnqueue
  try dsimp -iota only
  repeat' first
    | with_reducible assumption | with_reducible apply KeepsR.next | with_reducible apply State_arrive_keeps
    | with_reducible apply State_advance_keeps | split

theorem execArrivalRelease_keeps (t : Nat) (core : Fin 4096) (s : State) : KeepsR s (execArrivalRelease t core s) := by
  have h := Keeps.refl s
  unfold execArrivalRelease
  try dsimp -iota only
  repeat' first
    | with_reducible assumption | with_reducible apply KeepsR.next | with_reducible apply State_offerWaiting_keeps
    | with_reducible apply State_release_keeps | with_reducible apply State_advance_keeps | split

theorem execTickCloseSteps_keeps (t : Nat) (core : Fin 4096) (s : State) : KeepsR s (execTickCloseSteps t core s) := by
  have h := Keeps.refl s
  unfold execTickCloseSteps
  try dsimp -iota only
  repeat' first
    | with_reducible assumption | with_reducible apply KeepsR.next | with_reducible apply State_tickClose_keeps
    | with_reducible apply State_advance_keeps | split

theorem execRunWrite_keeps (t : Nat) (c : Sys2Proof.Req) (core : Fin 4096) (v : Sys2Proof.Word) (s : State) : KeepsR s (execRunWrite t c core v s) := by
  have h := Keeps.refl s
  unfold execRunWrite
  try dsimp -iota only
  repeat' first
    | with_reducible assumption | with_reducible apply KeepsR.next | with_reducible apply State_cmdWrite_keeps
    | with_reducible apply State_coreCtrl_keeps | split | (intro _ _; try dsimp -iota only)

theorem execSpikeFlit_keeps (t : Nat) (k : Fin 16) (s : State) : KeepsR s (execSpikeFlit t k s) := by
  have h := Keeps.refl s
  unfold execSpikeFlit
  try dsimp -iota only
  repeat' first
    | with_reducible assumption | with_reducible apply KeepsR.next | with_reducible apply State_spikeFlit_keeps
    | with_reducible apply State_advance_keeps | split

theorem execEscapeEntry_keeps (t : Nat) (k : Fin 16) (s : State) : KeepsR s (execEscapeEntry t k s) := by
  have h := Keeps.refl s
  unfold execEscapeEntry
  try dsimp -iota only
  repeat' first
    | with_reducible assumption | with_reducible apply KeepsR.next | with_reducible apply State_escapeEntry_keeps
    | with_reducible apply State_advance_keeps | split

theorem execEscapeDrain_keeps (t : Nat) (k : Fin 16) (s : State) : KeepsR s (execEscapeDrain t k s) := by
  have h := Keeps.refl s
  unfold execEscapeDrain
  try dsimp -iota only
  repeat' first
    | with_reducible assumption | with_reducible apply KeepsR.next | with_reducible apply State_escapeDrain_keeps
    | with_reducible apply State_advance_keeps | split

theorem execSubwinWrite_keeps (t : Nat) (c : Sys2Proof.Req) (k : Fin 16) (v : Sys2Proof.Word) (s : State) : KeepsR s (execSubwinWrite t c k v s) := by
  have h := Keeps.refl s
  unfold execSubwinWrite
  try dsimp -iota only
  repeat' first
    | with_reducible assumption | with_reducible apply KeepsR.next | with_reducible apply State_cmdWrite_keeps
    | with_reducible apply State_subwinWrite_keeps | split | (intro _ _; try dsimp -iota only)

theorem execSubHiWrite_keeps (t : Nat) (c : Sys2Proof.Req) (k : Fin 16) (v : Sys2Proof.Word) (s : State) : KeepsR s (execSubHiWrite t c k v s) := by
  have h := Keeps.refl s
  unfold execSubHiWrite
  try dsimp -iota only
  repeat' first
    | with_reducible assumption | with_reducible apply KeepsR.next | with_reducible apply State_cmdWrite_keeps
    | with_reducible apply State_subHiWrite_keeps | split | (intro _ _; try dsimp -iota only)

theorem execRtHiWrite_keeps (t : Nat) (c : Sys2Proof.Req) (k : Fin 16) (v : Sys2Proof.Word) (s : State) : KeepsR s (execRtHiWrite t c k v s) := by
  have h := Keeps.refl s
  unfold execRtHiWrite
  try dsimp -iota only
  repeat' first
    | with_reducible assumption | with_reducible apply KeepsR.next | with_reducible apply State_cmdWrite_keeps
    | with_reducible apply State_rtHiWrite_keeps | split | (intro _ _; try dsimp -iota only)

theorem execGtMask7Write_keeps (t : Nat) (c : Sys2Proof.Req) (k : Fin 16) (v : Sys2Proof.Word) (s : State) : KeepsR s (execGtMask7Write t c k v s) := by
  have h := Keeps.refl s
  unfold execGtMask7Write
  try dsimp -iota only
  repeat' first
    | with_reducible assumption | with_reducible apply KeepsR.next | with_reducible apply State_cmdWrite_keeps
    | with_reducible apply State_gtMask7Write_keeps | split | (intro _ _; try dsimp -iota only)

theorem execAck_keeps (t : Nat) (core : Fin 4096) (s : State) : KeepsR s (execAck t core s) := by
  have h := Keeps.refl s
  unfold execAck
  try dsimp -iota only
  repeat' first
    | with_reducible assumption | with_reducible apply KeepsR.next | with_reducible apply State_ack_keeps
    | with_reducible apply State_advance_keeps | split

end Sys2Proof.Machine
end

