-- ==== Sys2Proof/Laws/KeepsMatrixCore.lean ====
section
/-!
SUPPORT. `Keeps` for the functions of Machine/MatrixCore.lean: each leaves the queue alone, drops no output and keeps the canonical forms.
-/
set_option linter.unusedVariables false
namespace Sys2Proof.Machine
open Regs

theorem State_upMx_keeps {a : State} (s : State) (m : Nat) (f : Mx → Mx) (h : Keeps a s)  : Keeps a (State.upMx s m f) := by
  unfold State.upMx
  try dsimp -iota only
  repeat' first
    | with_reducible assumption | split | with_reducible exact List.prefix_refl _ | with_reducible exact Nat.le_refl _
    | with_reducible exact id | with_reducible exact Tab.rising_put _ _ _ _ | with_reducible exact List.prefix_append _ _
    | with_reducible exact Nat.le_succ _ | (intro _; try dsimp -iota only) | with_reducible apply Keeps.upd (hp := rfl)

theorem State_upTok_keeps {a : State} (s : State) (k : Nat) (f : Tok → Tok) (h : Keeps a s)  : Keeps a (State.upTok s k f) := by
  unfold State.upTok
  try dsimp -iota only
  repeat' first
    | with_reducible assumption | split | with_reducible exact List.prefix_refl _ | with_reducible exact Nat.le_refl _
    | with_reducible exact id | with_reducible exact Tab.rising_put _ _ _ _ | with_reducible exact List.prefix_append _ _
    | with_reducible exact Nat.le_succ _ | (intro _; try dsimp -iota only) | with_reducible apply Keeps.upd (hp := rfl)

theorem State_tokStore_keeps {a : State} (s : State) (k : Nat) (p : TokPend) (h : Keeps a s)  : Keeps a (State.tokStore s k p) := by
  unfold State.tokStore
  try dsimp -iota only
  repeat' first
    | with_reducible assumption | with_reducible apply State_inc_keeps | with_reducible apply State_upTok_keeps
    | with_reducible refine Keeps.foldl ?_ ?_ | with_reducible refine Keeps.foldl_snd ?_ ?_
    | with_reducible refine Keeps.foldl_thd ?_ ?_ | with_reducible refine Keeps.foldl_fst ?_ ?_ | split
    | with_reducible exact List.prefix_refl _ | with_reducible exact Nat.le_refl _ | with_reducible exact id
    | with_reducible exact Tab.rising_put _ _ _ _ | with_reducible exact List.prefix_append _ _
    | with_reducible exact Nat.le_succ _ | with_reducible apply Mem.wf_wrLE | with_reducible refine Mem.wf_foldl _ ?_ _ _ ?_
    | (intro _ _ _; try dsimp -iota only) | (intro _ _; try dsimp -iota only) | (intro _; try dsimp -iota only)
    | with_reducible apply Keeps.upd (hp := rfl)

theorem State_setTokFence_keeps {a : State} (s : State) (k : Nat) (b : Nat) (f : Option Fence) (h : Keeps a s)  : Keeps a (State.setTokFence s k b f) := by
  unfold State.setTokFence
  try dsimp -iota only
  repeat' first
    | with_reducible assumption | with_reducible apply State_upTok_keeps | split

theorem State_tokApply_keeps {a : State} (s : State) (k : Nat) (p : TokPend) (h : Keeps a s)  : Keeps a (State.tokApply s k p) := by
  unfold State.tokApply
  try dsimp -iota only
  repeat' first
    | with_reducible assumption | with_reducible apply State_irqSet_keeps | with_reducible apply State_inc_keeps
    | with_reducible apply State_tokStore_keeps | split

theorem State_tokTake_keeps {a : State} (s : State) (k : Nat) (core : Nat) (ws : List Nat) (h : Keeps a s)  : Keeps a (State.tokTake s k core ws) := by
  unfold State.tokTake
  try dsimp -iota only
  repeat' first
    | with_reducible assumption | with_reducible apply State_inc_keeps | with_reducible apply State_upTok_keeps
    | with_reducible apply State_tokApply_keeps | split

theorem State_tokenIn_keeps {a : State} (s : State) (k : Nat) (h : Keeps a s)  : Keeps a (State.tokenIn s k) := by
  unfold State.tokenIn
  try dsimp -iota only
  repeat' first
    | with_reducible assumption | with_reducible apply State_waitBegin_keeps
    | with_reducible apply State_takeUnit_keeps (e := by with_reducible assumption) | with_reducible apply State_tokTake_keeps
    | with_reducible apply State_ackTo_keeps | with_reducible apply State_inc_keeps | split

theorem State_tokFreed_keeps {a : State} (s : State) (k : Nat) (h : Keeps a s)  : Keeps a (State.tokFreed s k) := by
  unfold State.tokFreed
  try dsimp -iota only
  repeat' first
    | with_reducible assumption | with_reducible apply State_waitEnd_keeps | split

theorem State_tokPendApply_keeps {a : State} (s : State) (k : Nat) (p : TokPend → Bool) (h : Keeps a s)  : Keeps a (State.tokPendApply s k p) := by
  unfold State.tokPendApply
  try dsimp -iota only
  repeat' first
    | with_reducible assumption | with_reducible apply State_tokApply_keeps | with_reducible apply State_tokFreed_keeps
    | with_reducible apply State_upTok_keeps | with_reducible refine Keeps.foldl ?_ ?_
    | with_reducible refine Keeps.foldl_snd ?_ ?_ | with_reducible refine Keeps.foldl_thd ?_ ?_
    | with_reducible refine Keeps.foldl_fst ?_ ?_ | split | (intro _ _ _; try dsimp -iota only)
    | (intro _ _; try dsimp -iota only)

theorem State_tokAdvance_keeps {a : State} (s : State) (k : Nat) (b : Nat) (h : Keeps a s)  : Keeps a (State.tokAdvance s k b) := by
  unfold State.tokAdvance
  try dsimp -iota only
  repeat' first
    | with_reducible assumption | with_reducible apply State_irqSet_keeps | with_reducible apply State_inc_keeps
    | with_reducible apply State_setTokFence_keeps | with_reducible apply State_tokPendApply_keeps | split

theorem State_tokFencesStart_keeps {a : State} (s : State) (g : Nat) (n : Nat) (f : Nat) (h : Keeps a s)  : Keeps a (State.tokFencesStart s g n f) := by
  unfold State.tokFencesStart
  try dsimp -iota only
  repeat' first
    | with_reducible assumption | with_reducible apply State_setTokFence_keeps | with_reducible refine Keeps.foldl ?_ ?_
    | with_reducible refine Keeps.foldl_snd ?_ ?_ | with_reducible refine Keeps.foldl_thd ?_ ?_
    | with_reducible refine Keeps.foldl_fst ?_ ?_ | split | (intro _ _ _; try dsimp -iota only)
    | (intro _ _; try dsimp -iota only)

theorem State_tokFencesStop_keeps {a : State} (s : State) (g : Nat) (h : Keeps a s)  : Keeps a (State.tokFencesStop s g) := by
  unfold State.tokFencesStop
  try dsimp -iota only
  repeat' first
    | with_reducible assumption | with_reducible apply State_tokPendApply_keeps | with_reducible apply State_setTokFence_keeps
    | with_reducible refine Keeps.foldl ?_ ?_ | with_reducible refine Keeps.foldl_snd ?_ ?_
    | with_reducible refine Keeps.foldl_thd ?_ ?_ | with_reducible refine Keeps.foldl_fst ?_ ?_ | split
    | (intro _ _ _; try dsimp -iota only) | (intro _ _; try dsimp -iota only)

theorem State_tokEmpty_keeps {a : State} (s : State) (k : Nat) (p : Nat → Bool) (h : Keeps a s)  : Keeps a (State.tokEmpty s k p) := by
  unfold State.tokEmpty
  try dsimp -iota only
  repeat' first
    | with_reducible assumption | with_reducible apply State_upTok_keeps | split

theorem State_tokDisable_keeps {a : State} (s : State) (k : Nat) (b : Nat) (h : Keeps a s)  : Keeps a (State.tokDisable s k b) := by
  unfold State.tokDisable
  try dsimp -iota only
  repeat' first
    | with_reducible assumption | with_reducible apply State_tokFreed_keeps | with_reducible apply State_upTok_keeps
    | with_reducible apply State_tokEmpty_keeps | with_reducible apply State_setTokFence_keeps | split

theorem State_tokCtrl_keeps {a : State} (s : State) (k : Nat) (v : Sys2Proof.Word) (h : Keeps a s)  : Keeps a (State.tokCtrl s k v) := by
  unfold State.tokCtrl
  try dsimp -iota only
  repeat' first
    | with_reducible assumption | with_reducible apply State_errParam_keeps | with_reducible apply State_rs_keeps
    | with_reducible apply State_tokDisable_keeps | with_reducible apply State_tokEmpty_keeps
    | with_reducible apply State_setTokFence_keeps | with_reducible refine Keeps.foldl ?_ ?_
    | with_reducible refine Keeps.foldl_snd ?_ ?_ | with_reducible refine Keeps.foldl_thd ?_ ?_
    | with_reducible refine Keeps.foldl_fst ?_ ?_ | split | (intro _ _ _; try dsimp -iota only)
    | (intro _ _; try dsimp -iota only)

theorem State_releaseIn_keeps {a : State} (s : State) (k : Nat) (h : Keeps a s)  : Keeps a (State.releaseIn s k) := by
  unfold State.releaseIn
  try dsimp -iota only
  repeat' first
    | with_reducible assumption | with_reducible apply State_takeFlit_keeps (e := by with_reducible assumption)
    | with_reducible apply State_setTokFence_keeps | with_reducible apply State_setFence_keeps
    | with_reducible apply State_ledgerRelease_keeps | split

theorem State_gatherLedger_keeps {a : State} (s : State) (m : Nat) (d : Nat) (n : Nat) (f : Nat) {s' : State} (h : Keeps a s)  (e : State.gatherLedger s m d n f = .ok (some s')) : Keeps a s' := by
  unfold State.gatherLedger at e
  try dsimp -iota only at e
  repeat' first | (with_reducible obtain ⟨_, _, e⟩ := except_bind_ok e) | split at e
  all_goals (try cases e)
  repeat' first
    | with_reducible assumption | with_reducible apply State_fenceRead_keeps | with_reducible apply State_cacheUse_keeps
    | with_reducible apply State_putVals_keeps | with_reducible apply State_putWords_keeps
    | with_reducible apply State_inc_keeps | with_reducible refine Keeps.foldl ?_ ?_
    | with_reducible refine Keeps.foldl_snd ?_ ?_ | with_reducible refine Keeps.foldl_thd ?_ ?_
    | with_reducible refine Keeps.foldl_fst ?_ ?_ | split | (intro _ _ _; try dsimp -iota only)
    | (intro _ _; try dsimp -iota only)

theorem State_gatherTokens_keeps {a : State} (s : State) (m : Nat) (d : Nat) (n : Nat) (f : Nat) {s' : State} (h : Keeps a s)  (e : State.gatherTokens s m d n f = .ok (some s')) : Keeps a s' := by
  unfold State.gatherTokens at e
  try dsimp -iota only at e
  repeat' first | (with_reducible obtain ⟨_, _, e⟩ := except_bind_ok e) | split at e
  all_goals (try cases e)
  repeat' first
    | with_reducible assumption | with_reducible apply State_setTokFence_keeps | with_reducible apply State_inc_keeps
    | with_reducible refine Keeps.foldl ?_ ?_ | with_reducible refine Keeps.foldl_snd ?_ ?_
    | with_reducible refine Keeps.foldl_thd ?_ ?_ | with_reducible refine Keeps.foldl_fst ?_ ?_ | split
    | with_reducible exact List.prefix_refl _ | with_reducible exact Nat.le_refl _ | with_reducible exact id
    | with_reducible exact List.prefix_append _ _ | with_reducible exact Nat.le_succ _ | with_reducible apply Mem.wf_wrLE
    | with_reducible apply Mem.wf_wrBytes | with_reducible refine Mem.wf_foldl _ ?_ _ _ ?_
    | (intro _ _ _; try dsimp -iota only) | (intro _ _; try dsimp -iota only) | (intro _; try dsimp -iota only)
    | with_reducible apply Keeps.upd (hp := rfl)

theorem State_dmaPut_keeps {a : State} (s : State) (m : Nat) (tag : Nat) (dst : Nat) (data : List Sys2Proof.Byte) (h : Keeps a s)  : Keeps a (State.dmaPut s m tag dst data) := by
  unfold State.dmaPut
  try dsimp -iota only
  repeat' first
    | with_reducible assumption | with_reducible apply State_inc_keeps | with_reducible apply State_upMx_keeps
    | with_reducible apply State_send_keeps | split | with_reducible exact List.prefix_refl _
    | with_reducible exact Nat.le_refl _ | with_reducible exact id | with_reducible exact List.prefix_append _ _
    | with_reducible exact Nat.le_succ _ | with_reducible apply Mem.wf_wrBytes | (intro _; try dsimp -iota only)
    | with_reducible apply Keeps.upd (hp := rfl)

theorem State_dmaOne_keeps {a : State} (s : State) (m : Nat) (tag : Nat) (src : Nat) (dst : Nat) (len : Nat) (h : Keeps a s)  : Keeps a (State.dmaOne s m tag src dst len) := by
  unfold State.dmaOne
  try dsimp -iota only
  repeat' first
    | with_reducible assumption | with_reducible apply State_linkMoved_keeps | with_reducible apply State_dmaPut_keeps
    | with_reducible apply State_upMx_keeps | with_reducible apply State_send_keeps | split

theorem State_dmaIssue_keeps {a : State} (s : State) (m : Nat) (x2 : Nat) (h : Keeps a s)  : Keeps a (State.dmaIssue s m x2) := by
  induction x2 generalizing s with
  | zero =>
    unfold State.dmaIssue
    try dsimp -iota only
    repeat' first
      | with_reducible assumption | with_reducible apply State_linkWait_keeps | with_reducible apply State_dmaOne_keeps
      | with_reducible apply State_upMx_keeps | split
  | succ n ih =>
    unfold State.dmaIssue
    try dsimp -iota only
    repeat' first
      | with_reducible apply ih | with_reducible assumption | with_reducible apply State_linkWait_keeps | with_reducible apply State_dmaOne_keeps
      | with_reducible apply State_upMx_keeps | split

theorem State_dmaSettle_keeps {a : State} (s : State) (m : Nat) (h : Keeps a s)  : Keeps a (State.dmaSettle s m) := by
  unfold State.dmaSettle
  try dsimp -iota only
  repeat' first
    | with_reducible assumption | with_reducible apply State_upMx_keeps | split

theorem State_dmaMore_keeps {a : State} (s : State) (m : Nat) (h : Keeps a s)  : Keeps a (State.dmaMore s m) := by
  unfold State.dmaMore
  try dsimp -iota only
  repeat' first
    | with_reducible assumption | with_reducible apply State_dmaSettle_keeps | with_reducible apply State_dmaIssue_keeps
    | split

theorem State_mxGo_keeps {a : State} (s : State) (h : Keeps a s)  : Keeps a (State.mxGo s) := by
  unfold State.mxGo
  try dsimp -iota only
  repeat' first
    | with_reducible assumption | with_reducible apply State_dmaMore_keeps | with_reducible refine Keeps.foldl ?_ ?_
    | with_reducible refine Keeps.foldl_snd ?_ ?_ | with_reducible refine Keeps.foldl_thd ?_ ?_
    | with_reducible refine Keeps.foldl_fst ?_ ?_ | split | (intro _ _ _; try dsimp -iota only)
    | (intro _ _; try dsimp -iota only)

theorem State_dmaLand_keeps {a : State} (s : State) (m : Nat) (tag : Nat) (h : Keeps a s)  : Keeps a (State.dmaLand s m tag) := by
  unfold State.dmaLand
  try dsimp -iota only
  repeat' first
    | with_reducible assumption | with_reducible apply State_dmaMore_keeps | with_reducible apply State_inc_keeps
    | with_reducible apply State_upMx_keeps | split

theorem State_dma_keeps {a : State} (s : State) (m : Nat) (d : Nat) (i : Nat) {s' : State} (h : Keeps a s)  (e : State.dma s m d i = .ok s') : Keeps a s' := by
  unfold State.dma at e
  try dsimp -iota only at e
  repeat' first | (with_reducible obtain ⟨_, _, e⟩ := except_bind_ok e) | split at e
  all_goals (try cases e)
  repeat' first
    | with_reducible assumption | with_reducible apply State_upMx_keeps | with_reducible apply State_dmaSettle_keeps
    | with_reducible apply State_dmaIssue_keeps | split

theorem State_resultSend_keeps {a : State} (s : State) (m : Nat) (d : Nat) (slot : Nat) {s' : State} (h : Keeps a s)  (e : State.resultSend s m d slot = .ok s') : Keeps a s' := by
  unfold State.resultSend at e
  try dsimp -iota only at e
  repeat' first | (with_reducible obtain ⟨_, _, e⟩ := except_bind_ok e) | split at e
  all_goals (try cases e)
  repeat' first
    | with_reducible assumption | with_reducible apply State_send_keeps | split

theorem State_fillQueue_keeps {a : State} (s : State) (m : Nat) (h : Keeps a s)  : Keeps a (State.fillQueue s m) := by
  unfold State.fillQueue
  try dsimp -iota only
  repeat' first
    | with_reducible assumption | with_reducible apply State_upMx_keeps | split

theorem State_mxBegin_keeps {a : State} (s : State) (m : Nat) (slot : Option Nat) (f : Nat) (tj : Int) (d : Nat) (h : Keeps a s)  : Keeps a (State.mxBegin s m slot f tj d) := by
  unfold State.mxBegin
  try dsimp -iota only
  repeat' first
    | with_reducible assumption | with_reducible apply State_rb_keeps | with_reducible apply State_upMx_keeps
    | with_reducible apply State_rs_keeps | with_reducible apply State_fillQueue_keeps | split

theorem State_mxEnd_keeps {a : State} (s : State) (m : Nat) (st : Nat) (h : Keeps a s)  : Keeps a (State.mxEnd s m st) := by
  unfold State.mxEnd
  try dsimp -iota only
  repeat' first
    | with_reducible assumption | with_reducible apply State_rb_keeps | with_reducible apply State_upMx_keeps
    | with_reducible apply State_rs_keeps | with_reducible apply State_send_keeps | split

theorem State_mxFault_keeps {a : State} (s : State) (m : Nat) (i : Nat) (code : Nat) (h : Keeps a s)  : Keeps a (State.mxFault s m i code) := by
  unfold State.mxFault
  try dsimp -iota only
  repeat' first
    | with_reducible assumption | with_reducible apply State_rb_keeps | with_reducible apply State_rs_keeps
    | with_reducible apply State_mxEnd_keeps | with_reducible apply State_irqSet_keeps | with_reducible apply State_inc_keeps
    | split

theorem State_mxAbort_keeps {a : State} (s : State) (m : Nat) (h : Keeps a s)  : Keeps a (State.mxAbort s m) := by
  unfold State.mxAbort
  try dsimp -iota only
  repeat' first
    | with_reducible assumption | with_reducible apply State_mxEnd_keeps | with_reducible apply State_irqSet_keeps
    | with_reducible apply State_inc_keeps | split

theorem State_mxSlotStart_keeps {a : State} (s : State) (m : Nat) (tj : Int) (d : Nat) (h : Keeps a s)  : Keeps a (State.mxSlotStart s m tj d) := by
  unfold State.mxSlotStart
  try dsimp -iota only
  repeat' first
    | with_reducible assumption | with_reducible apply State_mxBegin_keeps | with_reducible apply State_mxAbort_keeps | split

theorem State_semsGive_keeps {a : State} (s : State) (m : Nat) (mask : Nat) (h : Keeps a s)  : Keeps a (State.semsGive s m mask) := by
  unfold State.semsGive
  try dsimp -iota only
  repeat' first
    | with_reducible assumption | with_reducible apply State_inc_keeps | with_reducible apply State_upMx_keeps | split

theorem State_mxDispatch_keeps {a : State} (s : State) (m : Nat) (h : Keeps a s)  : Keeps a (State.mxDispatch s m) := by
  unfold State.mxDispatch
  try dsimp -iota only
  repeat' first
    | with_reducible assumption | with_reducible apply State_mxFault_keeps | with_reducible apply State_fillQueue_keeps
    | with_reducible apply State_upMx_keeps | split

theorem State_mxVisible_keeps {a : State} (s : State) (m : Nat) (u : Nat) (i : Nat) (h : Keeps a s)  : Keeps a (State.mxVisible s m u i) := by
  unfold State.mxVisible
  try dsimp -iota only
  repeat' first
    | with_reducible assumption | with_reducible apply State_upMx_keeps | split

theorem State_mxRun_keeps {a : State} (s : State) (m : Nat) (op : Nat) (f : Nat → DRes) (h : Keeps a s) (h_f : ∀ x s', f x = .ok s' → Keeps a s') : Keeps a (State.mxRun s m op f) := by
  unfold State.mxRun
  try dsimp -iota only
  repeat' first
    | with_reducible assumption | with_reducible exact h_f _ ‹_› | with_reducible refine h_f _ _ _ _ _ ‹_› ?_
    | with_reducible exact h_f _ _ _ _ _ ‹_› ‹_› | with_reducible exact h_f _ _ ‹_› | with_reducible exact h_f _ _ _ _ ‹_›
    | with_reducible apply State_mxVisible_keeps | with_reducible apply State_mxFault_keeps | split
    | (intro _ _; try dsimp -iota only)

theorem State_mxGather_keeps {a : State} (s : State) (m : Nat) (mode : Nat) (f : Nat → Nat → Nat → Except Nat (Option State)) (h : Keeps a s) (h_f : ∀ x y z s', f x y z = .ok (some s') → Keeps a s') : Keeps a (State.mxGather s m mode f) := by
  unfold State.mxGather
  try dsimp -iota only
  repeat' first
    | with_reducible assumption | with_reducible exact h_f _ ‹_› | with_reducible refine h_f _ _ _ _ _ ‹_› ?_
    | with_reducible exact h_f _ _ _ _ _ ‹_› ‹_› | with_reducible exact h_f _ _ ‹_› | with_reducible exact h_f _ _ _ _ ‹_›
    | with_reducible apply State_mxVisible_keeps | with_reducible apply State_mxFault_keeps | split
    | (intro _ _; try dsimp -iota only)

theorem State_sendRelease_keeps {a : State} (s : State) (m : Nat) (x2 : Nat) (h : Keeps a s)  : Keeps a (State.sendRelease s m x2) := by
  unfold State.sendRelease
  try dsimp -iota only
  repeat' first
    | with_reducible assumption | with_reducible apply State_send_keeps | split

theorem State_peerSignal_keeps {a : State} (s : State) (m : Nat) (x2 : Nat) (h : Keeps a s)  : Keeps a (State.peerSignal s m x2) := by
  unfold State.peerSignal
  try dsimp -iota only
  repeat' first
    | with_reducible assumption | with_reducible apply State_semsGive_keeps | split

theorem State_mxDone_keeps {a : State} (s : State) (m : Nat) (h : Keeps a s)  : Keeps a (State.mxDone s m) := by
  unfold State.mxDone
  try dsimp -iota only
  repeat' first
    | with_reducible assumption | with_reducible apply State_upMx_keeps | with_reducible apply State_sendRelease_keeps
    | with_reducible apply State_rs_keeps | with_reducible apply State_semsGive_keeps
    | with_reducible apply State_peerSignal_keeps | with_reducible apply State_irqSet_keeps
    | with_reducible apply State_mxEnd_keeps | with_reducible apply State_inc_keeps | split

theorem State_mxStartWrite_keeps {a : State} (s : State) (m : Nat) (v : Sys2Proof.Word) (h : Keeps a s)  : Keeps a (State.mxStartWrite s m v) := by
  unfold State.mxStartWrite
  try dsimp -iota only
  repeat' first
    | with_reducible assumption | with_reducible apply State_errParam_keeps
    | with_reducible apply State_takeFree_keeps (e := pair_eta _)
    | with_reducible apply State_takeFree_keeps (e := by with_reducible assumption) | with_reducible apply State_mxBegin_keeps
    | split

theorem State_mxReset_keeps {a : State} (s : State) (m : Nat) (h : Keeps a s)  : Keeps a (State.mxReset s m) := by
  unfold State.mxReset
  try dsimp -iota only
  repeat' first
    | with_reducible assumption | with_reducible apply State_tokEmpty_keeps | split | with_reducible exact List.prefix_refl _
    | with_reducible exact Nat.le_refl _ | with_reducible exact id | with_reducible exact Tab.rising_put _ _ _ _
    | with_reducible exact Tab.rising_keep _ _ | with_reducible exact List.prefix_append _ _
    | with_reducible exact Nat.le_succ _ | with_reducible apply Mem.wf_keep | (intro _; try dsimp -iota only)
    | with_reducible apply Keeps.upd (hp := rfl)

theorem State_ddrAsk_keeps {a : State} (s : State) (r : DdrReq) (h : Keeps a s)  : Keeps a (State.ddrAsk s r) := by
  unfold State.ddrAsk
  try dsimp -iota only
  repeat' first
    | with_reducible assumption | split | with_reducible exact List.prefix_refl _ | with_reducible exact Nat.le_refl _
    | with_reducible exact id | with_reducible exact Tab.rising_put _ _ _ _ | with_reducible exact List.prefix_append _ _
    | with_reducible exact Nat.le_succ _ | (intro _; try dsimp -iota only) | with_reducible apply Keeps.upd (hp := rfl)

theorem State_writeFlit_keeps {a : State} (s : State) (h : Keeps a s)  : Keeps a (State.writeFlit s) := by
  unfold State.writeFlit
  try dsimp -iota only
  repeat' first
    | with_reducible assumption | with_reducible apply State_takeUnit_keeps (e := by with_reducible assumption)
    | with_reducible apply State_mxGo_keeps | with_reducible apply State_ddrAsk_keeps
    | with_reducible apply State_dmaLand_keeps | split | with_reducible exact List.prefix_refl _
    | with_reducible exact Nat.le_refl _ | with_reducible exact id | with_reducible exact List.prefix_append _ _
    | with_reducible exact Nat.le_succ _ | with_reducible apply Mem.wf_wrBytes | (intro _; try dsimp -iota only)
    | with_reducible apply Keeps.upd (hp := rfl)

theorem State_readAnswer_keeps {a : State} (s : State) (src : Nat) (m : Nat) (tag : Nat) (data : List Sys2Proof.Byte) (h : Keeps a s)  : Keeps a (State.readAnswer s src m tag data) := by
  unfold State.readAnswer
  try dsimp -iota only
  repeat' first
    | with_reducible assumption | with_reducible apply State_send_keeps | split

theorem State_readFlit_keeps {a : State} (s : State) (h : Keeps a s)  : Keeps a (State.readFlit s) := by
  unfold State.readFlit
  try dsimp -iota only
  repeat' first
    | with_reducible assumption | with_reducible apply State_takeUnit_keeps (e := by with_reducible assumption)
    | with_reducible apply State_mxGo_keeps | with_reducible apply State_ddrAsk_keeps
    | with_reducible apply State_readAnswer_keeps | split

theorem State_readRsp_keeps {a : State} (s : State) (h : Keeps a s)  : Keeps a (State.readRsp s) := by
  unfold State.readRsp
  try dsimp -iota only
  repeat' first
    | with_reducible assumption | with_reducible apply State_takeFlit_keeps (e := by with_reducible assumption)
    | with_reducible apply State_dmaMore_keeps | with_reducible apply State_dmaPut_keeps | split

theorem State_ddrDo_keeps {a : State} (s : State) (r : DdrReq) (h : Keeps a s)  : Keeps a (State.ddrDo s r) := by
  unfold State.ddrDo
  try dsimp -iota only
  repeat' first
    | with_reducible assumption | with_reducible apply State_dmaLand_keeps | with_reducible apply State_readAnswer_keeps
    | split | with_reducible exact List.prefix_refl _ | with_reducible exact Nat.le_refl _ | with_reducible exact id
    | with_reducible exact List.prefix_append _ _ | with_reducible exact Nat.le_succ _ | with_reducible apply Mem.wf_wrBytes
    | (intro _; try dsimp -iota only) | with_reducible apply Keeps.upd (hp := rfl)

theorem State_ddrServe_keeps {a : State} (s : State) (c : Nat) (h : Keeps a s)  : Keeps a (State.ddrServe s c) := by
  unfold State.ddrServe
  try dsimp -iota only
  repeat' first
    | with_reducible assumption | with_reducible apply State_waitBegin_keeps | with_reducible apply State_ddrDo_keeps
    | with_reducible apply State_waitEnd_keeps | with_reducible apply State_l2Serve_keeps | split
    | with_reducible exact List.prefix_refl _ | with_reducible exact Nat.le_refl _ | with_reducible exact id
    | with_reducible exact Tab.rising_put _ _ _ _ | with_reducible exact List.prefix_append _ _
    | with_reducible exact Nat.le_succ _ | (intro _; try dsimp -iota only) | with_reducible apply Keeps.upd (hp := rfl)

theorem execRelease_keeps (t : Nat) (k : Fin 16) (s : State) : KeepsR s (execRelease t k s) := by
  have h := Keeps.refl s
  unfold execRelease
  try dsimp -iota only
  repeat' first
    | with_reducible assumption | with_reducible apply KeepsR.next | with_reducible apply State_releaseIn_keeps
    | with_reducible apply State_advance_keeps | split

theorem execToken_keeps (t : Nat) (k : Fin 16) (s : State) : KeepsR s (execToken t k s) := by
  have h := Keeps.refl s
  unfold execToken
  try dsimp -iota only
  repeat' first
    | with_reducible assumption | with_reducible apply KeepsR.next | with_reducible apply State_tokenIn_keeps
    | with_reducible apply State_advance_keeps | split

theorem execTokFenceAdvance_keeps (t : Nat) (k : Fin 16) (tb : Fin 32) (s : State) : KeepsR s (execTokFenceAdvance t k tb s) := by
  have h := Keeps.refl s
  unfold execTokFenceAdvance
  try dsimp -iota only
  repeat' first
    | with_reducible assumption | with_reducible apply KeepsR.next | with_reducible apply State_tokAdvance_keeps
    | with_reducible apply State_advance_keeps | split

theorem execMxSlotStart_keeps (t : Nat) (m : Fin 32) (tj : BitVec 8) (droop : BitVec 8) (s : State) : KeepsR s (execMxSlotStart t m tj droop s) := by
  have h := Keeps.refl s
  unfold execMxSlotStart
  try dsimp -iota only
  repeat' first
    | with_reducible assumption | with_reducible apply KeepsR.next | with_reducible apply State_advance_keeps
    | with_reducible apply State_rs_keeps | with_reducible apply State_mxSlotStart_keeps | split

theorem execMxDispatch_keeps (t : Nat) (m : Fin 32) (s : State) : KeepsR s (execMxDispatch t m s) := by
  have h := Keeps.refl s
  unfold execMxDispatch
  try dsimp -iota only
  repeat' first
    | with_reducible assumption | with_reducible apply KeepsR.next | with_reducible apply State_mxDispatch_keeps
    | with_reducible apply State_advance_keeps | split

theorem execGemm_keeps (t : Nat) (m : Fin 32) (s : State) : KeepsR s (execGemm t m s) := by
  have h := Keeps.refl s
  unfold execGemm
  try dsimp -iota only
  repeat' first
    | with_reducible assumption | with_reducible apply KeepsR.next | with_reducible apply State_advance_keeps
    | with_reducible apply State_mxRun_keeps | with_reducible apply State_gemm_keeps (e := by with_reducible assumption)
    | (intro s_ r_ w_ rd_ s'_ e_ h_) | (obtain ⟨_, _, rfl⟩ := except_map_ok ‹_›; try dsimp only) | (intro x_ y_ z_ s'_ e_)
    | (intro l_ s'_ e_; (try dsimp -iota only at e_); (repeat' split at e_) <;> (try cases e_)) | split

theorem execConv_keeps (t : Nat) (m : Fin 32) (s : State) : KeepsR s (execConv t m s) := by
  have h := Keeps.refl s
  unfold execConv
  try dsimp -iota only
  repeat' first
    | with_reducible assumption | with_reducible apply KeepsR.next | with_reducible apply State_advance_keeps
    | with_reducible apply State_mxRun_keeps | with_reducible apply State_conv_keeps (e := by with_reducible assumption)
    | (intro s_ r_ w_ rd_ s'_ e_ h_) | (obtain ⟨_, _, rfl⟩ := except_map_ok ‹_›; try dsimp only) | (intro x_ y_ z_ s'_ e_)
    | (intro l_ s'_ e_; (try dsimp -iota only at e_); (repeat' split at e_) <;> (try cases e_)) | split

theorem execGatherLedger_keeps (t : Nat) (m : Fin 32) (s : State) : KeepsR s (execGatherLedger t m s) := by
  have h := Keeps.refl s
  unfold execGatherLedger
  try dsimp -iota only
  repeat' first
    | with_reducible assumption | with_reducible apply KeepsR.next | with_reducible apply State_advance_keeps
    | with_reducible apply State_mxGather_keeps
    | with_reducible apply State_gatherLedger_keeps (e := by with_reducible assumption) | (intro s_ r_ w_ rd_ s'_ e_ h_)
    | (obtain ⟨_, _, rfl⟩ := except_map_ok ‹_›; try dsimp only) | (intro x_ y_ z_ s'_ e_)
    | (intro l_ s'_ e_; (try dsimp -iota only at e_); (repeat' split at e_) <;> (try cases e_)) | split

theorem execGatherTokens_keeps (t : Nat) (m : Fin 32) (s : State) : KeepsR s (execGatherTokens t m s) := by
  have h := Keeps.refl s
  unfold execGatherTokens
  try dsimp -iota only
  repeat' first
    | with_reducible assumption | with_reducible apply KeepsR.next | with_reducible apply State_advance_keeps
    | with_reducible apply State_mxGather_keeps
    | with_reducible apply State_gatherTokens_keeps (e := by with_reducible assumption) | (intro s_ r_ w_ rd_ s'_ e_ h_)
    | (obtain ⟨_, _, rfl⟩ := except_map_ok ‹_›; try dsimp only) | (intro x_ y_ z_ s'_ e_)
    | (intro l_ s'_ e_; (try dsimp -iota only at e_); (repeat' split at e_) <;> (try cases e_)) | split

theorem execAttn_keeps (t : Nat) (m : Fin 32) (s : State) : KeepsR s (execAttn t m s) := by
  have h := Keeps.refl s
  unfold execAttn
  try dsimp -iota only
  repeat' first
    | with_reducible assumption | with_reducible apply KeepsR.next | with_reducible apply State_advance_keeps
    | with_reducible apply State_mxRun_keeps | with_reducible apply State_attn_keeps (e := by with_reducible assumption)
    | (intro s_ r_ w_ rd_ s'_ e_ h_) | (obtain ⟨_, _, rfl⟩ := except_map_ok ‹_›; try dsimp only) | (intro x_ y_ z_ s'_ e_)
    | (intro l_ s'_ e_; (try dsimp -iota only at e_); (repeat' split at e_) <;> (try cases e_)) | split

theorem execEltwise_keeps (t : Nat) (m : Fin 32) (s : State) : KeepsR s (execEltwise t m s) := by
  have h := Keeps.refl s
  unfold execEltwise
  try dsimp -iota only
  repeat' first
    | with_reducible assumption | with_reducible apply KeepsR.next | with_reducible apply State_advance_keeps
    | with_reducible apply State_mxRun_keeps | with_reducible apply State_eltwise_keeps (e := by with_reducible assumption)
    | (intro s_ r_ w_ rd_ s'_ e_ h_) | (obtain ⟨_, _, rfl⟩ := except_map_ok ‹_›; try dsimp only) | (intro x_ y_ z_ s'_ e_)
    | (intro l_ s'_ e_; (try dsimp -iota only at e_); (repeat' split at e_) <;> (try cases e_)) | split

theorem execReduce_keeps (t : Nat) (m : Fin 32) (s : State) : KeepsR s (execReduce t m s) := by
  have h := Keeps.refl s
  unfold execReduce
  try dsimp -iota only
  repeat' first
    | with_reducible assumption | with_reducible apply KeepsR.next | with_reducible apply State_advance_keeps
    | with_reducible apply State_mxRun_keeps | with_reducible apply State_reduce_keeps (e := by with_reducible assumption)
    | (intro s_ r_ w_ rd_ s'_ e_ h_) | (obtain ⟨_, _, rfl⟩ := except_map_ok ‹_›; try dsimp only) | (intro x_ y_ z_ s'_ e_)
    | (intro l_ s'_ e_; (try dsimp -iota only at e_); (repeat' split at e_) <;> (try cases e_)) | split

theorem execDma_keeps (t : Nat) (m : Fin 32) (s : State) : KeepsR s (execDma t m s) := by
  have h := Keeps.refl s
  unfold execDma
  try dsimp -iota only
  repeat' first
    | with_reducible assumption | with_reducible apply KeepsR.next | with_reducible apply State_advance_keeps
    | with_reducible apply State_dma_keeps (e := by with_reducible assumption) | with_reducible apply State_mxFault_keeps
    | split

theorem execResult_keeps (t : Nat) (m : Fin 32) (s : State) : KeepsR s (execResult t m s) := by
  have h := Keeps.refl s
  unfold execResult
  try dsimp -iota only
  repeat' first
    | with_reducible assumption | with_reducible apply KeepsR.next | with_reducible apply State_advance_keeps
    | with_reducible apply State_mxRun_keeps | with_reducible apply State_resultSend_keeps (e := by with_reducible assumption)
    | (intro s_ r_ w_ rd_ s'_ e_ h_) | (obtain ⟨_, _, rfl⟩ := except_map_ok ‹_›; try dsimp only) | (intro x_ y_ z_ s'_ e_)
    | (intro l_ s'_ e_; (try dsimp -iota only at e_); (repeat' split at e_) <;> (try cases e_)) | split

theorem execMxNop_keeps (t : Nat) (m : Fin 32) (s : State) : KeepsR s (execMxNop t m s) := by
  have h := Keeps.refl s
  unfold execMxNop
  try dsimp -iota only
  repeat' first
    | with_reducible assumption | with_reducible apply KeepsR.next | with_reducible apply State_advance_keeps
    | with_reducible apply State_mxRun_keeps
    | (intro s_ r_ w_ rd_ s'_ e_ h_; (try dsimp -iota only at e_); (repeat' split at e_) <;> (try cases e_))
    | (obtain ⟨_, _, rfl⟩ := except_map_ok ‹_›; try dsimp only) | (intro x_ y_ z_ s'_ e_)
    | (intro l_ s'_ e_; (try dsimp -iota only at e_); (repeat' split at e_) <;> (try cases e_)) | split

theorem execMxDescriptorDone_keeps (t : Nat) (m : Fin 32) (s : State) : KeepsR s (execMxDescriptorDone t m s) := by
  have h := Keeps.refl s
  unfold execMxDescriptorDone
  try dsimp -iota only
  repeat' first
    | with_reducible assumption | with_reducible apply KeepsR.next | with_reducible apply State_mxDone_keeps
    | with_reducible apply State_advance_keeps | split

theorem execMxSlotAbort_keeps (t : Nat) (m : Fin 32) (s : State) : KeepsR s (execMxSlotAbort t m s) := by
  have h := Keeps.refl s
  unfold execMxSlotAbort
  try dsimp -iota only
  repeat' first
    | with_reducible assumption | with_reducible apply KeepsR.next | with_reducible apply State_advance_keeps
    | with_reducible apply State_mxAbort_keeps | split

theorem execMxStart_keeps (t : Nat) (c : Sys2Proof.Req) (m : Fin 32) (v : Sys2Proof.Word) (s : State) : KeepsR s (execMxStart t c m v s) := by
  have h := Keeps.refl s
  unfold execMxStart
  try dsimp -iota only
  repeat' first
    | with_reducible assumption | with_reducible apply KeepsR.next | with_reducible apply State_cmdWrite_keeps
    | with_reducible apply State_mxStartWrite_keeps | split | (intro _ _; try dsimp -iota only)

theorem execUnlistedDescriptorOp_keeps (t : Nat) (m : Fin 32) (s : State) : KeepsR s (execUnlistedDescriptorOp t m s) := by
  have h := Keeps.refl s
  unfold execUnlistedDescriptorOp
  try dsimp -iota only
  repeat' first
    | with_reducible assumption | with_reducible apply KeepsR.next | with_reducible apply State_advance_keeps
    | with_reducible apply State_mxFault_keeps | split

theorem execWriteFlit_keeps (t : Nat) (s : State) : KeepsR s (execWriteFlit t s) := by
  have h := Keeps.refl s
  unfold execWriteFlit
  try dsimp -iota only
  repeat' first
    | with_reducible assumption | with_reducible apply KeepsR.next | with_reducible apply State_writeFlit_keeps
    | with_reducible apply State_advance_keeps | split

theorem execReadFlit_keeps (t : Nat) (s : State) : KeepsR s (execReadFlit t s) := by
  have h := Keeps.refl s
  unfold execReadFlit
  try dsimp -iota only
  repeat' first
    | with_reducible assumption | with_reducible apply KeepsR.next | with_reducible apply State_readFlit_keeps
    | with_reducible apply State_advance_keeps | split

theorem execReadrsp_keeps (t : Nat) (s : State) : KeepsR s (execReadrsp t s) := by
  have h := Keeps.refl s
  unfold execReadrsp
  try dsimp -iota only
  repeat' first
    | with_reducible assumption | with_reducible apply KeepsR.next | with_reducible apply State_readRsp_keeps
    | with_reducible apply State_advance_keeps | split

theorem execDdrRequestServe_keeps (t : Nat) (ddr : Fin 6) (s : State) : KeepsR s (execDdrRequestServe t ddr s) := by
  have h := Keeps.refl s
  unfold execDdrRequestServe
  try dsimp -iota only
  repeat' first
    | with_reducible assumption | with_reducible apply KeepsR.next | with_reducible apply State_ddrServe_keeps
    | with_reducible apply State_advance_keeps | split

end Sys2Proof.Machine
end

