-- ==== Sys2Proof/Laws/KeepsSlots.lean ====
section
/-!
SUPPORT. `Keeps` for the functions of Machine/Slots.lean: each leaves the queue alone, drops no output and keeps the canonical forms.
-/
set_option linter.unusedVariables false
namespace Sys2Proof.Machine
open Regs

theorem State_upGr_keeps {a : State} (s : State) (g : Nat) (f : Grp → Grp) (h : Keeps a s)  : Keeps a (State.upGr s g f) := by
  unfold State.upGr
  try dsimp -iota only
  repeat' first
    | with_reducible assumption | split | with_reducible exact List.prefix_refl _ | with_reducible exact Nat.le_refl _
    | with_reducible exact id | with_reducible exact Tab.rising_put _ _ _ _ | with_reducible exact List.prefix_append _ _
    | with_reducible exact Nat.le_succ _ | (intro _; try dsimp -iota only) | with_reducible apply Keeps.upd (hp := rfl)

theorem State_upSch_keeps {a : State} (s : State) (g : Nat) (f : Sched → Sched) (h : Keeps a s)  : Keeps a (State.upSch s g f) := by
  unfold State.upSch
  try dsimp -iota only
  repeat' first
    | with_reducible assumption | split | with_reducible exact List.prefix_refl _ | with_reducible exact Nat.le_refl _
    | with_reducible exact id | with_reducible exact Tab.rising_put _ _ _ _ | with_reducible exact List.prefix_append _ _
    | with_reducible exact Nat.le_succ _ | (intro _; try dsimp -iota only) | with_reducible apply Keeps.upd (hp := rfl)

theorem State_upHl_keeps {a : State} (s : State) (i : Nat) (f : Health → Health) (h : Keeps a s)  : Keeps a (State.upHl s i f) := by
  unfold State.upHl
  try dsimp -iota only
  repeat' first
    | with_reducible assumption | split | with_reducible exact List.prefix_refl _ | with_reducible exact Nat.le_refl _
    | with_reducible exact id | with_reducible exact Tab.rising_put _ _ _ _ | with_reducible exact List.prefix_append _ _
    | with_reducible exact Nat.le_succ _ | (intro _; try dsimp -iota only) | with_reducible apply Keeps.upd (hp := rfl)

theorem State_setTrack_keeps {a : State} (s : State) (i : Nat) (x : Option Track) (h : Keeps a s)  : Keeps a (State.setTrack s i x) := by
  unfold State.setTrack
  try dsimp -iota only
  repeat' first
    | with_reducible assumption | split | with_reducible exact List.prefix_refl _ | with_reducible exact Nat.le_refl _
    | with_reducible exact id | with_reducible exact Tab.rising_put _ _ _ _ | with_reducible exact List.prefix_append _ _
    | with_reducible exact Nat.le_succ _ | (intro _; try dsimp -iota only) | with_reducible apply Keeps.upd (hp := rfl)

theorem State_fgRetime_keeps {a : State} (s : State) (g : Nat) (h : Keeps a s)  : Keeps a (State.fgRetime s g) := by
  unfold State.fgRetime
  try dsimp -iota only
  repeat' first
    | with_reducible assumption | with_reducible apply State_inc_keeps | with_reducible apply State_upSch_keeps | split

theorem State_launchStep_keeps {a : State} (s : State) (g : Nat) (n : Nat) (h : Keeps a s)  : Keeps a (State.launchStep s g n) := by
  unfold State.launchStep
  try dsimp -iota only
  repeat' first
    | with_reducible assumption | with_reducible refine Keeps.foldl ?_ ?_ | with_reducible refine Keeps.foldl_snd ?_ ?_
    | with_reducible refine Keeps.foldl_thd ?_ ?_ | with_reducible refine Keeps.foldl_fst ?_ ?_ | split
    | with_reducible exact List.prefix_refl _ | with_reducible exact Nat.le_refl _ | with_reducible exact id
    | with_reducible exact Tab.rising_put _ _ _ _ | with_reducible exact List.prefix_append _ _
    | with_reducible exact Nat.le_succ _ | with_reducible refine Mem.wf_foldl _ ?_ _ _ ?_
    | (intro _ _ _; try dsimp -iota only) | (intro _ _; try dsimp -iota only) | (intro _; try dsimp -iota only)
    | with_reducible apply Keeps.upd (hp := rfl)

theorem State_stepReport_keeps {a : State} (s : State) (g : Nat) (h : Keeps a s)  : Keeps a (State.stepReport s g) := by
  unfold State.stepReport
  try dsimp -iota only
  repeat' first
    | with_reducible assumption | with_reducible apply State_launchStep_keeps | with_reducible apply State_upGr_keeps | split

theorem State_wtChanged_keeps {a : State} (s : State) (stepped : Bool) (h : Keeps a s)  : Keeps a (State.wtChanged s stepped) := by
  unfold State.wtChanged
  try dsimp -iota only
  repeat' first
    | with_reducible assumption | with_reducible apply State_fgRetime_keeps | with_reducible apply State_stepReport_keeps
    | with_reducible refine Keeps.foldl ?_ ?_ | with_reducible refine Keeps.foldl_snd ?_ ?_
    | with_reducible refine Keeps.foldl_thd ?_ ?_ | with_reducible refine Keeps.foldl_fst ?_ ?_ | split
    | (intro _ _ _; try dsimp -iota only) | (intro _ _; try dsimp -iota only)

theorem State_calFinish_keeps {a : State} (s : State) (h : Keeps a s)  : Keeps a (State.calFinish s) := by
  unfold State.calFinish
  try dsimp -iota only
  repeat' first
    | with_reducible assumption | with_reducible apply State_rb_keeps | with_reducible apply State_rs_keeps
    | with_reducible apply State_irqSet_keeps | with_reducible apply State_inc_keeps | with_reducible apply State_upGr_keeps
    | with_reducible refine Keeps.foldl ?_ ?_ | with_reducible refine Keeps.foldl_snd ?_ ?_
    | with_reducible refine Keeps.foldl_thd ?_ ?_ | with_reducible refine Keeps.foldl_fst ?_ ?_ | split
    | (intro _ _ _; try dsimp -iota only) | (intro _ _; try dsimp -iota only)

theorem State_calSwitch_keeps {a : State} (s : State) (v : Sys2Proof.Word) (h : Keeps a s)  : Keeps a (State.calSwitch s v) := by
  unfold State.calSwitch
  try dsimp -iota only
  repeat' first
    | with_reducible assumption | with_reducible apply State_irqSet_keeps | with_reducible apply State_inc_keeps
    | with_reducible apply State_calFinish_keeps | with_reducible apply State_rs_keeps | with_reducible apply State_rb_keeps
    | split

theorem State_calWrite_keeps {a : State} (s : State) (v : Sys2Proof.Word) (h : Keeps a s)  : Keeps a (State.calWrite s v) := by
  unfold State.calWrite
  try dsimp -iota only
  repeat' first
    | with_reducible assumption | with_reducible apply State_errParam_keeps | with_reducible apply State_rs_keeps | split
    | with_reducible exact List.prefix_refl _ | with_reducible exact Nat.le_refl _ | with_reducible exact id
    | with_reducible exact Tab.rising_put _ _ _ _ | with_reducible exact List.prefix_append _ _
    | with_reducible exact Nat.le_succ _ | (intro _; try dsimp -iota only) | with_reducible apply Keeps.upd (hp := rfl)

theorem State_joinHealth_keeps {a : State} (s : State) (g : Nat) (h : Keeps a s)  : Keeps a (State.joinHealth s g) := by
  unfold State.joinHealth
  try dsimp -iota only
  repeat' first
    | with_reducible assumption | with_reducible apply State_rs_keeps | with_reducible apply State_upHl_keeps
    | with_reducible refine Keeps.foldl ?_ ?_ | with_reducible refine Keeps.foldl_snd ?_ ?_
    | with_reducible refine Keeps.foldl_thd ?_ ?_ | with_reducible refine Keeps.foldl_fst ?_ ?_ | split
    | (intro _ _ _; try dsimp -iota only) | (intro _ _; try dsimp -iota only)

theorem State_clearReasons_keeps {a : State} (s : State) (h : Keeps a s)  : Keeps a (State.clearReasons s) := by
  unfold State.clearReasons
  try dsimp -iota only
  repeat' first
    | with_reducible assumption | with_reducible apply State_rb_keeps | with_reducible apply State_rs_keeps
    | with_reducible refine Keeps.foldl ?_ ?_ | with_reducible refine Keeps.foldl_snd ?_ ?_
    | with_reducible refine Keeps.foldl_thd ?_ ?_ | with_reducible refine Keeps.foldl_fst ?_ ?_ | split
    | (intro _ _ _; try dsimp -iota only) | (intro _ _; try dsimp -iota only)

theorem State_leaveSet_keeps {a : State} (s : State) (g : Nat) (l : List Nat) (h : Keeps a s)  : Keeps a (State.leaveSet s g l) := by
  unfold State.leaveSet
  try dsimp -iota only
  repeat' first
    | with_reducible assumption | with_reducible apply State_upGr_keeps | with_reducible apply State_clearReasons_keeps
    | with_reducible apply State_irqSet_keeps | split

theorem State_latchSet_keeps {a : State} (s : State) (g : Nat) (h : Keeps a s)  : Keeps a (State.latchSet s g) := by
  unfold State.latchSet
  try dsimp -iota only
  repeat' first
    | with_reducible assumption | with_reducible apply State_alignAll_keeps | with_reducible apply State_leaveSet_keeps
    | with_reducible apply State_upGr_keeps | split

theorem State_fgDisable_keeps {a : State} (s : State) (g : Nat) (h : Keeps a s)  : Keeps a (State.fgDisable s g) := by
  unfold State.fgDisable
  try dsimp -iota only
  repeat' first
    | with_reducible assumption | with_reducible apply State_rs_keeps | with_reducible apply State_tokFencesStop_keeps
    | with_reducible apply State_fencesStop_keeps | with_reducible apply State_upGr_keeps
    | with_reducible apply State_upSch_keeps | with_reducible apply State_alignAll_keeps
    | with_reducible apply State_calFinish_keeps | with_reducible apply State_leaveSet_keeps | split

theorem State_periodWrite_keeps {a : State} (s : State) (g : Nat) (v : Sys2Proof.Word) (h : Keeps a s)  : Keeps a (State.periodWrite s g v) := by
  unfold State.periodWrite
  try dsimp -iota only
  repeat' first
    | with_reducible assumption | with_reducible apply State_fgDisable_keeps | with_reducible apply State_errParam_keeps
    | with_reducible apply State_rb_keeps | with_reducible apply State_rs_keeps | with_reducible apply State_upSch_keeps
    | with_reducible apply State_joinHealth_keeps | with_reducible apply State_latchSet_keeps
    | with_reducible apply State_tokFencesStart_keeps | with_reducible apply State_fencesStart_keeps | split

theorem State_slotStart_keeps {a : State} (s : State) (g : Nat) (h : Keeps a s)  : Keeps a (State.slotStart s g) := by
  unfold State.slotStart
  try dsimp -iota only
  repeat' first
    | with_reducible assumption | with_reducible apply State_upSch_keeps | with_reducible apply State_rs_keeps
    | with_reducible apply State_upGr_keeps | with_reducible apply State_calFinish_keeps | split

theorem State_upSlot_keeps {a : State} (s : State) (g : Nat) (n : Nat) (f : SlotIn → SlotIn) (h : Keeps a s)  : Keeps a (State.upSlot s g n f) := by
  unfold State.upSlot
  try dsimp -iota only
  repeat' first
    | with_reducible assumption | with_reducible apply State_upGr_keeps | split

theorem State_featureTo_keeps {a : State} (s : State) (g : Nat) (w0 : Nat) (w1 : Nat) (t : Nat) (h : Keeps a s)  : Keeps a (State.featureTo s g w0 w1 t) := by
  unfold State.featureTo
  try dsimp -iota only
  repeat' first
    | with_reducible assumption | with_reducible apply State_inc_keeps | with_reducible apply State_upGr_keeps
    | with_reducible apply State_upSlot_keeps | split

theorem State_takeHub_keeps {a : State} (s : State) (p : Flit → Bool) {s' : State} {v' : Flit} (h : Keeps a s)
    (e : State.takeHub s p = some (v', s')) : Keeps a s' := by
  unfold State.takeHub at e
  simp only [Option.map_eq_some_iff] at e
  obtain ⟨r, hr, e⟩ := e
  cases e
  exact State_mxGo_keeps _ (State_takeUnit_keeps s p h hr)

theorem State_featureIn_keeps {a : State} (s : State) (h : Keeps a s)  : Keeps a (State.featureIn s) := by
  unfold State.featureIn
  try dsimp -iota only
  repeat' first
    | with_reducible assumption | with_reducible apply State_takeHub_keeps (e := by with_reducible assumption)
    | with_reducible apply State_ackTo_keeps | with_reducible apply State_inc_keeps
    | with_reducible apply State_featureTo_keeps | with_reducible refine Keeps.foldl ?_ ?_
    | with_reducible refine Keeps.foldl_snd ?_ ?_ | with_reducible refine Keeps.foldl_thd ?_ ?_
    | with_reducible refine Keeps.foldl_fst ?_ ?_ | split | with_reducible exact List.prefix_refl _
    | with_reducible exact Nat.le_refl _ | with_reducible exact id | with_reducible exact List.prefix_append _ _
    | with_reducible exact Nat.le_succ _ | with_reducible refine Mem.wf_foldl _ ?_ _ _ ?_
    | (intro _ _ _; try dsimp -iota only) | (intro _ _; try dsimp -iota only) | (intro _; try dsimp -iota only)
    | with_reducible apply Keeps.upd (hp := rfl)

theorem State_slotDoneIn_keeps {a : State} (s : State) (h : Keeps a s)  : Keeps a (State.slotDoneIn s) := by
  unfold State.slotDoneIn
  try dsimp -iota only
  repeat' first
    | with_reducible assumption | with_reducible apply State_takeFlit_keeps (e := by with_reducible assumption)
    | with_reducible apply State_upSlot_keeps | split

theorem State_resultIn_keeps {a : State} (s : State) (h : Keeps a s)  : Keeps a (State.resultIn s) := by
  unfold State.resultIn
  try dsimp -iota only
  repeat' first
    | with_reducible assumption | with_reducible apply State_takeHub_keeps (e := by with_reducible assumption)
    | with_reducible apply State_inc_keeps | with_reducible apply State_upSlot_keeps | with_reducible apply State_upGr_keeps
    | with_reducible refine Keeps.foldl ?_ ?_ | with_reducible refine Keeps.foldl_snd ?_ ?_
    | with_reducible refine Keeps.foldl_thd ?_ ?_ | with_reducible refine Keeps.foldl_fst ?_ ?_ | split
    | (intro _ _ _; try dsimp -iota only) | (intro _ _; try dsimp -iota only)

theorem State_sampleOne_keeps {a : State} (s : State) (g : Nat) (n : Nat) (f : Nat) (p : Smp) {v0' : Nat} {v1' : Option (Nat × Nat)} {s' : State} (h : Keeps a s)  (e : State.sampleOne s g n f p = (v0', v1', s')) : Keeps a s' := by
  unfold State.sampleOne at e
  try dsimp -iota only at e
  repeat' split at e
  all_goals (have e2 := congrArg (fun p => p.2.2) e; dsimp only at e2; subst e2)
  repeat' first
    | with_reducible assumption | with_reducible apply State_inc_keeps | with_reducible apply State_fenceRead_keeps
    | with_reducible apply State_entryUse_keeps | split

theorem State_samples_keeps {a : State} (s : State) (g : Nat) (n : Nat) (f : Nat) (l : List Smp) (rel : Bool) {v0' : List Nat} {s' : State} (h : Keeps a s)  (e : State.samples s g n f l rel = (v0', s')) : Keeps a s' := by
  unfold State.samples at e
  try dsimp -iota only at e
  repeat' split at e
  all_goals (have e2 := congrArg (fun p => p.2) e; dsimp only at e2; subst e2)
  repeat' first
    | with_reducible assumption | with_reducible apply State_sampleOne_keeps (e := triple_eta _)
    | with_reducible apply State_sampleOne_keeps (e := by with_reducible assumption) | with_reducible apply State_send_keeps
    | with_reducible refine Keeps.foldl ?_ ?_ | with_reducible refine Keeps.foldl_snd ?_ ?_
    | with_reducible refine Keeps.foldl_thd ?_ ?_ | with_reducible refine Keeps.foldl_fst ?_ ?_ | split
    | (intro _ _ _; try dsimp -iota only) | (intro _ _; try dsimp -iota only)

theorem State_coarseOf_keeps {a : State} (s : State) (i : Nat) (v : Nat) {v0' : List Nat} {s' : State} (h : Keeps a s)  (e : State.coarseOf s i v = (v0', s')) : Keeps a s' := by
  unfold State.coarseOf at e
  try dsimp -iota only at e
  repeat' split at e
  all_goals (have e2 := congrArg (fun p => p.2) e; dsimp only at e2; subst e2)
  repeat' first
    | with_reducible assumption | with_reducible apply State_outputAt_keeps (e := pair_eta _)
    | with_reducible apply State_outputAt_keeps (e := by with_reducible assumption) | with_reducible refine Keeps.foldl ?_ ?_
    | with_reducible refine Keeps.foldl_snd ?_ ?_ | with_reducible refine Keeps.foldl_thd ?_ ?_
    | with_reducible refine Keeps.foldl_fst ?_ ?_ | split | (intro _ _ _; try dsimp -iota only)
    | (intro _ _; try dsimp -iota only)

theorem State_sensSlot_keeps {a : State} (s : State) (g : Nat) (bank : Nat) (f : Nat) (y : SlotIn) {v0' : List Sens} {s' : State} (h : Keeps a s)  (e : State.sensSlot s g bank f y = (v0', s')) : Keeps a s' := by
  unfold State.sensSlot at e
  try dsimp -iota only at e
  repeat' split at e
  all_goals (have e2 := congrArg (fun p => p.2) e; dsimp only at e2; subst e2)
  repeat' first
    | with_reducible assumption | with_reducible apply State_coarseOf_keeps (e := pair_eta _)
    | with_reducible apply State_coarseOf_keeps (e := by with_reducible assumption) | with_reducible apply State_inc_keeps
    | with_reducible refine Keeps.foldl ?_ ?_ | with_reducible refine Keeps.foldl_snd ?_ ?_
    | with_reducible refine Keeps.foldl_thd ?_ ?_ | with_reducible refine Keeps.foldl_fst ?_ ?_ | split
    | (intro _ _ _; try dsimp -iota only) | (intro _ _; try dsimp -iota only)

theorem State_evalHealth_keeps {a : State} (s : State) (x : Sens) (hit : Bool) (out : Bool × Nat) (h : Keeps a s)  : Keeps a (State.evalHealth s x hit out) := by
  unfold State.evalHealth
  try dsimp -iota only
  repeat' first
    | with_reducible assumption | with_reducible apply State_rs_keeps | with_reducible apply State_upHl_keeps | split

theorem State_healthPass_keeps {a : State} (s : State) (g : Nat) (out : Bool × Nat) (l : List Sens) (outv : List (Nat × Nat)) (disp : List (Nat × Nat)) (h : Keeps a s)  : Keeps a (State.healthPass s g out l outv disp) := by
  unfold State.healthPass
  try dsimp -iota only
  repeat' first
    | with_reducible assumption | with_reducible apply State_irqSet_keeps | with_reducible apply State_upGr_keeps
    | with_reducible apply State_evalHealth_keeps | with_reducible apply State_rb_keeps | with_reducible apply State_rs_keeps
    | with_reducible apply State_upHl_keeps | with_reducible refine Keeps.foldl ?_ ?_
    | with_reducible refine Keeps.foldl_snd ?_ ?_ | with_reducible refine Keeps.foldl_thd ?_ ?_
    | with_reducible refine Keeps.foldl_fst ?_ ?_ | split | (intro _ _ _; try dsimp -iota only)
    | (intro _ _; try dsimp -iota only)

theorem State_birth_keeps {a : State} (s : State) (g : Nat) (b : Nat) (ws : List Tw) (i : Nat) (o : Obs) {v0' : List Tw} {s' : State} (h : Keeps a s)  (e : State.birth s g b ws i o = (v0', s')) : Keeps a s' := by
  unfold State.birth at e
  try dsimp -iota only at e
  repeat' split at e
  all_goals (have e2 := congrArg (fun p => p.2) e; dsimp only at e2; subst e2)
  repeat' first
    | with_reducible assumption | with_reducible apply State_irqSet_keeps | with_reducible apply State_inc_keeps
    | with_reducible apply State_upGr_keeps | split

theorem State_births_keeps {a : State} (s : State) (g : Nat) (bank : Nat) (ws : List Tw) (left : List (Nat × Obs)) {v0' : List Tw} {s' : State} (h : Keeps a s)  (e : State.births s g bank ws left = (v0', s')) : Keeps a s' := by
  unfold State.births at e
  try dsimp -iota only at e
  repeat' split at e
  all_goals (have e2 := congrArg (fun p => p.2) e; dsimp only at e2; subst e2)
  repeat' first
    | with_reducible assumption | with_reducible apply State_birth_keeps (e := pair_eta _)
    | with_reducible apply State_birth_keeps (e := by with_reducible assumption) | with_reducible refine Keeps.foldl ?_ ?_
    | with_reducible refine Keeps.foldl_snd ?_ ?_ | with_reducible refine Keeps.foldl_thd ?_ ?_
    | with_reducible refine Keeps.foldl_fst ?_ ?_ | split | (intro _ _ _; try dsimp -iota only)
    | (intro _ _; try dsimp -iota only)

theorem State_trackOut_keeps {a : State} (s : State) (g : Nat) (recs : List (List Sys2Proof.Byte)) (w : Tw) {v0' : List (List Sys2Proof.Byte)} {s' : State} (h : Keeps a s)  (e : State.trackOut s g recs w = (v0', s')) : Keeps a s' := by
  unfold State.trackOut at e
  try dsimp -iota only at e
  repeat' split at e
  all_goals (have e2 := congrArg (fun p => p.2) e; dsimp only at e2; subst e2)
  repeat' first
    | with_reducible assumption | with_reducible apply State_inc_keeps | with_reducible apply State_setTrack_keeps | split

theorem State_trackPass_keeps {a : State} (s : State) (g : Nat) (f : Nat) (bank : Nat) (x4 : Ego) (l : List Sens) (outv : List (Nat × Nat)) (disp : List (Nat × Nat)) {v0' : List (List Sys2Proof.Byte)} {v1' : Bool} {s' : State} (h : Keeps a s)  (e : State.trackPass s g f bank x4 l outv disp = (v0', v1', s')) : Keeps a s' := by
  unfold State.trackPass at e
  try dsimp -iota only at e
  repeat' split at e
  all_goals (have e2 := congrArg (fun p => p.2.2) e; dsimp only at e2; subst e2)
  repeat' first
    | with_reducible assumption | with_reducible apply State_births_keeps (e := pair_eta _)
    | with_reducible apply State_births_keeps (e := by with_reducible assumption)
    | with_reducible apply State_trackOut_keeps (e := pair_eta _)
    | with_reducible apply State_trackOut_keeps (e := by with_reducible assumption) | with_reducible refine Keeps.foldl ?_ ?_
    | with_reducible refine Keeps.foldl_snd ?_ ?_ | with_reducible refine Keeps.foldl_thd ?_ ?_
    | with_reducible refine Keeps.foldl_fst ?_ ?_ | split | with_reducible exact List.prefix_refl _
    | with_reducible exact Nat.le_refl _ | with_reducible exact id | with_reducible exact List.prefix_append _ _
    | with_reducible exact Nat.le_succ _ | with_reducible refine Mem.wf_foldl _ ?_ _ _ ?_
    | (intro _ _ _; try dsimp -iota only) | (intro _ _; try dsimp -iota only) | (intro _; try dsimp -iota only)
    | with_reducible apply Keeps.upd (hp := rfl)

theorem State_cutSamples_keeps {a : State} (s : State) (g : Nat) (n : Nat) (f : Nat) (table : List Smp) (ready : Bool) {v0' : List Nat} {s' : State} (h : Keeps a s)  (e : State.cutSamples s g n f table ready = (v0', s')) : Keeps a s' := by
  unfold State.cutSamples at e
  try dsimp -iota only at e
  repeat' split at e
  all_goals (have e2 := congrArg (fun p => p.2) e; dsimp only at e2; subst e2)
  repeat' first
    | with_reducible assumption | with_reducible apply State_samples_keeps (e := pair_eta _)
    | with_reducible apply State_samples_keeps (e := by with_reducible assumption) | split

theorem State_cutConflict_keeps {a : State} (s : State) (g : Nat) (conflict : Bool) (h : Keeps a s)  : Keeps a (State.cutConflict s g conflict) := by
  unfold State.cutConflict
  try dsimp -iota only
  repeat' first
    | with_reducible assumption | with_reducible apply State_irqSet_keeps | with_reducible apply State_inc_keeps | split

theorem State_cutMarks_keeps {a : State} (s : State) (g : Nat) (trunc : Bool) (deg : Bool) (late : Bool) (x5 : Ego) (h : Keeps a s)  : Keeps a (State.cutMarks s g trunc deg late x5) := by
  unfold State.cutMarks
  try dsimp -iota only
  repeat' first
    | with_reducible assumption | with_reducible apply State_inc_keeps | with_reducible apply State_rb_keeps
    | with_reducible apply State_irqSet_keeps | split

theorem State_fusionCutoff_keeps {a : State} (s : State) (g : Nat) (h : Keeps a s)  : Keeps a (State.fusionCutoff s g) := by
  unfold State.fusionCutoff
  try dsimp -iota only
  repeat' first
    | with_reducible assumption | with_reducible apply State_joinHealth_keeps | with_reducible apply State_latchSet_keeps
    | with_reducible apply State_cutSamples_keeps (e := pair_eta _)
    | with_reducible apply State_cutSamples_keeps (e := by with_reducible assumption)
    | with_reducible apply State_sensSlot_keeps (e := pair_eta _)
    | with_reducible apply State_sensSlot_keeps (e := by with_reducible assumption)
    | with_reducible apply State_healthPass_keeps | with_reducible apply State_cutConflict_keeps
    | with_reducible apply State_trackPass_keeps (e := triple_eta _)
    | with_reducible apply State_trackPass_keeps (e := by with_reducible assumption) | with_reducible apply State_inc_keeps
    | with_reducible apply State_cutMarks_keeps | with_reducible apply State_upGr_keeps | split

theorem State_lateSamples_keeps {a : State} (s : State) (g : Nat) (r : Report) {s' : State} {v1' : Report} (h : Keeps a s)  (e : State.lateSamples s g r = (s', v1')) : Keeps a s' := by
  unfold State.lateSamples at e
  try dsimp -iota only at e
  repeat' split at e
  all_goals (have e2 := congrArg (fun p => p.1) e; dsimp only at e2; subst e2)
  repeat' first
    | with_reducible assumption | with_reducible apply State_samples_keeps (e := pair_eta _)
    | with_reducible apply State_samples_keeps (e := by with_reducible assumption) | split

theorem State_zoneCfg_keeps {a : State} (s : State) (v : Sys2Proof.Word) (h : Keeps a s)  : Keeps a (State.zoneCfg s v) := by
  unfold State.zoneCfg
  try dsimp -iota only
  repeat' first
    | with_reducible assumption | with_reducible apply State_errParam_keeps | with_reducible apply State_rs_keeps
    | with_reducible refine Keeps.foldl ?_ ?_ | with_reducible refine Keeps.foldl_snd ?_ ?_
    | with_reducible refine Keeps.foldl_thd ?_ ?_ | with_reducible refine Keeps.foldl_fst ?_ ?_ | split
    | (intro _ _ _; try dsimp -iota only) | (intro _ _; try dsimp -iota only)

theorem State_trkKill_keeps {a : State} (s : State) (v : Sys2Proof.Word) (h : Keeps a s)  : Keeps a (State.trkKill s v) := by
  unfold State.trkKill
  try dsimp -iota only
  repeat' first
    | with_reducible assumption | split | with_reducible exact List.prefix_refl _ | with_reducible exact Nat.le_refl _
    | with_reducible exact id | with_reducible exact List.prefix_append _ _ | with_reducible exact Nat.le_succ _
    | (intro _; try dsimp -iota only) | with_reducible apply Keeps.upd (hp := rfl)

theorem State_fgReset_keeps {a : State} (s : State) (g : Nat) (h : Keeps a s)  : Keeps a (State.fgReset s g) := by
  unfold State.fgReset
  try dsimp -iota only
  repeat' first
    | with_reducible assumption | with_reducible apply State_alignAll_keeps | split | with_reducible exact List.prefix_refl _
    | with_reducible exact Nat.le_refl _ | with_reducible exact id | with_reducible exact Tab.rising_put _ _ _ _
    | with_reducible exact Tab.rising_keep _ _ | with_reducible exact List.prefix_append _ _
    | with_reducible exact Nat.le_succ _ | with_reducible apply Mem.wf_keep | (intro _; try dsimp -iota only)
    | with_reducible apply Keeps.upd (hp := rfl)

theorem execFeature_keeps (t : Nat) (s : State) : KeepsR s (execFeature t s) := by
  have h := Keeps.refl s
  unfold execFeature
  try dsimp -iota only
  repeat' first
    | with_reducible assumption | with_reducible apply KeepsR.next | with_reducible apply State_featureIn_keeps
    | with_reducible apply State_advance_keeps | split

theorem execSlotDone_keeps (t : Nat) (s : State) : KeepsR s (execSlotDone t s) := by
  have h := Keeps.refl s
  unfold execSlotDone
  try dsimp -iota only
  repeat' first
    | with_reducible assumption | with_reducible apply KeepsR.next | with_reducible apply State_slotDoneIn_keeps
    | with_reducible apply State_advance_keeps | split

theorem execResultReceive_keeps (t : Nat) (s : State) : KeepsR s (execResultReceive t s) := by
  have h := Keeps.refl s
  unfold execResultReceive
  try dsimp -iota only
  repeat' first
    | with_reducible assumption | with_reducible apply KeepsR.next | with_reducible apply State_resultIn_keeps
    | with_reducible apply State_advance_keeps | split

theorem execFgEnable_keeps (t : Nat) (c : Sys2Proof.Req) (g : Fin 4) (v : Sys2Proof.Word) (s : State) : KeepsR s (execFgEnable t c g v s) := by
  have h := Keeps.refl s
  unfold execFgEnable
  try dsimp -iota only
  repeat' first
    | with_reducible assumption | with_reducible apply KeepsR.next | with_reducible apply State_cmdWrite_keeps
    | with_reducible apply State_periodWrite_keeps | split | (intro _ _; try dsimp -iota only)

theorem execFusionSlotInstant_keeps (t : Nat) (g : Fin 4) (s : State) : KeepsR s (execFusionSlotInstant t g s) := by
  have h := Keeps.refl s
  unfold execFusionSlotInstant
  try dsimp -iota only
  repeat' first
    | with_reducible assumption | with_reducible apply KeepsR.next | with_reducible apply State_slotStart_keeps
    | with_reducible apply State_advance_keeps | split

theorem execFusionCutoff_keeps (t : Nat) (g : Fin 4) (s : State) : KeepsR s (execFusionCutoff t g s) := by
  have h := Keeps.refl s
  unfold execFusionCutoff
  try dsimp -iota only
  repeat' first
    | with_reducible assumption | with_reducible apply KeepsR.next | with_reducible apply State_fusionCutoff_keeps
    | with_reducible apply State_advance_keeps | split

theorem execCalSwitch_keeps (t : Nat) (c : Sys2Proof.Req) (v : Sys2Proof.Word) (s : State) : KeepsR s (execCalSwitch t c v s) := by
  have h := Keeps.refl s
  unfold execCalSwitch
  try dsimp -iota only
  repeat' first
    | with_reducible assumption | with_reducible apply KeepsR.next | with_reducible apply State_cmdWrite_keeps
    | with_reducible apply State_calSwitch_keeps | split | (intro _ _; try dsimp -iota only)

theorem execZoneCfgWrite_keeps (t : Nat) (c : Sys2Proof.Req) (v : Sys2Proof.Word) (s : State) : KeepsR s (execZoneCfgWrite t c v s) := by
  have h := Keeps.refl s
  unfold execZoneCfgWrite
  try dsimp -iota only
  repeat' first
    | with_reducible assumption | with_reducible apply KeepsR.next | with_reducible apply State_cmdWrite_keeps
    | with_reducible apply State_zoneCfg_keeps | split | (intro _ _; try dsimp -iota only)

theorem execTrkKill_keeps (t : Nat) (c : Sys2Proof.Req) (v : Sys2Proof.Word) (s : State) : KeepsR s (execTrkKill t c v s) := by
  have h := Keeps.refl s
  unfold execTrkKill
  try dsimp -iota only
  repeat' first
    | with_reducible assumption | with_reducible apply KeepsR.next | with_reducible apply State_cmdWrite_keeps
    | with_reducible apply State_trkKill_keeps | split | (intro _ _; try dsimp -iota only)

end Sys2Proof.Machine
end

