-- ==== Sys2Proof/Laws/KeepsFaults.lean ====
section
/-!
SUPPORT. `Keeps` for the functions of Machine/Faults.lean: each leaves the queue alone, drops no output and keeps the canonical forms.
-/
set_option linter.unusedVariables false
namespace Sys2Proof.Machine
open Regs

theorem State_ddrLost_keeps {a : State} (s : State) (h : Keeps a s)  : Keeps a (State.ddrLost s) := by
  unfold State.ddrLost
  try dsimp -iota only
  repeat' first
    | with_reducible assumption | split | with_reducible exact List.prefix_refl _ | with_reducible exact Nat.le_refl _
    | with_reducible exact id | with_reducible exact List.prefix_append _ _ | with_reducible exact Nat.le_succ _
    | with_reducible apply Mem.wf_ofList | (intro _; try dsimp -iota only) | with_reducible apply Keeps.upd (hp := rfl)

theorem State_healthCounts_keeps {a : State} (s : State) (h : Keeps a s)  : Keeps a (State.healthCounts s) := by
  unfold State.healthCounts
  try dsimp -iota only
  repeat' first
    | with_reducible assumption | with_reducible apply State_rs_keeps | split

theorem State_alertUpdate_keeps {a : State} (s : State) (h : Keeps a s)  : Keeps a (State.alertUpdate s) := by
  unfold State.alertUpdate
  try dsimp -iota only
  repeat' first
    | with_reducible assumption | with_reducible apply State_emit_keeps | split | with_reducible exact List.prefix_refl _
    | with_reducible exact Nat.le_refl _ | with_reducible exact id | with_reducible exact List.prefix_append _ _
    | with_reducible exact Nat.le_succ _ | (intro _; try dsimp -iota only) | with_reducible apply Keeps.upd (hp := rfl)

theorem State_alertOff_keeps {a : State} (s : State) (h : Keeps a s)  : Keeps a (State.alertOff s) := by
  unfold State.alertOff
  try dsimp -iota only
  repeat' first
    | with_reducible assumption | with_reducible apply State_emit_keeps | split | with_reducible exact List.prefix_refl _
    | with_reducible exact Nat.le_refl _ | with_reducible exact id | with_reducible exact List.prefix_append _ _
    | with_reducible exact Nat.le_succ _ | (intro _; try dsimp -iota only) | with_reducible apply Keeps.upd (hp := rfl)

theorem State_owe_keeps {a : State} (s : State) (x1 : FaultAct) (h : Keeps a s)  : Keeps a (State.owe s x1) := by
  unfold State.owe
  try dsimp -iota only
  repeat' first
    | with_reducible assumption | split | with_reducible exact List.prefix_refl _ | with_reducible exact Nat.le_refl _
    | with_reducible exact id | with_reducible exact List.prefix_append _ _ | with_reducible exact Nat.le_succ _
    | (intro _; try dsimp -iota only) | with_reducible apply Keeps.upd (hp := rfl)

theorem State_oweLog_keeps {a : State} (s : State) (x1 : FaultAct) (h : Keeps a s)  : Keeps a (State.oweLog s x1) := by
  unfold State.oweLog
  try dsimp -iota only
  repeat' first
    | with_reducible assumption | split | with_reducible exact List.prefix_refl _ | with_reducible exact Nat.le_refl _
    | with_reducible exact id | with_reducible exact List.prefix_append _ _ | with_reducible exact Nat.le_succ _
    | (intro _; try dsimp -iota only) | with_reducible apply Keeps.upd (hp := rfl)

theorem State_replaceRequest_keeps {a : State} (s : State) (cause : Nat) (h : Keeps a s)  : Keeps a (State.replaceRequest s cause) := by
  unfold State.replaceRequest
  try dsimp -iota only
  repeat' first
    | with_reducible assumption | with_reducible apply State_rs_keeps | with_reducible apply State_alertUpdate_keeps
    | with_reducible apply State_irqSet_keeps | with_reducible apply State_rb_keeps | with_reducible apply State_oweLog_keeps
    | with_reducible apply State_owe_keeps | split

theorem State_replaceCheck_keeps {a : State} (s : State) (h : Keeps a s)  : Keeps a (State.replaceCheck s) := by
  unfold State.replaceCheck
  try dsimp -iota only
  repeat' first
    | with_reducible assumption | with_reducible apply State_replaceRequest_keeps | split

theorem State_coreStop_keeps {a : State} (s : State) (n : Nat) (h : Keeps a s)  : Keeps a (State.coreStop s n) := by
  unfold State.coreStop
  try dsimp -iota only
  repeat' first
    | with_reducible assumption | with_reducible apply State_fencedDrop_keeps | with_reducible apply State_rb_keeps
    | with_reducible apply State_upCore_keeps | with_reducible apply State_walkStall_keeps
    | with_reducible apply State_queueFreed_keeps | with_reducible refine Keeps.foldl ?_ ?_
    | with_reducible refine Keeps.foldl_snd ?_ ?_ | with_reducible refine Keeps.foldl_thd ?_ ?_
    | with_reducible refine Keeps.foldl_fst ?_ ?_ | split | (intro _ _ _; try dsimp -iota only)
    | (intro _ _; try dsimp -iota only)

theorem State_routerDrop_keeps {a : State} (s : State) (k : Nat) (h : Keeps a s)  : Keeps a (State.routerDrop s k) := by
  unfold State.routerDrop
  try dsimp -iota only
  repeat' first
    | with_reducible assumption | with_reducible apply State_fencedDrop_keeps | with_reducible apply State_upRouter_keeps
    | with_reducible refine Keeps.foldl ?_ ?_ | with_reducible refine Keeps.foldl_snd ?_ ?_
    | with_reducible refine Keeps.foldl_thd ?_ ?_ | with_reducible refine Keeps.foldl_fst ?_ ?_ | split
    | (intro _ _ _; try dsimp -iota only) | (intro _ _; try dsimp -iota only)

theorem State_mxStop_keeps {a : State} (s : State) (m : Nat) (h : Keeps a s)  : Keeps a (State.mxStop s m) := by
  unfold State.mxStop
  try dsimp -iota only
  repeat' first
    | with_reducible assumption | with_reducible apply State_upMx_keeps | with_reducible apply State_rb_keeps | split

theorem State_clusterStop_keeps {a : State} (s : State) (k : Nat) (h : Keeps a s)  : Keeps a (State.clusterStop s k) := by
  unfold State.clusterStop
  try dsimp -iota only
  repeat' first
    | with_reducible assumption | with_reducible apply State_coreStop_keeps | with_reducible apply State_mxStop_keeps
    | with_reducible apply State_upBank_keeps | with_reducible apply State_routerDrop_keeps
    | with_reducible apply State_upTok_keeps | with_reducible refine Keeps.foldl ?_ ?_
    | with_reducible refine Keeps.foldl_snd ?_ ?_ | with_reducible refine Keeps.foldl_thd ?_ ?_
    | with_reducible refine Keeps.foldl_fst ?_ ?_ | split | (intro _ _ _; try dsimp -iota only)
    | (intro _ _; try dsimp -iota only)

theorem State_jobStopHw_keeps {a : State} (s : State) (h : Keeps a s)  : Keeps a (State.jobStopHw s) := by
  unfold State.jobStopHw
  try dsimp -iota only
  repeat' first
    | with_reducible assumption | with_reducible apply State_rs_keeps | with_reducible apply State_runOff_keeps
    | with_reducible apply State_rb_keeps | with_reducible refine Keeps.foldl ?_ ?_
    | with_reducible refine Keeps.foldl_snd ?_ ?_ | with_reducible refine Keeps.foldl_thd ?_ ?_
    | with_reducible refine Keeps.foldl_fst ?_ ?_ | split | (intro _ _ _; try dsimp -iota only)
    | (intro _ _; try dsimp -iota only)

theorem State_ddrStop_keeps {a : State} (s : State) (h : Keeps a s)  : Keeps a (State.ddrStop s) := by
  unfold State.ddrStop
  try dsimp -iota only
  repeat' first
    | with_reducible assumption | with_reducible apply State_upJr_keeps | with_reducible apply State_rb_keeps
    | with_reducible apply State_replayEnd_keeps | with_reducible apply State_upRouter_keeps
    | with_reducible apply State_rs_keeps | with_reducible apply State_ddrLost_keeps | with_reducible refine Keeps.foldl ?_ ?_
    | with_reducible refine Keeps.foldl_snd ?_ ?_ | with_reducible refine Keeps.foldl_thd ?_ ?_
    | with_reducible refine Keeps.foldl_fst ?_ ?_ | split | with_reducible exact List.prefix_refl _
    | with_reducible exact Nat.le_refl _ | with_reducible exact id | with_reducible exact List.prefix_append _ _
    | with_reducible exact Nat.le_succ _ | with_reducible refine Mem.wf_foldl _ ?_ _ _ ?_
    | (intro _ _ _; try dsimp -iota only) | (intro _ _; try dsimp -iota only) | (intro _; try dsimp -iota only)
    | with_reducible apply Keeps.upd (hp := rfl)

theorem State_jobStop_keeps {a : State} (s : State) (cause : Nat) (num : Nat) (h : Keeps a s)  : Keeps a (State.jobStop s cause num) := by
  unfold State.jobStop
  try dsimp -iota only
  repeat' first
    | with_reducible assumption | with_reducible apply State_jobStopHw_keeps | with_reducible apply State_ddrStop_keeps
    | with_reducible apply State_owe_keeps | split | with_reducible exact List.prefix_refl _
    | with_reducible exact Nat.le_refl _ | with_reducible exact id | with_reducible exact List.prefix_append _ _
    | with_reducible exact Nat.le_succ _ | (intro _; try dsimp -iota only) | with_reducible apply Keeps.upd (hp := rfl)

theorem State_fenceUnit_keeps {a : State} (s : State) (u : FUnit) (code : Nat) (h : Keeps a s)  : Keeps a (State.fenceUnit s u code) := by
  unfold State.fenceUnit
  try dsimp -iota only
  repeat' first
    | with_reducible assumption | with_reducible apply State_routerDrop_keeps | with_reducible apply State_coreStop_keeps
    | with_reducible apply State_mxStop_keeps | with_reducible apply State_clusterStop_keeps
    | with_reducible apply State_owe_keeps | with_reducible apply State_healthCounts_keeps
    | with_reducible apply State_oweLog_keeps | with_reducible apply State_jobStop_keeps
    | with_reducible apply State_replaceCheck_keeps | with_reducible refine Keeps.foldl ?_ ?_
    | with_reducible refine Keeps.foldl_snd ?_ ?_ | with_reducible refine Keeps.foldl_thd ?_ ?_
    | with_reducible refine Keeps.foldl_fst ?_ ?_ | split | with_reducible exact List.prefix_refl _
    | with_reducible exact Nat.le_refl _ | with_reducible exact id | with_reducible exact List.prefix_append _ _
    | with_reducible exact Nat.le_succ _ | with_reducible refine Mem.wf_foldl _ ?_ _ _ ?_
    | (intro _ _ _; try dsimp -iota only) | (intro _ _; try dsimp -iota only) | (intro _; try dsimp -iota only)
    | with_reducible apply Keeps.upd (hp := rfl)

theorem State_lastingFault_keeps {a : State} (s : State) (u : FUnit) (p : Page) (code : Nat) (where_ : Nat) (h : Keeps a s)  : Keeps a (State.lastingFault s u p code where_) := by
  unfold State.lastingFault
  try dsimp -iota only
  repeat' first
    | with_reducible assumption | with_reducible apply State_fenceUnit_keeps | with_reducible apply State_logFault_keeps
    | split

theorem State_classFault_keeps {a : State} (s : State) (u : FUnit) (p : Page) (ok : Bool) (code : Nat) (where_ : Nat) (h : Keeps a s)  : Keeps a (State.classFault s u p ok code where_) := by
  unfold State.classFault
  try dsimp -iota only
  repeat' first
    | with_reducible assumption | with_reducible apply State_logFault_keeps | with_reducible apply State_lastingFault_keeps
    | split

theorem State_moduleDown_keeps {a : State} (s : State) (u : Nat) (h : Keeps a s)  : Keeps a (State.moduleDown s u) := by
  unfold State.moduleDown
  try dsimp -iota only
  repeat' first
    | with_reducible assumption | with_reducible apply State_irqSet_keeps | with_reducible apply State_rb_keeps | split

theorem State_linkFence_keeps {a : State} (s : State) (u : Nat) (h : Keeps a s)  : Keeps a (State.linkFence s u) := by
  unfold State.linkFence
  try dsimp -iota only
  repeat' first
    | with_reducible assumption | with_reducible apply State_moduleDown_keeps | split

theorem State_hubLost_keeps {a : State} (s : State) (p : Page) (code : Nat) (w : Nat) (h : Keeps a s)  : Keeps a (State.hubLost s p code w) := by
  unfold State.hubLost
  try dsimp -iota only
  repeat' first
    | with_reducible assumption | with_reducible apply State_replaceRequest_keeps | with_reducible apply State_inc_keeps
    | with_reducible apply State_logFault_keeps | split

theorem State_stageLost_keeps {a : State} (s : State) (i : Nat) (ln : Nat) (h : Keeps a s)  : Keeps a (State.stageLost s i ln) := by
  unfold State.stageLost
  try dsimp -iota only
  repeat' first
    | with_reducible assumption | with_reducible apply State_upJr_keeps | with_reducible apply State_inc_keeps
    | with_reducible refine Keeps.foldl ?_ ?_ | with_reducible refine Keeps.foldl_snd ?_ ?_
    | with_reducible refine Keeps.foldl_thd ?_ ?_ | with_reducible refine Keeps.foldl_fst ?_ ?_ | split
    | (intro _ _ _; try dsimp -iota only) | (intro _ _; try dsimp -iota only)

theorem State_wdogReload_keeps {a : State} (s : State) (h : Keeps a s)  : Keeps a (State.wdogReload s) := by
  unfold State.wdogReload
  try dsimp -iota only
  repeat' first
    | with_reducible assumption | split | with_reducible exact List.prefix_refl _ | with_reducible exact Nat.le_refl _
    | with_reducible exact id | with_reducible exact List.prefix_append _ _ | with_reducible exact Nat.le_succ _
    | (intro _; try dsimp -iota only) | with_reducible apply Keeps.upd (hp := rfl)

theorem State_reportLost_keeps {a : State} (s : State) (g : Nat) (h : Keeps a s)  : Keeps a (State.reportLost s g) := by
  unfold State.reportLost
  try dsimp -iota only
  repeat' first
    | with_reducible assumption | with_reducible apply State_inc_keeps | with_reducible apply State_rb_keeps
    | with_reducible apply State_upGr_keeps | with_reducible refine Keeps.foldl ?_ ?_
    | with_reducible refine Keeps.foldl_snd ?_ ?_ | with_reducible refine Keeps.foldl_thd ?_ ?_
    | with_reducible refine Keeps.foldl_fst ?_ ?_ | split | with_reducible exact List.prefix_refl _
    | with_reducible exact Nat.le_refl _ | with_reducible exact id | with_reducible exact Tab.rising_put _ _ _ _
    | with_reducible exact List.prefix_append _ _ | with_reducible exact Nat.le_succ _
    | with_reducible refine Mem.wf_foldl _ ?_ _ _ ?_ | (intro _ _ _; try dsimp -iota only) | (intro _ _; try dsimp -iota only)
    | (intro _; try dsimp -iota only) | with_reducible apply Keeps.upd (hp := rfl)

theorem State_hubLoss_keeps {a : State} (s : State) (x1 : Sys2Proof.SramSite) (h : Keeps a s)  : Keeps a (State.hubLoss s x1) := by
  unfold State.hubLoss
  try dsimp -iota only
  repeat' first
    | with_reducible assumption | with_reducible apply State_streamCtrl_keeps | with_reducible apply State_stageLost_keeps
    | with_reducible apply State_upGr_keeps | with_reducible apply State_reportLost_keeps
    | with_reducible apply State_upChan_keeps | with_reducible apply State_inc_keeps
    | with_reducible apply State_wdogReload_keeps | split | with_reducible exact List.prefix_refl _
    | with_reducible exact Nat.le_refl _ | with_reducible exact id | with_reducible exact List.prefix_append _ _
    | with_reducible exact Nat.le_succ _ | with_reducible apply Mem.wf_wrLE | (intro _; try dsimp -iota only)
    | with_reducible apply Keeps.upd (hp := rfl)

theorem State_sramError_keeps {a : State} (s : State) (site : Sys2Proof.SramSite) (dbl : Bool) (ok : Bool) (h : Keeps a s)  : Keeps a (State.sramError s site dbl ok) := by
  unfold State.sramError
  try dsimp -iota only
  repeat' first
    | with_reducible assumption | with_reducible apply State_classFault_keeps | with_reducible apply State_logFault_keeps
    | with_reducible apply State_hubLoss_keeps | with_reducible apply State_hubLost_keeps | split

theorem State_ddrError_keeps {a : State} (s : State) (c : Nat) (x2 : Nat) (dbl : Bool) (ok : Bool) (syn : Nat) (rank : Bool) (bank : Nat) (h : Keeps a s)  : Keeps a (State.ddrError s c x2 dbl ok syn rank bank) := by
  unfold State.ddrError
  try dsimp -iota only
  repeat' first
    | with_reducible assumption | with_reducible apply State_rs_keeps | with_reducible apply State_inc_keeps
    | with_reducible apply State_rb_keeps | with_reducible apply State_classFault_keeps | split

theorem State_patrol_keeps {a : State} (s : State) (c : Nat) (h : Keeps a s)  : Keeps a (State.patrol s c) := by
  unfold State.patrol
  try dsimp -iota only
  repeat' first
    | with_reducible assumption | with_reducible apply State_inc_keeps | split | with_reducible exact List.prefix_refl _
    | with_reducible exact Nat.le_refl _ | with_reducible exact id | with_reducible exact Tab.rising_put _ _ _ _
    | with_reducible exact List.prefix_append _ _ | with_reducible exact Nat.le_succ _ | (intro _; try dsimp -iota only)
    | with_reducible apply Keeps.upd (hp := rfl)

theorem State_logAppend_keeps {a : State} (s : State) (ok : Bool) (h : Keeps a s)  : Keeps a (State.logAppend s ok) := by
  unfold State.logAppend
  try dsimp -iota only
  repeat' first
    | with_reducible assumption | with_reducible apply State_emit_keeps | with_reducible apply State_rs_keeps
    | with_reducible apply State_irqSet_keeps | with_reducible apply State_rb_keeps | split
    | with_reducible exact List.prefix_refl _ | with_reducible exact Nat.le_refl _ | with_reducible exact id
    | with_reducible exact List.prefix_append _ _ | with_reducible exact Nat.le_succ _ | (intro _; try dsimp -iota only)
    | with_reducible apply Keeps.upd (hp := rfl)

theorem State_logReplay_keeps {a : State} (s : State) (i : Nat) (x2 : List Sys2Proof.Byte) (h : Keeps a s)  : Keeps a (State.logReplay s i x2) := by
  unfold State.logReplay
  try dsimp -iota only
  repeat' first
    | with_reducible assumption | with_reducible apply State_inc_keeps | with_reducible apply State_rs_keeps
    | with_reducible apply State_rb_keeps | split | with_reducible exact List.prefix_refl _
    | with_reducible exact Nat.le_refl _ | with_reducible exact id | with_reducible exact List.prefix_append _ _
    | with_reducible exact Nat.le_succ _ | (intro _; try dsimp -iota only) | with_reducible apply Keeps.upd (hp := rfl)

theorem State_logReplayAll_keeps {a : State} (s : State) (ok : Bool) (h : Keeps a s)  : Keeps a (State.logReplayAll s ok) := by
  unfold State.logReplayAll
  try dsimp -iota only
  repeat' first
    | with_reducible assumption | with_reducible apply State_rb_keeps | with_reducible apply State_rs_keeps
    | with_reducible apply State_logReplay_keeps | with_reducible apply State_alertUpdate_keeps
    | with_reducible apply State_healthCounts_keeps | with_reducible refine Keeps.foldl ?_ ?_
    | with_reducible refine Keeps.foldl_snd ?_ ?_ | with_reducible refine Keeps.foldl_thd ?_ ?_
    | with_reducible refine Keeps.foldl_fst ?_ ?_ | split | (intro _ _ _; try dsimp -iota only)
    | (intro _ _; try dsimp -iota only)

theorem execSramEccError_keeps (t : Nat) (site : Sys2Proof.SramSite) (dbl : Bool) (ok : Bool) (s : State) : KeepsR s (execSramEccError t site dbl ok s) := by
  have h := Keeps.refl s
  unfold execSramEccError
  try dsimp -iota only
  repeat' first
    | with_reducible assumption | with_reducible apply KeepsR.next | with_reducible apply State_sramError_keeps
    | with_reducible apply State_advance_keeps | split

theorem execDdrEccError_keeps (t : Nat) (c : Fin 6) (x2 : BitVec 40) (dbl : Bool) (ok : Bool) (syn : BitVec 8) (rank : Bool) (bank : BitVec 4) (s : State) : KeepsR s (execDdrEccError t c x2 dbl ok syn rank bank s) := by
  have h := Keeps.refl s
  unfold execDdrEccError
  try dsimp -iota only
  repeat' first
    | with_reducible assumption | with_reducible apply KeepsR.next | with_reducible apply State_ddrError_keeps
    | with_reducible apply State_advance_keeps | split

theorem execPatrolScrub_keeps (t : Nat) (c : Fin 6) (s : State) : KeepsR s (execPatrolScrub t c s) := by
  have h := Keeps.refl s
  unfold execPatrolScrub
  try dsimp -iota only
  repeat' first
    | with_reducible assumption | with_reducible apply KeepsR.next | with_reducible apply State_patrol_keeps
    | with_reducible apply State_advance_keeps | split

theorem execMeshParityResend_keeps (t : Nat) (k : Fin 16) (row : Fin 16) (ok : Bool) (s : State) : KeepsR s (execMeshParityResend t k row ok s) := by
  have h := Keeps.refl s
  unfold execMeshParityResend
  try dsimp -iota only
  repeat' first
    | with_reducible assumption | with_reducible apply KeepsR.next | with_reducible apply State_classFault_keeps
    | with_reducible apply State_advance_keeps | split

theorem execUcieCrcRetry_keeps (t : Nat) (u : Fin 16) (ok : Bool) (s : State) : KeepsR s (execUcieCrcRetry t u ok s) := by
  have h := Keeps.refl s
  unfold execUcieCrcRetry
  try dsimp -iota only
  repeat' first
    | with_reducible assumption | with_reducible apply KeepsR.next | with_reducible apply State_classFault_keeps
    | with_reducible apply State_inc_keeps | with_reducible apply State_advance_keeps
    | with_reducible apply State_linkFence_keeps | split

theorem execFaultLogAppend_keeps (t : Nat) (ok : Bool) (s : State) : KeepsR s (execFaultLogAppend t ok s) := by
  have h := Keeps.refl s
  unfold execFaultLogAppend
  try dsimp -iota only
  repeat' first
    | with_reducible assumption | with_reducible apply KeepsR.next | with_reducible apply State_logAppend_keeps
    | with_reducible apply State_advance_keeps | split

end Sys2Proof.Machine
end

