-- ==== Sys2Proof/Laws/KeepsPtp.lean ====
section
/-!
SUPPORT. `Keeps` for the functions of Machine/Ptp.lean: each leaves the queue alone, drops no output and keeps the canonical forms.
-/
set_option linter.unusedVariables false
namespace Sys2Proof.Machine
open Regs

theorem State_upDm_keeps {a : State} (s : State) (d : Nat) (f : Dom → Dom) (h : Keeps a s)  : Keeps a (State.upDm s d f) := by
  unfold State.upDm
  try dsimp -iota only
  repeat' first
    | with_reducible assumption | split | with_reducible exact List.prefix_refl _ | with_reducible exact Nat.le_refl _
    | with_reducible exact id | with_reducible exact Tab.rising_put _ _ _ _ | with_reducible exact List.prefix_append _ _
    | with_reducible exact Nat.le_succ _ | (intro _; try dsimp -iota only) | with_reducible apply Keeps.upd (hp := rfl)

theorem State_sendFrame_keeps {a : State} (s : State) (p : Nat) (at_ : Nat) (f : List Sys2Proof.Byte) (h : Keeps a s)  : Keeps a (State.sendFrame s p at_ f) := by
  unfold State.sendFrame
  try dsimp -iota only
  repeat' first
    | with_reducible assumption | with_reducible apply State_inc_keeps | with_reducible apply State_emit_keeps | split
    | with_reducible exact List.prefix_refl _ | with_reducible exact Nat.le_refl _ | with_reducible exact id
    | with_reducible exact Tab.rising_put _ _ _ _ | with_reducible exact List.prefix_append _ _
    | with_reducible exact Nat.le_succ _ | (intro _; try dsimp -iota only) | with_reducible apply Keeps.upd (hp := rfl)

theorem State_sendTrain_keeps {a : State} (s : State) (p : Nat) (x2 : LEntry) (at_ : Nat) (rec_ : Nat) (h : Keeps a s)  : Keeps a (State.sendTrain s p x2 at_ rec_) := by
  unfold State.sendTrain
  try dsimp -iota only
  repeat' first
    | with_reducible assumption | with_reducible apply State_rs_keeps | with_reducible apply State_sendFrame_keeps
    | with_reducible refine Keeps.foldl ?_ ?_ | with_reducible refine Keeps.foldl_snd ?_ ?_
    | with_reducible refine Keeps.foldl_thd ?_ ?_ | with_reducible refine Keeps.foldl_fst ?_ ?_ | split
    | with_reducible exact List.prefix_refl _ | with_reducible exact Nat.le_refl _ | with_reducible exact id
    | with_reducible exact Tab.rising_put _ _ _ _ | with_reducible exact List.prefix_append _ _
    | with_reducible exact Nat.le_succ _ | with_reducible refine Mem.wf_foldl _ ?_ _ _ ?_
    | (intro _ _ _; try dsimp -iota only) | (intro _ _; try dsimp -iota only) | (intro _; try dsimp -iota only)
    | with_reducible apply Keeps.upd (hp := rfl)

theorem State_lateEntry_keeps {a : State} (s : State) (p : Nat) (x2 : LEntry) (h : Keeps a s)  : Keeps a (State.lateEntry s p x2) := by
  unfold State.lateEntry
  try dsimp -iota only
  repeat' first
    | with_reducible assumption | with_reducible apply State_irqSet_keeps | with_reducible apply State_inc_keeps
    | with_reducible apply State_sendTrain_keeps | split

theorem State_placeEntry_keeps {a : State} (s : State) (p : Nat) (x2 : LEntry) (h : Keeps a s)  : Keeps a (State.placeEntry s p x2) := by
  unfold State.placeEntry
  try dsimp -iota only
  repeat' first
    | with_reducible assumption | with_reducible apply State_lateEntry_keeps | split | with_reducible exact List.prefix_refl _
    | with_reducible exact Nat.le_refl _ | with_reducible exact id | with_reducible exact Tab.rising_put _ _ _ _
    | with_reducible exact List.prefix_append _ _ | with_reducible exact Nat.le_succ _ | (intro _; try dsimp -iota only)
    | with_reducible apply Keeps.upd (hp := rfl)

theorem State_launchPost_keeps {a : State} (s : State) (p : Nat) (q : Nat) (n : Nat) (target : Nat) (bytes : List Sys2Proof.Byte) (h : Keeps a s)  : Keeps a (State.launchPost s p q n target bytes) := by
  unfold State.launchPost
  try dsimp -iota only
  repeat' first
    | with_reducible assumption | with_reducible apply State_inc_keeps | with_reducible apply State_irqSet_keeps
    | with_reducible apply State_placeEntry_keeps | split

theorem State_launchRetime_keeps {a : State} (s : State) (h : Keeps a s)  : Keeps a (State.launchRetime s) := by
  unfold State.launchRetime
  try dsimp -iota only
  repeat' first
    | with_reducible assumption | with_reducible apply State_placeEntry_keeps | with_reducible refine Keeps.foldl ?_ ?_
    | with_reducible refine Keeps.foldl_snd ?_ ?_ | with_reducible refine Keeps.foldl_thd ?_ ?_
    | with_reducible refine Keeps.foldl_fst ?_ ?_ | split | with_reducible exact List.prefix_refl _
    | with_reducible exact Nat.le_refl _ | with_reducible exact id | with_reducible exact Tab.rising_put _ _ _ _
    | with_reducible exact List.prefix_append _ _ | with_reducible exact Nat.le_succ _
    | with_reducible refine Mem.wf_foldl _ ?_ _ _ ?_ | (intro _ _ _; try dsimp -iota only) | (intro _ _; try dsimp -iota only)
    | (intro _; try dsimp -iota only) | with_reducible apply Keeps.upd (hp := rfl)

theorem State_launchStart_keeps {a : State} (s : State) (p : Nat) (h : Keeps a s)  : Keeps a (State.launchStart s p) := by
  unfold State.launchStart
  try dsimp -iota only
  repeat' first
    | with_reducible assumption | with_reducible apply State_inc_keeps | with_reducible apply State_lateEntry_keeps
    | with_reducible apply State_takeFree_keeps (e := pair_eta _)
    | with_reducible apply State_takeFree_keeps (e := by with_reducible assumption)
    | with_reducible apply State_sendTrain_keeps | split | with_reducible exact List.prefix_refl _
    | with_reducible exact Nat.le_refl _ | with_reducible exact id | with_reducible exact Tab.rising_put _ _ _ _
    | with_reducible exact List.prefix_append _ _ | with_reducible exact Nat.le_succ _ | (intro _; try dsimp -iota only)
    | with_reducible apply Keeps.upd (hp := rfl)

theorem State_tplWrite_keeps {a : State} (s : State) (i : Nat) (v : Sys2Proof.Word) (h : Keeps a s)  : Keeps a (State.tplWrite s i v) := by
  unfold State.tplWrite
  try dsimp -iota only
  repeat' first
    | with_reducible assumption | with_reducible apply State_errParam_keeps | with_reducible apply State_rs_keeps | split

theorem State_lnqCtrl_keeps {a : State} (s : State) (i : Nat) (v : Sys2Proof.Word) (h : Keeps a s)  : Keeps a (State.lnqCtrl s i v) := by
  unfold State.lnqCtrl
  try dsimp -iota only
  repeat' first
    | with_reducible assumption | with_reducible apply State_errParam_keeps | with_reducible apply State_rs_keeps
    | with_reducible refine Keeps.foldl ?_ ?_ | with_reducible refine Keeps.foldl_snd ?_ ?_
    | with_reducible refine Keeps.foldl_thd ?_ ?_ | with_reducible refine Keeps.foldl_fst ?_ ?_ | split
    | (intro _ _ _; try dsimp -iota only) | (intro _ _; try dsimp -iota only)

theorem State_ppsLow_keeps {a : State} (s : State) (h : Keeps a s)  : Keeps a (State.ppsLow s) := by
  unfold State.ppsLow
  try dsimp -iota only
  repeat' first
    | with_reducible assumption | with_reducible apply State_emit_keeps | split | with_reducible exact List.prefix_refl _
    | with_reducible exact Nat.le_refl _ | with_reducible exact id | with_reducible exact List.prefix_append _ _
    | with_reducible exact Nat.le_succ _ | (intro _; try dsimp -iota only) | with_reducible apply Keeps.upd (hp := rfl)

theorem State_ppsJump_keeps {a : State} (s : State) (h : Keeps a s)  : Keeps a (State.ppsJump s) := by
  unfold State.ppsJump
  try dsimp -iota only
  repeat' first
    | with_reducible assumption | with_reducible apply State_irqSet_keeps | with_reducible apply State_inc_keeps | split
    | with_reducible exact List.prefix_refl _ | with_reducible exact Nat.le_refl _ | with_reducible exact id
    | with_reducible exact List.prefix_append _ _ | with_reducible exact Nat.le_succ _ | (intro _; try dsimp -iota only)
    | with_reducible apply Keeps.upd (hp := rfl)

theorem State_ppsEdge_keeps {a : State} (s : State) (h : Keeps a s)  : Keeps a (State.ppsEdge s) := by
  unfold State.ppsEdge
  try dsimp -iota only
  repeat' first
    | with_reducible assumption | with_reducible apply State_emit_keeps | split | with_reducible exact List.prefix_refl _
    | with_reducible exact Nat.le_refl _ | with_reducible exact id | with_reducible exact List.prefix_append _ _
    | with_reducible exact Nat.le_succ _ | (intro _; try dsimp -iota only) | with_reducible apply Keeps.upd (hp := rfl)

theorem State_timeChanged_keeps {a : State} (s : State) (stepped : Bool) (jumped : Bool) (h : Keeps a s)  : Keeps a (State.timeChanged s stepped jumped) := by
  unfold State.timeChanged
  try dsimp -iota only
  repeat' first
    | with_reducible assumption | with_reducible apply State_launchRetime_keeps | with_reducible apply State_wtChanged_keeps
    | with_reducible apply State_ppsJump_keeps | split

theorem State_paramChanged_keeps {a : State} (s : State) (d : Nat) (stepped : Bool) (h : Keeps a s)  : Keeps a (State.paramChanged s d stepped) := by
  unfold State.paramChanged
  try dsimp -iota only
  repeat' first
    | with_reducible assumption | with_reducible apply State_timeChanged_keeps | split

theorem State_switchTo_keeps {a : State} (s : State) (d : Nat) (h : Keeps a s)  : Keeps a (State.switchTo s d) := by
  unfold State.switchTo
  try dsimp -iota only
  repeat' first
    | with_reducible assumption | with_reducible apply State_timeChanged_keeps | with_reducible apply State_irqSet_keeps
    | with_reducible apply State_inc_keeps | with_reducible apply State_rs_keeps | split

theorem State_autoSwitch_keeps {a : State} (s : State) (d : Nat) (h : Keeps a s)  : Keeps a (State.autoSwitch s d) := by
  unfold State.autoSwitch
  try dsimp -iota only
  repeat' first
    | with_reducible assumption | with_reducible apply State_switchTo_keeps | split

theorem State_irqIf_keeps {a : State} (s : State) (c : Bool) (p : Page) (b : Nat) (h : Keeps a s)  : Keeps a (State.irqIf s c p b) := by
  unfold State.irqIf
  try dsimp -iota only
  repeat' first
    | with_reducible assumption | with_reducible apply State_irqSet_keeps | split

theorem State_domRaise_keeps {a : State} (s : State) (d : Nat) (old : Nat) (now : Nat) (st : Nat) (st' : Nat) (h : Keeps a s)  : Keeps a (State.domRaise s d old now st st') := by
  unfold State.domRaise
  try dsimp -iota only
  repeat' first
    | with_reducible assumption | with_reducible apply State_irqIf_keeps | split

theorem State_domTrace_keeps {a : State} (s : State) (d : Nat) (old : Nat) (now : Nat) (h : Keeps a s)  : Keeps a (State.domTrace s d old now) := by
  unfold State.domTrace
  try dsimp -iota only
  repeat' first
    | with_reducible assumption | with_reducible apply State_trace_keeps | split

theorem State_domHeld_keeps {a : State} (s : State) (d : Nat) (was : Bool) (h : Keeps a s)  : Keeps a (State.domHeld s d was) := by
  unfold State.domHeld
  try dsimp -iota only
  repeat' first
    | with_reducible assumption | with_reducible apply State_autoSwitch_keeps | split

theorem State_domChange_keeps {a : State} (s : State) (d : Nat) (f : State → State) (h : Keeps a s) (h_f : ∀ s, Keeps a s → Keeps a (f s)) : Keeps a (State.domChange s d f) := by
  unfold State.domChange
  try dsimp -iota only
  repeat' first
    | with_reducible assumption | with_reducible exact h_f _ ‹_› | with_reducible apply h_f
    | with_reducible refine h_f _ _ _ _ _ ‹_› ?_ | with_reducible exact h_f _ _ _ _ _ ‹_› ‹_›
    | with_reducible exact h_f _ _ ‹_› | with_reducible exact h_f _ _ _ _ ‹_› | with_reducible apply State_domHeld_keeps
    | with_reducible apply State_domTrace_keeps | with_reducible apply State_domRaise_keeps
    | with_reducible apply State_rb_keeps | split | (intro _ _; try dsimp -iota only)

theorem State_setDomState_keeps {a : State} (s : State) (d : Nat) (st : Nat) (h : Keeps a s)  : Keeps a (State.setDomState s d st) := by
  unfold State.setDomState
  try dsimp -iota only
  repeat' first
    | with_reducible assumption | with_reducible apply State_domChange_keeps | with_reducible apply State_rs_keeps | split
    | (intro _ _; try dsimp -iota only)

theorem State_setRate_keeps {a : State} (s : State) (d : Nat) (rate : Nat) (h : Keeps a s)  : Keeps a (State.setRate s d rate) := by
  unfold State.setRate
  try dsimp -iota only
  repeat' first
    | with_reducible assumption | with_reducible apply State_paramChanged_keeps | split
    | with_reducible exact List.prefix_refl _ | with_reducible exact Nat.le_refl _ | with_reducible exact id
    | with_reducible exact Tab.rising_put _ _ _ _ | with_reducible exact List.prefix_append _ _
    | with_reducible exact Nat.le_succ _ | (intro _; try dsimp -iota only) | with_reducible apply Keeps.upd (hp := rfl)

theorem State_stepTo_keeps {a : State} (s : State) (d : Nat) (off : Int) (h : Keeps a s)  : Keeps a (State.stepTo s d off) := by
  unfold State.stepTo
  try dsimp -iota only
  repeat' first
    | with_reducible assumption | with_reducible apply State_notice_keeps | with_reducible apply State_irqSet_keeps
    | with_reducible apply State_inc_keeps | with_reducible apply State_upDm_keeps
    | with_reducible apply State_domChange_keeps | with_reducible apply State_rb_keeps
    | with_reducible apply State_paramChanged_keeps | split | with_reducible exact List.prefix_refl _
    | with_reducible exact Nat.le_refl _ | with_reducible exact id | with_reducible exact Tab.rising_put _ _ _ _
    | with_reducible exact List.prefix_append _ _ | with_reducible exact Nat.le_succ _ | (intro _ _; try dsimp -iota only)
    | (intro _; try dsimp -iota only) | with_reducible apply Keeps.upd (hp := rfl)

theorem State_stepBy_keeps {a : State} (s : State) (d : Nat) (o : Int) (h : Keeps a s)  : Keeps a (State.stepBy s d o) := by
  unfold State.stepBy
  try dsimp -iota only
  repeat' first
    | with_reducible assumption | with_reducible apply State_stepTo_keeps | split

theorem State_jump_keeps {a : State} (s : State) (d : Nat) (o : Int) (mpd : Int) (h : Keeps a s)  : Keeps a (State.jump s d o mpd) := by
  unfold State.jump
  try dsimp -iota only
  repeat' first
    | with_reducible assumption | with_reducible apply State_inc_keeps | with_reducible apply State_rs_keeps
    | with_reducible apply State_domChange_keeps | with_reducible apply State_rb_keeps | with_reducible apply State_upDm_keeps
    | split | (intro _ _; try dsimp -iota only)

theorem State_judge_keeps {a : State} (s : State) (d : Nat) (o : Int) (mpd : Int) (h : Keeps a s)  : Keeps a (State.judge s d o mpd) := by
  unfold State.judge
  try dsimp -iota only
  repeat' first
    | with_reducible assumption | with_reducible apply State_upDm_keeps | with_reducible apply State_jump_keeps
    | with_reducible apply State_inc_keeps | split

theorem State_lockRule_keeps {a : State} (s : State) (d : Nat) (o : Int) (h : Keeps a s)  : Keeps a (State.lockRule s d o) := by
  unfold State.lockRule
  try dsimp -iota only
  repeat' first
    | with_reducible assumption | with_reducible apply State_upDm_keeps | with_reducible apply State_domChange_keeps
    | with_reducible apply State_rb_keeps | with_reducible apply State_rs_keeps | with_reducible apply State_setDomState_keeps
    | split | (intro _ _; try dsimp -iota only)

theorem State_goodRule_keeps {a : State} (s : State) (d : Nat) (o : Int) (h : Keeps a s)  : Keeps a (State.goodRule s d o) := by
  unfold State.goodRule
  try dsimp -iota only
  repeat' first
    | with_reducible assumption | with_reducible apply State_upDm_keeps | with_reducible apply State_domChange_keeps
    | with_reducible apply State_rb_keeps | split | (intro _ _; try dsimp -iota only)

theorem State_servoApply_keeps {a : State} (s : State) (d : Nat) (o : Int) (h : Keeps a s)  : Keeps a (State.servoApply s d o) := by
  unfold State.servoApply
  try dsimp -iota only
  repeat' first
    | with_reducible assumption | with_reducible apply State_takeFree_keeps (e := pair_eta _)
    | with_reducible apply State_takeFree_keeps (e := by with_reducible assumption) | with_reducible apply State_upDm_keeps
    | with_reducible apply State_inc_keeps | with_reducible apply State_setRate_keeps | split

theorem State_servo_keeps {a : State} (s : State) (d : Nat) (o : Int) (mpd : Int) (h : Keeps a s)  : Keeps a (State.servo s d o mpd) := by
  unfold State.servo
  try dsimp -iota only
  repeat' first
    | with_reducible assumption | with_reducible apply State_upDm_keeps | with_reducible apply State_rs_keeps
    | with_reducible apply State_goodRule_keeps | with_reducible apply State_lockRule_keeps
    | with_reducible apply State_stepBy_keeps | with_reducible apply State_takeFree_keeps (e := pair_eta _)
    | with_reducible apply State_takeFree_keeps (e := by with_reducible assumption) | with_reducible apply State_setRate_keeps
    | with_reducible apply State_domChange_keeps | with_reducible apply State_rb_keeps
    | with_reducible apply State_judge_keeps | with_reducible apply State_servoApply_keeps | split
    | (intro _ _; try dsimp -iota only)

theorem State_ptpSample_keeps {a : State} (s : State) (d : Nat) (t1 : Nat) (corr : Int) (t2 : Nat) (mpd : Int) (iv : Nat) (h : Keeps a s)  : Keeps a (State.ptpSample s d t1 corr t2 mpd iv) := by
  unfold State.ptpSample
  try dsimp -iota only
  repeat' first
    | with_reducible assumption | with_reducible apply State_upDm_keeps | with_reducible apply State_rs_keeps
    | with_reducible apply State_inc_keeps | with_reducible apply State_servo_keeps | split

theorem State_selectGm_keeps {a : State} (s : State) (d : Nat) (gm : Nat) (h : Keeps a s)  : Keeps a (State.selectGm s d gm) := by
  unfold State.selectGm
  try dsimp -iota only
  repeat' first
    | with_reducible assumption | with_reducible apply State_upDm_keeps | with_reducible apply State_rs_keeps
    | with_reducible apply State_setDomState_keeps | split

theorem State_announce_keeps {a : State} (s : State) (d : Nat) (gm : Nat) (sel : Bool) (utc : Nat) (utcOk : Bool) (iv : Nat) (h : Keeps a s)  : Keeps a (State.announce s d gm sel utc utcOk iv) := by
  unfold State.announce
  try dsimp -iota only
  repeat' first
    | with_reducible assumption | with_reducible apply State_selectGm_keeps | with_reducible apply State_upDm_keeps
    | with_reducible apply State_rb_keeps | with_reducible apply State_rs_keeps | split

theorem State_ptpTimeout_keeps {a : State} (s : State) (d : Nat) (alt : Option (BitVec 64)) (h : Keeps a s)  : Keeps a (State.ptpTimeout s d alt) := by
  unfold State.ptpTimeout
  try dsimp -iota only
  repeat' first
    | with_reducible assumption | with_reducible apply State_upDm_keeps | with_reducible apply State_inc_keeps
    | with_reducible apply State_setDomState_keeps | with_reducible apply State_selectGm_keeps | split

theorem State_domMove_keeps {a : State} (s : State) (d : Nat) (p : Nat) (h : Keeps a s)  : Keeps a (State.domMove s d p) := by
  unfold State.domMove
  try dsimp -iota only
  repeat' first
    | with_reducible assumption | with_reducible apply State_setDomState_keeps | with_reducible apply State_upDm_keeps
    | with_reducible apply State_rs_keeps | split

theorem State_ethDown_keeps {a : State} (s : State) (p : Nat) (h : Keeps a s)  : Keeps a (State.ethDown s p) := by
  unfold State.ethDown
  try dsimp -iota only
  repeat' first
    | with_reducible assumption | with_reducible apply State_irqSet_keeps | with_reducible apply State_rb_keeps
    | with_reducible apply State_domMove_keeps | with_reducible apply State_inc_keeps
    | with_reducible refine Keeps.foldl ?_ ?_ | with_reducible refine Keeps.foldl_snd ?_ ?_
    | with_reducible refine Keeps.foldl_thd ?_ ?_ | with_reducible refine Keeps.foldl_fst ?_ ?_ | split
    | (intro _ _ _; try dsimp -iota only) | (intro _ _; try dsimp -iota only)

theorem State_judgeOver_keeps {a : State} (s : State) (d : Nat) (h : Keeps a s)  : Keeps a (State.judgeOver s d) := by
  unfold State.judgeOver
  try dsimp -iota only
  repeat' first
    | with_reducible assumption | with_reducible apply State_domChange_keeps | with_reducible apply State_rb_keeps | split
    | (intro _ _; try dsimp -iota only)

theorem State_domCtrl_keeps {a : State} (s : State) (d : Nat) (v : Sys2Proof.Word) (h : Keeps a s)  : Keeps a (State.domCtrl s d v) := by
  unfold State.domCtrl
  try dsimp -iota only
  repeat' first
    | with_reducible assumption | with_reducible apply State_errParam_keeps | with_reducible apply State_rs_keeps
    | with_reducible apply State_upDm_keeps | with_reducible apply State_domChange_keeps | with_reducible apply State_rb_keeps
    | with_reducible apply State_setDomState_keeps | with_reducible apply State_domMove_keeps
    | with_reducible refine Keeps.foldl ?_ ?_ | with_reducible refine Keeps.foldl_snd ?_ ?_
    | with_reducible refine Keeps.foldl_thd ?_ ?_ | with_reducible refine Keeps.foldl_fst ?_ ?_ | split
    | (intro _ _ _; try dsimp -iota only) | (intro _ _; try dsimp -iota only)

theorem State_rateHigh_keeps {a : State} (s : State) (d : Nat) (v : Sys2Proof.Word) (h : Keeps a s)  : Keeps a (State.rateHigh s d v) := by
  unfold State.rateHigh
  try dsimp -iota only
  repeat' first
    | with_reducible assumption | with_reducible apply State_setRate_keeps | with_reducible apply State_errParam_keeps | split

theorem State_domCmd_keeps {a : State} (s : State) (d : Nat) (v : Sys2Proof.Word) (h : Keeps a s)  : Keeps a (State.domCmd s d v) := by
  unfold State.domCmd
  try dsimp -iota only
  repeat' first
    | with_reducible assumption | with_reducible apply State_stepTo_keeps | with_reducible apply State_stepBy_keeps
    | with_reducible apply State_errParam_keeps | with_reducible apply State_upDm_keeps
    | with_reducible apply State_domChange_keeps | with_reducible apply State_rb_keeps | split
    | (intro _ _; try dsimp -iota only)

theorem State_ptpCtrl_keeps {a : State} (s : State) (v : Sys2Proof.Word) (h : Keeps a s)  : Keeps a (State.ptpCtrl s v) := by
  unfold State.ptpCtrl
  try dsimp -iota only
  repeat' first
    | with_reducible assumption | with_reducible apply State_errParam_keeps | with_reducible apply State_rs_keeps
    | with_reducible apply State_switchTo_keeps | with_reducible apply State_ppsLow_keeps
    | with_reducible refine Keeps.foldl ?_ ?_ | with_reducible refine Keeps.foldl_snd ?_ ?_
    | with_reducible refine Keeps.foldl_thd ?_ ?_ | with_reducible refine Keeps.foldl_fst ?_ ?_ | split
    | with_reducible exact List.prefix_refl _ | with_reducible exact Nat.le_refl _ | with_reducible exact id
    | with_reducible exact List.prefix_append _ _ | with_reducible exact Nat.le_succ _
    | with_reducible refine Mem.wf_foldl _ ?_ _ _ ?_ | (intro _ _ _; try dsimp -iota only) | (intro _ _; try dsimp -iota only)
    | (intro _; try dsimp -iota only) | with_reducible apply Keeps.upd (hp := rfl)

theorem State_fwFrames_keeps {a : State} (s : State) (x1 : Nat) (h : Keeps a s)  : Keeps a (State.fwFrames s x1) := by
  induction x1 generalizing s with
  | zero =>
    unfold State.fwFrames
    try dsimp -iota only
    repeat' first
      | with_reducible assumption | with_reducible apply State_sendFrame_keeps | split | with_reducible exact List.prefix_refl _
      | with_reducible exact Nat.le_refl _ | with_reducible exact id | with_reducible exact List.prefix_append _ _
      | with_reducible exact Nat.le_succ _ | (intro _; try dsimp -iota only) | with_reducible apply Keeps.upd (hp := rfl)
  | succ n ih =>
    unfold State.fwFrames
    try dsimp -iota only
    repeat' first
      | with_reducible apply ih | with_reducible assumption | with_reducible apply State_sendFrame_keeps | split | with_reducible exact List.prefix_refl _
      | with_reducible exact Nat.le_refl _ | with_reducible exact id | with_reducible exact List.prefix_append _ _
      | with_reducible exact Nat.le_succ _ | (intro _; try dsimp -iota only) | with_reducible apply Keeps.upd (hp := rfl)

theorem State_ethRx_keeps {a : State} (s : State) (p : Nat) (f : List Sys2Proof.Byte) (ok : Bool) (h : Keeps a s)  : Keeps a (State.ethRx s p f ok) := by
  unfold State.ethRx
  try dsimp -iota only
  repeat' first
    | with_reducible assumption | with_reducible apply State_inc_keeps | with_reducible apply State_fwFrames_keeps | split
    | with_reducible exact List.prefix_refl _ | with_reducible exact Nat.le_refl _ | with_reducible exact id
    | with_reducible exact List.prefix_append _ _ | with_reducible exact Nat.le_succ _ | (intro _; try dsimp -iota only)
    | with_reducible apply Keeps.upd (hp := rfl)

theorem State_sendPtp_keeps {a : State} (s : State) (p : Nat) (kind : Nat) (args : List Nat) (req : List Sys2Proof.Byte) (h : Keeps a s)  : Keeps a (State.sendPtp s p kind args req) := by
  unfold State.sendPtp
  try dsimp -iota only
  repeat' first
    | with_reducible assumption | with_reducible apply State_sendFrame_keeps | with_reducible apply State_inc_keeps | split

theorem State_pdelayAnswer_keeps {a : State} (s : State) (p : Nat) (f : List Sys2Proof.Byte) (h : Keeps a s)  : Keeps a (State.pdelayAnswer s p f) := by
  unfold State.pdelayAnswer
  try dsimp -iota only
  repeat' first
    | with_reducible assumption | with_reducible apply State_sendPtp_keeps | split

theorem State_delayReq_keeps {a : State} (s : State) (d : Nat) (h : Keeps a s)  : Keeps a (State.delayReq s d) := by
  unfold State.delayReq
  try dsimp -iota only
  repeat' first
    | with_reducible assumption | with_reducible apply State_sendPtp_keeps | split

theorem State_ppsIn_keeps {a : State} (s : State) (h : Keeps a s)  : Keeps a (State.ppsIn s) := by
  unfold State.ppsIn
  try dsimp -iota only
  repeat' first
    | with_reducible assumption | with_reducible apply State_irqSet_keeps | with_reducible apply State_inc_keeps
    | with_reducible apply State_rs_keeps | with_reducible refine Keeps.foldl ?_ ?_
    | with_reducible refine Keeps.foldl_snd ?_ ?_ | with_reducible refine Keeps.foldl_thd ?_ ?_
    | with_reducible refine Keeps.foldl_fst ?_ ?_ | split | (intro _ _ _; try dsimp -iota only)
    | (intro _ _; try dsimp -iota only)

theorem execPpsInEdge_keeps (t : Nat) (s : State) : KeepsR s (execPpsInEdge t s) := by
  have h := Keeps.refl s
  unfold execPpsInEdge
  try dsimp -iota only
  repeat' first
    | with_reducible assumption | with_reducible apply KeepsR.next | with_reducible apply State_advance_keeps
    | with_reducible apply State_ppsIn_keeps | split

theorem execEthFrameRx_keeps (t : Nat) (p : Fin 2) (f : List Sys2Proof.Byte) (ok : Bool) (s : State) : KeepsR s (execEthFrameRx t p f ok s) := by
  have h := Keeps.refl s
  unfold execEthFrameRx
  try dsimp -iota only
  repeat' first
    | with_reducible assumption | with_reducible apply KeepsR.next | with_reducible apply State_ethRx_keeps
    | with_reducible apply State_advance_keeps | split

theorem execPtpSync_keeps (t : Nat) (d : Fin 2) (t1 : Nat) (corr : Int) (t2 : Nat) (mpd : Int) (iv : Nat) (s : State) : KeepsR s (execPtpSync t d t1 corr t2 mpd iv s) := by
  have h := Keeps.refl s
  unfold execPtpSync
  try dsimp -iota only
  repeat' first
    | with_reducible assumption | with_reducible apply KeepsR.next | with_reducible apply State_ptpSample_keeps
    | with_reducible apply State_advance_keeps | split

theorem execPtpAnnounce_keeps (t : Nat) (d : Fin 2) (gm : BitVec 64) (sel : Bool) (utc : BitVec 16) (utcOk : Bool) (iv : Nat) (s : State) : KeepsR s (execPtpAnnounce t d gm sel utc utcOk iv s) := by
  have h := Keeps.refl s
  unfold execPtpAnnounce
  try dsimp -iota only
  repeat' first
    | with_reducible assumption | with_reducible apply KeepsR.next | with_reducible apply State_announce_keeps
    | with_reducible apply State_advance_keeps | split

theorem execPdelayReq_keeps (t : Nat) (p : Fin 2) (f : List Sys2Proof.Byte) (s : State) : KeepsR s (execPdelayReq t p f s) := by
  have h := Keeps.refl s
  unfold execPdelayReq
  try dsimp -iota only
  repeat' first
    | with_reducible assumption | with_reducible apply KeepsR.next | with_reducible apply State_pdelayAnswer_keeps
    | with_reducible apply State_advance_keeps | split

theorem execDelayReqTimer_keeps (t : Nat) (d : Fin 2) (s : State) : KeepsR s (execDelayReqTimer t d s) := by
  have h := Keeps.refl s
  unfold execDelayReqTimer
  try dsimp -iota only
  repeat' first
    | with_reducible assumption | with_reducible apply KeepsR.next | with_reducible apply State_delayReq_keeps
    | with_reducible apply State_advance_keeps | split

theorem execPtpTimeout_keeps (t : Nat) (d : Fin 2) (alt : Option (BitVec 64)) (s : State) : KeepsR s (execPtpTimeout t d alt s) := by
  have h := Keeps.refl s
  unfold execPtpTimeout
  try dsimp -iota only
  repeat' first
    | with_reducible assumption | with_reducible apply KeepsR.next | with_reducible apply State_ptpTimeout_keeps
    | with_reducible apply State_advance_keeps | split

theorem execJumpWindowExpiry_keeps (t : Nat) (d : Fin 2) (s : State) : KeepsR s (execJumpWindowExpiry t d s) := by
  have h := Keeps.refl s
  unfold execJumpWindowExpiry
  try dsimp -iota only
  repeat' first
    | with_reducible assumption | with_reducible apply KeepsR.next | with_reducible apply State_judgeOver_keeps
    | with_reducible apply State_advance_keeps | split

theorem execEthLinkDown_keeps (t : Nat) (p : Fin 2) (s : State) : KeepsR s (execEthLinkDown t p s) := by
  have h := Keeps.refl s
  unfold execEthLinkDown
  try dsimp -iota only
  repeat' first
    | with_reducible assumption | with_reducible apply KeepsR.next | with_reducible apply State_ethDown_keeps
    | with_reducible apply State_advance_keeps | split

theorem execEthLinkUp_keeps (t : Nat) (p : Fin 2) (s : State) : KeepsR s (execEthLinkUp t p s) := by
  have h := Keeps.refl s
  unfold execEthLinkUp
  try dsimp -iota only
  repeat' first
    | with_reducible assumption | with_reducible apply KeepsR.next | with_reducible apply State_advance_keeps
    | with_reducible apply State_rb_keeps | split

theorem execDomEnWrite_keeps (t : Nat) (c : Sys2Proof.Req) (d : Fin 2) (v : Sys2Proof.Word) (s : State) : KeepsR s (execDomEnWrite t c d v s) := by
  have h := Keeps.refl s
  unfold execDomEnWrite
  try dsimp -iota only
  repeat' first
    | with_reducible assumption | with_reducible apply KeepsR.next | with_reducible apply State_cmdWrite_keeps
    | with_reducible apply State_domCtrl_keeps | split | (intro _ _; try dsimp -iota only)

theorem execRateWrite_keeps (t : Nat) (c : Sys2Proof.Req) (d : Fin 2) (v : Sys2Proof.Word) (s : State) : KeepsR s (execRateWrite t c d v s) := by
  have h := Keeps.refl s
  unfold execRateWrite
  try dsimp -iota only
  repeat' first
    | with_reducible assumption | with_reducible apply KeepsR.next | with_reducible apply State_cmdWrite_keeps
    | with_reducible apply State_rateHigh_keeps | split | (intro _ _; try dsimp -iota only)

theorem execSetOffset_keeps (t : Nat) (c : Sys2Proof.Req) (d : Fin 2) (v : Sys2Proof.Word) (s : State) : KeepsR s (execSetOffset t c d v s) := by
  have h := Keeps.refl s
  unfold execSetOffset
  try dsimp -iota only
  repeat' first
    | with_reducible assumption | with_reducible apply KeepsR.next | with_reducible apply State_cmdWrite_keeps
    | with_reducible apply State_domCmd_keeps | split | (intro _ _; try dsimp -iota only)

theorem execResolveStep_keeps (t : Nat) (c : Sys2Proof.Req) (d : Fin 2) (v : Sys2Proof.Word) (s : State) : KeepsR s (execResolveStep t c d v s) := by
  have h := Keeps.refl s
  unfold execResolveStep
  try dsimp -iota only
  repeat' first
    | with_reducible assumption | with_reducible apply KeepsR.next | with_reducible apply State_cmdWrite_keeps
    | with_reducible apply State_domCmd_keeps | split | (intro _ _; try dsimp -iota only)

theorem execResolveSlew_keeps (t : Nat) (c : Sys2Proof.Req) (d : Fin 2) (v : Sys2Proof.Word) (s : State) : KeepsR s (execResolveSlew t c d v s) := by
  have h := Keeps.refl s
  unfold execResolveSlew
  try dsimp -iota only
  repeat' first
    | with_reducible assumption | with_reducible apply KeepsR.next | with_reducible apply State_cmdWrite_keeps
    | with_reducible apply State_domCmd_keeps | split | (intro _ _; try dsimp -iota only)

theorem execClearIntegral_keeps (t : Nat) (c : Sys2Proof.Req) (d : Fin 2) (v : Sys2Proof.Word) (s : State) : KeepsR s (execClearIntegral t c d v s) := by
  have h := Keeps.refl s
  unfold execClearIntegral
  try dsimp -iota only
  repeat' first
    | with_reducible assumption | with_reducible apply KeepsR.next | with_reducible apply State_cmdWrite_keeps
    | with_reducible apply State_domCmd_keeps | split | (intro _ _; try dsimp -iota only)

theorem execActiveWrite_keeps (t : Nat) (c : Sys2Proof.Req) (v : Sys2Proof.Word) (s : State) : KeepsR s (execActiveWrite t c v s) := by
  have h := Keeps.refl s
  unfold execActiveWrite
  try dsimp -iota only
  repeat' first
    | with_reducible assumption | with_reducible apply KeepsR.next | with_reducible apply State_cmdWrite_keeps
    | with_reducible apply State_ptpCtrl_keeps | split | (intro _ _; try dsimp -iota only)

theorem execPpsOutEdge_keeps (t : Nat) (s : State) : KeepsR s (execPpsOutEdge t s) := by
  have h := Keeps.refl s
  unfold execPpsOutEdge
  try dsimp -iota only
  repeat' first
    | with_reducible assumption | with_reducible apply KeepsR.next | with_reducible apply State_ppsEdge_keeps
    | with_reducible apply State_advance_keeps | split

theorem execPpsOutFall_keeps (t : Nat) (s : State) : KeepsR s (execPpsOutFall t s) := by
  have h := Keeps.refl s
  unfold execPpsOutFall
  try dsimp -iota only
  repeat' first
    | with_reducible assumption | with_reducible apply KeepsR.next | with_reducible apply State_advance_keeps
    | with_reducible apply State_ppsLow_keeps | split

theorem execLaunchStart_keeps (t : Nat) (p : Fin 2) (s : State) : KeepsR s (execLaunchStart t p s) := by
  have h := Keeps.refl s
  unfold execLaunchStart
  try dsimp -iota only
  repeat' first
    | with_reducible assumption | with_reducible apply KeepsR.next | with_reducible apply State_launchStart_keeps
    | with_reducible apply State_advance_keeps | split

theorem execTplDataWrite_keeps (t : Nat) (c : Sys2Proof.Req) (p : Fin 2) (q : Fin 4) (v : Sys2Proof.Word) (s : State) : KeepsR s (execTplDataWrite t c p q v s) := by
  have h := Keeps.refl s
  unfold execTplDataWrite
  try dsimp -iota only
  repeat' first
    | with_reducible assumption | with_reducible apply KeepsR.next | with_reducible apply State_cmdWrite_keeps
    | with_reducible apply State_tplWrite_keeps | split | (intro _ _; try dsimp -iota only)

end Sys2Proof.Machine
end

