-- ==== Sys2Proof/Laws/KeepsPiste.lean ====
section
/-!
SUPPORT. `Keeps` for the functions of Machine/Piste.lean: each leaves the queue alone, drops no output and keeps the canonical forms.
-/
set_option linter.unusedVariables false
namespace Sys2Proof.Machine
open Regs

theorem State_sendRouted_keeps {a : State} (s : State) (ty : Nat) (body : List Nat) (src : optParam (Option (Nat × Nat × Nat)) none) (h : Keeps a s)  : Keeps a (State.sendRouted s ty body src) := by
  unfold State.sendRouted
  try dsimp -iota only
  repeat' first
    | with_reducible assumption | with_reducible apply State_pisteSend_keeps | with_reducible apply State_credited_keeps
    | with_reducible apply State_inc_keeps | split

theorem State_forward_keeps {a : State} (s : State) (ty : Nat) (body : List Nat) (src : Option (Nat × Nat × Nat)) (h : Keeps a s)  : Keeps a (State.forward s ty body src) := by
  unfold State.forward
  try dsimp -iota only
  repeat' first
    | with_reducible assumption | with_reducible apply State_credited_keeps | with_reducible apply State_inc_keeps
    | with_reducible apply State_sendRouted_keeps | split

theorem State_ftUnlock_keeps {a : State} (s : State) (h : Keeps a s)  : Keeps a (State.ftUnlock s) := by
  unfold State.ftUnlock
  try dsimp -iota only
  repeat' first
    | with_reducible assumption | with_reducible apply State_rb_keeps | split | with_reducible exact List.prefix_refl _
    | with_reducible exact Nat.le_refl _ | with_reducible exact id | with_reducible exact List.prefix_append _ _
    | with_reducible exact Nat.le_succ _ | (intro _; try dsimp -iota only) | with_reducible apply Keeps.upd (hp := rfl)

theorem State_phaseZero_keeps {a : State} (s : State) (h : Keeps a s)  : Keeps a (State.phaseZero s) := by
  unfold State.phaseZero
  try dsimp -iota only
  repeat' first
    | with_reducible assumption | split | with_reducible exact List.prefix_refl _ | with_reducible exact Nat.le_refl _
    | with_reducible exact id | with_reducible exact List.prefix_append _ _ | with_reducible exact Nat.le_succ _
    | (intro _; try dsimp -iota only) | with_reducible apply Keeps.upd (hp := rfl)

theorem State_ftToDT_keeps {a : State} (s : State) (h : Keeps a s)  : Keeps a (State.ftToDT s) := by
  unfold State.ftToDT
  try dsimp -iota only
  repeat' first
    | with_reducible assumption | with_reducible apply State_phaseZero_keeps | with_reducible apply State_rs_keeps
    | with_reducible apply State_ftUnlock_keeps | split

theorem State_ftRestart_keeps {a : State} (s : State) (toDT : Bool) (h : Keeps a s)  : Keeps a (State.ftRestart s toDT) := by
  unfold State.ftRestart
  try dsimp -iota only
  repeat' first
    | with_reducible assumption | with_reducible apply State_ftToDT_keeps | with_reducible apply State_ftUnlock_keeps | split

theorem State_setMState_keeps {a : State} (s : State) (m : Nat) (h : Keeps a s)  : Keeps a (State.setMState s m) := by
  unfold State.setMState
  try dsimp -iota only
  repeat' first
    | with_reducible assumption | with_reducible apply State_irqSet_keeps | with_reducible apply State_rs_keeps
    | with_reducible apply State_ftToDT_keeps | split

theorem State_setDevNum_keeps {a : State} (s : State) (n : Nat) (h : Keeps a s)  : Keeps a (State.setDevNum s n) := by
  unfold State.setDevNum
  try dsimp -iota only
  repeat' first
    | with_reducible assumption | with_reducible apply State_irqSet_keeps | with_reducible apply State_rs_keeps | split
    | with_reducible exact List.prefix_refl _ | with_reducible exact Nat.le_refl _ | with_reducible exact id
    | with_reducible exact List.prefix_append _ _ | with_reducible exact Nat.le_succ _ | (intro _; try dsimp -iota only)
    | with_reducible apply Keeps.upd (hp := rfl)

theorem State_adoptRoot_keeps {a : State} (s : State) (uid : Nat) (dev : Nat) (pin : Bool) (h : Keeps a s)  : Keeps a (State.adoptRoot s uid dev pin) := by
  unfold State.adoptRoot
  try dsimp -iota only
  repeat' first
    | with_reducible assumption | with_reducible apply State_rs_keeps | with_reducible apply State_ftRestart_keeps
    | with_reducible apply State_rb_keeps | split | with_reducible exact List.prefix_refl _
    | with_reducible exact Nat.le_refl _ | with_reducible exact id | with_reducible exact List.prefix_append _ _
    | with_reducible exact Nat.le_succ _ | (intro _; try dsimp -iota only) | with_reducible apply Keeps.upd (hp := rfl)

theorem State_setFabOffset_keeps {a : State} (s : State) (ns : Int) (h : Keeps a s)  : Keeps a (State.setFabOffset s ns) := by
  unfold State.setFabOffset
  try dsimp -iota only
  repeat' first
    | with_reducible assumption | with_reducible apply State_rs_keeps | split

theorem State_setFtMode_keeps {a : State} (s : State) (shared : Bool) (h : Keeps a s)  : Keeps a (State.setFtMode s shared) := by
  unfold State.setFtMode
  try dsimp -iota only
  repeat' first
    | with_reducible assumption | with_reducible apply State_ftUnlock_keeps | with_reducible apply State_rb_keeps
    | with_reducible apply State_rs_keeps | with_reducible apply State_setFabOffset_keeps
    | with_reducible apply State_phaseZero_keeps | split

theorem State_rootMode_keeps {a : State} (s : State) (h : Keeps a s)  : Keeps a (State.rootMode s) := by
  unfold State.rootMode
  try dsimp -iota only
  repeat' first
    | with_reducible assumption | with_reducible apply State_setFtMode_keeps | split

theorem State_selfRoot_keeps {a : State} (s : State) (h : Keeps a s)  : Keeps a (State.selfRoot s) := by
  unfold State.selfRoot
  try dsimp -iota only
  repeat' first
    | with_reducible assumption | with_reducible apply State_rs_keeps | with_reducible apply State_rootMode_keeps
    | with_reducible apply State_ftRestart_keeps | with_reducible apply State_rb_keeps | split
    | with_reducible exact List.prefix_refl _ | with_reducible exact Nat.le_refl _ | with_reducible exact id
    | with_reducible exact List.prefix_append _ _ | with_reducible exact Nat.le_succ _ | (intro _; try dsimp -iota only)
    | with_reducible apply Keeps.upd (hp := rfl)

theorem State_rootInit_keeps {a : State} (s : State) (h : Keeps a s)  : Keeps a (State.rootInit s) := by
  unfold State.rootInit
  try dsimp -iota only
  repeat' first
    | with_reducible assumption | with_reducible apply State_selfRoot_keeps | split

theorem State_isolate_keeps {a : State} (s : State) (h : Keeps a s)  : Keeps a (State.isolate s) := by
  unfold State.isolate
  try dsimp -iota only
  repeat' first
    | with_reducible assumption | with_reducible apply State_setMState_keeps | with_reducible apply State_setDevNum_keeps
    | with_reducible apply State_selfRoot_keeps | split | with_reducible exact List.prefix_refl _
    | with_reducible exact Nat.le_refl _ | with_reducible exact id | with_reducible exact List.prefix_append _ _
    | with_reducible exact Nat.le_succ _ | (intro _; try dsimp -iota only) | with_reducible apply Keeps.upd (hp := rfl)

theorem State_memberCheck_keeps {a : State} (s : State) (h : Keeps a s)  : Keeps a (State.memberCheck s) := by
  unfold State.memberCheck
  try dsimp -iota only
  repeat' first
    | with_reducible assumption | with_reducible apply State_rs_keeps | with_reducible apply State_setDevNum_keeps
    | with_reducible apply State_setMState_keeps | split

theorem State_refuseCheck_keeps {a : State} (s : State) (h : Keeps a s)  : Keeps a (State.refuseCheck s) := by
  unfold State.refuseCheck
  try dsimp -iota only
  repeat' first
    | with_reducible assumption | with_reducible apply State_setMState_keeps | split

theorem State_floodOwn_keeps {a : State} (s : State) (h : Keeps a s)  : Keeps a (State.floodOwn s) := by
  unfold State.floodOwn
  try dsimp -iota only
  repeat' first
    | with_reducible assumption | with_reducible apply State_pisteSend_keeps | with_reducible refine Keeps.foldl ?_ ?_
    | with_reducible refine Keeps.foldl_snd ?_ ?_ | with_reducible refine Keeps.foldl_thd ?_ ?_
    | with_reducible refine Keeps.foldl_fst ?_ ?_ | split | with_reducible exact List.prefix_refl _
    | with_reducible exact Nat.le_refl _ | with_reducible exact id | with_reducible exact List.prefix_append _ _
    | with_reducible exact Nat.le_succ _ | with_reducible refine Mem.wf_foldl _ ?_ _ _ ?_
    | (intro _ _ _; try dsimp -iota only) | (intro _ _; try dsimp -iota only) | (intro _; try dsimp -iota only)
    | with_reducible apply Keeps.upd (hp := rfl)

theorem State_linkChanged_keeps {a : State} (s : State) (h : Keeps a s)  : Keeps a (State.linkChanged s) := by
  unfold State.linkChanged
  try dsimp -iota only
  repeat' first
    | with_reducible assumption | with_reducible apply State_floodOwn_keeps | split | with_reducible exact List.prefix_refl _
    | with_reducible exact Nat.le_refl _ | with_reducible exact id | with_reducible exact List.prefix_append _ _
    | with_reducible exact Nat.le_succ _ | (intro _; try dsimp -iota only) | with_reducible apply Keeps.upd (hp := rfl)

theorem State_linkFresh_keeps {a : State} (s : State) (p : Nat) (h : Keeps a s)  : Keeps a (State.linkFresh s p) := by
  unfold State.linkFresh
  try dsimp -iota only
  repeat' first
    | with_reducible assumption | with_reducible apply State_upPp_keeps | with_reducible apply State_pisteStalls_keeps
    | with_reducible refine Keeps.foldl ?_ ?_ | with_reducible refine Keeps.foldl_snd ?_ ?_
    | with_reducible refine Keeps.foldl_thd ?_ ?_ | with_reducible refine Keeps.foldl_fst ?_ ?_ | split
    | (intro _ _ _; try dsimp -iota only) | (intro _ _; try dsimp -iota only)

theorem State_portDown_keeps {a : State} (s : State) (p : Nat) (h : Keeps a s)  : Keeps a (State.portDown s p) := by
  unfold State.portDown
  try dsimp -iota only
  repeat' first
    | with_reducible assumption | with_reducible apply State_rs_keeps | with_reducible apply State_linkFresh_keeps
    | with_reducible apply State_irqSet_keeps | with_reducible apply State_inc_keeps
    | with_reducible apply State_sendRouted_keeps | with_reducible apply State_isolate_keeps
    | with_reducible apply State_refuseCheck_keeps | with_reducible apply State_linkChanged_keeps
    | with_reducible refine Keeps.foldl ?_ ?_ | with_reducible refine Keeps.foldl_snd ?_ ?_
    | with_reducible refine Keeps.foldl_thd ?_ ?_ | with_reducible refine Keeps.foldl_fst ?_ ?_ | split
    | (intro _ _ _; try dsimp -iota only) | (intro _ _; try dsimp -iota only)

theorem State_pstCtrl_keeps {a : State} (s : State) (p : Nat) (v : Sys2Proof.Word) (h : Keeps a s)  : Keeps a (State.pstCtrl s p v) := by
  unfold State.pstCtrl
  try dsimp -iota only
  repeat' first
    | with_reducible assumption | with_reducible apply State_rb_keeps | with_reducible apply State_rootInit_keeps
    | with_reducible apply State_rs_keeps | with_reducible apply State_portDown_keeps | split

theorem State_portUp_keeps {a : State} (s : State) (p : Nat) (h : Keeps a s)  : Keeps a (State.portUp s p) := by
  unfold State.portUp
  try dsimp -iota only
  repeat' first
    | with_reducible assumption | with_reducible apply State_upPp_keeps | with_reducible apply State_irqSet_keeps
    | with_reducible apply State_rs_keeps | with_reducible apply State_setMState_keeps
    | with_reducible apply State_rootInit_keeps | with_reducible apply State_linkChanged_keeps
    | with_reducible apply State_memberCheck_keeps | split

theorem State_losTimeout_keeps {a : State} (s : State) (p : Nat) (h : Keeps a s)  : Keeps a (State.losTimeout s p) := by
  unfold State.losTimeout
  try dsimp -iota only
  repeat' first
    | with_reducible assumption | with_reducible apply State_portDown_keeps | split

theorem State_rxHeader_keeps {a : State} (s : State) (p : Nat) (x2 : Sys2Proof.PHdr) (h : Keeps a s)  : Keeps a (State.rxHeader s p x2) := by
  unfold State.rxHeader
  try dsimp -iota only
  repeat' first
    | with_reducible assumption | with_reducible apply State_upPp_keeps | with_reducible apply State_inc_keeps
    | with_reducible apply State_pisteEmit_keeps | with_reducible apply State_pistePump_keeps
    | with_reducible refine Keeps.foldl ?_ ?_ | with_reducible refine Keeps.foldl_snd ?_ ?_
    | with_reducible refine Keeps.foldl_thd ?_ ?_ | with_reducible refine Keeps.foldl_fst ?_ ?_ | split
    | (intro _ _ _; try dsimp -iota only) | (intro _ _; try dsimp -iota only)

theorem State_rxSeq_keeps {a : State} (s : State) (p : Nat) (x2 : Sys2Proof.PHdr) (f : State → State) (h : Keeps a s) (h_f : ∀ s, Keeps a s → Keeps a (f s)) : Keeps a (State.rxSeq s p x2 f) := by
  unfold State.rxSeq
  try dsimp -iota only
  repeat' first
    | with_reducible assumption | with_reducible exact h_f _ ‹_› | with_reducible apply h_f
    | with_reducible refine h_f _ _ _ _ _ ‹_› ?_ | with_reducible exact h_f _ _ _ _ _ ‹_› ‹_›
    | with_reducible exact h_f _ _ ‹_› | with_reducible exact h_f _ _ _ _ ‹_› | with_reducible apply State_rxHeader_keeps
    | with_reducible apply State_upPp_keeps | with_reducible apply State_inc_keeps | with_reducible apply State_logFault_keeps
    | with_reducible apply State_pisteNull_keeps | split | (intro _ _; try dsimp -iota only)

theorem State_rxRouted_keeps {a : State} (s : State) (p : Nat) (x2 : Sys2Proof.PHdr) (ty : Nat) (cls : Nat) (body : List Nat) (f : Option (Nat × Nat × Nat) → State → State) (h : Keeps a s) (h_f : ∀ x s, Keeps a s → Keeps a (f x s)) : Keeps a (State.rxRouted s p x2 ty cls body f) := by
  unfold State.rxRouted
  try dsimp -iota only
  repeat' first
    | with_reducible assumption | with_reducible exact h_f _ ‹_› | with_reducible apply h_f
    | with_reducible refine h_f _ _ _ _ _ ‹_› ?_ | with_reducible exact h_f _ _ _ _ _ ‹_› ‹_›
    | with_reducible exact h_f _ _ ‹_› | with_reducible exact h_f _ _ _ _ ‹_› | with_reducible apply State_rxSeq_keeps | split
    | (intro _ _; try dsimp -iota only)

theorem State_crcFail_keeps {a : State} (s : State) (p : Nat) (seq : Nat) (h : Keeps a s)  : Keeps a (State.crcFail s p seq) := by
  unfold State.crcFail
  try dsimp -iota only
  repeat' first
    | with_reducible assumption | with_reducible apply State_inc_keeps | with_reducible apply State_lastingFault_keeps
    | with_reducible apply State_portDown_keeps | with_reducible apply State_pisteNull_keeps
    | with_reducible apply State_upPp_keeps | split

theorem State_badType_keeps {a : State} (s : State) (p : Nat) (x2 : Sys2Proof.PHdr) (h : Keeps a s)  : Keeps a (State.badType s p x2) := by
  unfold State.badType
  try dsimp -iota only
  repeat' first
    | with_reducible assumption | with_reducible apply State_rxSeq_keeps | with_reducible apply State_inc_keeps | split
    | (intro _ _; try dsimp -iota only)

theorem State_replacePeer_keeps {a : State} (s : State) (d : Nat) (b : Bool) (h : Keeps a s)  : Keeps a (State.replacePeer s d b) := by
  unfold State.replacePeer
  try dsimp -iota only
  repeat' first
    | with_reducible assumption | with_reducible apply State_rs_keeps | with_reducible apply State_irqSet_keeps | split

theorem State_helloNbr_keeps {a : State} (s : State) (p : Nat) (w : List Nat) (h : Keeps a s)  : Keeps a (State.helloNbr s p w) := by
  unfold State.helloNbr
  try dsimp -iota only
  repeat' first
    | with_reducible assumption | with_reducible apply State_rs_keeps | with_reducible apply State_rb_keeps
    | with_reducible apply State_upPp_keeps | with_reducible apply State_replacePeer_keeps | split

theorem State_helloRoot_keeps {a : State} (s : State) (w : List Nat) (h : Keeps a s)  : Keeps a (State.helloRoot s w) := by
  unfold State.helloRoot
  try dsimp -iota only
  repeat' first
    | with_reducible assumption | with_reducible apply State_adoptRoot_keeps | with_reducible apply State_rootInit_keeps
    | with_reducible apply State_setFtMode_keeps | split

theorem State_helloIn_keeps {a : State} (s : State) (p : Nat) (w : List Nat) (grant : Option Nat) (h : Keeps a s)  : Keeps a (State.helloIn s p w grant) := by
  unfold State.helloIn
  try dsimp -iota only
  repeat' first
    | with_reducible assumption | with_reducible apply State_helloRoot_keeps | with_reducible apply State_helloNbr_keeps
    | with_reducible apply State_inc_keeps | with_reducible apply State_setMState_keeps
    | with_reducible apply State_setDevNum_keeps | with_reducible apply State_memberCheck_keeps
    | with_reducible apply State_refuseCheck_keeps | split

theorem State_helloTimer_keeps {a : State} (s : State) (h : Keeps a s)  : Keeps a (State.helloTimer s) := by
  unfold State.helloTimer
  try dsimp -iota only
  repeat' first
    | with_reducible assumption | with_reducible apply State_pisteSend_keeps | with_reducible refine Keeps.foldl ?_ ?_
    | with_reducible refine Keeps.foldl_snd ?_ ?_ | with_reducible refine Keeps.foldl_thd ?_ ?_
    | with_reducible refine Keeps.foldl_fst ?_ ?_ | split | (intro _ _ _; try dsimp -iota only)
    | (intro _ _; try dsimp -iota only)

theorem State_routeIn_keeps {a : State} (s : State) (p : Nat) (w : List Nat) (h : Keeps a s)  : Keeps a (State.routeIn s p w) := by
  unfold State.routeIn
  try dsimp -iota only
  repeat' first
    | with_reducible assumption | with_reducible apply State_replacePeer_keeps | with_reducible apply State_pisteSend_keeps
    | with_reducible refine Keeps.foldl ?_ ?_ | with_reducible refine Keeps.foldl_snd ?_ ?_
    | with_reducible refine Keeps.foldl_thd ?_ ?_ | with_reducible refine Keeps.foldl_fst ?_ ?_ | split
    | with_reducible exact List.prefix_refl _ | with_reducible exact Nat.le_refl _ | with_reducible exact id
    | with_reducible exact Tab.rising_put _ _ _ _ | with_reducible exact List.prefix_append _ _
    | with_reducible exact Nat.le_succ _ | with_reducible refine Mem.wf_foldl _ ?_ _ _ ?_
    | (intro _ _ _; try dsimp -iota only) | (intro _ _; try dsimp -iota only) | (intro _; try dsimp -iota only)
    | with_reducible apply Keeps.upd (hp := rfl)

theorem State_routeEntry_keeps {a : State} (s : State) (ds : List (Nat × List (Nat × Nat))) (dest : Nat) (h : Keeps a s)  : Keeps a (State.routeEntry s ds dest) := by
  unfold State.routeEntry
  try dsimp -iota only
  repeat' first
    | with_reducible assumption | with_reducible apply State_rs_keeps | with_reducible apply State_rb_keeps
    | with_reducible apply State_irqSet_keeps | with_reducible apply State_inc_keeps | split

theorem State_recompute_keeps {a : State} (s : State) (h : Keeps a s)  : Keeps a (State.recompute s) := by
  unfold State.recompute
  try dsimp -iota only
  repeat' first
    | with_reducible assumption | with_reducible apply State_routeEntry_keeps | with_reducible apply State_selfRoot_keeps
    | with_reducible apply State_rs_keeps | with_reducible apply State_rb_keeps | with_reducible apply State_memberCheck_keeps
    | with_reducible refine Keeps.foldl ?_ ?_ | with_reducible refine Keeps.foldl_snd ?_ ?_
    | with_reducible refine Keeps.foldl_thd ?_ ?_ | with_reducible refine Keeps.foldl_fst ?_ ?_ | split
    | with_reducible exact List.prefix_refl _ | with_reducible exact Nat.le_refl _ | with_reducible exact id
    | with_reducible exact List.prefix_append _ _ | with_reducible exact Nat.le_succ _
    | with_reducible refine Mem.wf_foldl _ ?_ _ _ ?_ | (intro _ _ _; try dsimp -iota only) | (intro _ _; try dsimp -iota only)
    | (intro _; try dsimp -iota only) | with_reducible apply Keeps.upd (hp := rfl)

theorem State_sendOpen_keeps {a : State} (s : State) (f : OpenFlit) (h : Keeps a s)  : Keeps a (State.sendOpen s f) := by
  unfold State.sendOpen
  try dsimp -iota only
  repeat' first
    | with_reducible assumption | with_reducible apply State_sendRouted_keeps | with_reducible apply State_inc_keeps | split
    | with_reducible exact List.prefix_refl _ | with_reducible exact Nat.le_refl _ | with_reducible exact id
    | with_reducible exact List.prefix_append _ _ | with_reducible exact Nat.le_succ _ | (intro _; try dsimp -iota only)
    | with_reducible apply Keeps.upd (hp := rfl)

theorem State_putOpen_keeps {a : State} (s : State) (f : OpenFlit) (h : Keeps a s)  : Keeps a (State.putOpen s f) := by
  unfold State.putOpen
  try dsimp -iota only
  repeat' first
    | with_reducible assumption | with_reducible apply State_sendOpen_keeps | split | with_reducible exact List.prefix_refl _
    | with_reducible exact Nat.le_refl _ | with_reducible exact id | with_reducible exact List.prefix_append _ _
    | with_reducible exact Nat.le_succ _ | (intro _; try dsimp -iota only) | with_reducible apply Keeps.upd (hp := rfl)

theorem State_joinOpen_keeps {a : State} (s : State) (dest : Nat) (ft35 : Nat) (group : Nat) (cls : Nat) (spike : Nat) (h : Keeps a s)  : Keeps a (State.joinOpen s dest ft35 group cls spike) := by
  unfold State.joinOpen
  try dsimp -iota only
  repeat' first
    | with_reducible assumption | with_reducible apply State_inc_keeps | with_reducible apply State_putOpen_keeps
    | with_reducible apply State_sendOpen_keeps | split

theorem State_pisteEgress_keeps {a : State} (s : State) (h : Keeps a s)  : Keeps a (State.pisteEgress s) := by
  unfold State.pisteEgress
  try dsimp -iota only
  repeat' first
    | with_reducible assumption | with_reducible apply State_takeUnit_keeps (e := by with_reducible assumption)
    | with_reducible apply State_inc_keeps | with_reducible apply State_joinOpen_keeps
    | with_reducible refine Keeps.foldl ?_ ?_ | with_reducible refine Keeps.foldl_snd ?_ ?_
    | with_reducible refine Keeps.foldl_thd ?_ ?_ | with_reducible refine Keeps.foldl_fst ?_ ?_ | split
    | (intro _ _ _; try dsimp -iota only) | (intro _ _; try dsimp -iota only)

theorem State_packTimeout_keeps {a : State} (s : State) (h : Keeps a s)  : Keeps a (State.packTimeout s) := by
  unfold State.packTimeout
  try dsimp -iota only
  repeat' first
    | with_reducible assumption | with_reducible apply State_sendOpen_keeps | with_reducible refine Keeps.foldl ?_ ?_
    | with_reducible refine Keeps.foldl_snd ?_ ?_ | with_reducible refine Keeps.foldl_thd ?_ ?_
    | with_reducible refine Keeps.foldl_fst ?_ ?_ | split | (intro _ _ _; try dsimp -iota only)
    | (intro _ _; try dsimp -iota only)

theorem State_eventIn_keeps {a : State} (s : State) (p : Nat) (w : List Nat) (src : Option (Nat × Nat × Nat)) (h : Keeps a s)  : Keeps a (State.eventIn s p w src) := by
  unfold State.eventIn
  try dsimp -iota only
  repeat' first
    | with_reducible assumption | with_reducible apply State_credited_keeps | with_reducible apply State_inc_keeps
    | with_reducible apply State_forward_keeps | with_reducible apply State_ingressGo_keeps
    | with_reducible apply State_upPp_keeps | split

theorem State_sendTransfer_keeps {a : State} (s : State) (dest : Nat) (data : List Sys2Proof.Byte) (h : Keeps a s)  : Keeps a (State.sendTransfer s dest data) := by
  unfold State.sendTransfer
  try dsimp -iota only
  repeat' first
    | with_reducible assumption | with_reducible apply State_sendRouted_keeps | with_reducible refine Keeps.foldl ?_ ?_
    | with_reducible refine Keeps.foldl_snd ?_ ?_ | with_reducible refine Keeps.foldl_thd ?_ ?_
    | with_reducible refine Keeps.foldl_fst ?_ ?_ | split | with_reducible exact List.prefix_refl _
    | with_reducible exact Nat.le_refl _ | with_reducible exact id | with_reducible exact List.prefix_append _ _
    | with_reducible exact Nat.le_succ _ | with_reducible refine Mem.wf_foldl _ ?_ _ _ ?_
    | (intro _ _ _; try dsimp -iota only) | (intro _ _; try dsimp -iota only) | (intro _; try dsimp -iota only)
    | with_reducible apply Keeps.upd (hp := rfl)

theorem State_reportPeers_keeps {a : State} (s : State) (g : Nat) (n : Nat) (report : List Sys2Proof.Byte) (h : Keeps a s)  : Keeps a (State.reportPeers s g n report) := by
  unfold State.reportPeers
  try dsimp -iota only
  repeat' first
    | with_reducible assumption | with_reducible apply State_sendTransfer_keeps | with_reducible refine Keeps.foldl ?_ ?_
    | with_reducible refine Keeps.foldl_snd ?_ ?_ | with_reducible refine Keeps.foldl_thd ?_ ?_
    | with_reducible refine Keeps.foldl_fst ?_ ?_ | split | (intro _ _ _; try dsimp -iota only)
    | (intro _ _; try dsimp -iota only)

theorem State_inboxPut_keeps {a : State} (s : State) (b : List Sys2Proof.Byte) (h : Keeps a s)  : Keeps a (State.inboxPut s b) := by
  unfold State.inboxPut
  try dsimp -iota only
  repeat' first
    | with_reducible assumption | split | with_reducible exact List.prefix_refl _ | with_reducible exact Nat.le_refl _
    | with_reducible exact id | with_reducible exact List.prefix_append _ _ | with_reducible exact Nat.le_succ _
    | with_reducible apply Mem.wf_wrBytes | (intro _; try dsimp -iota only) | with_reducible apply Keeps.upd (hp := rfl)

theorem State_transferDone_keeps {a : State} (s : State) (data : List Sys2Proof.Byte) (h : Keeps a s)  : Keeps a (State.transferDone s data) := by
  unfold State.transferDone
  try dsimp -iota only
  repeat' first
    | with_reducible assumption | with_reducible apply State_inc_keeps | with_reducible apply State_irqSet_keeps
    | with_reducible apply State_inboxPut_keeps | split

theorem State_setXfers_keeps {a : State} (s : State) (l : List Xfer) (h : Keeps a s)  : Keeps a (State.setXfers s l) := by
  unfold State.setXfers
  try dsimp -iota only
  repeat' first
    | with_reducible assumption | split | with_reducible exact List.prefix_refl _ | with_reducible exact Nat.le_refl _
    | with_reducible exact id | with_reducible exact List.prefix_append _ _ | with_reducible exact Nat.le_succ _
    | (intro _; try dsimp -iota only) | with_reducible apply Keeps.upd (hp := rfl)

theorem State_tensorHere_keeps {a : State} (s : State) (p : Nat) (w : List Nat) (h : Keeps a s)  : Keeps a (State.tensorHere s p w) := by
  unfold State.tensorHere
  try dsimp -iota only
  repeat' first
    | with_reducible assumption | with_reducible apply State_setXfers_keeps | with_reducible apply State_inc_keeps
    | with_reducible apply State_transferDone_keeps | split

theorem State_tensorIn_keeps {a : State} (s : State) (p : Nat) (w : List Nat) (src : Option (Nat × Nat × Nat)) (h : Keeps a s)  : Keeps a (State.tensorIn s p w src) := by
  unfold State.tensorIn
  try dsimp -iota only
  repeat' first
    | with_reducible assumption | with_reducible apply State_forward_keeps | with_reducible apply State_credited_keeps
    | with_reducible apply State_tensorHere_keeps | split

theorem State_rmtCmd_keeps {a : State} (s : State) (v : Sys2Proof.Word) (h : Keeps a s)  : Keeps a (State.rmtCmd s v) := by
  unfold State.rmtCmd
  try dsimp -iota only
  repeat' first
    | with_reducible assumption | with_reducible apply State_errParam_keeps | with_reducible apply State_rb_keeps
    | with_reducible apply State_rs_keeps | with_reducible apply State_sendRouted_keeps | split
    | with_reducible exact List.prefix_refl _ | with_reducible exact Nat.le_refl _ | with_reducible exact id
    | with_reducible exact List.prefix_append _ _ | with_reducible exact Nat.le_succ _ | (intro _; try dsimp -iota only)
    | with_reducible apply Keeps.upd (hp := rfl)

theorem State_rmtResponse_keeps {a : State} (s : State) (w : List Nat) (h : Keeps a s)  : Keeps a (State.rmtResponse s w) := by
  unfold State.rmtResponse
  try dsimp -iota only
  repeat' first
    | with_reducible assumption | with_reducible apply State_rb_keeps | with_reducible apply State_rs_keeps | split
    | with_reducible exact List.prefix_refl _ | with_reducible exact Nat.le_refl _ | with_reducible exact id
    | with_reducible exact List.prefix_append _ _ | with_reducible exact Nat.le_succ _ | (intro _; try dsimp -iota only)
    | with_reducible apply Keeps.upd (hp := rfl)

theorem State_rmtTimeout_keeps {a : State} (s : State) (h : Keeps a s)  : Keeps a (State.rmtTimeout s) := by
  unfold State.rmtTimeout
  try dsimp -iota only
  repeat' first
    | with_reducible assumption | with_reducible apply State_rs_keeps | split | with_reducible exact List.prefix_refl _
    | with_reducible exact Nat.le_refl _ | with_reducible exact id | with_reducible exact List.prefix_append _ _
    | with_reducible exact Nat.le_succ _ | (intro _; try dsimp -iota only) | with_reducible apply Keeps.upd (hp := rfl)

theorem State_timeRequests_keeps {a : State} (s : State) (h : Keeps a s)  : Keeps a (State.timeRequests s) := by
  unfold State.timeRequests
  try dsimp -iota only
  repeat' first
    | with_reducible assumption | with_reducible apply State_upPp_keeps | with_reducible apply State_pisteSend_keeps
    | with_reducible refine Keeps.foldl ?_ ?_ | with_reducible refine Keeps.foldl_snd ?_ ?_
    | with_reducible refine Keeps.foldl_thd ?_ ?_ | with_reducible refine Keeps.foldl_fst ?_ ?_ | split
    | (intro _ _ _; try dsimp -iota only) | (intro _ _; try dsimp -iota only)

theorem State_timeAnswer_keeps {a : State} (s : State) (p : Nat) (h : Keeps a s)  : Keeps a (State.timeAnswer s p) := by
  unfold State.timeAnswer
  try dsimp -iota only
  repeat' first
    | with_reducible assumption | with_reducible apply State_takeFree_keeps (e := pair_eta _)
    | with_reducible apply State_takeFree_keeps (e := by with_reducible assumption)
    | with_reducible apply State_pisteSend_keeps | split

theorem State_ftStep_keeps {a : State} (s : State) (h : Keeps a s)  : Keeps a (State.ftStep s) := by
  unfold State.ftStep
  try dsimp -iota only
  repeat' first
    | with_reducible assumption | with_reducible apply State_irqSet_keeps | with_reducible apply State_inc_keeps | split

theorem State_ftLock_keeps {a : State} (s : State) (l : List Int) (h : Keeps a s)  : Keeps a (State.ftLock s l) := by
  unfold State.ftLock
  try dsimp -iota only
  repeat' first
    | with_reducible assumption | with_reducible apply State_rs_keeps | with_reducible apply State_setFabOffset_keeps
    | with_reducible apply State_rb_keeps | split | with_reducible exact List.prefix_refl _
    | with_reducible exact Nat.le_refl _ | with_reducible exact id | with_reducible exact List.prefix_append _ _
    | with_reducible exact Nat.le_succ _ | (intro _; try dsimp -iota only) | with_reducible apply Keeps.upd (hp := rfl)

theorem State_ftShared_keeps {a : State} (s : State) (x1 : Int) (off : Int) (h : Keeps a s)  : Keeps a (State.ftShared s x1 off) := by
  unfold State.ftShared
  try dsimp -iota only
  repeat' first
    | with_reducible assumption | with_reducible apply State_ftLock_keeps | with_reducible apply State_ftStep_keeps
    | with_reducible apply State_rb_keeps | split | with_reducible exact List.prefix_refl _
    | with_reducible exact Nat.le_refl _ | with_reducible exact id | with_reducible exact List.prefix_append _ _
    | with_reducible exact Nat.le_succ _ | (intro _; try dsimp -iota only) | with_reducible apply Keeps.upd (hp := rfl)

theorem State_ftServo_keeps {a : State} (s : State) (x1 : Int) (h : Keeps a s)  : Keeps a (State.ftServo s x1) := by
  unfold State.ftServo
  try dsimp -iota only
  repeat' first
    | with_reducible assumption | with_reducible apply State_takeFree_keeps (e := pair_eta _)
    | with_reducible apply State_takeFree_keeps (e := by with_reducible assumption) | with_reducible apply State_ftStep_keeps
    | with_reducible apply State_rs_keeps | with_reducible apply State_rb_keeps | split
    | with_reducible exact List.prefix_refl _ | with_reducible exact Nat.le_refl _ | with_reducible exact id
    | with_reducible exact List.prefix_append _ _ | with_reducible exact Nat.le_succ _ | (intro _; try dsimp -iota only)
    | with_reducible apply Keeps.upd (hp := rfl)

theorem State_timeResponse_keeps {a : State} (s : State) (p : Nat) (w : List Nat) (h : Keeps a s)  : Keeps a (State.timeResponse s p w) := by
  unfold State.timeResponse
  try dsimp -iota only
  repeat' first
    | with_reducible assumption | with_reducible apply State_rs_keeps | with_reducible apply State_upPp_keeps
    | with_reducible apply State_ftShared_keeps | with_reducible apply State_ftServo_keeps | split

theorem State_fgtCommit_keeps {a : State} (s : State) (v : Sys2Proof.Word) (h : Keeps a s)  : Keeps a (State.fgtCommit s v) := by
  unfold State.fgtCommit
  try dsimp -iota only
  repeat' first
    | with_reducible assumption | with_reducible apply State_rs_keeps | with_reducible refine Keeps.foldl ?_ ?_
    | with_reducible refine Keeps.foldl_snd ?_ ?_ | with_reducible refine Keeps.foldl_thd ?_ ?_
    | with_reducible refine Keeps.foldl_fst ?_ ?_ | split | (intro _ _ _; try dsimp -iota only)
    | (intro _ _; try dsimp -iota only)

theorem State_routePin_keeps {a : State} (s : State) (v : Sys2Proof.Word) (h : Keeps a s)  : Keeps a (State.routePin s v) := by
  unfold State.routePin
  try dsimp -iota only
  repeat' first
    | with_reducible assumption | with_reducible apply State_rs_keeps | split | with_reducible exact List.prefix_refl _
    | with_reducible exact Nat.le_refl _ | with_reducible exact id | with_reducible exact List.prefix_append _ _
    | with_reducible exact Nat.le_succ _ | (intro _; try dsimp -iota only) | with_reducible apply Keeps.upd (hp := rfl)

theorem State_inboxCtrl_keeps {a : State} (s : State) (v : Sys2Proof.Word) (h : Keeps a s)  : Keeps a (State.inboxCtrl s v) := by
  unfold State.inboxCtrl
  try dsimp -iota only
  repeat' first
    | with_reducible assumption | with_reducible apply State_errParam_keeps | with_reducible apply State_rs_keeps | split

theorem State_devNumReq_keeps {a : State} (s : State) (v : Sys2Proof.Word) (h : Keeps a s)  : Keeps a (State.devNumReq s v) := by
  unfold State.devNumReq
  try dsimp -iota only
  repeat' first
    | with_reducible assumption | with_reducible apply State_rs_keeps | with_reducible apply State_setMState_keeps
    | with_reducible apply State_setDevNum_keeps | split

theorem State_pstReset_keeps {a : State} (s : State) (p : Nat) (h : Keeps a s)  : Keeps a (State.pstReset s p) := by
  unfold State.pstReset
  try dsimp -iota only
  repeat' first
    | with_reducible assumption | with_reducible apply State_upPp_keeps | split | with_reducible exact List.prefix_refl _
    | with_reducible exact Nat.le_refl _ | with_reducible exact id | with_reducible exact List.prefix_append _ _
    | with_reducible exact Nat.le_succ _ | (intro _; try dsimp -iota only) | with_reducible apply Keeps.upd (hp := rfl)

theorem State_fabReset_keeps {a : State} (s : State) (pinRoot : Bool) (pinNum : Bool) (dev : Nat) (shared : Bool) (h : Keeps a s)  : Keeps a (State.fabReset s pinRoot pinNum dev shared) := by
  unfold State.fabReset
  try dsimp -iota only
  repeat' first
    | with_reducible assumption | with_reducible apply State_phaseZero_keeps | with_reducible apply State_rb_keeps
    | with_reducible apply State_rs_keeps | split | with_reducible exact List.prefix_refl _
    | with_reducible exact Nat.le_refl _ | with_reducible exact id | with_reducible exact List.prefix_append _ _
    | with_reducible exact Nat.le_succ _ | (intro _; try dsimp -iota only) | with_reducible apply Keeps.upd (hp := rfl)

theorem execPisteNull_keeps (t : Nat) (p : Fin 6) (x2 : Sys2Proof.PHdr) (s : State) : KeepsR s (execPisteNull t p x2 s) := by
  have h := Keeps.refl s
  unfold execPisteNull
  try dsimp -iota only
  repeat' first
    | with_reducible assumption | with_reducible apply KeepsR.next | with_reducible apply State_advance_keeps
    | with_reducible apply State_rxHeader_keeps | split

theorem execPisteEvent_keeps (t : Nat) (p : Fin 6) (x2 : Sys2Proof.PHdr) (w : List (BitVec 64)) (s : State) : KeepsR s (execPisteEvent t p x2 w s) := by
  have h := Keeps.refl s
  unfold execPisteEvent
  try dsimp -iota only
  repeat' first
    | with_reducible assumption | with_reducible apply KeepsR.next | with_reducible apply State_rxRouted_keeps
    | with_reducible apply State_advance_keeps | with_reducible apply State_eventIn_keeps | split
    | (intro _ _ _; try dsimp -iota only) | (intro _ _; try dsimp -iota only)

theorem execTensor_keeps (t : Nat) (p : Fin 6) (x2 : Sys2Proof.PHdr) (w : List (BitVec 64)) (s : State) : KeepsR s (execTensor t p x2 w s) := by
  have h := Keeps.refl s
  unfold execTensor
  try dsimp -iota only
  repeat' first
    | with_reducible assumption | with_reducible apply KeepsR.next | with_reducible apply State_rxRouted_keeps
    | with_reducible apply State_advance_keeps | with_reducible apply State_tensorIn_keeps | split
    | (intro _ _ _; try dsimp -iota only) | (intro _ _; try dsimp -iota only)

theorem execPisteTime_keeps (t : Nat) (p : Fin 6) (x2 : Sys2Proof.PHdr) (rsp : Bool) (w : List (BitVec 64)) (s : State) : KeepsR s (execPisteTime t p x2 rsp w s) := by
  have h := Keeps.refl s
  unfold execPisteTime
  try dsimp -iota only
  repeat' first
    | with_reducible assumption | with_reducible apply KeepsR.next | with_reducible apply State_rxSeq_keeps
    | with_reducible apply State_advance_keeps | with_reducible apply State_timeResponse_keeps
    | with_reducible apply State_timeAnswer_keeps | split | (intro _ _; try dsimp -iota only)

theorem execHello_keeps (t : Nat) (p : Fin 6) (x2 : Sys2Proof.PHdr) (w : List (BitVec 64)) (grant : Option (Fin 64)) (s : State) : KeepsR s (execHello t p x2 w grant s) := by
  have h := Keeps.refl s
  unfold execHello
  try dsimp -iota only
  repeat' first
    | with_reducible assumption | with_reducible apply KeepsR.next | with_reducible apply State_rxSeq_keeps
    | with_reducible apply State_advance_keeps | with_reducible apply State_helloIn_keeps | split
    | (intro _ _; try dsimp -iota only)

theorem execRoute_keeps (t : Nat) (p : Fin 6) (x2 : Sys2Proof.PHdr) (w : List (BitVec 64)) (s : State) : KeepsR s (execRoute t p x2 w s) := by
  have h := Keeps.refl s
  unfold execRoute
  try dsimp -iota only
  repeat' first
    | with_reducible assumption | with_reducible apply KeepsR.next | with_reducible apply State_rxSeq_keeps
    | with_reducible apply State_advance_keeps | with_reducible apply State_routeIn_keeps | split
    | (intro _ _; try dsimp -iota only)

theorem execPisteBadType_keeps (t : Nat) (p : Fin 6) (x2 : Sys2Proof.PHdr) (s : State) : KeepsR s (execPisteBadType t p x2 s) := by
  have h := Keeps.refl s
  unfold execPisteBadType
  try dsimp -iota only
  repeat' first
    | with_reducible assumption | with_reducible apply KeepsR.next | with_reducible apply State_badType_keeps
    | with_reducible apply State_advance_keeps | split

theorem execPisteCrcFail_keeps (t : Nat) (p : Fin 6) (seq : Fin 1024) (s : State) : KeepsR s (execPisteCrcFail t p seq s) := by
  have h := Keeps.refl s
  unfold execPisteCrcFail
  try dsimp -iota only
  repeat' first
    | with_reducible assumption | with_reducible apply KeepsR.next | with_reducible apply State_crcFail_keeps
    | with_reducible apply State_advance_keeps | split

theorem execPortUp_keeps (t : Nat) (p : Fin 6) (s : State) : KeepsR s (execPortUp t p s) := by
  have h := Keeps.refl s
  unfold execPortUp
  try dsimp -iota only
  repeat' first
    | with_reducible assumption | with_reducible apply KeepsR.next | with_reducible apply State_portUp_keeps
    | with_reducible apply State_advance_keeps | split

theorem execLosTimeout_keeps (t : Nat) (p : Fin 6) (s : State) : KeepsR s (execLosTimeout t p s) := by
  have h := Keeps.refl s
  unfold execLosTimeout
  try dsimp -iota only
  repeat' first
    | with_reducible assumption | with_reducible apply KeepsR.next | with_reducible apply State_losTimeout_keeps
    | with_reducible apply State_advance_keeps | split

theorem execHelloTimer_keeps (t : Nat) (s : State) : KeepsR s (execHelloTimer t s) := by
  have h := Keeps.refl s
  unfold execHelloTimer
  try dsimp -iota only
  repeat' first
    | with_reducible assumption | with_reducible apply KeepsR.next | with_reducible apply State_helloTimer_keeps
    | with_reducible apply State_advance_keeps | split

theorem execRouteTimer_keeps (t : Nat) (s : State) : KeepsR s (execRouteTimer t s) := by
  have h := Keeps.refl s
  unfold execRouteTimer
  try dsimp -iota only
  repeat' first
    | with_reducible assumption | with_reducible apply KeepsR.next | with_reducible apply State_floodOwn_keeps
    | with_reducible apply State_advance_keeps | split

theorem execRouteRecompute_keeps (t : Nat) (s : State) : KeepsR s (execRouteRecompute t s) := by
  have h := Keeps.refl s
  unfold execRouteRecompute
  try dsimp -iota only
  repeat' first
    | with_reducible assumption | with_reducible apply KeepsR.next | with_reducible apply State_recompute_keeps
    | with_reducible apply State_advance_keeps | split

theorem execTimeRequestTimer_keeps (t : Nat) (s : State) : KeepsR s (execTimeRequestTimer t s) := by
  have h := Keeps.refl s
  unfold execTimeRequestTimer
  try dsimp -iota only
  repeat' first
    | with_reducible assumption | with_reducible apply KeepsR.next | with_reducible apply State_timeRequests_keeps
    | with_reducible apply State_advance_keeps | split

theorem execPisteEgress_keeps (t : Nat) (s : State) : KeepsR s (execPisteEgress t s) := by
  have h := Keeps.refl s
  unfold execPisteEgress
  try dsimp -iota only
  repeat' first
    | with_reducible assumption | with_reducible apply KeepsR.next | with_reducible apply State_pisteEgress_keeps
    | with_reducible apply State_advance_keeps | split

theorem execPackTimeout_keeps (t : Nat) (s : State) : KeepsR s (execPackTimeout t s) := by
  have h := Keeps.refl s
  unfold execPackTimeout
  try dsimp -iota only
  repeat' first
    | with_reducible assumption | with_reducible apply KeepsR.next | with_reducible apply State_packTimeout_keeps
    | with_reducible apply State_advance_keeps | split

theorem execRmtRead_keeps (t : Nat) (c : Sys2Proof.Req) (v : Sys2Proof.Word) (s : State) : KeepsR s (execRmtRead t c v s) := by
  have h := Keeps.refl s
  unfold execRmtRead
  try dsimp -iota only
  repeat' first
    | with_reducible assumption | with_reducible apply KeepsR.next | with_reducible apply State_cmdWrite_keeps
    | with_reducible apply State_rmtCmd_keeps | split | (intro _ _; try dsimp -iota only)

theorem execRmtWrite_keeps (t : Nat) (c : Sys2Proof.Req) (v : Sys2Proof.Word) (s : State) : KeepsR s (execRmtWrite t c v s) := by
  have h := Keeps.refl s
  unfold execRmtWrite
  try dsimp -iota only
  repeat' first
    | with_reducible assumption | with_reducible apply KeepsR.next | with_reducible apply State_cmdWrite_keeps
    | with_reducible apply State_rmtCmd_keeps | split | (intro _ _; try dsimp -iota only)

theorem execRmtTimeout_keeps (t : Nat) (s : State) : KeepsR s (execRmtTimeout t s) := by
  have h := Keeps.refl s
  unfold execRmtTimeout
  try dsimp -iota only
  repeat' first
    | with_reducible assumption | with_reducible apply KeepsR.next | with_reducible apply State_rmtTimeout_keeps
    | with_reducible apply State_advance_keeps | split

theorem execDevNumReqWrite_keeps (t : Nat) (c : Sys2Proof.Req) (v : Sys2Proof.Word) (s : State) : KeepsR s (execDevNumReqWrite t c v s) := by
  have h := Keeps.refl s
  unfold execDevNumReqWrite
  try dsimp -iota only
  repeat' first
    | with_reducible assumption | with_reducible apply KeepsR.next | with_reducible apply State_cmdWrite_keeps
    | with_reducible apply State_devNumReq_keeps | split | (intro _ _; try dsimp -iota only)

theorem execFgtClustersWrite_keeps (t : Nat) (c : Sys2Proof.Req) (v : Sys2Proof.Word) (s : State) : KeepsR s (execFgtClustersWrite t c v s) := by
  have h := Keeps.refl s
  unfold execFgtClustersWrite
  try dsimp -iota only
  repeat' first
    | with_reducible assumption | with_reducible apply KeepsR.next | with_reducible apply State_cmdWrite_keeps
    | with_reducible apply State_fgtCommit_keeps | split | (intro _ _; try dsimp -iota only)

theorem execInboxEnable_keeps (t : Nat) (c : Sys2Proof.Req) (v : Sys2Proof.Word) (s : State) : KeepsR s (execInboxEnable t c v s) := by
  have h := Keeps.refl s
  unfold execInboxEnable
  try dsimp -iota only
  repeat' first
    | with_reducible assumption | with_reducible apply KeepsR.next | with_reducible apply State_cmdWrite_keeps
    | with_reducible apply State_inboxCtrl_keeps | split | (intro _ _; try dsimp -iota only)

end Sys2Proof.Machine
end

