-- ==== Sys2Proof/Laws/KeepsBlocks.lean ====
section
/-!
SUPPORT. `Keeps` for the functions of Machine/Blocks.lean: each leaves the queue alone, drops no output and keeps the canonical forms.
-/
set_option linter.unusedVariables false
namespace Sys2Proof.Machine
open Regs

theorem State_zeroSram_keeps {a : State} (s : State) (base : Nat) (size : Nat) (h : Keeps a s)  : Keeps a (State.zeroSram s base size) := by
  unfold State.zeroSram
  try dsimp -iota only
  repeat' first
    | with_reducible assumption | split | with_reducible exact List.prefix_refl _ | with_reducible exact Nat.le_refl _
    | with_reducible exact id | with_reducible exact Tab.rising_keep _ _ | with_reducible exact List.prefix_append _ _
    | with_reducible exact Nat.le_succ _ | with_reducible apply Mem.wf_keep | (intro _; try dsimp -iota only)
    | with_reducible apply Keeps.upd (hp := rfl)

theorem State_groupReset_keeps {a : State} (s : State) (g : Nat) (zero : Bool) (h : Keeps a s)  : Keeps a (State.groupReset s g zero) := by
  unfold State.groupReset
  try dsimp -iota only
  repeat' first
    | with_reducible assumption | with_reducible apply State_resetPage_keeps | with_reducible apply State_upCore_keeps
    | with_reducible apply State_zeroSram_keeps | with_reducible refine Keeps.foldl ?_ ?_
    | with_reducible refine Keeps.foldl_snd ?_ ?_ | with_reducible refine Keeps.foldl_thd ?_ ?_
    | with_reducible refine Keeps.foldl_fst ?_ ?_ | split | (intro _ _ _; try dsimp -iota only)
    | (intro _ _; try dsimp -iota only)

theorem State_pstLost_keeps {a : State} (s : State) (p : Nat) (h : Keeps a s)  : Keeps a (State.pstLost s p) := by
  unfold State.pstLost
  try dsimp -iota only
  repeat' first
    | with_reducible assumption | with_reducible apply State_ingressStall_keeps | with_reducible apply State_rs_keeps
    | with_reducible apply State_upPp_keeps | split

theorem State_blockState_keeps {a : State} (s : State) (p : Page) (zero : Bool) (h : Keeps a s)  : Keeps a (State.blockState s p zero) := by
  unfold State.blockState
  try dsimp -iota only
  repeat' first
    | with_reducible assumption | with_reducible apply State_upBank_keeps | with_reducible apply State_zeroSram_keeps
    | with_reducible apply State_mxReset_keeps | with_reducible apply State_upMx_keeps
    | with_reducible apply State_upTok_keeps | with_reducible apply State_groupReset_keeps
    | with_reducible apply State_upRouter_keeps | with_reducible apply State_upSt_keeps
    | with_reducible apply State_mipiDown_keeps | with_reducible apply State_upAer_keeps
    | with_reducible apply State_upJr_keeps | with_reducible apply State_resetPage_keeps
    | with_reducible apply State_upChan_keeps | with_reducible apply State_healthCounts_keeps
    | with_reducible apply State_pstReset_keeps | with_reducible apply State_pstLost_keeps
    | with_reducible apply State_fabReset_keeps | with_reducible refine Keeps.foldl ?_ ?_
    | with_reducible refine Keeps.foldl_snd ?_ ?_ | with_reducible refine Keeps.foldl_thd ?_ ?_
    | with_reducible refine Keeps.foldl_fst ?_ ?_ | split | with_reducible exact List.prefix_refl _
    | with_reducible exact Nat.le_refl _ | with_reducible exact id | with_reducible exact Tab.rising_put _ _ _ _
    | with_reducible exact Tab.rising_keep _ _ | with_reducible exact List.prefix_append _ _
    | with_reducible exact Nat.le_succ _ | with_reducible apply Mem.wf_keep | with_reducible refine Mem.wf_foldl _ ?_ _ _ ?_
    | (intro _ _ _; try dsimp -iota only) | (intro _ _; try dsimp -iota only) | (intro _; try dsimp -iota only)
    | with_reducible apply Keeps.upd (hp := rfl)

theorem State_blockReset_keeps {a : State} (s : State) (p : Page) (zero : Bool) (h : Keeps a s)  : Keeps a (State.blockReset s p zero) := by
  unfold State.blockReset
  try dsimp -iota only
  repeat' first
    | with_reducible assumption | with_reducible apply State_resetPage_keeps | with_reducible apply State_fgReset_keeps
    | with_reducible apply State_ethDown_keeps | with_reducible apply State_ppsLow_keeps
    | with_reducible apply State_timeChanged_keeps | with_reducible apply State_sourceIrqs_keeps
    | with_reducible apply State_blockState_keeps | with_reducible apply State_ackDrive_keeps | split

theorem State_resetRefuse_keeps {a : State} (s : State) (p : Page) (h : Keeps a s)  : Keeps a (State.resetRefuse s p) := by
  unfold State.resetRefuse
  try dsimp -iota only
  repeat' first
    | with_reducible assumption | with_reducible apply State_inc_keeps | with_reducible apply State_rb_keeps
    | with_reducible apply State_trace_keeps | with_reducible apply State_irqSet_keeps | split

theorem State_resetLeave_keeps {a : State} (s : State) (p : Page) (h : Keeps a s)  : Keeps a (State.resetLeave s p) := by
  unfold State.resetLeave
  try dsimp -iota only
  repeat' first
    | with_reducible assumption | with_reducible apply State_rb_keeps | with_reducible apply State_trace_keeps
    | with_reducible apply State_irqSet_keeps | split | with_reducible exact List.prefix_refl _
    | with_reducible exact Nat.le_refl _ | with_reducible exact id | with_reducible exact List.prefix_append _ _
    | with_reducible exact Nat.le_succ _ | (intro _; try dsimp -iota only) | with_reducible apply Keeps.upd (hp := rfl)

theorem State_resetAccept_keeps {a : State} (s : State) (p : Page) (hold : Bool) (h : Keeps a s)  : Keeps a (State.resetAccept s p hold) := by
  unfold State.resetAccept
  try dsimp -iota only
  repeat' first
    | with_reducible assumption | with_reducible apply State_inc_keeps | with_reducible apply State_rb_keeps
    | with_reducible apply State_blockReset_keeps | with_reducible apply State_trace_keeps | split
    | with_reducible exact List.prefix_refl _ | with_reducible exact Nat.le_refl _ | with_reducible exact id
    | with_reducible exact List.prefix_append _ _ | with_reducible exact Nat.le_succ _ | (intro _; try dsimp -iota only)
    | with_reducible apply Keeps.upd (hp := rfl)

theorem State_resetReq_keeps {a : State} (s : State) (p : Page) (v : Sys2Proof.Word) (h : Keeps a s)  : Keeps a (State.resetReq s p v) := by
  unfold State.resetReq
  try dsimp -iota only
  repeat' first
    | with_reducible assumption | with_reducible apply State_errParam_keeps | with_reducible apply State_resetLeave_keeps
    | with_reducible apply State_rb_keeps | with_reducible apply State_resetRefuse_keeps
    | with_reducible apply State_resetAccept_keeps | split | with_reducible exact List.prefix_refl _
    | with_reducible exact Nat.le_refl _ | with_reducible exact id | with_reducible exact List.prefix_append _ _
    | with_reducible exact Nat.le_succ _ | (intro _; try dsimp -iota only) | with_reducible apply Keeps.upd (hp := rfl)

theorem State_resetWrite_keeps {a : State} (s : State) (c : Sys2Proof.Req) (x2 : Nat) (v : Sys2Proof.Word) (h : Keeps a s)  : Keeps a (State.resetWrite s c x2 v) := by
  unfold State.resetWrite
  try dsimp -iota only
  repeat' first
    | with_reducible assumption | with_reducible apply State_denied_keeps | with_reducible apply State_inc_keeps
    | with_reducible apply State_resetReq_keeps | split

theorem State_resetDone_keeps {a : State} (s : State) (x1 : Nat) (h : Keeps a s)  : Keeps a (State.resetDone s x1) := by
  unfold State.resetDone
  try dsimp -iota only
  repeat' first
    | with_reducible assumption | with_reducible apply State_resetLeave_keeps | split

theorem State_lockLost_keeps {a : State} (s : State) (b : Nat) (h : Keeps a s)  : Keeps a (State.lockLost s b) := by
  unfold State.lockLost
  try dsimp -iota only
  repeat' first
    | with_reducible assumption | with_reducible apply State_irqSet_keeps | with_reducible apply State_inc_keeps | split
    | with_reducible exact List.prefix_refl _ | with_reducible exact Nat.le_refl _ | with_reducible exact id
    | with_reducible exact Tab.rising_put _ _ _ _ | with_reducible exact List.prefix_append _ _
    | with_reducible exact Nat.le_succ _ | (intro _; try dsimp -iota only) | with_reducible apply Keeps.upd (hp := rfl)

theorem State_lockCost_keeps {a : State} (s : State) (b : Nat) (h : Keeps a s)  : Keeps a (State.lockCost s b) := by
  unfold State.lockCost
  try dsimp -iota only
  repeat' first
    | with_reducible assumption | with_reducible apply State_logFault_keeps | with_reducible apply State_lastingFault_keeps
    | split | with_reducible exact List.prefix_refl _ | with_reducible exact Nat.le_refl _ | with_reducible exact id
    | with_reducible exact List.prefix_append _ _ | with_reducible exact Nat.le_succ _ | (intro _; try dsimp -iota only)
    | with_reducible apply Keeps.upd (hp := rfl)

theorem State_lockLasting_keeps {a : State} (s : State) (b : Nat) (h : Keeps a s)  : Keeps a (State.lockLasting s b) := by
  unfold State.lockLasting
  try dsimp -iota only
  repeat' first
    | with_reducible assumption | with_reducible apply State_lockCost_keeps | split | with_reducible exact List.prefix_refl _
    | with_reducible exact Nat.le_refl _ | with_reducible exact id | with_reducible exact Tab.rising_put _ _ _ _
    | with_reducible exact List.prefix_append _ _ | with_reducible exact Nat.le_succ _ | (intro _; try dsimp -iota only)
    | with_reducible apply Keeps.upd (hp := rfl)

theorem State_phyDown_keeps {a : State} (s : State) (b : Nat) (h : Keeps a s)  : Keeps a (State.phyDown s b) := by
  unfold State.phyDown
  try dsimp -iota only
  repeat' first
    | with_reducible assumption | with_reducible apply State_rs_keeps | with_reducible apply State_irqSet_keeps
    | with_reducible apply State_rb_keeps | with_reducible apply State_ethDown_keeps
    | with_reducible apply State_portDown_keeps | with_reducible refine Keeps.foldl ?_ ?_
    | with_reducible refine Keeps.foldl_snd ?_ ?_ | with_reducible refine Keeps.foldl_thd ?_ ?_
    | with_reducible refine Keeps.foldl_fst ?_ ?_ | split | (intro _ _ _; try dsimp -iota only)
    | (intro _ _; try dsimp -iota only)

theorem State_domainReset_keeps {a : State} (s : State) (b : Nat) (h : Keeps a s)  : Keeps a (State.domainReset s b) := by
  unfold State.domainReset
  try dsimp -iota only
  repeat' first
    | with_reducible assumption | with_reducible apply State_blockReset_keeps | with_reducible refine Keeps.foldl ?_ ?_
    | with_reducible refine Keeps.foldl_snd ?_ ?_ | with_reducible refine Keeps.foldl_thd ?_ ?_
    | with_reducible refine Keeps.foldl_fst ?_ ?_ | split | (intro _ _ _; try dsimp -iota only)
    | (intro _ _; try dsimp -iota only)

theorem State_groupResume_keeps {a : State} (s : State) (g : Nat) (h : Keeps a s)  : Keeps a (State.groupResume s g) := by
  unfold State.groupResume
  try dsimp -iota only
  repeat' first
    | with_reducible assumption | with_reducible apply State_fullPass_keeps | with_reducible refine Keeps.foldl ?_ ?_
    | with_reducible refine Keeps.foldl_snd ?_ ?_ | with_reducible refine Keeps.foldl_thd ?_ ?_
    | with_reducible refine Keeps.foldl_fst ?_ ?_ | split | (intro _ _ _; try dsimp -iota only)
    | (intro _ _; try dsimp -iota only)

theorem State_pageRelease_keeps {a : State} (s : State) (p : Page) (h : Keeps a s)  : Keeps a (State.pageRelease s p) := by
  unfold State.pageRelease
  try dsimp -iota only
  repeat' first
    | with_reducible assumption | with_reducible apply State_resetLeave_keeps | with_reducible apply State_irqSet_keeps
    | with_reducible apply State_groupResume_keeps | split

theorem State_domainRelease_keeps {a : State} (s : State) (b : Nat) (h : Keeps a s)  : Keeps a (State.domainRelease s b) := by
  unfold State.domainRelease
  try dsimp -iota only
  repeat' first
    | with_reducible assumption | with_reducible apply State_pageRelease_keeps | with_reducible refine Keeps.foldl ?_ ?_
    | with_reducible refine Keeps.foldl_snd ?_ ?_ | with_reducible refine Keeps.foldl_thd ?_ ?_
    | with_reducible refine Keeps.foldl_fst ?_ ?_ | split | (intro _ _ _; try dsimp -iota only)
    | (intro _ _; try dsimp -iota only)

end Sys2Proof.Machine
end

