-- ==== Sys2Proof/Laws/KeepsUnitRegs.lean ====
section
/-!
SUPPORT. `Keeps` for the functions of Machine/UnitRegs.lean: each leaves the queue alone, drops no output and keeps the canonical forms.
-/
set_option linter.unusedVariables false
namespace Sys2Proof.Machine
open Regs

theorem State_putPart_keeps {a : State} (s : State) (f : Fld) (i : Nat) (inst : Nat) (idx : Nat) (v : Sys2Proof.Word) (h : Keeps a s)  : Keeps a (State.putPart s f i inst idx v) := by
  unfold State.putPart
  try dsimp -iota only
  repeat' first
    | with_reducible assumption | with_reducible apply State_rs_keeps | split

theorem State_putWord_keeps {a : State} (s : State) (pk : PK) (inst : Nat) (off : Nat) (v : Sys2Proof.Word) (h : Keeps a s)  : Keeps a (State.putWord s pk inst off v) := by
  unfold State.putWord
  try dsimp -iota only
  repeat' first
    | with_reducible assumption | with_reducible apply State_putPart_keeps | with_reducible refine Keeps.foldl ?_ ?_
    | with_reducible refine Keeps.foldl_snd ?_ ?_ | with_reducible refine Keeps.foldl_thd ?_ ?_
    | with_reducible refine Keeps.foldl_fst ?_ ?_ | split | (intro _ _ _; try dsimp -iota only)
    | (intro _ _; try dsimp -iota only)

theorem State_plainWrite_keeps {a : State} (s : State) (p : Page) (pk : PK) (i : Nat) (off : Nat) (v : Sys2Proof.Word) (h : Keeps a s)  : Keeps a (State.plainWrite s p pk i off v) := by
  unfold State.plainWrite
  try dsimp -iota only
  repeat' first
    | with_reducible assumption | with_reducible apply State_putWord_keeps | with_reducible apply State_errParam_keeps | split

theorem State_modelStage_keeps {a : State} (s : State) (i : Nat) (off : Nat) (v : Sys2Proof.Word) (h : Keeps a s)  : Keeps a (State.modelStage s i off v) := by
  unfold State.modelStage
  try dsimp -iota only
  repeat' first
    | with_reducible assumption | with_reducible apply State_upSt_keeps | split

theorem State_irqEnable_keeps {a : State} (s : State) (p : Page) (v : Sys2Proof.Word) (h : Keeps a s)  : Keeps a (State.irqEnable s p v) := by
  unfold State.irqEnable
  try dsimp -iota only
  repeat' first
    | with_reducible assumption | with_reducible apply State_rs_keeps | with_reducible apply State_irqMessage_keeps | split

theorem State_irqClear_keeps {a : State} (s : State) (p : Page) (v : Sys2Proof.Word) (h : Keeps a s)  : Keeps a (State.irqClear s p v) := by
  unfold State.irqClear
  try dsimp -iota only
  repeat' first
    | with_reducible assumption | with_reducible apply State_rs_keeps | with_reducible apply State_irqMessage_keeps | split

theorem State_ctrlWrite_keeps {a : State} (s : State) (p : Page) (v : Sys2Proof.Word) (h : Keeps a s)  : Keeps a (State.ctrlWrite s p v) := by
  unfold State.ctrlWrite
  try dsimp -iota only
  repeat' first
    | with_reducible assumption | with_reducible apply State_streamCtrl_keeps | with_reducible apply State_portCtrl_keeps
    | with_reducible apply State_jstrCtrl_keeps | with_reducible apply State_rfbCtrl_keeps
    | with_reducible apply State_rfbsCtrl_keeps | with_reducible apply State_pstCtrl_keeps
    | with_reducible apply State_rs_keeps | split

theorem State_unitWrite_keeps {a : State} (s : State) (p : Page) (off : Nat) (v : Sys2Proof.Word) (h : Keeps a s)  : Keeps a (State.unitWrite s p off v) := by
  unfold State.unitWrite
  try dsimp -iota only
  repeat' first
    | with_reducible assumption | with_reducible apply State_ctrlWrite_keeps | with_reducible apply State_irqEnable_keeps
    | with_reducible apply State_irqClear_keeps | with_reducible apply State_resetReq_keeps
    | with_reducible apply State_syncEnWrite_keeps | with_reducible apply State_syncPeriodWrite_keeps
    | with_reducible apply State_syncWidthWrite_keeps | with_reducible apply State_sourceIrqs_keeps
    | with_reducible apply State_plainWrite_keeps | with_reducible apply State_ackDrive_keeps
    | with_reducible apply State_hotWrite_keeps | with_reducible apply State_tmapCtrl_keeps
    | with_reducible apply State_cmCtrlWrite_keeps | with_reducible apply State_modelStage_keeps
    | with_reducible apply State_cmCommit_keeps | with_reducible apply State_alignUpdate_keeps
    | with_reducible apply State_streamUnitWrite_keeps | with_reducible apply State_descCtrl_keeps
    | with_reducible apply State_descCount_keeps | with_reducible apply State_subwinWrite_keeps
    | with_reducible apply State_subHiWrite_keeps | with_reducible apply State_rtHiWrite_keeps
    | with_reducible apply State_gtMask7Write_keeps | with_reducible apply State_coreCtrl_keeps
    | with_reducible apply State_mxStartWrite_keeps | with_reducible apply State_tokCtrl_keeps
    | with_reducible apply State_syncArm_keeps | with_reducible apply State_rfbSwap_keeps
    | with_reducible apply State_rfbCommit_keeps | with_reducible apply State_coefWrite_keeps
    | with_reducible apply State_chCfgWrite_keeps | with_reducible apply State_zoneCfg_keeps
    | with_reducible apply State_periodWrite_keeps | with_reducible apply State_trkKill_keeps
    | with_reducible apply State_calWrite_keeps | with_reducible apply State_calSwitch_keeps
    | with_reducible apply State_markCmd_keeps | with_reducible apply State_replayCmd_keeps
    | with_reducible apply State_ptpCtrl_keeps | with_reducible apply State_domCtrl_keeps
    | with_reducible apply State_rateHigh_keeps | with_reducible apply State_domCmd_keeps
    | with_reducible apply State_lnqCtrl_keeps | with_reducible apply State_tplWrite_keeps
    | with_reducible apply State_devNumReq_keeps | with_reducible apply State_rootMode_keeps
    | with_reducible apply State_routePin_keeps | with_reducible apply State_fgtCommit_keeps
    | with_reducible apply State_inboxCtrl_keeps | with_reducible apply State_rmtCmd_keeps | split

end Sys2Proof.Machine
end

