-- ==== Sys2Proof/Laws/KeepsCommands.lean ====
section
/-!
SUPPORT. `Keeps` for the functions of Machine/Commands.lean: each leaves the queue alone, drops no output and keeps the canonical forms.
-/
set_option linter.unusedVariables false
namespace Sys2Proof.Machine
open Regs

theorem State_dbBad_keeps {a : State} (s : State) (h : Keeps a s)  : Keeps a (State.dbBad s) := by
  unfold State.dbBad
  try dsimp -iota only
  repeat' first
    | with_reducible assumption | with_reducible apply State_irqSet_keeps | with_reducible apply State_inc_keeps | split

theorem State_doorbell_keeps {a : State} (s : State) (off : Nat) (f : State → State) (h : Keeps a s) (h_f : ∀ s, Keeps a s → Keeps a (f s)) : Keeps a (State.doorbell s off f) := by
  unfold State.doorbell
  try dsimp -iota only
  repeat' first
    | with_reducible assumption | with_reducible exact h_f _ ‹_› | with_reducible apply h_f
    | with_reducible refine h_f _ _ _ _ _ ‹_› ?_ | with_reducible exact h_f _ _ _ _ _ ‹_› ‹_›
    | with_reducible exact h_f _ _ ‹_› | with_reducible exact h_f _ _ _ _ ‹_› | with_reducible apply State_denied_keeps
    | split | (intro _ _; try dsimp -iota only)

theorem State_dbProd_keeps {a : State} (s : State) (r : Nat) (v : Nat) (h : Keeps a s)  : Keeps a (State.dbProd s r v) := by
  unfold State.dbProd
  try dsimp -iota only
  repeat' first
    | with_reducible assumption | with_reducible apply State_dbBad_keeps | with_reducible apply State_rs_keeps | split

theorem State_dbCons_keeps {a : State} (s : State) (r : Nat) (v : Nat) (h : Keeps a s)  : Keeps a (State.dbCons s r v) := by
  unfold State.dbCons
  try dsimp -iota only
  repeat' first
    | with_reducible assumption | with_reducible apply State_dbBad_keeps | with_reducible apply State_rs_keeps | split

theorem State_bar4Write_keeps {a : State} (s : State) (off : Nat) (z : Sys2Proof.AccSize) (v : Nat) (h : Keeps a s)  : Keeps a (State.bar4Write s off z v) := by
  unfold State.bar4Write
  try dsimp -iota only
  repeat' first
    | with_reducible assumption | with_reducible apply State_doorbell_keeps | with_reducible apply State_dbBad_keeps
    | with_reducible apply State_dbProd_keeps | with_reducible apply State_dbCons_keeps | split
    | (intro _ _; try dsimp -iota only)

theorem State_ringCtrl_keeps {a : State} (s : State) (v : Sys2Proof.Word) (h : Keeps a s)  : Keeps a (State.ringCtrl s v) := by
  unfold State.ringCtrl
  try dsimp -iota only
  repeat' first
    | with_reducible assumption | with_reducible apply State_errParam_keeps | with_reducible apply State_rb_keeps
    | with_reducible apply State_rs_keeps | split

theorem State_msixFlush_keeps {a : State} (s : State) (h : Keeps a s)  : Keeps a (State.msixFlush s) := by
  unfold State.msixFlush
  try dsimp -iota only
  repeat' first
    | with_reducible assumption | with_reducible apply State_msixSend_keeps | with_reducible refine Keeps.foldl ?_ ?_
    | with_reducible refine Keeps.foldl_snd ?_ ?_ | with_reducible refine Keeps.foldl_thd ?_ ?_
    | with_reducible refine Keeps.foldl_fst ?_ ?_ | split | with_reducible exact List.prefix_refl _
    | with_reducible exact Nat.le_refl _ | with_reducible exact id | with_reducible exact List.prefix_append _ _
    | with_reducible exact Nat.le_succ _ | with_reducible refine Mem.wf_foldl _ ?_ _ _ ?_
    | (intro _ _ _; try dsimp -iota only) | (intro _ _; try dsimp -iota only) | (intro _; try dsimp -iota only)
    | with_reducible apply Keeps.upd (hp := rfl)

theorem State_coalExpiry_keeps {a : State} (s : State) (v : Nat) (h : Keeps a s)  : Keeps a (State.coalExpiry s v) := by
  unfold State.coalExpiry
  try dsimp -iota only
  repeat' first
    | with_reducible assumption | with_reducible apply State_msixSend_keeps | split | with_reducible exact List.prefix_refl _
    | with_reducible exact Nat.le_refl _ | with_reducible exact id | with_reducible exact Tab.rising_put _ _ _ _
    | with_reducible exact List.prefix_append _ _ | with_reducible exact Nat.le_succ _ | (intro _; try dsimp -iota only)
    | with_reducible apply Keeps.upd (hp := rfl)

theorem State_upPart_keeps {a : State} (s : State) (p : Nat) (f : Part → Part) (h : Keeps a s)  : Keeps a (State.upPart s p f) := by
  unfold State.upPart
  try dsimp -iota only
  repeat' first
    | with_reducible assumption | split | with_reducible exact List.prefix_refl _ | with_reducible exact Nat.le_refl _
    | with_reducible exact id | with_reducible exact Tab.rising_put _ _ _ _ | with_reducible exact List.prefix_append _ _
    | with_reducible exact Nat.le_succ _ | (intro _; try dsimp -iota only) | with_reducible apply Keeps.upd (hp := rfl)

theorem State_upCmd_keeps {a : State} (s : State) (f : CmdRun → CmdRun) (h : Keeps a s)  : Keeps a (State.upCmd s f) := by
  unfold State.upCmd
  try dsimp -iota only
  repeat' first
    | with_reducible assumption | split | with_reducible exact List.prefix_refl _ | with_reducible exact Nat.le_refl _
    | with_reducible exact id | with_reducible exact List.prefix_append _ _ | with_reducible exact Nat.le_succ _
    | (intro _; try dsimp -iota only) | with_reducible apply Keeps.upd (hp := rfl)

theorem State_cmdTake_keeps {a : State} (s : State) (cmd : List Sys2Proof.Byte) (h : Keeps a s)  : Keeps a (State.cmdTake s cmd) := by
  unfold State.cmdTake
  try dsimp -iota only
  repeat' first
    | with_reducible assumption | with_reducible apply State_hostRead_keeps | with_reducible apply State_inc_keeps
    | with_reducible apply State_rs_keeps | split | with_reducible exact List.prefix_refl _
    | with_reducible exact Nat.le_refl _ | with_reducible exact id | with_reducible exact List.prefix_append _ _
    | with_reducible exact Nat.le_succ _ | (intro _; try dsimp -iota only) | with_reducible apply Keeps.upd (hp := rfl)

theorem State_detailOf_keeps {a : State} (s : State) (code : Nat) (detail : Nat) {v0' : Nat} {s' : State} (h : Keeps a s)  (e : State.detailOf s code detail = (v0', s')) : Keeps a s' := by
  unfold State.detailOf at e
  try dsimp -iota only at e
  repeat' split at e
  all_goals (have e2 := congrArg (fun p => p.2) e; dsimp only at e2; subst e2)
  repeat' first
    | with_reducible assumption | with_reducible apply State_takeFree_keeps (e := pair_eta _)
    | with_reducible apply State_takeFree_keeps (e := by with_reducible assumption) | split

theorem State_complete_keeps {a : State} (s : State) (code : Nat) (detail : Nat) (value : Nat) (h : Keeps a s)  : Keeps a (State.complete s code detail value) := by
  unfold State.complete
  try dsimp -iota only
  repeat' first
    | with_reducible assumption | with_reducible apply State_detailOf_keeps (e := pair_eta _)
    | with_reducible apply State_detailOf_keeps (e := by with_reducible assumption) | with_reducible apply State_rs_keeps
    | with_reducible apply State_irqSet_keeps | with_reducible apply State_rb_keeps | with_reducible apply State_inc_keeps
    | with_reducible apply State_trace_keeps | with_reducible apply State_ringSignal_keeps
    | with_reducible apply State_ringPut_keeps | split | with_reducible exact List.prefix_refl _
    | with_reducible exact Nat.le_refl _ | with_reducible exact id | with_reducible exact List.prefix_append _ _
    | with_reducible exact Nat.le_succ _ | (intro _; try dsimp -iota only) | with_reducible apply Keeps.upd (hp := rfl)

theorem State_completeOpen_keeps {a : State} (s : State) (code : Nat) (detail : Nat) (h : Keeps a s)  : Keeps a (State.completeOpen s code detail) := by
  unfold State.completeOpen
  try dsimp -iota only
  repeat' first
    | with_reducible assumption | with_reducible apply State_takeFree_keeps (e := pair_eta _)
    | with_reducible apply State_takeFree_keeps (e := by with_reducible assumption)
    | with_reducible apply State_complete_keeps | split

theorem State_command_keeps {a : State} (s : State) (op : Nat) (cmd : List Sys2Proof.Byte) (f : State → State) (h : Keeps a s) (h_f : ∀ s, Keeps a s → Keeps a (f s)) : Keeps a (State.command s op cmd f) := by
  unfold State.command
  try dsimp -iota only
  repeat' first
    | with_reducible assumption | with_reducible exact h_f _ ‹_› | with_reducible apply h_f
    | with_reducible refine h_f _ _ _ _ _ ‹_› ?_ | with_reducible exact h_f _ _ _ _ _ ‹_› ‹_›
    | with_reducible exact h_f _ _ ‹_› | with_reducible exact h_f _ _ _ _ ‹_› | with_reducible apply State_cmdTake_keeps
    | with_reducible apply State_completeOpen_keeps | split | (intro _ _; try dsimp -iota only)

end Sys2Proof.Machine
end

