-- ==== Sys2Proof/Laws/KeepsLoader.lean ====
section
/-!
SUPPORT. `Keeps` for the functions of Machine/Loader.lean: each leaves the queue alone, drops no output and keeps the canonical forms.
-/
set_option linter.unusedVariables false
namespace Sys2Proof.Machine
open Regs

theorem State_sectWrite_keeps {a : State} (s : State) (x : Sect) (pages : List Page) (w : Nat × Nat × Nat) {v0' : Option Nat} {s' : State} (h : Keeps a s)  (e : State.sectWrite s x pages w = (v0', s')) : Keeps a s' := by
  unfold State.sectWrite at e
  try dsimp -iota only at e
  repeat' split at e
  all_goals (have e2 := congrArg (fun p => p.2) e; dsimp only at e2; subst e2)
  repeat' first
    | with_reducible assumption | with_reducible apply State_unitWrite_keeps | with_reducible apply State_rs_keeps | split
    | dsimp -iota only

theorem State_settingsApply_keeps {a : State} (s : State) (d : List Sys2Proof.Byte) (pl : Place) (x : Sect) (keep : Sys2Proof.Config.Setting → Bool) {v0' : List Nat} {s' : State} (h : Keeps a s)  (e : State.settingsApply s d pl x keep = (v0', s')) : Keeps a s' := by
  unfold State.settingsApply at e
  try dsimp -iota only at e
  repeat' split at e
  all_goals (have e2 := congrArg (fun p => p.2) e; dsimp only at e2; subst e2)
  repeat' first
    | with_reducible assumption | with_reducible apply State_sectWrite_keeps (e := pair_eta _)
    | with_reducible apply State_sectWrite_keeps (e := by with_reducible assumption) | with_reducible refine Keeps.foldl ?_ ?_
    | with_reducible refine Keeps.foldl_snd ?_ ?_ | with_reducible refine Keeps.foldl_thd ?_ ?_
    | with_reducible refine Keeps.foldl_fst ?_ ?_ | split | dsimp -iota only | (intro _ _ _; try dsimp -iota only)
    | (intro _ _; try dsimp -iota only)

theorem State_image_keeps {a : State} (s : State) (x1 : Nat) (b : List Sys2Proof.Byte) (h : Keeps a s)  : Keeps a (State.image s x1 b) := by
  unfold State.image
  try dsimp -iota only
  repeat' first
    | with_reducible assumption | split | dsimp -iota only | with_reducible exact List.prefix_refl _
    | with_reducible exact Nat.le_refl _ | with_reducible exact id | with_reducible exact List.prefix_append _ _
    | with_reducible exact Nat.le_succ _ | with_reducible apply Mem.wf_wrBytes | (intro _; try dsimp -iota only)
    | with_reducible apply Keeps.upd (hp := rfl)

theorem State_slotImage_keeps {a : State} (s : State) (n : Nat) (b : List Sys2Proof.Byte) (h : Keeps a s)  : Keeps a (State.slotImage s n b) := by
  unfold State.slotImage
  try dsimp -iota only
  repeat' first
    | with_reducible assumption | with_reducible apply State_putWord_keeps | with_reducible refine Keeps.foldl ?_ ?_
    | with_reducible refine Keeps.foldl_snd ?_ ?_ | with_reducible refine Keeps.foldl_thd ?_ ?_
    | with_reducible refine Keeps.foldl_fst ?_ ?_ | split | dsimp -iota only | (intro _ _ _; try dsimp -iota only)
    | (intro _ _; try dsimp -iota only)

theorem State_dmaMapped_keeps {a : State} (s : State) (pl : Place) (m : Nat) (h : Keeps a s)  : Keeps a (State.dmaMapped s pl m) := by
  unfold State.dmaMapped
  try dsimp -iota only
  repeat' first
    | with_reducible assumption | with_reducible refine Keeps.foldl ?_ ?_ | with_reducible refine Keeps.foldl_snd ?_ ?_
    | with_reducible refine Keeps.foldl_thd ?_ ?_ | with_reducible refine Keeps.foldl_fst ?_ ?_ | split | dsimp -iota only
    | with_reducible exact List.prefix_refl _ | with_reducible exact Nat.le_refl _ | with_reducible exact id
    | with_reducible exact List.prefix_append _ _ | with_reducible exact Nat.le_succ _ | with_reducible apply Mem.wf_wrLE
    | with_reducible refine Mem.wf_foldl _ ?_ _ _ ?_ | (intro _ _ _; try dsimp -iota only) | (intro _ _; try dsimp -iota only)
    | (intro _; try dsimp -iota only) | with_reducible apply Keeps.upd (hp := rfl)

theorem State_imageApply_keeps {a : State} (s : State) (d : List Sys2Proof.Byte) (pl : Place) (x : Sect) (h : Keeps a s)  : Keeps a (State.imageApply s d pl x) := by
  unfold State.imageApply
  try dsimp -iota only
  repeat' first
    | with_reducible assumption | with_reducible apply State_image_keeps | with_reducible apply State_slotImage_keeps | split
    | dsimp -iota only

theorem State_step4_keeps {a : State} (s : State) (d : List Sys2Proof.Byte) (pl : Place) (u : List Sect) {v0' : List (Nat × Nat)} {s' : State} (h : Keeps a s)  (e : State.step4 s d pl u = (v0', s')) : Keeps a s' := by
  unfold State.step4 at e
  try dsimp -iota only at e
  repeat' split at e
  all_goals (have e2 := congrArg (fun p => p.2) e; dsimp only at e2; subst e2)
  repeat' first
    | with_reducible assumption | with_reducible apply State_imageApply_keeps
    | with_reducible apply State_settingsApply_keeps (e := pair_eta _)
    | with_reducible apply State_settingsApply_keeps (e := by with_reducible assumption)
    | with_reducible apply State_dmaMapped_keeps | with_reducible refine Keeps.foldl ?_ ?_
    | with_reducible refine Keeps.foldl_snd ?_ ?_ | with_reducible refine Keeps.foldl_thd ?_ ?_
    | with_reducible refine Keeps.foldl_fst ?_ ?_ | split | dsimp -iota only | (intro _ _ _; try dsimp -iota only)
    | (intro _ _; try dsimp -iota only)

theorem State_scratch_keeps {a : State} (s : State) (d : List Sys2Proof.Byte) (pl : Place) (u : List Sect) (h : Keeps a s)  : Keeps a (State.scratch s d pl u) := by
  unfold State.scratch
  try dsimp -iota only
  repeat' first
    | with_reducible assumption | with_reducible apply State_blockReset_keeps | with_reducible apply State_fgDisable_keeps
    | with_reducible refine Keeps.foldl ?_ ?_ | with_reducible refine Keeps.foldl_snd ?_ ?_
    | with_reducible refine Keeps.foldl_thd ?_ ?_ | with_reducible refine Keeps.foldl_fst ?_ ?_ | split | dsimp -iota only
    | (intro _ _ _; try dsimp -iota only) | (intro _ _; try dsimp -iota only)

theorem State_dryRun_keeps {a : State} (s : State) (d : List Sys2Proof.Byte) (pl : Place) (v : Nat) {v0' : List (Nat × Nat)} {s' : State} (h : Keeps a s)  (e : State.dryRun s d pl v = (v0', s')) : Keeps a s' := by
  unfold State.dryRun at e
  try dsimp -iota only at e
  repeat' split at e
  all_goals (have e2 := congrArg (fun p => p.2) e; dsimp only at e2; subst e2)
  repeat' first
    | with_reducible assumption | with_reducible apply State_step4_keeps (e := pair_eta _)
    | with_reducible apply State_step4_keeps (e := by with_reducible assumption) | with_reducible apply State_scratch_keeps
    | with_reducible apply State_settingsApply_keeps (e := pair_eta _)
    | with_reducible apply State_settingsApply_keeps (e := by with_reducible assumption)
    | with_reducible apply State_sectWrite_keeps (e := pair_eta _)
    | with_reducible apply State_sectWrite_keeps (e := by with_reducible assumption) | with_reducible refine Keeps.foldl ?_ ?_
    | with_reducible refine Keeps.foldl_snd ?_ ?_ | with_reducible refine Keeps.foldl_thd ?_ ?_
    | with_reducible refine Keeps.foldl_fst ?_ ?_ | split | dsimp -iota only | (intro _ _ _; try dsimp -iota only)
    | (intro _ _; try dsimp -iota only)

theorem State_clusterBegin_keeps {a : State} (s : State) (k : Nat) (h : Keeps a s)  : Keeps a (State.clusterBegin s k) := by
  unfold State.clusterBegin
  try dsimp -iota only
  repeat' first
    | with_reducible assumption | with_reducible apply State_rb_keeps | with_reducible apply State_rs_keeps
    | with_reducible refine Keeps.foldl ?_ ?_ | with_reducible refine Keeps.foldl_snd ?_ ?_
    | with_reducible refine Keeps.foldl_thd ?_ ?_ | with_reducible refine Keeps.foldl_fst ?_ ?_ | split | dsimp -iota only
    | (intro _ _ _; try dsimp -iota only) | (intro _ _; try dsimp -iota only)

theorem State_beginNext_keeps {a : State} (s : State) (h : Keeps a s)  : Keeps a (State.beginNext s) := by
  unfold State.beginNext
  try dsimp -iota only
  repeat' first
    | with_reducible assumption | with_reducible apply State_clusterBegin_keeps | with_reducible apply State_upCmd_keeps
    | with_reducible refine Keeps.foldl ?_ ?_ | with_reducible refine Keeps.foldl_snd ?_ ?_
    | with_reducible refine Keeps.foldl_thd ?_ ?_ | with_reducible refine Keeps.foldl_fst ?_ ?_ | split | dsimp -iota only
    | (intro _ _ _; try dsimp -iota only) | (intro _ _; try dsimp -iota only)

theorem State_setStep_keeps {a : State} (s : State) (k : Nat) (st : Nat) (h : Keeps a s)  : Keeps a (State.setStep s k st) := by
  unfold State.setStep
  try dsimp -iota only
  repeat' first
    | with_reducible assumption | with_reducible apply State_upCmd_keeps | split | dsimp -iota only

theorem State_loadStopped_keeps {a : State} (s : State) (h : Keeps a s)  : Keeps a (State.loadStopped s) := by
  unfold State.loadStopped
  try dsimp -iota only
  repeat' first
    | with_reducible assumption | with_reducible apply State_completeOpen_keeps | with_reducible apply State_upPart_keeps
    | split | dsimp -iota only

theorem State_clusterStop2_keeps {a : State} (s : State) (k : Nat) (h : Keeps a s)  : Keeps a (State.clusterStop2 s k) := by
  unfold State.clusterStop2
  try dsimp -iota only
  repeat' first
    | with_reducible assumption | with_reducible apply State_runOff_keeps | with_reducible apply State_setStep_keeps
    | with_reducible apply State_upCmd_keeps | with_reducible refine Keeps.foldl ?_ ?_
    | with_reducible refine Keeps.foldl_snd ?_ ?_ | with_reducible refine Keeps.foldl_thd ?_ ?_
    | with_reducible refine Keeps.foldl_fst ?_ ?_ | split | dsimp -iota only | (intro _ _ _; try dsimp -iota only)
    | (intro _ _; try dsimp -iota only)

theorem State_clusterResets_keeps {a : State} (s : State) (h : Keeps a s)  : Keeps a (State.clusterResets s) := by
  unfold State.clusterResets
  try dsimp -iota only
  repeat' first
    | with_reducible assumption | with_reducible apply State_setStep_keeps | with_reducible apply State_resetAccept_keeps
    | with_reducible refine Keeps.foldl ?_ ?_ | with_reducible refine Keeps.foldl_snd ?_ ?_
    | with_reducible refine Keeps.foldl_thd ?_ ?_ | with_reducible refine Keeps.foldl_fst ?_ ?_ | split | dsimp -iota only
    | (intro _ _ _; try dsimp -iota only) | (intro _ _; try dsimp -iota only)

theorem State_clusterQuiesced_keeps {a : State} (s : State) (k : Nat) (h : Keeps a s)  : Keeps a (State.clusterQuiesced s k) := by
  unfold State.clusterQuiesced
  try dsimp -iota only
  repeat' first
    | with_reducible assumption | with_reducible apply State_loadStopped_keeps | with_reducible apply State_clusterStop2_keeps
    | with_reducible apply State_setStep_keeps | with_reducible apply State_clusterResets_keeps | split | dsimp -iota only

theorem State_clusterRun_keeps {a : State} (s : State) (r : CmdRun) (k : Nat) (h : Keeps a s)  : Keeps a (State.clusterRun s r k) := by
  unfold State.clusterRun
  try dsimp -iota only
  repeat' first
    | with_reducible assumption | with_reducible apply State_coreStart_keeps | with_reducible refine Keeps.foldl ?_ ?_
    | with_reducible refine Keeps.foldl_snd ?_ ?_ | with_reducible refine Keeps.foldl_thd ?_ ?_
    | with_reducible refine Keeps.foldl_fst ?_ ?_ | split | dsimp -iota only | (intro _ _ _; try dsimp -iota only)
    | (intro _ _; try dsimp -iota only)

theorem State_clusterRuns_keeps {a : State} (s : State) (h : Keeps a s)  : Keeps a (State.clusterRuns s) := by
  unfold State.clusterRuns
  try dsimp -iota only
  repeat' first
    | with_reducible assumption | with_reducible apply State_setStep_keeps | with_reducible apply State_clusterRun_keeps
    | with_reducible refine Keeps.foldl ?_ ?_ | with_reducible refine Keeps.foldl_snd ?_ ?_
    | with_reducible refine Keeps.foldl_thd ?_ ?_ | with_reducible refine Keeps.foldl_fst ?_ ?_ | split | dsimp -iota only
    | (intro _ _ _; try dsimp -iota only) | (intro _ _; try dsimp -iota only)

theorem State_clearDoneLoad_keeps {a : State} (s : State) (k : Nat) (d : Nat) (h : Keeps a s)  : Keeps a (State.clearDoneLoad s k d) := by
  unfold State.clearDoneLoad
  try dsimp -iota only
  repeat' first
    | with_reducible assumption | with_reducible apply State_clusterRuns_keeps | with_reducible apply State_clearDone_keeps
    | split | dsimp -iota only

theorem State_clusterWrites_keeps {a : State} (s : State) (h : Keeps a s)  : Keeps a (State.clusterWrites s) := by
  unfold State.clusterWrites
  try dsimp -iota only
  repeat' first
    | with_reducible assumption | with_reducible apply State_clusterRuns_keeps | with_reducible apply State_setStep_keeps
    | with_reducible apply State_step4_keeps (e := pair_eta _)
    | with_reducible apply State_step4_keeps (e := by with_reducible assumption) | with_reducible refine Keeps.foldl ?_ ?_
    | with_reducible refine Keeps.foldl_snd ?_ ?_ | with_reducible refine Keeps.foldl_thd ?_ ?_
    | with_reducible refine Keeps.foldl_fst ?_ ?_ | split | dsimp -iota only | (intro _ _ _; try dsimp -iota only)
    | (intro _ _; try dsimp -iota only)

theorem State_resume_keeps {a : State} (s : State) (r : CmdRun) (ks : List Nat) (h : Keeps a s)  : Keeps a (State.resume s r ks) := by
  unfold State.resume
  try dsimp -iota only
  repeat' first
    | with_reducible assumption | with_reducible apply State_settingsApply_keeps (e := pair_eta _)
    | with_reducible apply State_settingsApply_keeps (e := by with_reducible assumption) | with_reducible apply State_rs_keeps
    | with_reducible apply State_upPart_keeps | with_reducible apply State_notice_keeps
    | with_reducible refine Keeps.foldl ?_ ?_ | with_reducible refine Keeps.foldl_snd ?_ ?_
    | with_reducible refine Keeps.foldl_thd ?_ ?_ | with_reducible refine Keeps.foldl_fst ?_ ?_ | split | dsimp -iota only
    | (intro _ _ _; try dsimp -iota only) | (intro _ _; try dsimp -iota only)

theorem State_fgtApply_keeps {a : State} (s : State) (r : CmdRun) (h : Keeps a s)  : Keeps a (State.fgtApply s r) := by
  unfold State.fgtApply
  try dsimp -iota only
  repeat' first
    | with_reducible assumption | with_reducible apply State_settingsApply_keeps (e := pair_eta _)
    | with_reducible apply State_settingsApply_keeps (e := by with_reducible assumption)
    | with_reducible refine Keeps.foldl ?_ ?_ | with_reducible refine Keeps.foldl_snd ?_ ?_
    | with_reducible refine Keeps.foldl_thd ?_ ?_ | with_reducible refine Keeps.foldl_fst ?_ ?_ | split | dsimp -iota only
    | (intro _ _ _; try dsimp -iota only) | (intro _ _; try dsimp -iota only)

theorem State_fusionApply_keeps {a : State} (s : State) (d : List Sys2Proof.Byte) (pl : Place) (x : Sect) (h : Keeps a s)  : Keeps a (State.fusionApply s d pl x) := by
  unfold State.fusionApply
  try dsimp -iota only
  repeat' first
    | with_reducible assumption | with_reducible apply State_settingsApply_keeps (e := pair_eta _)
    | with_reducible apply State_settingsApply_keeps (e := by with_reducible assumption)
    | with_reducible apply State_fgDisable_keeps | with_reducible apply State_periodWrite_keeps
    | with_reducible apply State_upCmd_keeps | split | dsimp -iota only

theorem State_loadEnd_keeps {a : State} (s : State) (r : CmdRun) (h : Keeps a s)  : Keeps a (State.loadEnd s r) := by
  unfold State.loadEnd
  try dsimp -iota only
  repeat' first
    | with_reducible assumption | with_reducible apply State_tmapCtrl_keeps
    | with_reducible apply State_settingsApply_keeps (e := pair_eta _)
    | with_reducible apply State_settingsApply_keeps (e := by with_reducible assumption)
    | with_reducible apply State_fusionApply_keeps | with_reducible apply State_upPart_keeps
    | with_reducible apply State_complete_keeps | with_reducible refine Keeps.foldl ?_ ?_
    | with_reducible refine Keeps.foldl_snd ?_ ?_ | with_reducible refine Keeps.foldl_thd ?_ ?_
    | with_reducible refine Keeps.foldl_fst ?_ ?_ | split | dsimp -iota only | (intro _ _ _; try dsimp -iota only)
    | (intro _ _; try dsimp -iota only)

theorem State_partEmpty_keeps {a : State} (s : State) (p : Nat) (h : Keeps a s)  : Keeps a (State.partEmpty s p) := by
  unfold State.partEmpty
  try dsimp -iota only
  repeat' first
    | with_reducible assumption | with_reducible apply State_rs_keeps | with_reducible apply State_upPart_keeps
    | with_reducible refine Keeps.foldl ?_ ?_ | with_reducible refine Keeps.foldl_snd ?_ ?_
    | with_reducible refine Keeps.foldl_thd ?_ ?_ | with_reducible refine Keeps.foldl_fst ?_ ?_ | split | dsimp -iota only
    | (intro _ _ _; try dsimp -iota only) | (intro _ _; try dsimp -iota only)

theorem State_clusterResetsDone_keeps {a : State} (s : State) (k : Nat) (h : Keeps a s)  : Keeps a (State.clusterResetsDone s k) := by
  unfold State.clusterResetsDone
  try dsimp -iota only
  repeat' first
    | with_reducible assumption | with_reducible apply State_loadStopped_keeps | with_reducible apply State_resetDone_keeps
    | with_reducible apply State_clusterWrites_keeps | with_reducible apply State_setStep_keeps
    | with_reducible apply State_upCmd_keeps | with_reducible apply State_completeOpen_keeps
    | with_reducible apply State_partEmpty_keeps | with_reducible apply State_beginNext_keeps
    | with_reducible refine Keeps.foldl ?_ ?_ | with_reducible refine Keeps.foldl_snd ?_ ?_
    | with_reducible refine Keeps.foldl_thd ?_ ?_ | with_reducible refine Keeps.foldl_fst ?_ ?_ | split | dsimp -iota only
    | (intro _ _ _; try dsimp -iota only) | (intro _ _; try dsimp -iota only)

theorem State_clusterResume_keeps {a : State} (s : State) (k : Nat) (h : Keeps a s)  : Keeps a (State.clusterResume s k) := by
  unfold State.clusterResume
  try dsimp -iota only
  repeat' first
    | with_reducible assumption | with_reducible apply State_loadStopped_keeps | with_reducible apply State_upCmd_keeps
    | with_reducible apply State_resume_keeps | with_reducible apply State_loadEnd_keeps
    | with_reducible apply State_fgtApply_keeps | with_reducible apply State_beginNext_keeps | split | dsimp -iota only

theorem State_load_keeps {a : State} (s : State) (cmd : List Sys2Proof.Byte) (pkg : List Sys2Proof.Byte) (ok : Bool) (h : Keeps a s)  : Keeps a (State.load s cmd pkg ok) := by
  unfold State.load
  try dsimp -iota only
  repeat' first
    | with_reducible assumption | with_reducible apply State_command_keeps | with_reducible apply State_completeOpen_keeps
    | with_reducible apply State_hostRead_keeps | with_reducible apply State_upCmd_keeps | split | dsimp -iota only
    | with_reducible exact List.prefix_refl _ | with_reducible exact Nat.le_refl _ | with_reducible exact id
    | with_reducible exact List.prefix_append _ _ | with_reducible exact Nat.le_succ _ | with_reducible apply Mem.wf_wrBytes
    | (intro _ _; try dsimp -iota only) | (intro _; try dsimp -iota only) | with_reducible apply Keeps.upd (hp := rfl)

theorem State_packageStaged_keeps {a : State} (s : State) (h : Keeps a s)  : Keeps a (State.packageStaged s) := by
  unfold State.packageStaged
  try dsimp -iota only
  repeat' first
    | with_reducible assumption | with_reducible apply State_completeOpen_keeps | with_reducible apply State_upCmd_keeps
    | with_reducible apply State_rs_keeps | with_reducible apply State_complete_keeps
    | with_reducible apply State_takeFree_keeps (e := pair_eta _)
    | with_reducible apply State_takeFree_keeps (e := by with_reducible assumption) | with_reducible apply State_upPart_keeps
    | with_reducible apply State_beginNext_keeps | with_reducible refine Keeps.foldl ?_ ?_
    | with_reducible refine Keeps.foldl_snd ?_ ?_ | with_reducible refine Keeps.foldl_thd ?_ ?_
    | with_reducible refine Keeps.foldl_fst ?_ ?_ | split | dsimp -iota only | with_reducible exact List.prefix_refl _
    | with_reducible exact Nat.le_refl _ | with_reducible exact id | with_reducible exact List.prefix_append _ _
    | with_reducible exact Nat.le_succ _ | with_reducible apply Mem.wf_wrBytes
    | with_reducible refine Mem.wf_foldl _ ?_ _ _ ?_ | (intro _ _ _; try dsimp -iota only) | (intro _ _; try dsimp -iota only)
    | (intro _; try dsimp -iota only) | with_reducible apply Keeps.upd (hp := rfl)

theorem State_unload_keeps {a : State} (s : State) (cmd : List Sys2Proof.Byte) (h : Keeps a s)  : Keeps a (State.unload s cmd) := by
  unfold State.unload
  try dsimp -iota only
  repeat' first
    | with_reducible assumption | with_reducible apply State_command_keeps | with_reducible apply State_completeOpen_keeps
    | with_reducible apply State_partEmpty_keeps | with_reducible apply State_upCmd_keeps
    | with_reducible apply State_rs_keeps | with_reducible apply State_beginNext_keeps | split | dsimp -iota only
    | (intro _ _; try dsimp -iota only)

theorem State_query_keeps {a : State} (s : State) (cmd : List Sys2Proof.Byte) (h : Keeps a s)  : Keeps a (State.query s cmd) := by
  unfold State.query
  try dsimp -iota only
  repeat' first
    | with_reducible assumption | with_reducible apply State_command_keeps | with_reducible apply State_completeOpen_keeps
    | with_reducible apply State_complete_keeps | split | dsimp -iota only | (intro _ _; try dsimp -iota only)

theorem execDescClearDone_keeps (t : Nat) (k : Fin 16) (d : Fin 64) (s : State) : KeepsR s (execDescClearDone t k d s) := by
  have h := Keeps.refl s
  unfold execDescClearDone
  try dsimp -iota only
  repeat' first
    | with_reducible assumption | with_reducible apply KeepsR.next | with_reducible apply State_clearDoneLoad_keeps
    | with_reducible apply State_advance_keeps | split | dsimp -iota only

end Sys2Proof.Machine
end

