-- ==== Sys2Proof/Laws/KeepsHost.lean ====
section
/-!
SUPPORT. `Keeps` for the functions of Machine/Host.lean: each leaves the queue alone, drops no output and keeps the canonical forms.
-/
set_option linter.unusedVariables false
namespace Sys2Proof.Machine
open Regs

theorem State_attest_keeps {a : State} (s : State) (cmd : List Sys2Proof.Byte) (h : Keeps a s)  : Keeps a (State.attest s cmd) := by
  unfold State.attest
  try dsimp -iota only
  repeat' first
    | with_reducible assumption | with_reducible apply State_command_keeps | with_reducible apply State_completeOpen_keeps
    | with_reducible apply State_complete_keeps | with_reducible apply State_dmaWrite_keeps | split
    | (intro _ _; try dsimp -iota only)

theorem State_imageRun_keeps {a : State} (s : State) (d : List Sys2Proof.Byte) (h : Keeps a s)  : Keeps a (State.imageRun s d) := by
  unfold State.imageRun
  try dsimp -iota only
  repeat' first
    | with_reducible assumption | with_reducible apply State_rs_keeps | with_reducible apply State_image_keeps | split
    | with_reducible exact List.prefix_refl _ | with_reducible exact Nat.le_refl _ | with_reducible exact id
    | with_reducible exact List.prefix_append _ _ | with_reducible exact Nat.le_succ _ | (intro _; try dsimp -iota only)
    | with_reducible apply Keeps.upd (hp := rfl)

theorem State_fwUpdate_keeps {a : State} (s : State) (cmd : List Sys2Proof.Byte) (img : List Sys2Proof.Byte) (ok : Bool) (h : Keeps a s)  : Keeps a (State.fwUpdate s cmd img ok) := by
  unfold State.fwUpdate
  try dsimp -iota only
  repeat' first
    | with_reducible assumption | with_reducible apply State_command_keeps | with_reducible apply State_completeOpen_keeps
    | with_reducible apply State_hostRead_keeps | with_reducible apply State_complete_keeps
    | with_reducible apply State_logAppend_keeps | with_reducible apply State_wdogReload_keeps
    | with_reducible apply State_upCmd_keeps | with_reducible refine Keeps.foldl ?_ ?_
    | with_reducible refine Keeps.foldl_snd ?_ ?_ | with_reducible refine Keeps.foldl_thd ?_ ?_
    | with_reducible refine Keeps.foldl_fst ?_ ?_ | split | with_reducible exact List.prefix_refl _
    | with_reducible exact Nat.le_refl _ | with_reducible exact id | with_reducible exact List.prefix_append _ _
    | with_reducible exact Nat.le_succ _ | with_reducible apply Mem.wf_wrBytes
    | with_reducible refine Mem.wf_foldl _ ?_ _ _ ?_ | (intro _ _ _; try dsimp -iota only) | (intro _ _; try dsimp -iota only)
    | (intro _; try dsimp -iota only) | with_reducible apply Keeps.upd (hp := rfl)

theorem State_flushNotices_keeps {a : State} (s : State) (h : Keeps a s)  : Keeps a (State.flushNotices s) := by
  unfold State.flushNotices
  try dsimp -iota only
  repeat' first
    | with_reducible assumption | with_reducible apply State_noticeAt_keeps | with_reducible refine Keeps.foldl ?_ ?_
    | with_reducible refine Keeps.foldl_snd ?_ ?_ | with_reducible refine Keeps.foldl_thd ?_ ?_
    | with_reducible refine Keeps.foldl_fst ?_ ?_ | split | with_reducible exact List.prefix_refl _
    | with_reducible exact Nat.le_refl _ | with_reducible exact id | with_reducible exact List.prefix_append _ _
    | with_reducible exact Nat.le_succ _ | with_reducible refine Mem.wf_foldl _ ?_ _ _ ?_
    | (intro _ _ _; try dsimp -iota only) | (intro _ _; try dsimp -iota only) | (intro _; try dsimp -iota only)
    | with_reducible apply Keeps.upd (hp := rfl)

theorem State_fwRestarted_keeps {a : State} (s : State) (h : Keeps a s)  : Keeps a (State.fwRestarted s) := by
  unfold State.fwRestarted
  try dsimp -iota only
  repeat' first
    | with_reducible assumption | with_reducible apply State_imageRun_keeps | with_reducible apply State_notice_keeps
    | with_reducible apply State_inc_keeps | with_reducible apply State_flushNotices_keeps
    | with_reducible apply State_fwFrames_keeps | with_reducible apply State_complete_keeps | split
    | with_reducible exact List.prefix_refl _ | with_reducible exact Nat.le_refl _ | with_reducible exact id
    | with_reducible exact List.prefix_append _ _ | with_reducible exact Nat.le_succ _ | (intro _; try dsimp -iota only)
    | with_reducible apply Keeps.upd (hp := rfl)

theorem State_fwPersist_keeps {a : State} (s : State) (ok : Bool) (h : Keeps a s)  : Keeps a (State.fwPersist s ok) := by
  unfold State.fwPersist
  try dsimp -iota only
  repeat' first
    | with_reducible assumption | with_reducible apply State_emit_keeps | with_reducible apply State_complete_keeps | split

theorem State_functionReset_keeps {a : State} (s : State) (h : Keeps a s)  : Keeps a (State.functionReset s) := by
  unfold State.functionReset
  try dsimp -iota only
  repeat' first
    | with_reducible assumption | with_reducible apply State_rb_keeps
    | with_reducible apply State_takeFree_keeps (e := pair_eta _)
    | with_reducible apply State_takeFree_keeps (e := by with_reducible assumption) | with_reducible apply State_rs_keeps
    | with_reducible apply State_upCmd_keeps | split | with_reducible exact List.prefix_refl _
    | with_reducible exact Nat.le_refl _ | with_reducible exact id | with_reducible exact Tab.rising_keep _ _
    | with_reducible exact List.prefix_append _ _ | with_reducible exact Nat.le_succ _ | with_reducible apply Mem.wf_keep
    | (intro _; try dsimp -iota only) | with_reducible apply Keeps.upd (hp := rfl)

theorem State_linkDown_keeps {a : State} (s : State) (h : Keeps a s)  : Keeps a (State.linkDown s) := by
  unfold State.linkDown
  try dsimp -iota only
  repeat' first
    | with_reducible assumption | with_reducible apply State_irqSet_keeps | with_reducible apply State_rs_keeps
    | with_reducible apply State_rb_keeps | split

theorem State_config_keeps {a : State} (s : State) (q : Sys2Proof.CfgReq) (h : Keeps a s)  : Keeps a (State.config s q) := by
  unfold State.config
  try dsimp -iota only
  repeat' first
    | with_reducible assumption | with_reducible apply State_emit_keeps | with_reducible apply State_msixFlush_keeps
    | with_reducible apply State_rb_keeps | split | with_reducible exact List.prefix_refl _
    | with_reducible exact Nat.le_refl _ | with_reducible exact id | with_reducible exact List.prefix_append _ _
    | with_reducible exact Nat.le_succ _ | (intro _; try dsimp -iota only) | with_reducible apply Keeps.upd (hp := rfl)

theorem execCmdTail_keeps (t : Nat) (v : Sys2Proof.Word) (s : State) : KeepsR s (execCmdTail t v s) := by
  have h := Keeps.refl s
  unfold execCmdTail
  try dsimp -iota only
  repeat' first
    | with_reducible assumption | with_reducible apply KeepsR.next | with_reducible apply State_doorbell_keeps
    | with_reducible apply State_advance_keeps | with_reducible apply State_dbProd_keeps | split
    | (intro _ _; try dsimp -iota only)

theorem execCplHead_keeps (t : Nat) (v : Sys2Proof.Word) (s : State) : KeepsR s (execCplHead t v s) := by
  have h := Keeps.refl s
  unfold execCplHead
  try dsimp -iota only
  repeat' first
    | with_reducible assumption | with_reducible apply KeepsR.next | with_reducible apply State_doorbell_keeps
    | with_reducible apply State_advance_keeps | with_reducible apply State_dbCons_keeps | split
    | (intro _ _; try dsimp -iota only)

theorem execNtcHead_keeps (t : Nat) (v : Sys2Proof.Word) (s : State) : KeepsR s (execNtcHead t v s) := by
  have h := Keeps.refl s
  unfold execNtcHead
  try dsimp -iota only
  repeat' first
    | with_reducible assumption | with_reducible apply KeepsR.next | with_reducible apply State_doorbell_keeps
    | with_reducible apply State_advance_keeps | with_reducible apply State_dbCons_keeps | split
    | (intro _ _; try dsimp -iota only)

theorem execRptCons_keeps (t : Nat) (g : Fin 4) (v : Sys2Proof.Word) (s : State) : KeepsR s (execRptCons t g v s) := by
  have h := Keeps.refl s
  unfold execRptCons
  try dsimp -iota only
  repeat' first
    | with_reducible assumption | with_reducible apply KeepsR.next | with_reducible apply State_doorbell_keeps
    | with_reducible apply State_advance_keeps | with_reducible apply State_dbCons_keeps | split
    | (intro _ _; try dsimp -iota only)

theorem execRingEnable_keeps (t : Nat) (c : Sys2Proof.Req) (v : Sys2Proof.Word) (s : State) : KeepsR s (execRingEnable t c v s) := by
  have h := Keeps.refl s
  unfold execRingEnable
  try dsimp -iota only
  repeat' first
    | with_reducible assumption | with_reducible apply KeepsR.next | with_reducible apply State_cmdWrite_keeps
    | with_reducible apply State_ringCtrl_keeps | split | (intro _ _; try dsimp -iota only)

theorem execLoad_keeps (t : Nat) (cmd : List Sys2Proof.Byte) (pkg : List Sys2Proof.Byte) (ok : Bool) (s : State) : KeepsR s (execLoad t cmd pkg ok s) := by
  have h := Keeps.refl s
  unfold execLoad
  try dsimp -iota only
  repeat' first
    | with_reducible assumption | with_reducible apply KeepsR.next | with_reducible apply State_load_keeps
    | with_reducible apply State_advance_keeps | split

theorem execPackageStaged_keeps (t : Nat) (s : State) : KeepsR s (execPackageStaged t s) := by
  have h := Keeps.refl s
  unfold execPackageStaged
  try dsimp -iota only
  repeat' first
    | with_reducible assumption | with_reducible apply KeepsR.next | with_reducible apply State_packageStaged_keeps
    | with_reducible apply State_advance_keeps | split

theorem execClusterQuiesced_keeps (t : Nat) (k : Fin 16) (s : State) : KeepsR s (execClusterQuiesced t k s) := by
  have h := Keeps.refl s
  unfold execClusterQuiesced
  try dsimp -iota only
  repeat' first
    | with_reducible assumption | with_reducible apply KeepsR.next | with_reducible apply State_clusterQuiesced_keeps
    | with_reducible apply State_advance_keeps | split

theorem execClusterResetsDone_keeps (t : Nat) (k : Fin 16) (s : State) : KeepsR s (execClusterResetsDone t k s) := by
  have h := Keeps.refl s
  unfold execClusterResetsDone
  try dsimp -iota only
  repeat' first
    | with_reducible assumption | with_reducible apply KeepsR.next | with_reducible apply State_clusterResetsDone_keeps
    | with_reducible apply State_advance_keeps | split

theorem execClusterResume_keeps (t : Nat) (k : Fin 16) (s : State) : KeepsR s (execClusterResume t k s) := by
  have h := Keeps.refl s
  unfold execClusterResume
  try dsimp -iota only
  repeat' first
    | with_reducible assumption | with_reducible apply KeepsR.next | with_reducible apply State_clusterResume_keeps
    | with_reducible apply State_advance_keeps | split

theorem execUnload_keeps (t : Nat) (cmd : List Sys2Proof.Byte) (s : State) : KeepsR s (execUnload t cmd s) := by
  have h := Keeps.refl s
  unfold execUnload
  try dsimp -iota only
  repeat' first
    | with_reducible assumption | with_reducible apply KeepsR.next | with_reducible apply State_unload_keeps
    | with_reducible apply State_advance_keeps | split

theorem execQuery_keeps (t : Nat) (cmd : List Sys2Proof.Byte) (s : State) : KeepsR s (execQuery t cmd s) := by
  have h := Keeps.refl s
  unfold execQuery
  try dsimp -iota only
  repeat' first
    | with_reducible assumption | with_reducible apply KeepsR.next | with_reducible apply State_query_keeps
    | with_reducible apply State_advance_keeps | split

theorem execCmdNop_keeps (t : Nat) (cmd : List Sys2Proof.Byte) (s : State) : KeepsR s (execCmdNop t cmd s) := by
  have h := Keeps.refl s
  unfold execCmdNop
  try dsimp -iota only
  repeat' first
    | with_reducible assumption | with_reducible apply KeepsR.next | with_reducible apply State_command_keeps
    | with_reducible apply State_advance_keeps | with_reducible apply State_completeOpen_keeps | split
    | (intro _ _; try dsimp -iota only)

theorem execAttest_keeps (t : Nat) (cmd : List Sys2Proof.Byte) (s : State) : KeepsR s (execAttest t cmd s) := by
  have h := Keeps.refl s
  unfold execAttest
  try dsimp -iota only
  repeat' first
    | with_reducible assumption | with_reducible apply KeepsR.next | with_reducible apply State_attest_keeps
    | with_reducible apply State_advance_keeps | split

theorem execFwUpdate_keeps (t : Nat) (cmd : List Sys2Proof.Byte) (img : List Sys2Proof.Byte) (ok : Bool) (s : State) : KeepsR s (execFwUpdate t cmd img ok s) := by
  have h := Keeps.refl s
  unfold execFwUpdate
  try dsimp -iota only
  repeat' first
    | with_reducible assumption | with_reducible apply KeepsR.next | with_reducible apply State_fwUpdate_keeps
    | with_reducible apply State_advance_keeps | split

theorem execFwRestarted_keeps (t : Nat) (s : State) : KeepsR s (execFwRestarted t s) := by
  have h := Keeps.refl s
  unfold execFwRestarted
  try dsimp -iota only
  repeat' first
    | with_reducible assumption | with_reducible apply KeepsR.next | with_reducible apply State_fwRestarted_keeps
    | with_reducible apply State_advance_keeps | split

theorem execFwPersistDone_keeps (t : Nat) (ok : Bool) (s : State) : KeepsR s (execFwPersistDone t ok s) := by
  have h := Keeps.refl s
  unfold execFwPersistDone
  try dsimp -iota only
  repeat' first
    | with_reducible assumption | with_reducible apply KeepsR.next | with_reducible apply State_fwPersist_keeps
    | with_reducible apply State_advance_keeps | split

theorem execCmdUnlistedOpcode_keeps (t : Nat) (cmd : List Sys2Proof.Byte) (s : State) : KeepsR s (execCmdUnlistedOpcode t cmd s) := by
  have h := Keeps.refl s
  unfold execCmdUnlistedOpcode
  try dsimp -iota only
  repeat' first
    | with_reducible assumption | with_reducible apply KeepsR.next | with_reducible apply State_advance_keeps
    | with_reducible apply State_command_keeps | with_reducible apply State_completeOpen_keeps | split
    | (intro _ _; try dsimp -iota only)

theorem execCoalExpiry_keeps (t : Nat) (ring : Fin 6) (s : State) : KeepsR s (execCoalExpiry t ring s) := by
  have h := Keeps.refl s
  unfold execCoalExpiry
  try dsimp -iota only
  repeat' first
    | with_reducible assumption | with_reducible apply KeepsR.next | with_reducible apply State_coalExpiry_keeps
    | with_reducible apply State_advance_keeps | split

theorem execPerstAssert_keeps (t : Nat) (s : State) : KeepsR s (execPerstAssert t s) := by
  have h := Keeps.refl s
  unfold execPerstAssert
  try dsimp -iota only
  repeat' first
    | with_reducible assumption | with_reducible apply KeepsR.next | with_reducible apply State_advance_keeps
    | with_reducible apply State_functionReset_keeps | with_reducible apply State_inc_keeps
    | with_reducible apply State_linkDown_keeps | with_reducible apply State_irqSet_keeps | split
    | with_reducible exact List.prefix_refl _ | with_reducible exact Nat.le_refl _ | with_reducible exact id
    | with_reducible exact List.prefix_append _ _ | with_reducible exact Nat.le_succ _ | (intro _; try dsimp -iota only)
    | with_reducible apply Keeps.upd (hp := rfl)

theorem execPerstDeassert_keeps (t : Nat) (s : State) : KeepsR s (execPerstDeassert t s) := by
  have h := Keeps.refl s
  unfold execPerstDeassert
  try dsimp -iota only
  repeat' first
    | with_reducible assumption | with_reducible apply KeepsR.next | with_reducible apply State_advance_keeps | split
    | with_reducible exact List.prefix_refl _ | with_reducible exact Nat.le_refl _ | with_reducible exact id
    | with_reducible exact List.prefix_append _ _ | with_reducible exact Nat.le_succ _ | (intro _; try dsimp -iota only)
    | with_reducible apply Keeps.upd (hp := rfl)

theorem execFlr_keeps (t : Nat) (s : State) : KeepsR s (execFlr t s) := by
  have h := Keeps.refl s
  unfold execFlr
  try dsimp -iota only
  repeat' first
    | with_reducible assumption | with_reducible apply KeepsR.next | with_reducible apply State_advance_keeps
    | with_reducible apply State_irqSet_keeps | with_reducible apply State_functionReset_keeps
    | with_reducible apply State_inc_keeps | split

theorem execPcieLinkDown_keeps (t : Nat) (s : State) : KeepsR s (execPcieLinkDown t s) := by
  have h := Keeps.refl s
  unfold execPcieLinkDown
  try dsimp -iota only
  repeat' first
    | with_reducible assumption | with_reducible apply KeepsR.next | with_reducible apply State_linkDown_keeps
    | with_reducible apply State_advance_keeps | split

theorem execPcieLinkUp_keeps (t : Nat) (sp : Fin 16) (wd : Fin 64) (s : State) : KeepsR s (execPcieLinkUp t sp wd s) := by
  have h := Keeps.refl s
  unfold execPcieLinkUp
  try dsimp -iota only
  repeat' first
    | with_reducible assumption | with_reducible apply KeepsR.next | with_reducible apply State_advance_keeps
    | with_reducible apply State_rs_keeps | with_reducible apply State_rb_keeps | split

theorem execConfigRequest_keeps (t : Nat) (q : Sys2Proof.CfgReq) (s : State) : KeepsR s (execConfigRequest t q s) := by
  have h := Keeps.refl s
  unfold execConfigRequest
  try dsimp -iota only
  repeat' first
    | with_reducible assumption | with_reducible apply KeepsR.next | with_reducible apply State_config_keeps
    | with_reducible apply State_advance_keeps | split

end Sys2Proof.Machine
end

