-- ==== Sys2Proof/Laws/KeepsReports.lean ====
section
/-!
SUPPORT. `Keeps` for the functions of Machine/Reports.lean: each leaves the queue alone, drops no output and keeps the canonical forms.
-/
set_option linter.unusedVariables false
namespace Sys2Proof.Machine
open Regs

theorem State_reportComplete_keeps {a : State} (s : State) (g : Nat) (h : Keeps a s)  : Keeps a (State.reportComplete s g) := by
  unfold State.reportComplete
  try dsimp -iota only
  repeat' first
    | with_reducible assumption | with_reducible apply State_lateSamples_keeps (e := pair_eta _)
    | with_reducible apply State_lateSamples_keeps (e := by with_reducible assumption) | with_reducible apply State_upGr_keeps
    | with_reducible apply State_inc_keeps | with_reducible apply State_rb_keeps | with_reducible apply State_peak_keeps
    | with_reducible apply State_trace_keeps | with_reducible apply State_launchPost_keeps | split

theorem State_reportRing_keeps {a : State} (s : State) (g : Nat) (b : List Sys2Proof.Byte) (h : Keeps a s)  : Keeps a (State.reportRing s g b) := by
  unfold State.reportRing
  try dsimp -iota only
  repeat' first
    | with_reducible assumption | with_reducible apply State_dmaWrite_keeps | with_reducible apply State_rs_keeps
    | with_reducible apply State_ringSignal_keeps | with_reducible apply State_irqSet_keeps
    | with_reducible apply State_inc_keeps | split

theorem State_reportRelease_keeps {a : State} (s : State) (g : Nat) (h : Keeps a s)  : Keeps a (State.reportRelease s g) := by
  unfold State.reportRelease
  try dsimp -iota only
  repeat' first
    | with_reducible assumption | with_reducible apply State_upGr_keeps | with_reducible apply State_rb_keeps
    | with_reducible apply State_reportRing_keeps | with_reducible apply State_reportPeers_keeps
    | with_reducible apply State_irqSet_keeps | split

theorem execReportComplete_keeps (t : Nat) (g : Fin 4) (s : State) : KeepsR s (execReportComplete t g s) := by
  have h := Keeps.refl s
  unfold execReportComplete
  try dsimp -iota only
  repeat' first
    | with_reducible assumption | with_reducible apply KeepsR.next | with_reducible apply State_reportComplete_keeps
    | with_reducible apply State_advance_keeps | split

theorem execReportRelease_keeps (t : Nat) (g : Fin 4) (s : State) : KeepsR s (execReportRelease t g s) := by
  have h := Keeps.refl s
  unfold execReportRelease
  try dsimp -iota only
  repeat' first
    | with_reducible assumption | with_reducible apply KeepsR.next | with_reducible apply State_reportRelease_keeps
    | with_reducible apply State_advance_keeps | split

end Sys2Proof.Machine
end

