-- ==== Sys2Proof/Laws/KeepsBoot.lean ====
section
/-!
SUPPORT. `Keeps` for the functions of Machine/Boot.lean: each leaves the queue alone, drops no output and keeps the canonical forms.
-/
set_option linter.unusedVariables false
namespace Sys2Proof.Machine
open Regs

theorem State_setPhase_keeps {a : State} (s : State) (p : Nat) (h : Keeps a s)  : Keeps a (State.setPhase s p) := by
  unfold State.setPhase
  try dsimp -iota only
  repeat' first
    | with_reducible assumption | with_reducible apply State_rs_keeps | split

theorem State_fuses_keeps {a : State} (s : State) (h : Keeps a s)  : Keeps a (State.fuses s) := by
  unfold State.fuses
  try dsimp -iota only
  repeat' first
    | with_reducible assumption | with_reducible apply State_rs_keeps | with_reducible refine Keeps.foldl ?_ ?_
    | with_reducible refine Keeps.foldl_snd ?_ ?_ | with_reducible refine Keeps.foldl_thd ?_ ?_
    | with_reducible refine Keeps.foldl_fst ?_ ?_ | split | (intro _ _ _; try dsimp -iota only)
    | (intro _ _; try dsimp -iota only)

theorem State_optionLoad_keeps {a : State} (s : State) (h : Keeps a s)  : Keeps a (State.optionLoad s) := by
  unfold State.optionLoad
  try dsimp -iota only
  repeat' first
    | with_reducible assumption | with_reducible apply State_takeFree_keeps (e := pair_eta _)
    | with_reducible apply State_takeFree_keeps (e := by with_reducible assumption) | with_reducible apply State_rs_keeps
    | with_reducible apply State_rb_keeps | with_reducible apply State_fuses_keeps | with_reducible apply State_setPhase_keeps
    | with_reducible apply State_fabReset_keeps | with_reducible refine Keeps.foldl ?_ ?_
    | with_reducible refine Keeps.foldl_snd ?_ ?_ | with_reducible refine Keeps.foldl_thd ?_ ?_
    | with_reducible refine Keeps.foldl_fst ?_ ?_ | split | (intro _ _ _; try dsimp -iota only)
    | (intro _ _; try dsimp -iota only)

theorem State_pinsReset_keeps {a : State} (s : State) (h : Keeps a s)  : Keeps a (State.pinsReset s) := by
  unfold State.pinsReset
  try dsimp -iota only
  repeat' first
    | with_reducible assumption | with_reducible apply State_ppsLow_keeps | with_reducible apply State_lineLow_keeps
    | with_reducible apply State_emit_keeps | with_reducible refine Keeps.foldl ?_ ?_
    | with_reducible refine Keeps.foldl_snd ?_ ?_ | with_reducible refine Keeps.foldl_thd ?_ ?_
    | with_reducible refine Keeps.foldl_fst ?_ ?_ | split | (intro _ _ _; try dsimp -iota only)
    | (intro _ _; try dsimp -iota only)



theorem State_coldState_keeps {a : State} (s : State) (cause : Nat) (h : Keeps a s) : Keeps a (State.coldState s cause) := by
  refine ⟨h.pending, h.out, Nat.le_trans h.free (Nat.le_succ _), .inr ?_, fun _ => Mem.wf_nil, fun _ => Mem.wf_nil,
    fun _ => List.Pairwise.nil⟩
  by_cases hc : cause = 1
  · exact .inr (by simp [State.coldState, hc])
  · exact .inl (by simp [State.coldState, hc])


theorem State_coldReset_keeps {a : State} (s : State) (cause : Nat) (h : Keeps a s)  : Keeps a (State.coldReset s cause) := by
  unfold State.coldReset
  try dsimp -iota only
  repeat' first
    | with_reducible assumption | with_reducible apply State_alertOff_keeps | with_reducible apply State_rs_keeps
    | with_reducible apply State_ddrLost_keeps | with_reducible apply State_coldState_keeps
    | with_reducible apply State_pinsReset_keeps | split

theorem State_ddrDrain_keeps {a : State} (s : State) (h : Keeps a s)  : Keeps a (State.ddrDrain s) := by
  unfold State.ddrDrain
  try dsimp -iota only
  repeat' first
    | with_reducible assumption | with_reducible apply State_lineWrite_keeps | with_reducible refine Keeps.foldl ?_ ?_
    | with_reducible refine Keeps.foldl_snd ?_ ?_ | with_reducible refine Keeps.foldl_thd ?_ ?_
    | with_reducible refine Keeps.foldl_fst ?_ ?_ | split | with_reducible exact List.prefix_refl _
    | with_reducible exact Nat.le_refl _ | with_reducible exact id | with_reducible exact List.prefix_append _ _
    | with_reducible exact Nat.le_succ _ | with_reducible apply Mem.wf_wrBytes
    | with_reducible refine Mem.wf_foldl _ ?_ _ _ ?_ | (intro _ _ _; try dsimp -iota only) | (intro _ _; try dsimp -iota only)
    | (intro _; try dsimp -iota only) | with_reducible apply Keeps.upd (hp := rfl)

theorem State_trainLost_keeps {a : State} (s : State) (cap : Nat) (h : Keeps a s)  : Keeps a (State.trainLost s cap) := by
  unfold State.trainLost
  try dsimp -iota only
  repeat' first
    | with_reducible assumption | with_reducible refine Keeps.foldl ?_ ?_ | with_reducible refine Keeps.foldl_snd ?_ ?_
    | with_reducible refine Keeps.foldl_thd ?_ ?_ | with_reducible refine Keeps.foldl_fst ?_ ?_ | split
    | with_reducible exact List.prefix_refl _ | with_reducible exact Nat.le_refl _ | with_reducible exact id
    | with_reducible exact Tab.rising_keep _ _ | with_reducible exact List.prefix_append _ _
    | with_reducible exact Nat.le_succ _ | with_reducible apply Mem.wf_wr | with_reducible apply Mem.wf_keep
    | with_reducible refine Mem.wf_foldl _ ?_ _ _ ?_ | (intro _ _ _; try dsimp -iota only) | (intro _ _; try dsimp -iota only)
    | (intro _; try dsimp -iota only) | with_reducible apply Keeps.upd (hp := rfl)

theorem State_warmState_keeps {a : State} (s : State) (wait : Nat) (h : Keeps a s) : Keeps a (State.warmState s wait) :=
  ⟨h.pending, h.out, Nat.le_trans h.free (Nat.le_succ _), h.time.imp (fun x => Nat.le_trans (Nat.le_trans x (Nat.le_add_right _ wait))
      (Nat.le_of_eq (Nat.mod_add_div _ (2 ^ 64)).symm)) id,
    fun _ => Mem.wf_nil, h.ddr4, fun x => Tab.rising_keep _ _ (h.regs x)⟩


theorem State_warmCount_keeps {a : State} (s : State) (cause : Nat) (h : Keeps a s)  : Keeps a (State.warmCount s cause) := by
  unfold State.warmCount
  try dsimp -iota only
  repeat' first
    | with_reducible assumption | with_reducible apply State_rs_keeps | with_reducible apply State_inc_keeps | split

theorem State_warmReset_keeps {a : State} (s : State) (cause : Nat) (wait : Nat) (h : Keeps a s)  : Keeps a (State.warmReset s cause wait) := by
  unfold State.warmReset
  try dsimp -iota only
  repeat' first
    | with_reducible assumption | with_reducible apply State_ddrDrain_keeps | with_reducible apply State_alertOff_keeps
    | with_reducible apply State_setPhase_keeps | with_reducible apply State_warmCount_keeps
    | with_reducible apply State_trainLost_keeps | with_reducible apply State_warmState_keeps
    | with_reducible apply State_pinsReset_keeps | split

theorem State_wdogStart_keeps {a : State} (s : State) (h : Keeps a s)  : Keeps a (State.wdogStart s) := by
  unfold State.wdogStart
  try dsimp -iota only
  repeat' first
    | with_reducible assumption | with_reducible apply State_rb_keeps | with_reducible apply State_wdogReload_keeps | split
    | with_reducible exact List.prefix_refl _ | with_reducible exact Nat.le_refl _ | with_reducible exact id
    | with_reducible exact List.prefix_append _ _ | with_reducible exact Nat.le_succ _ | (intro _; try dsimp -iota only)
    | with_reducible apply Keeps.upd (hp := rfl)

theorem State_wdogWarn_keeps {a : State} (s : State) (h : Keeps a s)  : Keeps a (State.wdogWarn s) := by
  unfold State.wdogWarn
  try dsimp -iota only
  repeat' first
    | with_reducible assumption | with_reducible apply State_irqSet_keeps | split

theorem State_wdogExpiry_keeps {a : State} (s : State) (h : Keeps a s)  : Keeps a (State.wdogExpiry s) := by
  unfold State.wdogExpiry
  try dsimp -iota only
  repeat' first
    | with_reducible assumption | with_reducible apply State_takeFree_keeps (e := pair_eta _)
    | with_reducible apply State_takeFree_keeps (e := by with_reducible assumption)
    | with_reducible apply State_warmReset_keeps | split

theorem State_wdogKick_keeps {a : State} (s : State) (v : Sys2Proof.Word) (h : Keeps a s)  : Keeps a (State.wdogKick s v) := by
  unfold State.wdogKick
  try dsimp -iota only
  repeat' first
    | with_reducible assumption | with_reducible apply State_wdogReload_keeps | split

theorem State_wdogCtrl_keeps {a : State} (s : State) (v : Sys2Proof.Word) (h : Keeps a s)  : Keeps a (State.wdogCtrl s v) := by
  unfold State.wdogCtrl
  try dsimp -iota only
  repeat' first
    | with_reducible assumption | with_reducible apply State_errParam_keeps | with_reducible apply State_rs_keeps
    | with_reducible apply State_wdogStart_keeps | split

theorem State_pkgResetWrite_keeps {a : State} (s : State) (v : Sys2Proof.Word) (h : Keeps a s)  : Keeps a (State.pkgResetWrite s v) := by
  unfold State.pkgResetWrite
  try dsimp -iota only
  repeat' first
    | with_reducible assumption | with_reducible apply State_warmReset_keeps | with_reducible apply State_errParam_keeps
    | split

theorem State_bootBegin_keeps {a : State} (s : State) (h : Keeps a s)  : Keeps a (State.bootBegin s) := by
  unfold State.bootBegin
  try dsimp -iota only
  repeat' first
    | with_reducible assumption | with_reducible apply State_setPhase_keeps | split

theorem State_refclkGood_keeps {a : State} (s : State) (h : Keeps a s)  : Keeps a (State.refclkGood s) := by
  unfold State.refclkGood
  try dsimp -iota only
  repeat' first
    | with_reducible assumption | split | with_reducible exact List.prefix_refl _ | with_reducible exact Nat.le_refl _
    | with_reducible exact id | with_reducible exact List.prefix_append _ _ | with_reducible exact Nat.le_succ _
    | (intro _; try dsimp -iota only) | with_reducible apply Keeps.upd (hp := rfl)

theorem State_hubRelease_keeps {a : State} (s : State) (h : Keeps a s)  : Keeps a (State.hubRelease s) := by
  unfold State.hubRelease
  try dsimp -iota only
  repeat' first
    | with_reducible assumption | with_reducible apply State_setPhase_keeps | with_reducible apply State_wdogStart_keeps
    | split | with_reducible exact List.prefix_refl _ | with_reducible exact Nat.le_refl _ | with_reducible exact id
    | with_reducible exact List.prefix_append _ _ | with_reducible exact Nat.le_succ _ | (intro _; try dsimp -iota only)
    | with_reducible apply Keeps.upd (hp := rfl)

theorem State_hostBoot_keeps {a : State} (s : State) (reason : Nat) (h : Keeps a s)  : Keeps a (State.hostBoot s reason) := by
  unfold State.hostBoot
  try dsimp -iota only
  repeat' first
    | with_reducible assumption | with_reducible apply State_setPhase_keeps | with_reducible apply State_rs_keeps | split
    | with_reducible exact List.prefix_refl _ | with_reducible exact Nat.le_refl _ | with_reducible exact id
    | with_reducible exact List.prefix_append _ _ | with_reducible exact Nat.le_succ _ | (intro _; try dsimp -iota only)
    | with_reducible apply Keeps.upd (hp := rfl)

theorem State_fwStart_keeps {a : State} (s : State) (d : List Sys2Proof.Byte) (src : Nat) (h : Keeps a s)  : Keeps a (State.fwStart s d src) := by
  unfold State.fwStart
  try dsimp -iota only
  repeat' first
    | with_reducible assumption | with_reducible apply State_rs_keeps | with_reducible apply State_imageRun_keeps
    | with_reducible apply State_setPhase_keeps | with_reducible refine Keeps.foldl ?_ ?_
    | with_reducible refine Keeps.foldl_snd ?_ ?_ | with_reducible refine Keeps.foldl_thd ?_ ?_
    | with_reducible refine Keeps.foldl_fst ?_ ?_ | split | (intro _ _ _; try dsimp -iota only)
    | (intro _ _; try dsimp -iota only)

theorem State_dieRelease_keeps {a : State} (s : State) (d : Nat) (h : Keeps a s)  : Keeps a (State.dieRelease s d) := by
  unfold State.dieRelease
  try dsimp -iota only
  repeat' first
    | with_reducible assumption | with_reducible apply State_setPhase_keeps | with_reducible apply State_zeroSram_keeps
    | split | with_reducible exact List.prefix_refl _ | with_reducible exact Nat.le_refl _ | with_reducible exact id
    | with_reducible exact Tab.rising_put _ _ _ _ | with_reducible exact List.prefix_append _ _
    | with_reducible exact Nat.le_succ _ | (intro _; try dsimp -iota only) | with_reducible apply Keeps.upd (hp := rfl)

theorem State_bootNext_keeps {a : State} (s : State) (h : Keeps a s)  : Keeps a (State.bootNext s) := by
  unfold State.bootNext
  try dsimp -iota only
  repeat' first
    | with_reducible assumption | with_reducible apply State_setPhase_keeps | with_reducible apply State_dieRelease_keeps
    | with_reducible refine Keeps.foldl ?_ ?_ | with_reducible refine Keeps.foldl_snd ?_ ?_
    | with_reducible refine Keeps.foldl_thd ?_ ?_ | with_reducible refine Keeps.foldl_fst ?_ ?_ | split
    | (intro _ _ _; try dsimp -iota only) | (intro _ _; try dsimp -iota only)

theorem State_vaultChecked_keeps {a : State} (s : State) (img : Option (List Sys2Proof.Byte)) (h : Keeps a s)  : Keeps a (State.vaultChecked s img) := by
  unfold State.vaultChecked
  try dsimp -iota only
  repeat' first
    | with_reducible assumption | with_reducible apply State_hostBoot_keeps | with_reducible apply State_bootNext_keeps
    | with_reducible apply State_fwStart_keeps | with_reducible apply State_rs_keeps | split

theorem State_hbGo_keeps {a : State} (s : State) (v : Sys2Proof.Word) (h : Keeps a s)  : Keeps a (State.hbGo s v) := by
  unfold State.hbGo
  try dsimp -iota only
  repeat' first
    | with_reducible assumption | with_reducible apply State_errParam_keeps | with_reducible apply State_rs_keeps
    | with_reducible apply State_hostRead_keeps | split

theorem State_ddrTrained_keeps {a : State} (s : State) (c : Nat) (fail : Nat) (ranks : Nat) (cap : Nat) (ms : Nat) (rd : Nat) (wr : Nat) (h : Keeps a s)  : Keeps a (State.ddrTrained s c fail ranks cap ms rd wr) := by
  unfold State.ddrTrained
  try dsimp -iota only
  repeat' first
    | with_reducible assumption | with_reducible apply State_rs_keeps | with_reducible apply State_lastingFault_keeps
    | with_reducible apply State_bootNext_keeps | split

theorem State_dieLinks_keeps {a : State} (s : State) (d : Nat) (ok : Bool) (h : Keeps a s)  : Keeps a (State.dieLinks s d ok) := by
  unfold State.dieLinks
  try dsimp -iota only
  repeat' first
    | with_reducible assumption | with_reducible apply State_bootNext_keeps | with_reducible apply State_rb_keeps
    | with_reducible apply State_logFault_keeps | with_reducible refine Keeps.foldl ?_ ?_
    | with_reducible refine Keeps.foldl_snd ?_ ?_ | with_reducible refine Keeps.foldl_thd ?_ ?_
    | with_reducible refine Keeps.foldl_fst ?_ ?_ | split | with_reducible exact List.prefix_refl _
    | with_reducible exact Nat.le_refl _ | with_reducible exact id | with_reducible exact List.prefix_append _ _
    | with_reducible exact Nat.le_succ _ | with_reducible refine Mem.wf_foldl _ ?_ _ _ ?_
    | (intro _ _ _; try dsimp -iota only) | (intro _ _; try dsimp -iota only) | (intro _; try dsimp -iota only)
    | with_reducible apply Keeps.upd (hp := rfl)

theorem State_macInit_keeps {a : State} (s : State) (h : Keeps a s)  : Keeps a (State.macInit s) := by
  unfold State.macInit
  try dsimp -iota only
  repeat' first
    | with_reducible assumption | with_reducible apply State_rs_keeps | split

theorem State_bootReady_keeps {a : State} (s : State) (logOk : Bool) (h : Keeps a s)  : Keeps a (State.bootReady s logOk) := by
  unfold State.bootReady
  try dsimp -iota only
  repeat' first
    | with_reducible assumption | with_reducible apply State_macInit_keeps | with_reducible apply State_logReplayAll_keeps
    | with_reducible apply State_takeFree_keeps (e := pair_eta _)
    | with_reducible apply State_takeFree_keeps (e := by with_reducible assumption)
    | with_reducible apply State_setPhase_keeps | with_reducible apply State_rs_keeps | split
    | with_reducible exact List.prefix_refl _ | with_reducible exact Nat.le_refl _ | with_reducible exact id
    | with_reducible exact List.prefix_append _ _ | with_reducible exact Nat.le_succ _ | (intro _; try dsimp -iota only)
    | with_reducible apply Keeps.upd (hp := rfl)

theorem State_bootCountClear_keeps {a : State} (s : State) (h : Keeps a s)  : Keeps a (State.bootCountClear s) := by
  unfold State.bootCountClear
  try dsimp -iota only
  repeat' first
    | with_reducible assumption | with_reducible apply State_rs_keeps | split

theorem State_optBurn_keeps {a : State} (s : State) (v : Sys2Proof.Word) (h : Keeps a s)  : Keeps a (State.optBurn s v) := by
  unfold State.optBurn
  try dsimp -iota only
  repeat' first
    | with_reducible assumption | with_reducible apply State_errParam_keeps | with_reducible apply State_rb_keeps | split
    | with_reducible exact List.prefix_refl _ | with_reducible exact Nat.le_refl _ | with_reducible exact id
    | with_reducible exact List.prefix_append _ _ | with_reducible exact Nat.le_succ _ | (intro _; try dsimp -iota only)
    | with_reducible apply Keeps.upd (hp := rfl)

theorem State_burnDone_keeps {a : State} (s : State) (ok : Bool) (h : Keeps a s)  : Keeps a (State.burnDone s ok) := by
  unfold State.burnDone
  try dsimp -iota only
  repeat' first
    | with_reducible assumption | with_reducible apply State_irqSet_keeps | with_reducible apply State_rb_keeps | split
    | with_reducible exact List.prefix_refl _ | with_reducible exact Nat.le_refl _ | with_reducible exact id
    | with_reducible exact List.prefix_append _ _ | with_reducible exact Nat.le_succ _ | (intro _; try dsimp -iota only)
    | with_reducible apply Keeps.upd (hp := rfl)

theorem State_pllLoss_keeps {a : State} (s : State) (p : Sys2Proof.Pll) (h : Keeps a s)  : Keeps a (State.pllLoss s p) := by
  unfold State.pllLoss
  try dsimp -iota only
  repeat' first
    | with_reducible assumption | with_reducible apply State_lockSettle_keeps | with_reducible apply State_lockLost_keeps
    | with_reducible apply State_warmReset_keeps | with_reducible apply State_coldReset_keeps
    | with_reducible apply State_lockCost_keeps | with_reducible apply State_domainReset_keeps
    | with_reducible apply State_phyDown_keeps | split

theorem State_pllLasting_keeps {a : State} (s : State) (p : Sys2Proof.Pll) (h : Keeps a s)  : Keeps a (State.pllLasting s p) := by
  unfold State.pllLasting
  try dsimp -iota only
  repeat' first
    | with_reducible assumption | with_reducible apply State_coldReset_keeps | with_reducible apply State_lockLasting_keeps
    | split

theorem State_pllLocked_keeps {a : State} (s : State) (p : Sys2Proof.Pll) (h : Keeps a s)  : Keeps a (State.pllLocked s p) := by
  unfold State.pllLocked
  try dsimp -iota only
  repeat' first
    | with_reducible assumption | with_reducible apply State_setPhase_keeps | with_reducible apply State_hubRelease_keeps
    | with_reducible apply State_domainRelease_keeps | with_reducible apply State_coldReset_keeps
    | with_reducible apply State_lockLasting_keeps | split | with_reducible exact List.prefix_refl _
    | with_reducible exact Nat.le_refl _ | with_reducible exact id | with_reducible exact Tab.rising_put _ _ _ _
    | with_reducible exact List.prefix_append _ _ | with_reducible exact Nat.le_succ _ | (intro _; try dsimp -iota only)
    | with_reducible apply Keeps.upd (hp := rfl)

theorem execPor_keeps (t : Nat) (s : State) : KeepsR s (execPor t s) := by
  have h := Keeps.refl s
  unfold execPor
  try dsimp -iota only
  repeat' first
    | with_reducible assumption | with_reducible apply KeepsR.next | with_reducible apply State_coldReset_keeps
    | with_reducible apply State_advance_keeps | split

theorem execResetNLow_keeps (t : Nat) (s : State) : KeepsR s (execResetNLow t s) := by
  have h := Keeps.refl s
  unfold execResetNLow
  try dsimp -iota only
  repeat' first
    | with_reducible assumption | with_reducible apply KeepsR.next | with_reducible apply State_coldReset_keeps
    | with_reducible apply State_advance_keeps | split

theorem execResetNRise_keeps (t : Nat) (s : State) : KeepsR s (execResetNRise t s) := by
  have h := State_advance_keeps s t (Keeps.refl s)
  refine KeepsR.next ?_
  split
  · apply State_bootBegin_keeps
    exact ⟨h.pending, h.out, h.free, .inl (State.advance_ns_le s t), h.sram, h.ddr4, h.regs⟩
  · exact h


theorem execPorRelease_keeps (t : Nat) (s : State) : KeepsR s (execPorRelease t s) := by
  have h := State_advance_keeps s t (Keeps.refl s)
  refine KeepsR.next ?_
  split
  · apply State_bootBegin_keeps
    exact ⟨h.pending, h.out, h.free, .inl (State.advance_ns_le s t), h.sram, h.ddr4, h.regs⟩
  · exact h


theorem execRefclkDetect_keeps (t : Nat) (s : State) : KeepsR s (execRefclkDetect t s) := by
  have h := Keeps.refl s
  unfold execRefclkDetect
  try dsimp -iota only
  repeat' first
    | with_reducible assumption | with_reducible apply KeepsR.next | with_reducible apply State_refclkGood_keeps
    | with_reducible apply State_advance_keeps | split

theorem execOptionLoadDone_keeps (t : Nat) (s : State) : KeepsR s (execOptionLoadDone t s) := by
  have h := Keeps.refl s
  unfold execOptionLoadDone
  try dsimp -iota only
  repeat' first
    | with_reducible assumption | with_reducible apply KeepsR.next | with_reducible apply State_advance_keeps
    | with_reducible apply State_optionLoad_keeps | split

theorem execHubPllTimeout_keeps (t : Nat) (s : State) : KeepsR s (execHubPllTimeout t s) := by
  have h := Keeps.refl s
  unfold execHubPllTimeout
  try dsimp -iota only
  repeat' first
    | with_reducible assumption | with_reducible apply KeepsR.next | with_reducible apply State_advance_keeps
    | with_reducible apply State_setPhase_keeps | split

theorem execVaultImageChecked_keeps (t : Nat) (img : Option (List Sys2Proof.Byte)) (s : State) : KeepsR s (execVaultImageChecked t img s) := by
  have h := Keeps.refl s
  unfold execVaultImageChecked
  try dsimp -iota only
  repeat' first
    | with_reducible assumption | with_reducible apply KeepsR.next | with_reducible apply State_vaultChecked_keeps
    | with_reducible apply State_advance_keeps | split

theorem execDdrTrainDone_keeps (t : Nat) (c : Fin 6) (fail : BitVec 3) (ranks : BitVec 2) (cap : BitVec 16) (ms : BitVec 16) (rd : BitVec 16) (wr : BitVec 16) (s : State) : KeepsR s (execDdrTrainDone t c fail ranks cap ms rd wr s) := by
  have h := Keeps.refl s
  unfold execDdrTrainDone
  try dsimp -iota only
  repeat' first
    | with_reducible assumption | with_reducible apply KeepsR.next | with_reducible apply State_ddrTrained_keeps
    | with_reducible apply State_advance_keeps | split

theorem execDieLinkTrained_keeps (t : Nat) (d : Fin 4) (ok : Bool) (s : State) : KeepsR s (execDieLinkTrained t d ok s) := by
  have h := Keeps.refl s
  unfold execDieLinkTrained
  try dsimp -iota only
  repeat' first
    | with_reducible assumption | with_reducible apply KeepsR.next | with_reducible apply State_dieLinks_keeps
    | with_reducible apply State_advance_keeps | split

theorem execBootReady_keeps (t : Nat) (logOk : Bool) (s : State) : KeepsR s (execBootReady t logOk s) := by
  have h := Keeps.refl s
  unfold execBootReady
  try dsimp -iota only
  repeat' first
    | with_reducible assumption | with_reducible apply KeepsR.next | with_reducible apply State_bootReady_keeps
    | with_reducible apply State_advance_keeps | split

theorem execBootCountClear_keeps (t : Nat) (s : State) : KeepsR s (execBootCountClear t s) := by
  have h := Keeps.refl s
  unfold execBootCountClear
  try dsimp -iota only
  repeat' first
    | with_reducible assumption | with_reducible apply KeepsR.next | with_reducible apply State_bootCountClear_keeps
    | with_reducible apply State_advance_keeps | split

theorem execHbGo_keeps (t : Nat) (c : Sys2Proof.Req) (v : Sys2Proof.Word) (s : State) : KeepsR s (execHbGo t c v s) := by
  have h := Keeps.refl s
  unfold execHbGo
  try dsimp -iota only
  repeat' first
    | with_reducible assumption | with_reducible apply KeepsR.next | with_reducible apply State_cmdWrite_keeps
    | with_reducible apply State_hbGo_keeps | split | (intro _ _; try dsimp -iota only)

theorem execOptBurn_keeps (t : Nat) (c : Sys2Proof.Req) (v : Sys2Proof.Word) (s : State) : KeepsR s (execOptBurn t c v s) := by
  have h := Keeps.refl s
  unfold execOptBurn
  try dsimp -iota only
  repeat' first
    | with_reducible assumption | with_reducible apply KeepsR.next | with_reducible apply State_cmdWrite_keeps
    | with_reducible apply State_optBurn_keeps | split | (intro _ _; try dsimp -iota only)

theorem execBurnDone_keeps (t : Nat) (ok : Bool) (s : State) : KeepsR s (execBurnDone t ok s) := by
  have h := Keeps.refl s
  unfold execBurnDone
  try dsimp -iota only
  repeat' first
    | with_reducible assumption | with_reducible apply KeepsR.next | with_reducible apply State_burnDone_keeps
    | with_reducible apply State_advance_keeps | split

theorem execWdogWarn_keeps (t : Nat) (s : State) : KeepsR s (execWdogWarn t s) := by
  have h := Keeps.refl s
  unfold execWdogWarn
  try dsimp -iota only
  repeat' first
    | with_reducible assumption | with_reducible apply KeepsR.next | with_reducible apply State_wdogWarn_keeps
    | with_reducible apply State_advance_keeps | split

theorem execWdogExpiry_keeps (t : Nat) (s : State) : KeepsR s (execWdogExpiry t s) := by
  have h := Keeps.refl s
  unfold execWdogExpiry
  try dsimp -iota only
  repeat' first
    | with_reducible assumption | with_reducible apply KeepsR.next | with_reducible apply State_wdogExpiry_keeps
    | with_reducible apply State_advance_keeps | split

theorem execWdogKick_keeps (t : Nat) (c : Sys2Proof.Req) (v : Sys2Proof.Word) (s : State) : KeepsR s (execWdogKick t c v s) := by
  have h := Keeps.refl s
  unfold execWdogKick
  try dsimp -iota only
  repeat' first
    | with_reducible assumption | with_reducible apply KeepsR.next | with_reducible apply State_cmdWrite_keeps
    | with_reducible apply State_wdogKick_keeps | split | (intro _ _; try dsimp -iota only)

theorem execWdogEnWrite_keeps (t : Nat) (c : Sys2Proof.Req) (v : Sys2Proof.Word) (s : State) : KeepsR s (execWdogEnWrite t c v s) := by
  have h := Keeps.refl s
  unfold execWdogEnWrite
  try dsimp -iota only
  repeat' first
    | with_reducible assumption | with_reducible apply KeepsR.next | with_reducible apply State_cmdWrite_keeps
    | with_reducible apply State_wdogCtrl_keeps | split | (intro _ _; try dsimp -iota only)

theorem execPkgReset_keeps (t : Nat) (c : Sys2Proof.Req) (v : Sys2Proof.Word) (s : State) : KeepsR s (execPkgReset t c v s) := by
  have h := Keeps.refl s
  unfold execPkgReset
  try dsimp -iota only
  repeat' first
    | with_reducible assumption | with_reducible apply KeepsR.next | with_reducible apply State_cmdWrite_keeps
    | with_reducible apply State_pkgResetWrite_keeps | split | (intro _ _; try dsimp -iota only)

theorem execPllLockLoss_keeps (t : Nat) (p : Sys2Proof.Pll) (s : State) : KeepsR s (execPllLockLoss t p s) := by
  have h := Keeps.refl s
  unfold execPllLockLoss
  try dsimp -iota only
  repeat' first
    | with_reducible assumption | with_reducible apply KeepsR.next | with_reducible apply State_pllLoss_keeps
    | with_reducible apply State_advance_keeps | split

theorem execPllLock_keeps (t : Nat) (p : Sys2Proof.Pll) (s : State) : KeepsR s (execPllLock t p s) := by
  have h := Keeps.refl s
  unfold execPllLock
  try dsimp -iota only
  repeat' first
    | with_reducible assumption | with_reducible apply KeepsR.next | with_reducible apply State_pllLocked_keeps
    | with_reducible apply State_advance_keeps | split

theorem execLockLossLasting_keeps (t : Nat) (p : Sys2Proof.Pll) (s : State) : KeepsR s (execLockLossLasting t p s) := by
  have h := Keeps.refl s
  unfold execLockLossLasting
  try dsimp -iota only
  repeat' first
    | with_reducible assumption | with_reducible apply KeepsR.next | with_reducible apply State_pllLasting_keeps
    | with_reducible apply State_advance_keeps | split

theorem execBlockResetRequest_keeps (t : Nat) (c : Sys2Proof.Req) (p : BitVec 14) (v : Sys2Proof.Word) (s : State) : KeepsR s (execBlockResetRequest t c p v s) := by
  have h := Keeps.refl s
  unfold execBlockResetRequest
  try dsimp -iota only
  repeat' first
    | with_reducible assumption | with_reducible apply KeepsR.next | with_reducible apply State_resetWrite_keeps
    | with_reducible apply State_advance_keeps | split

theorem execBlockResetRelease_keeps (t : Nat) (c : Sys2Proof.Req) (p : BitVec 14) (v : Sys2Proof.Word) (s : State) : KeepsR s (execBlockResetRelease t c p v s) := by
  have h := Keeps.refl s
  unfold execBlockResetRelease
  try dsimp -iota only
  repeat' first
    | with_reducible assumption | with_reducible apply KeepsR.next | with_reducible apply State_resetWrite_keeps
    | with_reducible apply State_advance_keeps | split

theorem execBlockResetDone_keeps (t : Nat) (p : BitVec 14) (s : State) : KeepsR s (execBlockResetDone t p s) := by
  have h := Keeps.refl s
  unfold execBlockResetDone
  try dsimp -iota only
  repeat' first
    | with_reducible assumption | with_reducible apply KeepsR.next | with_reducible apply State_resetDone_keeps
    | with_reducible apply State_advance_keeps | split

end Sys2Proof.Machine
end

