-- ==== Sys2Proof/Laws/KeepsPower.lean ====
section
/-!
SUPPORT. `Keeps` for the functions of Machine/Power.lean: each leaves the queue alone, drops no output and keeps the canonical forms.
-/
set_option linter.unusedVariables false
namespace Sys2Proof.Machine
open Regs

theorem State_setPwr_keeps {a : State} (s : State) (p : Nat) (h : Keeps a s)  : Keeps a (State.setPwr s p) := by
  unfold State.setPwr
  try dsimp -iota only
  repeat' first
    | with_reducible assumption | with_reducible apply State_trace_keeps | with_reducible apply State_rs_keeps | split

theorem State_pwrRefuse_keeps {a : State} (s : State) (reason : Nat) (h : Keeps a s)  : Keeps a (State.pwrRefuse s reason) := by
  unfold State.pwrRefuse
  try dsimp -iota only
  repeat' first
    | with_reducible assumption | with_reducible apply State_irqSet_keeps | with_reducible apply State_inc_keeps
    | with_reducible apply State_rs_keeps | split

theorem State_pwrBegin_keeps {a : State} (s : State) (p : Nat) (h : Keeps a s)  : Keeps a (State.pwrBegin s p) := by
  unfold State.pwrBegin
  try dsimp -iota only
  repeat' first
    | with_reducible assumption | with_reducible apply State_setPwr_keeps | split | with_reducible exact List.prefix_refl _
    | with_reducible exact Nat.le_refl _ | with_reducible exact id | with_reducible exact List.prefix_append _ _
    | with_reducible exact Nat.le_succ _ | (intro _; try dsimp -iota only) | with_reducible apply Keeps.upd (hp := rfl)

theorem State_lateFaults_keeps {a : State} (s : State) (h : Keeps a s)  : Keeps a (State.lateFaults s) := by
  unfold State.lateFaults
  try dsimp -iota only
  repeat' first
    | with_reducible assumption | with_reducible apply State_lastingFault_keeps | with_reducible refine Keeps.foldl ?_ ?_
    | with_reducible refine Keeps.foldl_snd ?_ ?_ | with_reducible refine Keeps.foldl_thd ?_ ?_
    | with_reducible refine Keeps.foldl_fst ?_ ?_ | split | with_reducible exact List.prefix_refl _
    | with_reducible exact Nat.le_refl _ | with_reducible exact id | with_reducible exact List.prefix_append _ _
    | with_reducible exact Nat.le_succ _ | with_reducible refine Mem.wf_foldl _ ?_ _ _ ?_
    | (intro _ _ _; try dsimp -iota only) | (intro _ _; try dsimp -iota only) | (intro _; try dsimp -iota only)
    | with_reducible apply Keeps.upd (hp := rfl)

theorem State_pwrReq_keeps {a : State} (s : State) (v : Sys2Proof.Word) (h : Keeps a s)  : Keeps a (State.pwrReq s v) := by
  unfold State.pwrReq
  try dsimp -iota only
  repeat' first
    | with_reducible assumption | with_reducible apply State_errParam_keeps | with_reducible apply State_pwrRefuse_keeps
    | with_reducible apply State_pwrBegin_keeps | with_reducible apply State_lateFaults_keeps
    | with_reducible apply State_emit_keeps | split | with_reducible exact List.prefix_refl _
    | with_reducible exact Nat.le_refl _ | with_reducible exact id | with_reducible exact List.prefix_append _ _
    | with_reducible exact Nat.le_succ _ | (intro _; try dsimp -iota only) | with_reducible apply Keeps.upd (hp := rfl)

theorem State_diesOff_keeps {a : State} (s : State) (h : Keeps a s)  : Keeps a (State.diesOff s) := by
  unfold State.diesOff
  try dsimp -iota only
  repeat' first
    | with_reducible assumption | split | with_reducible exact List.prefix_refl _ | with_reducible exact Nat.le_refl _
    | with_reducible exact id | with_reducible exact Tab.rising_keep _ _ | with_reducible exact List.prefix_append _ _
    | with_reducible exact Nat.le_succ _ | with_reducible apply Mem.wf_keep | (intro _; try dsimp -iota only)
    | with_reducible apply Keeps.upd (hp := rfl)

theorem State_clocksOff_keeps {a : State} (s : State) (h : Keeps a s)  : Keeps a (State.clocksOff s) := by
  unfold State.clocksOff
  try dsimp -iota only
  repeat' first
    | with_reducible assumption | split | with_reducible exact List.prefix_refl _ | with_reducible exact Nat.le_refl _
    | with_reducible exact id | with_reducible exact List.prefix_append _ _ | with_reducible exact Nat.le_succ _
    | (intro _; try dsimp -iota only) | with_reducible apply Keeps.upd (hp := rfl)

theorem State_sleepEnter_keeps {a : State} (s : State) (h : Keeps a s)  : Keeps a (State.sleepEnter s) := by
  unfold State.sleepEnter
  try dsimp -iota only
  repeat' first
    | with_reducible assumption | with_reducible apply State_upPart_keeps | with_reducible apply State_inc_keeps
    | with_reducible apply State_rs_keeps | with_reducible apply State_ethDown_keeps
    | with_reducible apply State_mipiDown_keeps | with_reducible apply State_ackDrive_keeps
    | with_reducible apply State_upAer_keeps | with_reducible apply State_setDomState_keeps
    | with_reducible apply State_setPwr_keeps | with_reducible apply State_portDown_keeps
    | with_reducible apply State_isolate_keeps | with_reducible apply State_ppsLow_keeps
    | with_reducible apply State_lineLow_keeps | with_reducible apply State_clocksOff_keeps
    | with_reducible apply State_emit_keeps | with_reducible apply State_diesOff_keeps
    | with_reducible apply State_irqSet_keeps | with_reducible refine Keeps.foldl ?_ ?_
    | with_reducible refine Keeps.foldl_snd ?_ ?_ | with_reducible refine Keeps.foldl_thd ?_ ?_
    | with_reducible refine Keeps.foldl_fst ?_ ?_ | split | (intro _ _ _; try dsimp -iota only)
    | (intro _ _; try dsimp -iota only)

theorem State_quieted_keeps {a : State} (s : State) (h : Keeps a s)  : Keeps a (State.quieted s) := by
  unfold State.quieted
  try dsimp -iota only
  repeat' first
    | with_reducible assumption | with_reducible apply State_irqSet_keeps | with_reducible apply State_inc_keeps
    | with_reducible apply State_setPwr_keeps | with_reducible apply State_sleepEnter_keeps | split

theorem State_quietTimeout_keeps {a : State} (s : State) (h : Keeps a s)  : Keeps a (State.quietTimeout s) := by
  unfold State.quietTimeout
  try dsimp -iota only
  repeat' first
    | with_reducible assumption | with_reducible apply State_pwrRefuse_keeps | with_reducible apply State_setPwr_keeps | split

theorem State_exitEnd_keeps {a : State} (s : State) (h : Keeps a s)  : Keeps a (State.exitEnd s) := by
  unfold State.exitEnd
  try dsimp -iota only
  repeat' first
    | with_reducible assumption | with_reducible apply State_rs_keeps | with_reducible apply State_setPwr_keeps | split

theorem State_coreResume_keeps {a : State} (s : State) (n : Nat) (h : Keeps a s)  : Keeps a (State.coreResume s n) := by
  unfold State.coreResume
  try dsimp -iota only
  repeat' first
    | with_reducible assumption | with_reducible apply State_report_keeps | with_reducible apply State_fullPass_keeps | split

theorem State_standbyExit_keeps {a : State} (s : State) (h : Keeps a s)  : Keeps a (State.standbyExit s) := by
  unfold State.standbyExit
  try dsimp -iota only
  repeat' first
    | with_reducible assumption | with_reducible apply State_irqSet_keeps | with_reducible apply State_exitEnd_keeps
    | with_reducible apply State_coreResume_keeps | with_reducible refine Keeps.foldl ?_ ?_
    | with_reducible refine Keeps.foldl_snd ?_ ?_ | with_reducible refine Keeps.foldl_thd ?_ ?_
    | with_reducible refine Keeps.foldl_fst ?_ ?_ | split | (intro _ _ _; try dsimp -iota only)
    | (intro _ _; try dsimp -iota only)

theorem State_lineResume_keeps {a : State} (s : State) (n : Nat) (h : Keeps a s)  : Keeps a (State.lineResume s n) := by
  unfold State.lineResume
  try dsimp -iota only
  repeat' first
    | with_reducible assumption | with_reducible apply State_upLine_keeps | split

theorem State_sleepExit_keeps {a : State} (s : State) (logOk : Bool) (dies : Nat) (h : Keeps a s)  : Keeps a (State.sleepExit s logOk dies) := by
  unfold State.sleepExit
  try dsimp -iota only
  repeat' first
    | with_reducible assumption | with_reducible apply State_rs_keeps | with_reducible apply State_rb_keeps
    | with_reducible apply State_logFault_keeps | with_reducible apply State_upPart_keeps
    | with_reducible apply State_partEmpty_keeps | with_reducible apply State_logReplayAll_keeps
    | with_reducible apply State_upChan_keeps | with_reducible apply State_lineResume_keeps
    | with_reducible apply State_irqSet_keeps | with_reducible apply State_exitEnd_keeps
    | with_reducible refine Keeps.foldl ?_ ?_ | with_reducible refine Keeps.foldl_snd ?_ ?_
    | with_reducible refine Keeps.foldl_thd ?_ ?_ | with_reducible refine Keeps.foldl_fst ?_ ?_ | split
    | with_reducible exact List.prefix_refl _ | with_reducible exact Nat.le_refl _ | with_reducible exact id
    | with_reducible exact Tab.rising_put _ _ _ _ | with_reducible exact List.prefix_append _ _
    | with_reducible exact Nat.le_succ _ | with_reducible refine Mem.wf_foldl _ ?_ _ _ ?_
    | (intro _ _ _; try dsimp -iota only) | (intro _ _; try dsimp -iota only) | (intro _; try dsimp -iota only)
    | with_reducible apply Keeps.upd (hp := rfl)

theorem State_avsCommand_keeps {a : State} (s : State) (want : Nat) (ok1 : Bool) (ok2 : Bool) (h : Keeps a s)  : Keeps a (State.avsCommand s want ok1 ok2) := by
  unfold State.avsCommand
  try dsimp -iota only
  repeat' first
    | with_reducible assumption | with_reducible apply State_emit_keeps | with_reducible apply State_irqSet_keeps
    | with_reducible apply State_inc_keeps | split | with_reducible exact List.prefix_refl _
    | with_reducible exact Nat.le_refl _ | with_reducible exact id | with_reducible exact List.prefix_append _ _
    | with_reducible exact Nat.le_succ _ | (intro _; try dsimp -iota only) | with_reducible apply Keeps.upd (hp := rfl)

theorem State_tjCheck_keeps {a : State} (s : State) (h : Keeps a s)  : Keeps a (State.tjCheck s) := by
  unfold State.tjCheck
  try dsimp -iota only
  repeat' first
    | with_reducible assumption | with_reducible apply State_alertUpdate_keeps | with_reducible apply State_irqSet_keeps
    | split | with_reducible exact List.prefix_refl _ | with_reducible exact Nat.le_refl _ | with_reducible exact id
    | with_reducible exact List.prefix_append _ _ | with_reducible exact Nat.le_succ _ | (intro _; try dsimp -iota only)
    | with_reducible apply Keeps.upd (hp := rfl)

theorem State_tjChange_keeps {a : State} (s : State) (tj : Nat) (th : Nat) (h : Keeps a s)  : Keeps a (State.tjChange s tj th) := by
  unfold State.tjChange
  try dsimp -iota only
  repeat' first
    | with_reducible assumption | with_reducible apply State_tjCheck_keeps | with_reducible apply State_rs_keeps | split

theorem execPwrReqStandby_keeps (t : Nat) (c : Sys2Proof.Req) (v : Sys2Proof.Word) (s : State) : KeepsR s (execPwrReqStandby t c v s) := by
  have h := Keeps.refl s
  unfold execPwrReqStandby
  try dsimp -iota only
  repeat' first
    | with_reducible assumption | with_reducible apply KeepsR.next | with_reducible apply State_cmdWrite_keeps
    | with_reducible apply State_pwrReq_keeps | split | (intro _ _; try dsimp -iota only)

theorem execPwrReqSleep_keeps (t : Nat) (c : Sys2Proof.Req) (v : Sys2Proof.Word) (s : State) : KeepsR s (execPwrReqSleep t c v s) := by
  have h := Keeps.refl s
  unfold execPwrReqSleep
  try dsimp -iota only
  repeat' first
    | with_reducible assumption | with_reducible apply KeepsR.next | with_reducible apply State_cmdWrite_keeps
    | with_reducible apply State_pwrReq_keeps | split | (intro _ _; try dsimp -iota only)

theorem execPwrReqActive_keeps (t : Nat) (c : Sys2Proof.Req) (v : Sys2Proof.Word) (s : State) : KeepsR s (execPwrReqActive t c v s) := by
  have h := Keeps.refl s
  unfold execPwrReqActive
  try dsimp -iota only
  repeat' first
    | with_reducible assumption | with_reducible apply KeepsR.next | with_reducible apply State_cmdWrite_keeps
    | with_reducible apply State_pwrReq_keeps | split | (intro _ _; try dsimp -iota only)

theorem execStandbyQuiet_keeps (t : Nat) (s : State) : KeepsR s (execStandbyQuiet t s) := by
  have h := Keeps.refl s
  unfold execStandbyQuiet
  try dsimp -iota only
  repeat' first
    | with_reducible assumption | with_reducible apply KeepsR.next | with_reducible apply State_quieted_keeps
    | with_reducible apply State_advance_keeps | split

theorem execStandbyTimeout_keeps (t : Nat) (s : State) : KeepsR s (execStandbyTimeout t s) := by
  have h := Keeps.refl s
  unfold execStandbyTimeout
  try dsimp -iota only
  repeat' first
    | with_reducible assumption | with_reducible apply KeepsR.next | with_reducible apply State_quietTimeout_keeps
    | with_reducible apply State_advance_keeps | split

theorem execStandbyExitDone_keeps (t : Nat) (s : State) : KeepsR s (execStandbyExitDone t s) := by
  have h := Keeps.refl s
  unfold execStandbyExitDone
  try dsimp -iota only
  repeat' first
    | with_reducible assumption | with_reducible apply KeepsR.next | with_reducible apply State_standbyExit_keeps
    | with_reducible apply State_advance_keeps | split

theorem execSleepExitDone_keeps (t : Nat) (logOk : Bool) (dies : BitVec 4) (s : State) : KeepsR s (execSleepExitDone t logOk dies s) := by
  have h := Keeps.refl s
  unfold execSleepExitDone
  try dsimp -iota only
  repeat' first
    | with_reducible assumption | with_reducible apply KeepsR.next | with_reducible apply State_sleepExit_keeps
    | with_reducible apply State_advance_keeps | split

theorem execAvsCommand_keeps (t : Nat) (want : BitVec 10) (ok1 : Bool) (ok2 : Bool) (s : State) : KeepsR s (execAvsCommand t want ok1 ok2 s) := by
  have h := Keeps.refl s
  unfold execAvsCommand
  try dsimp -iota only
  repeat' first
    | with_reducible assumption | with_reducible apply KeepsR.next | with_reducible apply State_avsCommand_keeps
    | with_reducible apply State_advance_keeps | split

theorem execTjWarnCross_keeps (t : Nat) (tj : BitVec 32) (th : BitVec 8) (s : State) : KeepsR s (execTjWarnCross t tj th s) := by
  have h := Keeps.refl s
  unfold execTjWarnCross
  try dsimp -iota only
  repeat' first
    | with_reducible assumption | with_reducible apply KeepsR.next | with_reducible apply State_tjChange_keeps
    | with_reducible apply State_advance_keeps | split

end Sys2Proof.Machine
end

