-- ==== Sys2Proof/Laws/KeepsSecurity.lean ====
section
/-!
SUPPORT. `Keeps` for the functions of Machine/Security.lean: each leaves the queue alone, drops no output and keeps the canonical forms.
-/
set_option linter.unusedVariables false
namespace Sys2Proof.Machine
open Regs

theorem State_noticeFor_keeps {a : State} (s : State) (type : Nat) (arg : Nat) (info : Nat) (dt : Nat) (h : Keeps a s)  : Keeps a (State.noticeFor s type arg info dt) := by
  unfold State.noticeFor
  try dsimp -iota only
  repeat' first
    | with_reducible assumption | with_reducible apply State_inc_keeps | with_reducible apply State_noticeAt_keeps | split
    | with_reducible exact List.prefix_refl _ | with_reducible exact Nat.le_refl _ | with_reducible exact id
    | with_reducible exact List.prefix_append _ _ | with_reducible exact Nat.le_succ _ | (intro _; try dsimp -iota only)
    | with_reducible apply Keeps.upd (hp := rfl)

theorem State_clusterUnload_keeps {a : State} (s : State) (k : Nat) (h : Keeps a s)  : Keeps a (State.clusterUnload s k) := by
  unfold State.clusterUnload
  try dsimp -iota only
  repeat' first
    | with_reducible assumption | with_reducible apply State_clusterBegin_keeps | with_reducible apply State_resetDone_keeps
    | with_reducible apply State_resetAccept_keeps | with_reducible refine Keeps.foldl ?_ ?_
    | with_reducible refine Keeps.foldl_snd ?_ ?_ | with_reducible refine Keeps.foldl_thd ?_ ?_
    | with_reducible refine Keeps.foldl_fst ?_ ?_ | split | (intro _ _ _; try dsimp -iota only)
    | (intro _ _; try dsimp -iota only)

theorem State_unloadAll_keeps {a : State} (s : State) (h : Keeps a s)  : Keeps a (State.unloadAll s) := by
  unfold State.unloadAll
  try dsimp -iota only
  repeat' first
    | with_reducible assumption | with_reducible apply State_partEmpty_keeps | with_reducible apply State_clusterUnload_keeps
    | with_reducible refine Keeps.foldl ?_ ?_ | with_reducible refine Keeps.foldl_snd ?_ ?_
    | with_reducible refine Keeps.foldl_thd ?_ ?_ | with_reducible refine Keeps.foldl_fst ?_ ?_ | split
    | (intro _ _ _; try dsimp -iota only) | (intro _ _; try dsimp -iota only)

theorem State_fwAction_keeps {a : State} (s : State) (h : Keeps a s)  : Keeps a (State.fwAction s) := by
  unfold State.fwAction
  try dsimp -iota only
  repeat' first
    | with_reducible assumption | with_reducible apply State_noticeFor_keeps | with_reducible apply State_unloadAll_keeps
    | with_reducible apply State_loadStopped_keeps | with_reducible apply State_irqSet_keeps
    | with_reducible apply State_rb_keeps | split | with_reducible exact List.prefix_refl _
    | with_reducible exact Nat.le_refl _ | with_reducible exact id | with_reducible exact List.prefix_append _ _
    | with_reducible exact Nat.le_succ _ | (intro _; try dsimp -iota only) | with_reducible apply Keeps.upd (hp := rfl)

theorem State_mgmtRestart_keeps {a : State} (s : State) (img : Option (List Sys2Proof.Byte)) (h : Keeps a s)  : Keeps a (State.mgmtRestart s img) := by
  unfold State.mgmtRestart
  try dsimp -iota only
  repeat' first
    | with_reducible assumption | with_reducible apply State_imageRun_keeps | with_reducible apply State_notice_keeps
    | with_reducible apply State_inc_keeps | with_reducible apply State_flushNotices_keeps
    | with_reducible apply State_fwFrames_keeps | with_reducible apply State_completeOpen_keeps
    | with_reducible apply State_hostBoot_keeps | split | with_reducible exact List.prefix_refl _
    | with_reducible exact Nat.le_refl _ | with_reducible exact id | with_reducible exact List.prefix_append _ _
    | with_reducible exact Nat.le_succ _ | (intro _; try dsimp -iota only) | with_reducible apply Keeps.upd (hp := rfl)

theorem State_keyFail_keeps {a : State} (s : State) (h : Keeps a s)  : Keeps a (State.keyFail s) := by
  unfold State.keyFail
  try dsimp -iota only
  repeat' first
    | with_reducible assumption | with_reducible apply State_errParam_keeps | with_reducible apply State_rs_keeps | split

theorem State_keyCmd_keeps {a : State} (s : State) (v : Sys2Proof.Word) (h : Keeps a s)  : Keeps a (State.keyCmd s v) := by
  unfold State.keyCmd
  try dsimp -iota only
  repeat' first
    | with_reducible assumption | with_reducible apply State_errParam_keeps | with_reducible apply State_keyFail_keeps
    | with_reducible apply State_rs_keeps | with_reducible apply State_fuses_keeps | split
    | with_reducible exact List.prefix_refl _ | with_reducible exact Nat.le_refl _ | with_reducible exact id
    | with_reducible exact List.prefix_append _ _ | with_reducible exact Nat.le_succ _ | (intro _; try dsimp -iota only)
    | with_reducible apply Keeps.upd (hp := rfl)

theorem State_keyBurned_keeps {a : State} (s : State) (h : Keeps a s)  : Keeps a (State.keyBurned s) := by
  unfold State.keyBurned
  try dsimp -iota only
  repeat' first
    | with_reducible assumption | with_reducible apply State_fuses_keeps | with_reducible apply State_rs_keeps | split
    | with_reducible exact List.prefix_refl _ | with_reducible exact Nat.le_refl _ | with_reducible exact id
    | with_reducible exact Tab.rising_put _ _ _ _ | with_reducible exact List.prefix_append _ _
    | with_reducible exact Nat.le_succ _ | (intro _; try dsimp -iota only) | with_reducible apply Keeps.upd (hp := rfl)

theorem State_setGrants_keeps {a : State} (s : State) (x1 : Nat) (g : Nat) (h : Keeps a s)  : Keeps a (State.setGrants s x1 g) := by
  unfold State.setGrants
  try dsimp -iota only
  repeat' first
    | with_reducible assumption | split | with_reducible exact List.prefix_refl _ | with_reducible exact Nat.le_refl _
    | with_reducible exact id | with_reducible exact Tab.rising_put _ _ _ _ | with_reducible exact List.prefix_append _ _
    | with_reducible exact Nat.le_succ _ | (intro _; try dsimp -iota only) | with_reducible apply Keeps.upd (hp := rfl)

theorem State_ptGo_keeps {a : State} (s : State) (c : Sys2Proof.Req) (v : Sys2Proof.Word) (h : Keeps a s)  : Keeps a (State.ptGo s c v) := by
  unfold State.ptGo
  try dsimp -iota only
  repeat' first
    | with_reducible assumption | with_reducible apply State_rs_keeps | split | with_reducible exact List.prefix_refl _
    | with_reducible exact Nat.le_refl _ | with_reducible exact id | with_reducible exact List.prefix_append _ _
    | with_reducible exact Nat.le_succ _ | (intro _; try dsimp -iota only) | with_reducible apply Keeps.upd (hp := rfl)

theorem State_ptApply_keeps {a : State} (s : State) (h : Keeps a s)  : Keeps a (State.ptApply s) := by
  unfold State.ptApply
  try dsimp -iota only
  repeat' first
    | with_reducible assumption | with_reducible apply State_rs_keeps | with_reducible apply State_setGrants_keeps
    | with_reducible apply State_irqSet_keeps | split | with_reducible exact List.prefix_refl _
    | with_reducible exact Nat.le_refl _ | with_reducible exact id | with_reducible exact List.prefix_append _ _
    | with_reducible exact Nat.le_succ _ | (intro _; try dsimp -iota only) | with_reducible apply Keeps.upd (hp := rfl)

theorem State_traceClear_keeps {a : State} (s : State) (v : Sys2Proof.Word) (h : Keeps a s)  : Keeps a (State.traceClear s v) := by
  unfold State.traceClear
  try dsimp -iota only
  repeat' first
    | with_reducible assumption | with_reducible apply State_errParam_keeps | with_reducible apply State_rs_keeps
    | with_reducible apply State_zeroSram_keeps | split

theorem State_staleCount_keeps {a : State} (s : State) (k : Nat) (n : Nat) (h : Keeps a s)  : Keeps a (State.staleCount s k n) := by
  unfold State.staleCount
  try dsimp -iota only
  repeat' first
    | with_reducible assumption | with_reducible apply State_inc_keeps | split

theorem State_staleStream_keeps {a : State} (s : State) (k : Nat) (i : Nat) (h : Keeps a s)  : Keeps a (State.staleStream s k i) := by
  unfold State.staleStream
  try dsimp -iota only
  repeat' first
    | with_reducible assumption | with_reducible apply State_staleCount_keeps | with_reducible apply State_setCredit_keeps
    | with_reducible apply State_rs_keeps | with_reducible apply State_waitEnd_keeps | split
    | with_reducible exact List.prefix_refl _ | with_reducible exact Nat.le_refl _ | with_reducible exact id
    | with_reducible exact Tab.rising_put _ _ _ _ | with_reducible exact List.prefix_append _ _
    | with_reducible exact Nat.le_succ _ | (intro _; try dsimp -iota only) | with_reducible apply Keeps.upd (hp := rfl)

theorem State_staleRouter_keeps {a : State} (s : State) (k : Nat) (h : Keeps a s)  : Keeps a (State.staleRouter s k) := by
  unfold State.staleRouter
  try dsimp -iota only
  repeat' first
    | with_reducible assumption | with_reducible apply State_staleStream_keeps | with_reducible apply State_staleCount_keeps
    | with_reducible apply State_upRouter_keeps | with_reducible refine Keeps.foldl ?_ ?_
    | with_reducible refine Keeps.foldl_snd ?_ ?_ | with_reducible refine Keeps.foldl_thd ?_ ?_
    | with_reducible refine Keeps.foldl_fst ?_ ?_ | split | (intro _ _ _; try dsimp -iota only)
    | (intro _ _; try dsimp -iota only)

theorem State_staleCore_keeps {a : State} (s : State) (n : Nat) (h : Keeps a s)  : Keeps a (State.staleCore s n) := by
  unfold State.staleCore
  try dsimp -iota only
  repeat' first
    | with_reducible assumption | with_reducible apply State_queueFreed_keeps | with_reducible apply State_staleCount_keeps
    | with_reducible apply State_upCore_keeps | split

theorem State_staleBank_keeps {a : State} (s : State) (k : Nat) (h : Keeps a s)  : Keeps a (State.staleBank s k) := by
  unfold State.staleBank
  try dsimp -iota only
  repeat' first
    | with_reducible assumption | with_reducible apply State_bankFreed_keeps | with_reducible apply State_staleCount_keeps
    | with_reducible apply State_upBank_keeps | split

theorem State_staleTok_keeps {a : State} (s : State) (k : Nat) (h : Keeps a s)  : Keeps a (State.staleTok s k) := by
  unfold State.staleTok
  try dsimp -iota only
  repeat' first
    | with_reducible assumption | with_reducible apply State_staleCount_keeps | with_reducible apply State_upTok_keeps
    | with_reducible apply State_tokFreed_keeps | split

theorem State_staleEscape_keeps {a : State} (s : State) (k : Nat) (h : Keeps a s)  : Keeps a (State.staleEscape s k) := by
  unfold State.staleEscape
  try dsimp -iota only
  repeat' first
    | with_reducible assumption | with_reducible apply State_staleCount_keeps | with_reducible apply State_upRouter_keeps
    | with_reducible apply State_waitEnd_keeps | with_reducible refine Keeps.foldl ?_ ?_
    | with_reducible refine Keeps.foldl_snd ?_ ?_ | with_reducible refine Keeps.foldl_thd ?_ ?_
    | with_reducible refine Keeps.foldl_fst ?_ ?_ | split | with_reducible exact List.prefix_refl _
    | with_reducible exact Nat.le_refl _ | with_reducible exact id | with_reducible exact List.prefix_append _ _
    | with_reducible exact Nat.le_succ _ | with_reducible apply Mem.wf_wrLE | with_reducible refine Mem.wf_foldl _ ?_ _ _ ?_
    | (intro _ _ _; try dsimp -iota only) | (intro _ _; try dsimp -iota only) | (intro _; try dsimp -iota only)
    | with_reducible apply Keeps.upd (hp := rfl)

theorem State_stalePiste_keeps {a : State} (s : State) (h : Keeps a s)  : Keeps a (State.stalePiste s) := by
  unfold State.stalePiste
  try dsimp -iota only
  repeat' first
    | with_reducible assumption | with_reducible apply State_inc_keeps | with_reducible apply State_upPp_keeps
    | with_reducible apply State_ingressStall_keeps | with_reducible apply State_pisteStalls_keeps
    | with_reducible apply State_credited_keeps | with_reducible refine Keeps.foldl ?_ ?_
    | with_reducible refine Keeps.foldl_snd ?_ ?_ | with_reducible refine Keeps.foldl_thd ?_ ?_
    | with_reducible refine Keeps.foldl_fst ?_ ?_ | split | with_reducible exact List.prefix_refl _
    | with_reducible exact Nat.le_refl _ | with_reducible exact id | with_reducible exact List.prefix_append _ _
    | with_reducible exact Nat.le_succ _ | with_reducible refine Mem.wf_foldl _ ?_ _ _ ?_
    | (intro _ _ _; try dsimp -iota only) | (intro _ _; try dsimp -iota only) | (intro _; try dsimp -iota only)
    | with_reducible apply Keeps.upd (hp := rfl)

theorem State_staleCheck_keeps {a : State} (s : State) (x1 : Sys2Proof.BufId) (h : Keeps a s)  : Keeps a (State.staleCheck s x1) := by
  unfold State.staleCheck
  try dsimp -iota only
  repeat' first
    | with_reducible assumption | with_reducible apply State_staleRouter_keeps | with_reducible apply State_staleCore_keeps
    | with_reducible apply State_staleBank_keeps | with_reducible apply State_staleTok_keeps
    | with_reducible apply State_staleEscape_keeps | with_reducible apply State_stalePiste_keeps | split

theorem State_tapIr_keeps {a : State} (s : State) (i : Nat) (h : Keeps a s)  : Keeps a (State.tapIr s i) := by
  unfold State.tapIr
  try dsimp -iota only
  repeat' first
    | with_reducible assumption | split | with_reducible exact List.prefix_refl _ | with_reducible exact Nat.le_refl _
    | with_reducible exact id | with_reducible exact List.prefix_append _ _ | with_reducible exact Nat.le_succ _
    | (intro _; try dsimp -iota only) | with_reducible apply Keeps.upd (hp := rfl)

theorem execFenceFirmwareAction_keeps (t : Nat) (s : State) : KeepsR s (execFenceFirmwareAction t s) := by
  have h := Keeps.refl s
  unfold execFenceFirmwareAction
  try dsimp -iota only
  repeat' first
    | with_reducible assumption | with_reducible apply KeepsR.next | with_reducible apply State_fwAction_keeps
    | with_reducible apply State_advance_keeps | split

theorem execMgmtWarmRestart_keeps (t : Nat) (img : Option (List Sys2Proof.Byte)) (s : State) : KeepsR s (execMgmtWarmRestart t img s) := by
  have h := Keeps.refl s
  unfold execMgmtWarmRestart
  try dsimp -iota only
  repeat' first
    | with_reducible assumption | with_reducible apply KeepsR.next | with_reducible apply State_mgmtRestart_keeps
    | with_reducible apply State_advance_keeps | split

theorem execKeyProgram_keeps (t : Nat) (c : Sys2Proof.Req) (v : Sys2Proof.Word) (s : State) : KeepsR s (execKeyProgram t c v s) := by
  have h := Keeps.refl s
  unfold execKeyProgram
  try dsimp -iota only
  repeat' first
    | with_reducible assumption | with_reducible apply KeepsR.next | with_reducible apply State_cmdWrite_keeps
    | with_reducible apply State_keyCmd_keeps | split | (intro _ _; try dsimp -iota only)

theorem execKeyRevoke_keeps (t : Nat) (c : Sys2Proof.Req) (v : Sys2Proof.Word) (s : State) : KeepsR s (execKeyRevoke t c v s) := by
  have h := Keeps.refl s
  unfold execKeyRevoke
  try dsimp -iota only
  repeat' first
    | with_reducible assumption | with_reducible apply KeepsR.next | with_reducible apply State_cmdWrite_keeps
    | with_reducible apply State_keyCmd_keeps | split | (intro _ _; try dsimp -iota only)

theorem execKeyBurnDone_keeps (t : Nat) (s : State) : KeepsR s (execKeyBurnDone t s) := by
  have h := Keeps.refl s
  unfold execKeyBurnDone
  try dsimp -iota only
  repeat' first
    | with_reducible assumption | with_reducible apply KeepsR.next | with_reducible apply State_keyBurned_keeps
    | with_reducible apply State_advance_keeps | split

theorem execPtReqGo_keeps (t : Nat) (c : Sys2Proof.Req) (v : Sys2Proof.Word) (s : State) : KeepsR s (execPtReqGo t c v s) := by
  have h := Keeps.refl s
  unfold execPtReqGo
  try dsimp -iota only
  repeat' first
    | with_reducible assumption | with_reducible apply KeepsR.next | with_reducible apply State_cmdWrite_keeps
    | with_reducible apply State_ptGo_keeps | split | (intro _ _; try dsimp -iota only)

theorem execPtReqApplied_keeps (t : Nat) (s : State) : KeepsR s (execPtReqApplied t s) := by
  have h := Keeps.refl s
  unfold execPtReqApplied
  try dsimp -iota only
  repeat' first
    | with_reducible assumption | with_reducible apply KeepsR.next | with_reducible apply State_ptApply_keeps
    | with_reducible apply State_advance_keeps | split

theorem execTraceClear_keeps (t : Nat) (c : Sys2Proof.Req) (v : Sys2Proof.Word) (s : State) : KeepsR s (execTraceClear t c v s) := by
  have h := Keeps.refl s
  unfold execTraceClear
  try dsimp -iota only
  repeat' first
    | with_reducible assumption | with_reducible apply KeepsR.next | with_reducible apply State_cmdWrite_keeps
    | with_reducible apply State_traceClear_keeps | split | (intro _ _; try dsimp -iota only)

theorem execFwMark_keeps (t : Nat) (c : Sys2Proof.Req) (v : Sys2Proof.Word) (s : State) : KeepsR s (execFwMark t c v s) := by
  have h := Keeps.refl s
  unfold execFwMark
  try dsimp -iota only
  repeat' first
    | with_reducible assumption | with_reducible apply KeepsR.next | with_reducible apply State_cmdWrite_keeps
    | with_reducible apply State_trace_keeps | split | (intro _ _; try dsimp -iota only)

theorem execStaleCheck_keeps (t : Nat) (b : Sys2Proof.BufId) (s : State) : KeepsR s (execStaleCheck t b s) := by
  have h := Keeps.refl s
  unfold execStaleCheck
  try dsimp -iota only
  repeat' first
    | with_reducible assumption | with_reducible apply KeepsR.next | with_reducible apply State_staleCheck_keeps
    | with_reducible apply State_advance_keeps | split

theorem execBadFlit_keeps (t : Nat) (k : Fin 16) (ty : Fin 16) (s : State) : KeepsR s (execBadFlit t k ty s) := by
  have h := Keeps.refl s
  unfold execBadFlit
  try dsimp -iota only
  repeat' first
    | with_reducible assumption | with_reducible apply KeepsR.next | with_reducible apply State_advance_keeps
    | with_reducible apply State_irqSet_keeps | with_reducible apply State_inc_keeps | split

theorem execIdcode_keeps (t : Nat) (s : State) : KeepsR s (execIdcode t s) := by
  have h := Keeps.refl s
  unfold execIdcode
  try dsimp -iota only
  repeat' first
    | with_reducible assumption | with_reducible apply KeepsR.next | with_reducible apply State_emit_keeps
    | with_reducible apply State_tapIr_keeps | with_reducible apply State_advance_keeps | split

theorem execSample_keeps (t : Nat) (s : State) : KeepsR s (execSample t s) := by
  have h := Keeps.refl s
  unfold execSample
  try dsimp -iota only
  repeat' first
    | with_reducible assumption | with_reducible apply KeepsR.next
    | with_reducible apply State_takeFree_keeps (e := pair_eta _)
    | with_reducible apply State_takeFree_keeps (e := by with_reducible assumption) | with_reducible apply State_tapIr_keeps
    | with_reducible apply State_advance_keeps | with_reducible apply State_emit_keeps | split

theorem execBypass_keeps (t : Nat) (s : State) : KeepsR s (execBypass t s) := by
  have h := Keeps.refl s
  unfold execBypass
  try dsimp -iota only
  repeat' first
    | with_reducible assumption | with_reducible apply KeepsR.next | with_reducible apply State_tapIr_keeps
    | with_reducible apply State_advance_keeps | split

end Sys2Proof.Machine
end

