-- ==== Sys2Proof/Laws/KeepsAccess.lean ====
section
/-!
SUPPORT. `Keeps` for the functions of Machine/Access.lean: each leaves the queue alone, drops no output and keeps the canonical forms.
-/
set_option linter.unusedVariables false
namespace Sys2Proof.Machine
open Regs

theorem State_readEffects_keeps {a : State} (s : State) (c : Sys2Proof.Req) (p : Page) (off : Nat) (h : Keeps a s)  : Keeps a (State.readEffects s c p off) := by
  unfold State.readEffects
  try dsimp -iota only
  repeat' first
    | with_reducible assumption | with_reducible apply State_takeFree_keeps (e := pair_eta _)
    | with_reducible apply State_takeFree_keeps (e := by with_reducible assumption) | with_reducible apply State_rs_keeps
    | with_reducible refine Keeps.foldl ?_ ?_ | with_reducible refine Keeps.foldl_snd ?_ ?_
    | with_reducible refine Keeps.foldl_thd ?_ ?_ | with_reducible refine Keeps.foldl_fst ?_ ?_ | split
    | (intro _ _ _; try dsimp -iota only) | (intro _ _; try dsimp -iota only)

theorem State_readWord_keeps {a : State} (s : State) (c : Sys2Proof.Req) (p : Page) (off : Nat) {v0' : Nat} {s' : State} (h : Keeps a s)  (e : State.readWord s c p off = (v0', s')) : Keeps a s' := by
  unfold State.readWord at e
  try dsimp -iota only at e
  repeat' split at e
  all_goals (have e2 := congrArg (fun p => p.2) e; dsimp only at e2; subst e2)
  repeat' first
    | with_reducible assumption | with_reducible apply State_readEffects_keeps | split
    | with_reducible exact List.prefix_refl _ | with_reducible exact Nat.le_refl _ | with_reducible exact id
    | with_reducible exact List.prefix_append _ _ | with_reducible exact Nat.le_succ _ | (intro _; try dsimp -iota only)
    | with_reducible apply Keeps.upd (hp := rfl)

theorem State_regRead_keeps {a : State} (s : State) (c : Sys2Proof.Req) (x2 : Nat) {v0' : Nat} {v1' : Bool} {s' : State} (h : Keeps a s)  (e : State.regRead s c x2 = (v0', v1', s')) : Keeps a s' := by
  unfold State.regRead at e
  try dsimp -iota only at e
  repeat' split at e
  all_goals (have e2 := congrArg (fun p => p.2.2) e; dsimp only at e2; subst e2)
  repeat' first
    | with_reducible assumption | with_reducible apply State_denied_keeps
    | with_reducible apply State_readWord_keeps (e := pair_eta _)
    | with_reducible apply State_readWord_keeps (e := by with_reducible assumption)
    | with_reducible apply State_takeInFor_keeps | split

theorem State_narrowRead_keeps {a : State} (s : State) (c : Sys2Proof.Req) (x2 : Nat) (n : Nat) {v0' : Nat} {s' : State} (h : Keeps a s)  (e : State.narrowRead s c x2 n = (v0', s')) : Keeps a s' := by
  unfold State.narrowRead at e
  try dsimp -iota only at e
  repeat' split at e
  all_goals (have e2 := congrArg (fun p => p.2) e; dsimp only at e2; subst e2)
  repeat' first
    | with_reducible assumption | with_reducible apply State_regRead_keeps (e := triple_eta _)
    | with_reducible apply State_regRead_keeps (e := by with_reducible assumption) | split

theorem State_wordReads_keeps {a : State} (s : State) (c : Sys2Proof.Req) (x2 : Nat) (x3 : Nat) {v0' : List Nat} {s' : State} (h : Keeps a s)  (e : State.wordReads s c x2 x3 = (v0', s')) : Keeps a s' := by
  induction x3 generalizing s x2 v0' s' with
  | zero =>
    unfold State.wordReads at e
    try dsimp -iota only at e
    repeat' split at e
    all_goals (have e2 := congrArg (fun p => p.2) e; dsimp only at e2; subst e2)
    repeat' first
      | with_reducible assumption | with_reducible apply State_regRead_keeps (e := triple_eta _)
      | with_reducible apply State_regRead_keeps (e := by with_reducible assumption) | with_reducible refine Keeps.foldl ?_ ?_
      | with_reducible refine Keeps.foldl_snd ?_ ?_ | with_reducible refine Keeps.foldl_thd ?_ ?_
      | with_reducible refine Keeps.foldl_fst ?_ ?_ | split | (intro _ _; try dsimp -iota only)
  | succ n ih =>
    unfold State.wordReads at e
    try dsimp -iota only at e
    repeat' split at e
    all_goals (have e2 := congrArg (fun p => p.2) e; dsimp only at e2; subst e2)
    repeat' first
      | with_reducible apply ih (e := pair_eta _) | with_reducible apply ih (e := by with_reducible assumption) | with_reducible assumption | with_reducible apply State_regRead_keeps (e := triple_eta _)
      | with_reducible apply State_regRead_keeps (e := by with_reducible assumption) | with_reducible refine Keeps.foldl ?_ ?_
      | with_reducible refine Keeps.foldl_snd ?_ ?_ | with_reducible refine Keeps.foldl_thd ?_ ?_
      | with_reducible refine Keeps.foldl_fst ?_ ?_ | split | (intro _ _; try dsimp -iota only)

theorem State_readAny_keeps {a : State} (s : State) (c : Sys2Proof.Req) (x2 : Nat) (z : Sys2Proof.AccSize) {v0' : List Nat} {s' : State} (h : Keeps a s)  (e : State.readAny s c x2 z = (v0', s')) : Keeps a s' := by
  unfold State.readAny at e
  try dsimp -iota only at e
  repeat' split at e
  all_goals (have e2 := congrArg (fun p => p.2) e; dsimp only at e2; subst e2)
  repeat' first
    | with_reducible assumption | with_reducible apply State_narrowRead_keeps (e := pair_eta _)
    | with_reducible apply State_narrowRead_keeps (e := by with_reducible assumption)
    | with_reducible apply State_takeFree_keeps (e := pair_eta _)
    | with_reducible apply State_takeFree_keeps (e := by with_reducible assumption)
    | with_reducible apply State_wordReads_keeps (e := pair_eta _)
    | with_reducible apply State_wordReads_keeps (e := by with_reducible assumption) | split

theorem State_hqWrite_keeps {a : State} (s : State) (off : Nat) (v : Sys2Proof.Word) (h : Keeps a s)  : Keeps a (State.hqWrite s off v) := by
  unfold State.hqWrite
  try dsimp -iota only
  repeat' first
    | with_reducible assumption | with_reducible apply State_ringCtrl_keeps | with_reducible apply State_errParam_keeps
    | with_reducible apply State_plainWrite_keeps | split

theorem State_pcieWrite_keeps {a : State} (s : State) (off : Nat) (v : Sys2Proof.Word) (h : Keeps a s)  : Keeps a (State.pcieWrite s off v) := by
  unfold State.pcieWrite
  try dsimp -iota only
  repeat' first
    | with_reducible assumption | with_reducible apply State_msixFlush_keeps | with_reducible apply State_plainWrite_keeps
    | split | with_reducible exact List.prefix_refl _ | with_reducible exact Nat.le_refl _ | with_reducible exact id
    | with_reducible exact Tab.rising_put _ _ _ _ | with_reducible exact List.prefix_append _ _
    | with_reducible exact Nat.le_succ _ | (intro _; try dsimp -iota only) | with_reducible apply Keeps.upd (hp := rfl)

theorem State_protWrite_keeps {a : State} (s : State) (off : Nat) (v : Sys2Proof.Word) (h : Keeps a s)  : Keeps a (State.protWrite s off v) := by
  unfold State.protWrite
  try dsimp -iota only
  repeat' first
    | with_reducible assumption | with_reducible apply State_errParam_keeps | with_reducible apply State_putWord_keeps
    | with_reducible apply State_setGrants_keeps | split

theorem State_pageWrite_keeps {a : State} (s : State) (c : Sys2Proof.Req) (p : Page) (off : Nat) (v : Sys2Proof.Word) (h : Keeps a s)  : Keeps a (State.pageWrite s c p off v) := by
  unfold State.pageWrite
  try dsimp -iota only
  repeat' first
    | with_reducible assumption | with_reducible apply State_unitWrite_keeps | with_reducible apply State_ethDown_keeps
    | with_reducible apply State_hqWrite_keeps | with_reducible apply State_pcieWrite_keeps
    | with_reducible apply State_protWrite_keeps | with_reducible apply State_pkgResetWrite_keeps
    | with_reducible apply State_wdogCtrl_keeps | with_reducible apply State_wdogKick_keeps
    | with_reducible apply State_optBurn_keeps | with_reducible apply State_pwrReq_keeps
    | with_reducible apply State_tjCheck_keeps | with_reducible apply State_hbGo_keeps
    | with_reducible apply State_keyCmd_keeps | with_reducible apply State_ptGo_keeps
    | with_reducible apply State_traceClear_keeps | with_reducible apply State_trace_keeps | split

theorem State_regWrite_keeps {a : State} (s : State) (c : Sys2Proof.Req) (x2 : Nat) (v : Sys2Proof.Word) (h : Keeps a s)  : Keeps a (State.regWrite s c x2 v) := by
  unfold State.regWrite
  try dsimp -iota only
  repeat' first
    | with_reducible assumption | with_reducible apply State_resetWrite_keeps | with_reducible apply State_gateWrite_keeps
    | with_reducible apply State_pageWrite_keeps | with_reducible apply State_takeInFor_keeps | split
    | (intro _ _; try dsimp -iota only)

theorem State_wordWrites_keeps {a : State} (s : State) (c : Sys2Proof.Req) (x2 : Nat) (x3 : List Sys2Proof.Word) (h : Keeps a s)  : Keeps a (State.wordWrites s c x2 x3) := by
  induction x3 generalizing s x2 with
  | nil =>
    unfold State.wordWrites
    try dsimp -iota only
    repeat' first
      | with_reducible assumption | with_reducible apply State_regWrite_keeps | split
  | cons x l ih =>
    unfold State.wordWrites
    try dsimp -iota only
    repeat' first
      | with_reducible apply ih | with_reducible assumption | with_reducible apply State_regWrite_keeps | split

theorem State_writeAny_keeps {a : State} (s : State) (c : Sys2Proof.Req) (x2 : Nat) (z : Sys2Proof.AccSize) (v : Sys2Proof.Word64) (h : Keeps a s)  : Keeps a (State.writeAny s c x2 z v) := by
  unfold State.writeAny
  try dsimp -iota only
  repeat' first
    | with_reducible assumption | with_reducible apply State_wordWrites_keeps | with_reducible apply State_gateWrite_keeps
    | with_reducible apply State_errParam_keeps | split | (intro _ _; try dsimp -iota only)

theorem State_regFlit_keeps {a : State} (s : State) (c : Sys2Proof.Req) (x2 : Nat) (wr : Bool) (v : Sys2Proof.Word) (h : Keeps a s)  : Keeps a (State.regFlit s c x2 wr v) := by
  unfold State.regFlit
  try dsimp -iota only
  repeat' first
    | with_reducible assumption | with_reducible apply State_send_keeps | with_reducible apply State_regWrite_keeps
    | with_reducible apply State_regRead_keeps (e := triple_eta _)
    | with_reducible apply State_regRead_keeps (e := by with_reducible assumption) | split

theorem State_regRsp_keeps {a : State} (s : State) (h : Keeps a s)  : Keeps a (State.regRsp s) := by
  unfold State.regRsp
  try dsimp -iota only
  repeat' first
    | with_reducible assumption | with_reducible apply State_takeFlit_keeps (e := by with_reducible assumption)
    | with_reducible apply State_emit_keeps | split

theorem State_mgmtRequest_keeps {a : State} (s : State) (w : List Nat) (h : Keeps a s)  : Keeps a (State.mgmtRequest s w) := by
  unfold State.mgmtRequest
  try dsimp -iota only
  repeat' first
    | with_reducible assumption | with_reducible apply State_writeAny_keeps
    | with_reducible apply State_regRead_keeps (e := triple_eta _)
    | with_reducible apply State_regRead_keeps (e := by with_reducible assumption) | with_reducible apply State_inc_keeps
    | with_reducible apply State_sendRouted_keeps | split

theorem State_mgmtIn_keeps {a : State} (s : State) (w : List Nat) (src : Option (Nat × Nat × Nat)) (h : Keeps a s)  : Keeps a (State.mgmtIn s w src) := by
  unfold State.mgmtIn
  try dsimp -iota only
  repeat' first
    | with_reducible assumption | with_reducible apply State_forward_keeps | with_reducible apply State_credited_keeps
    | with_reducible apply State_rmtResponse_keeps | with_reducible apply State_mgmtRequest_keeps | split

theorem State_windowBytes_keeps {a : State} (s : State) (w : Nat) (x2 : Nat) (n : Nat) {v0' : List Sys2Proof.Byte} {s' : State} (h : Keeps a s)  (e : State.windowBytes s w x2 n = (v0', s')) : Keeps a s' := by
  unfold State.windowBytes at e
  try dsimp -iota only at e
  repeat' split at e
  all_goals (have e2 := congrArg (fun p => p.2) e; dsimp only at e2; subst e2)
  repeat' first
    | with_reducible assumption | with_reducible apply State_takeFree_keeps (e := pair_eta _)
    | with_reducible apply State_takeFree_keeps (e := by with_reducible assumption) | split

theorem State_memRead_keeps {a : State} (s : State) (c : Sys2Proof.Req) (x2 : Nat) (n : Nat) (x4 : Nat) {v0' : List Sys2Proof.Byte} {s' : State} (h : Keeps a s) (e : State.memRead s c x2 n x4 = (v0', s')) : Keeps a s' := by
  induction x4 generalizing s x2 n v0' s' with
  | zero =>
    unfold State.memRead at e
    have e2 := congrArg (fun p => p.2) e; dsimp only at e2; subst e2
    exact h
  | succ k ih =>
    unfold State.memRead at e
    try dsimp -iota only at e
    repeat' split at e
    all_goals (have e2 := congrArg (fun p => p.2) e; dsimp only at e2; subst e2)
    repeat' first
      | with_reducible assumption | with_reducible apply ih (e := pair_eta _) | with_reducible apply State_windowBytes_keeps (e := pair_eta _)
      | with_reducible apply State_denied_keeps | split


theorem State_obsFrame_keeps {a : State} (s : State) (f : State → State) (h : Keeps a s) (h_f : ∀ s, Keeps a s → Keeps a (f s)) : Keeps a (State.obsFrame s f) := by
  unfold State.obsFrame
  try dsimp -iota only
  repeat' first
    | with_reducible assumption | with_reducible exact h_f _ ‹_› | with_reducible apply h_f
    | with_reducible refine h_f _ _ _ _ _ ‹_› ?_ | with_reducible exact h_f _ _ _ _ _ ‹_› ‹_›
    | with_reducible exact h_f _ _ ‹_› | with_reducible exact h_f _ _ _ _ ‹_› | with_reducible apply State_inc_keeps | split
    | (intro _ _; try dsimp -iota only)

theorem State_obsData_keeps {a : State} (s : State) (b : List Sys2Proof.Byte) (h : Keeps a s)  : Keeps a (State.obsData s b) := by
  unfold State.obsData
  try dsimp -iota only
  repeat' first
    | with_reducible assumption | with_reducible apply State_emit_keeps | split

theorem State_obsRegs_keeps {a : State} (s : State) (x1 : Nat) (x2 : Nat) {v0' : List Sys2Proof.Byte} {s' : State} (h : Keeps a s) (e : State.obsRegs s x1 x2 = (v0', s')) : Keeps a s' := by
  induction x2 generalizing s x1 v0' s' with
  | zero =>
    unfold State.obsRegs at e
    have e2 := congrArg (fun p => p.2) e; dsimp only at e2; subst e2
    exact h
  | succ k ih =>
    unfold State.obsRegs at e
    try dsimp -iota only at e
    repeat' split at e
    all_goals (have e2 := congrArg (fun p => p.2) e; dsimp only at e2; subst e2)
    repeat' first
      | with_reducible assumption | with_reducible apply ih (e := pair_eta _) 
      | with_reducible apply State_regRead_keeps (e := by with_reducible assumption) | split


theorem State_busRead_keeps {a : State} (s : State) (c : Sys2Proof.Req) (x2 : Nat) (z : Sys2Proof.AccSize) {v0' : List Nat} {s' : State} (h : Keeps a s)  (e : State.busRead s c x2 z = (v0', s')) : Keeps a s' := by
  unfold State.busRead at e
  try dsimp -iota only at e
  repeat' split at e
  all_goals (have e2 := congrArg (fun p => p.2) e; dsimp only at e2; subst e2)
  repeat' first
    | with_reducible assumption | with_reducible apply State_memRead_keeps (e := pair_eta _)
    | with_reducible apply State_memRead_keeps (e := by with_reducible assumption)
    | with_reducible apply State_readAny_keeps (e := pair_eta _)
    | with_reducible apply State_readAny_keeps (e := by with_reducible assumption) | split

theorem State_busWrite_keeps {a : State} (s : State) (c : Sys2Proof.Req) (x2 : Nat) (z : Sys2Proof.AccSize) (v : Sys2Proof.Word64) (h : Keeps a s)  : Keeps a (State.busWrite s c x2 z v) := by
  unfold State.busWrite
  try dsimp -iota only
  repeat' first
    | with_reducible assumption | with_reducible apply State_inc_keeps | with_reducible apply State_bar4Write_keeps
    | with_reducible apply State_writeAny_keeps | split

theorem execRegisterWrite_keeps (t : Nat) (c : Sys2Proof.Req) (x2 : BitVec 29) (z : Sys2Proof.AccSize) (v : Sys2Proof.Word64) (s : State) : KeepsR s (execRegisterWrite t c x2 z v s) := by
  have h := Keeps.refl s
  unfold execRegisterWrite
  try dsimp -iota only
  repeat' first
    | with_reducible assumption | with_reducible apply KeepsR.next | with_reducible apply State_busWrite_keeps
    | with_reducible apply State_advance_keeps | split

theorem execRcRead_keeps (t : Nat) (c : Sys2Proof.Req) (x2 : BitVec 29) (z : Sys2Proof.AccSize) (s : State) : KeepsR s (execRcRead t c x2 z s) := by
  have h := Keeps.refl s
  unfold execRcRead
  try dsimp -iota only
  repeat' first
    | with_reducible assumption | with_reducible apply KeepsR.next
    | with_reducible apply State_busRead_keeps (e := pair_eta _)
    | with_reducible apply State_busRead_keeps (e := by with_reducible assumption) | with_reducible apply State_advance_keeps
    | with_reducible apply State_emit_keeps | split

theorem execLatchingRead_keeps (t : Nat) (c : Sys2Proof.Req) (x2 : BitVec 29) (z : Sys2Proof.AccSize) (s : State) : KeepsR s (execLatchingRead t c x2 z s) := by
  have h := Keeps.refl s
  unfold execLatchingRead
  try dsimp -iota only
  repeat' first
    | with_reducible assumption | with_reducible apply KeepsR.next
    | with_reducible apply State_busRead_keeps (e := pair_eta _)
    | with_reducible apply State_busRead_keeps (e := by with_reducible assumption) | with_reducible apply State_advance_keeps
    | with_reducible apply State_emit_keeps | split

theorem execCalDataAccess_keeps (t : Nat) (c : Sys2Proof.Req) (wr : Bool) (v : Sys2Proof.Word) (s : State) : KeepsR s (execCalDataAccess t c wr v s) := by
  have h := Keeps.refl s
  unfold execCalDataAccess
  try dsimp -iota only
  repeat' first
    | with_reducible assumption | with_reducible apply KeepsR.next | with_reducible apply State_cmdWrite_keeps
    | with_reducible apply State_calWrite_keeps | with_reducible apply State_regRead_keeps (e := triple_eta _)
    | with_reducible apply State_regRead_keeps (e := by with_reducible assumption) | with_reducible apply State_advance_keeps
    | with_reducible apply State_emit_keeps | split | (intro _ _; try dsimp -iota only)

theorem execIrqStatusWrite_keeps (t : Nat) (c : Sys2Proof.Req) (p : BitVec 14) (v : Sys2Proof.Word) (s : State) : KeepsR s (execIrqStatusWrite t c p v s) := by
  have h := Keeps.refl s
  unfold execIrqStatusWrite
  try dsimp -iota only
  repeat' first
    | with_reducible assumption | with_reducible apply KeepsR.next | with_reducible apply State_advance_keeps
    | with_reducible apply State_cmdWrite_keeps | with_reducible apply State_irqClear_keeps
    | with_reducible apply State_takeInFor_keeps | split | (intro _ _; try dsimp -iota only)

theorem execProxyPageWrite_keeps (t : Nat) (c : Sys2Proof.Req) (x2 : BitVec 26) (v : Sys2Proof.Word) (s : State) : KeepsR s (execProxyPageWrite t c x2 v s) := by
  have h := Keeps.refl s
  unfold execProxyPageWrite
  try dsimp -iota only
  repeat' first
    | with_reducible assumption | with_reducible apply KeepsR.next | with_reducible apply State_advance_keeps
    | with_reducible apply State_regWrite_keeps | split

theorem execBar2Write_keeps (t : Nat) (_c : Sys2Proof.Req) (_a : BitVec 28) (s : State) : KeepsR s (execBar2Write t _c _a s) := by
  have h := Keeps.refl s
  unfold execBar2Write
  try dsimp -iota only
  repeat' first
    | with_reducible assumption | with_reducible apply KeepsR.next | with_reducible apply State_advance_keeps
    | with_reducible apply State_inc_keeps | split

theorem execReg_keeps (t : Nat) (c : Sys2Proof.Req) (x2 : BitVec 26) (wr : Bool) (v : Sys2Proof.Word) (s : State) : KeepsR s (execReg t c x2 wr v s) := by
  have h := Keeps.refl s
  unfold execReg
  try dsimp -iota only
  repeat' first
    | with_reducible assumption | with_reducible apply KeepsR.next | with_reducible apply State_regFlit_keeps
    | with_reducible apply State_advance_keeps | split

theorem execRegrsp_keeps (t : Nat) (s : State) : KeepsR s (execRegrsp t s) := by
  have h := Keeps.refl s
  unfold execRegrsp
  try dsimp -iota only
  repeat' first
    | with_reducible assumption | with_reducible apply KeepsR.next | with_reducible apply State_regRsp_keeps
    | with_reducible apply State_advance_keeps | split

theorem execPisteMgmt_keeps (t : Nat) (p : Fin 6) (x2 : Sys2Proof.PHdr) (w : List (BitVec 64)) (s : State) : KeepsR s (execPisteMgmt t p x2 w s) := by
  have h := Keeps.refl s
  unfold execPisteMgmt
  try dsimp -iota only
  repeat' first
    | with_reducible assumption | with_reducible apply KeepsR.next | with_reducible apply State_rxRouted_keeps
    | with_reducible apply State_advance_keeps | with_reducible apply State_mgmtIn_keeps | split
    | (intro _ _ _; try dsimp -iota only) | (intro _ _; try dsimp -iota only)

theorem execReadReg_keeps (t : Nat) (x1 : BitVec 26) (n : Nat) (s : State) : KeepsR s (execReadReg t x1 n s) := by
  have h := Keeps.refl s
  unfold execReadReg
  try dsimp -iota only
  repeat' first
    | with_reducible assumption | with_reducible apply KeepsR.next | with_reducible apply State_obsFrame_keeps
    | with_reducible apply State_advance_keeps | with_reducible apply State_obsRegs_keeps (e := pair_eta _)
    | with_reducible apply State_obsRegs_keeps (e := by with_reducible assumption) | with_reducible apply State_obsData_keeps
    | split | (intro _ _; try dsimp -iota only)

theorem execReadMem_keeps (t : Nat) (x1 : BitVec 28) (n : Nat) (s : State) : KeepsR s (execReadMem t x1 n s) := by
  have h := Keeps.refl s
  unfold execReadMem
  try dsimp -iota only
  repeat' first
    | with_reducible assumption | with_reducible apply KeepsR.next | with_reducible apply State_obsFrame_keeps
    | with_reducible apply State_advance_keeps | with_reducible apply State_memRead_keeps (e := pair_eta _)
    | with_reducible apply State_memRead_keeps (e := by with_reducible assumption) | with_reducible apply State_obsData_keeps
    | split | (intro _ _; try dsimp -iota only)

theorem execReadId_keeps (t : Nat) (s : State) : KeepsR s (execReadId t s) := by
  have h := Keeps.refl s
  unfold execReadId
  try dsimp -iota only
  repeat' first
    | with_reducible assumption | with_reducible apply KeepsR.next | with_reducible apply State_obsFrame_keeps
    | with_reducible apply State_advance_keeps | with_reducible apply State_obsData_keeps | split
    | (intro _ _; try dsimp -iota only)

theorem execObsDataTimeout_keeps (t : Nat) (s : State) : KeepsR s (execObsDataTimeout t s) := by
  have h := Keeps.refl s
  unfold execObsDataTimeout
  try dsimp -iota only
  repeat' first
    | with_reducible assumption | with_reducible apply KeepsR.next | with_reducible apply State_obsFrame_keeps
    | with_reducible apply State_advance_keeps | with_reducible apply State_emit_keeps | split
    | (intro _ _; try dsimp -iota only)

theorem execObsUnknownCommand_keeps (t : Nat) (s : State) : KeepsR s (execObsUnknownCommand t s) := by
  have h := Keeps.refl s
  unfold execObsUnknownCommand
  try dsimp -iota only
  repeat' first
    | with_reducible assumption | with_reducible apply KeepsR.next | with_reducible apply State_obsFrame_keeps
    | with_reducible apply State_advance_keeps | with_reducible apply State_emit_keeps | with_reducible apply State_inc_keeps
    | split | (intro _ _; try dsimp -iota only)

end Sys2Proof.Machine
end

