-- ==== Sys2Proof/Tests/Slice0.lean ====
section
/-!
SUPPORT. Small tests: for every statement a state and operands that meet its hypotheses (witness_<Name>), the conclusions that the kernel
can evaluate there, the well-formedness checks.

A witness sets its state by hand and runs one step. Where a conclusion stores a free value or folds over more elements than the
kernel evaluates, only the hypotheses are shown.
-/
namespace Sys2Proof.Tests
set_option Elab.async false
open Sys2Proof Sys2Proof.Machine Sys2Proof.Machine.Regs

/-! States and checks that the tests share. -/

/-- The block with boot complete, DT at 1 ms, every PLL locked, all dies up, and the boot protection table in force, which grants
MGMT P0 every page. -/
def up : State :=
  { State.reset with
    dt := 1000000, aonRun := true, protVault := false, regs := [],
    boot := { State.reset.boot with
      porHold := false, refclkOk := true, hubUp := true, lock := 2047, diesUp := 15, diesTrained := 15 } }.rs RSTC.BOOT_PHASE 0 10

/-- The outcome is a next state that passes the check. -/
def nx (o : Host.Outcome State Fault Refusal) (p : State → Bool) : Bool :=
  match o with
  | .next u => p u
  | _ => false

/-- The outcome is the next state `e`. -/
def eqs (o : Host.Outcome State Fault Refusal) (e : State) : Bool := nx o fun u => decide (u = e)

/-- `Reaches`, as a check. -/
def reachesB (s : State) (t : Nat) (c : Req) (p : Page) : Bool :=
  (s.advance t).answers p && (s.advance t).mayWrite c p.addr && (p.die?.all fun d => !(s.advance t).dieDown d) &&
    (s.advance t).clkGood p && !(s.advance t).inReset p

/-- The check says what `Reaches` says. -/
theorem reaches_of_check (s : State) (t : Nat) (c : Req) (p : Page) (h : reachesB s t c p = true) : Reaches s t c p := by
  simp only [reachesB, Bool.and_eq_true, Bool.not_eq_true'] at h
  obtain ⟨⟨⟨⟨h1, h2⟩, h3⟩, h4⟩, h5⟩ := h
  refine ⟨h1, h2, fun d hd => ?_, h4, h5⟩
  rw [hd] at h3
  simpa using h3

/-- The address of the word at `off` of a page. -/
def adr (p : Page) (off : Nat) : BitVec 26 := BitVec.ofNat 26 (p.addr * 4096 + off)
def adrB (p : Page) (off : Nat) : BitVec 29 := BitVec.ofNat 29 (p.addr * 4096 + off)

/-- The page word of a page. -/
def pg (p : Page) : BitVec 14 := BitVec.ofNat 14 p.addr

/-- `up` with some register fields of an instance set. -/
def sets (s : State) (l : List (Fld × Nat × Nat × Nat)) : State := l.foldl (fun s e => s.rs e.1 e.2.1 e.2.2.1 e.2.2.2) s

/-! Witnesses of the statements about the whole block, registers, memory, reads and block resets: hypotheses met together, and the
conclusion there. -/

theorem witness_FrontCommandTakesEffect : State.reset.pending = [] ∧ up.pending = [] ∧
    eqs (step { up with pending := [.perstAssert 0] }) up = false := by decide +kernel

theorem witness_ResetLeavesTheResetValues : RSTC.BOOT_PHASE.key 0 0 ≠ RSTC.CAUSE_HIST.key 0 ∧
    State.reset.rg RSTC.BOOT_PHASE 0 = 0 ∧ State.reset.rg MIPI.PHY_MODE 3 = MIPI.PHY_MODE.reset := by decide +kernel

theorem witness_StepKeepsTheCanonicalForm : (Mem.wf up.sram = true ∧ Mem.wf up.ddr4 = true ∧ Tab.rising up.regs) ∧
    nx (step { up with pending := [.perstAssert 0] }) (fun u => decide (u.regs.Pairwise fun a b => a.1 < b.1)) = true := by
  unfold Tab.rising; decide +kernel

theorem witness_EveryStepTakesExactlyOneCommand :
    nx (step { up with pending := [.perstAssert 0, .ppsInEdge 0] }) (fun u => decide (u.pending = [.ppsInEdge 0])) = true := by
  decide +kernel

theorem witness_DeviceTimeNeverRunsBackwards :
    nx (step { up with pending := [.tickBoundary 1000001] }) (fun u => u.dt == 1000001) = true ∧
    nx (step { up with pending := [.por 0] }) (fun u => u.dt == 0 && u.boot.porHold) = true := by decide +kernel

theorem witness_RegisterFieldReadsBackWhatWasWritten :
    ¬ ((0 : Nat) = 0 ∧ AER.WORDS.pk = AER.SETTLE.pk ∧ 0 % 4096 = 0 % 4096 ∧ AER.WORDS.off % 4096 = AER.SETTLE.off % 4096 ∧
      AER.WORDS.lsb % 64 = AER.SETTLE.lsb % 64) ∧
    ((up.rs AER.WORDS 0 (2 ^ 32 - 1)).inc AER.WORDS 0).rg AER.WORDS 0 = 0 ∧
    ((up.rs MIPI.ECC_FAIL 0 (2 ^ 32 - 1)).incSat MIPI.ECC_FAIL 0 1).rg MIPI.ECC_FAIL 0 = 2 ^ 32 - 1 := by decide +kernel

theorem witness_MemoryReadsBackWhatWasWritten :
    (Mem.wrLE [] 5 4 0x00112233).rd 5 = 0x33#8 ∧ (Mem.wrLE [] 5 4 0x00112233).rd 8 = 0#8 ∧
    (Mem.wrLE [] 5 4 0x00112233).rd 4 = Mem.fill ∧ Mem.wf (Mem.wrLE [] 5 4 0x00112233) = true ∧
    (Mem.wrLE [] 5 4 0x00112233).length = 3 := by decide +kernel

theorem witness_RebuiltTimeIsNearest :
    (2 ^ 35 + 7) % 2 ^ 35 = 7 % 2 ^ 35 ∧ rebuild (2 ^ 35) 7 = 2 ^ 35 + 7 ∧ rebuild (2 ^ 35 + 2 ^ 34) 0 = 2 ^ 35 ∧
    rebuild (2 ^ 35 + 2 ^ 34 + 1) 0 = 2 ^ 36 := by decide +kernel

theorem witness_LastingFaultOverwritesTheErrorLog :
    let b := up.logFault ⟨.clk, 0⟩ true 6 2
    up.on (Hdr.LOG_LASTING .clk) 0 = false ∧ b.on (Hdr.LOG_LASTING .clk) 0 = true ∧ b.rg (Hdr.LOG_CODE .clk) 0 = 6 ∧
    (b.logFault ⟨.clk, 0⟩ false 5 1).rg (Hdr.LOG_CODE .clk) 0 = 6 ∧
    (b.logFault ⟨.clk, 0⟩ true 5 1).rg (Hdr.LOG_CODE .clk) 0 = 5 := by decide +kernel

theorem witness_WordWriteSetsExactlyItsFields :
    let i := if staged .aer AER.SETTLE.off then stageIdx else up.idxAt .aer 1 AER.SETTLE.off
    (AER.SETTLE, 0) ∈ fldsAt .aer AER.SETTLE.off ∧ AER.SETTLE.acc = .rw ∧ AER.SETTLE.words = 1 ∧ i = 0 ∧
    (∀ e ∈ fldsAt .aer AER.SETTLE.off, AER.WORDS.key 1 0 ≠ e.1.key 1 i) ∧
    (up.putWord .aer 1 AER.SETTLE.off 0x77#32).rg AER.SETTLE 1 = AER.SETTLE.of 0x77#32 := by decide +kernel

theorem witness_RegisterWritesTakeEffectOrAreRejected :
    ((adrB ⟨.ddr, 0⟩ DDR.L2_CAP.off).toNat < 2 ^ 26 ∧ Page.ofAddr ((adrB ⟨.ddr, 0⟩ DDR.L2_CAP.off).toNat / 4096) = some ⟨.ddr, 0⟩ ∧ reachesB up 0 .mgmtP0 ⟨.ddr, 0⟩ = true ∧
      (adrB ⟨.ddr, 0⟩ DDR.L2_CAP.off).toNat % 4 = 0 ∧ 0x040 ≤ (adrB ⟨.ddr, 0⟩ DDR.L2_CAP.off).toNat % 4096 ∧
      inRange .ddr DDR.L2_CAP.off 25600#32 = true ∧ up.locked .ddr 0 DDR.L2_CAP.off 25600#32 = false ∧ up.crossOk .ddr 0 DDR.L2_CAP.off 25600#32 = true ∧
      eqs (exec (.registerWrite 0 .mgmtP0 (adrB ⟨.ddr, 0⟩ DDR.L2_CAP.off) .b4 25600) up) (up.putWord .ddr 0 DDR.L2_CAP.off 25600#32) = true) ∧
    (inRange .ddr DDR.L2_CAP.off 25601#32 = false ∧
      eqs (exec (.registerWrite 0 .mgmtP0 (adrB ⟨.ddr, 0⟩ DDR.L2_CAP.off) .b4 25601) up) (up.irqSet ⟨.ddr, 0⟩ 4) = true) ∧
    eqs (exec (.registerWrite 0 .mgmtP0 (adrB ⟨.ddr, 0⟩ DDR.L2_CAP.off) .b2 5) up) (up.irqSet ⟨.ddr, 0⟩ 4) = true ∧
    (Page.ofAddr 0x3FFF = none ∧ eqs (exec (.registerWrite 0 .mgmtP0 0x3FFF040#29 .b4 5) up) up = true) ∧
    (let s := { up with boot := { up.boot with diesUp := 7 } }
     Page.die? ⟨.die, 3⟩ = some 3 ∧ (s.advance 0).dieDown 3 = true ∧ (s.advance 0).answers ⟨.die, 3⟩ = true ∧
      (s.advance 0).mayWrite .mgmtP0 (Page.addr ⟨.die, 3⟩) = true ∧
      eqs (exec (.proxyPageWrite 0 .mgmtP0 (adr ⟨.die, 3⟩ 0x40) 1) s) (s.inc ((Hdr.EVT_COUNT .hub).nth 3) 0) = true) ∧
    (up.answers ⟨.hq, 0⟩ = true ∧ up.host.perst = false ∧ up.mayWrite .host (Page.addr ⟨.hq, 0⟩) = true ∧
      eqs (exec (.registerWrite 0 .host (BitVec.ofNat 29 (3 * 2 ^ 26 + 0xC)) .b4 5) up) (up.dbBad) = true ∧
      eqs (exec (.registerWrite 0 .host (BitVec.ofNat 29 (3 * 2 ^ 26)) .b8 5) up) (up.dbBad) = true) ∧
    (up.boot.hubUp = true ∧ eqs (exec (.bar2Write 0 .host 0) up) (up.inc ((Hdr.EVT_COUNT .hub).nth 2) 0) = true) := by decide +kernel

theorem witness_ReadsReturnLatchAndClear :
    ((up.advance 0).answers ⟨.time, 0⟩ = true ∧ (up.advance 0).mayRead .host (Page.addr ⟨.time, 0⟩) = true ∧
      (up.advance 0).clkGood ⟨.time, 0⟩ = true ∧ up.latched (latchClass .host, .time, 0, 0x040) = none ∧
      nx (exec (.latchingRead 0 .host (adrB ⟨.time, 0⟩ 0x40) .b4) up) (fun u => decide (u.out = [.readData .host [1000000]]) &&
        decide (u.latched (latchClass .host, .time, 0, 0x044) = some 0)) = true) ∧
    (let s := { up with latch := [((latchClass .host, .time, 0, 0x044), 9)] }
     s.latched (latchClass .host, .time, 0, 0x044) = some 9 ∧
      nx (exec (.latchingRead 5 .host (adrB ⟨.time, 0⟩ 0x44) .b4) s) (fun u => decide (u.out = [.readData .host [9]])) = true) ∧
    (let s := up.rs LDB.QUEUE_PEAK 15 77
     (s.advance 0).answers ⟨.ldb, 15⟩ = true ∧ (s.advance 0).mayRead .host (Page.addr ⟨.ldb, 15⟩) = true ∧ (s.advance 0).dieDown 3 = false ∧
      (s.advance 0).clkGood ⟨.ldb, 15⟩ = true ∧ s.latch = [] ∧ (s.advance 0).waiting LDB.QUEUE_PEAK 15 = 0 ∧
      nx (exec (.rcRead 0 .host (adrB ⟨.ldb, 15⟩ LDB.QUEUE_PEAK.off) .b4) s) (fun u => decide (u.out = [.readData .host [77]]) &&
        u.rg LDB.QUEUE_PEAK 15 == 0) = true) ∧
    (let s := { up with sram := Mem.wr up.sram 0x27FFFF9 0x5A }
     (windowOf 0x27FFFF8) = (1, 0x2800000) ∧ s.mayRead .host 0x10001 = true ∧ s.dieDown 0 = false ∧
      nx (exec (.rcRead 0 .host (BitVec.ofNat 29 (2 ^ 28 + 0x27FFFF8)) .b8) s) (fun u => decide (u.out = [.readData .host [0x5A00]])) = true) ∧
    (up.boot.hubUp = true ∧ nx (exec (.reg 0 .host (adr ⟨.time, 0⟩ 0x40) false 0) up) (fun u => u.net.length == 1) = true) ∧
    (let f : Flit := ⟨0xD, 2, 0, 3, reqCode .host, [42]⟩
     let s := { up with net := [⟨2, 1, 0, 0, 0, [0, 0]⟩, f] }
     f.toHub 0xD 3 = true ∧ Flit.toHub ⟨2, 1, 0, 0, 0, [0, 0]⟩ 0xD 3 = false ∧
      nx (exec (.regrsp 0) s) (fun u => decide (u.out = [.readData .host [42]]) && u.net.length == 1) = true) := by decide +kernel

theorem witness_InterruptAndBlockResetWrites :
    (let s := up.rs (Hdr.IRQ_RAW .aer) 1 3
     Page.ofAddr (pg ⟨.aer, 1⟩).toNat = some ⟨.aer, 1⟩ ∧ reachesB s 0 .mgmtP0 ⟨.aer, 1⟩ = true ∧
      nx (exec (.irqStatusWrite 0 .mgmtP0 (pg ⟨.aer, 1⟩) 1) s) (fun u => u.rg (Hdr.IRQ_RAW .aer) 1 == 2) = true) ∧
    ((Hdr.RR_KEY .aer).of 0xA5000001#32 = 0xA5 ∧ (Hdr.RR_REQUEST .aer).of 0xA5000001#32 = 1 ∧ PK.aer.blkReset = true ∧
      (up.advance 0).answers ⟨.aer, 1⟩ = true ∧ (up.advance 0).mayWrite .mgmtP0 (pg ⟨.aer, 1⟩).toNat = true ∧ Page.die? ⟨.aer, 1⟩ = none) ∧
    (up.heldPages.contains ⟨.aer, 1⟩ = false ∧ up.resetting.contains ⟨.aer, 1⟩ = false ∧ up.idle ⟨.aer, 1⟩ = true ∧
      nx (exec (.blockResetRequest 0 .mgmtP0 (pg ⟨.aer, 1⟩) 0xA5000001#32) up) (fun u => u.inReset ⟨.aer, 1⟩ &&
        u.rg (Hdr.ACCEPT_COUNT .aer) 1 == 1) = true) ∧
    (let s := { up with resetting := [⟨.aer, 1⟩] }
     (s.resetting.contains ⟨.aer, 1⟩ || !s.idle ⟨.aer, 1⟩) = true ∧
      nx (exec (.blockResetRequest 0 .mgmtP0 (pg ⟨.aer, 1⟩) 0xA5000001#32) s) (fun u => u.on (Hdr.REFUSED .aer) 1 &&
        decide (u.resetting = s.resetting)) = true ∧
      s.resetting.contains ⟨.aer, 1⟩ = true ∧ s.on (Hdr.DEFERRED .aer) 1 = false ∧ (s.advance 0).clkGood ⟨.aer, 1⟩ = true ∧
      nx (exec (.blockResetDone 0 (pg ⟨.aer, 1⟩)) s) (fun u => decide (u.resetting = [])) = true) ∧
    (let s := { up with heldPages := [⟨.aer, 1⟩] }
     s.heldPages.contains ⟨.aer, 1⟩ = true ∧ (Hdr.RR_HOLD .aer).of 0xA5000001#32 = 0 ∧ s.clkGood ⟨.aer, 1⟩ = true ∧
      nx (exec (.blockResetRelease 0 .mgmtP0 (pg ⟨.aer, 1⟩) 0xA5000001#32) s) (fun u => decide (u.heldPages = []) &&
        (u.rg (Hdr.IRQ_RAW .aer) 1).testBit 2) = true) := by decide +kernel

theorem witness_PllLockLossAndReturn :
    ((Pll.die 3) ≠ .hub ∧ (Pll.die 3) ≠ .aon ∧ (up.advance 0).boot.lock.testBit (pllBit (.die 3)) = true ∧
      (up.advance 0).relockBroken (pllBit (.die 3)) = false ∧ Page.pll ⟨.die, 3⟩ = pllBit (.die 3) ∧
      nx (exec (.pllLockLoss 0 (.die 3)) up) (fun u => !u.clkGood ⟨.die, 3⟩ && u.rg CLK.LOCK_LOSSES 0 == 1) = true) ∧
    (up.boot.lock.testBit 1 = true ∧ nx (exec (.pllLockLoss 0 .hub) up) (fun u => !u.boot.lock.testBit 1) = true) ∧
    (up.boot.lock.testBit 0 = true ∧ up.relockBroken 0 = false ∧
      nx (exec (.pllLockLoss 0 .aon) up) (fun u => u.rg CLK.LOCK_LOSSES 0 == 1 && u.boot.hubUp && u.dt == 1000000) = true) := by
  decide +kernel

theorem witness_PllLockReturn :
    (let s := { up with boot := { up.boot with lock := 2047 - 1024, lostAt := [(10, 1000000 - 99998)] } }
     (s.advance 0).boot.lock.testBit (pllBit .piste) = false ∧ s.boot.porHold = false ∧ s.boot.pinHold = false ∧
      2 ≤ Tab.get 0 s.boot.lostAt (pllBit .piste) ∧ (s.advance 0).dt + 2 ≤ Tab.get 0 s.boot.lostAt (pllBit .piste) + 100000 ∧
      nx (exec (.pllLock 0 .piste) s) (fun u => u.clkGood ⟨.pst, 5⟩ && u.rg (Hdr.ERR_TRANSIENT .clk) 0 == 0 &&
        Tab.get 0 u.boot.relockAt 10 == 1000001) = true ∧
      nx (exec (.pllLock 1 .piste) { s with dt := 1000001 }) (fun u => u.clkGood ⟨.pst, 5⟩ && u.rg (Hdr.ERR_LASTING .clk) 0 == 1) = true ∧
      eqs (exec (.pllLock 0 .piste) up) up = true ∧ eqs (exec (.pllLockLoss 0 .piste) s) s = true) ∧
    (let s := { up with boot := { up.boot with relockAt := [(10, 1000001 - 1000000)] }, dt := 1000000000 }
     nx (exec (.pllLockLoss 0 .piste) s) (fun u => u.rg (Hdr.ERR_TRANSIENT .clk) 0 == 1 && u.rg (Hdr.ERR_LASTING .clk) 0 == 0) = true ∧
      nx (exec (.pllLockLoss 0 .piste) { s with dt := 999999999 }) (fun u => u.rg (Hdr.ERR_TRANSIENT .clk) 0 == 0 &&
        u.rg (Hdr.ERR_LASTING .clk) 0 == 1) = true) ∧
    (let s := { up with boot := { up.boot with lock := 2047 - 2 }, regs := [] }.rs RSTC.BOOT_PHASE 0 3
     nx (exec (.pllLock 0 .hub) s) (fun u => u.phase == 4 && u.boot.hubUp) = true ∧
      nx (exec (.pllLock 0 .eth) { s with boot := { s.boot with lock := 3 } }) (fun u => u.boot.lock == 3 + 512) = true) := by decide +kernel

theorem witness_PllLossLasting :
    (let s := { up with boot := { up.boot with lock := 2047 - 32, lostAt := [(5, 1000000 - 99998)] } }
     Tab.get 0 s.boot.lostAt (2 + 3) + 99998 ≤ (s.advance 0).dt ∧
      nx (exec (.lockLossLasting 0 (.die 3)) s) (fun u => u.fenced.contains (.die 3) && u.rg (Hdr.ERR_LASTING .die) 3 == 1) = true) := by
  decide +kernel

/-! Witnesses of the statements about time and clock models. -/

/-- A flit stamp `a` ns in the past of `up`'s DT plus `d`. -/
def oldTok (t : Nat) : TokPend := ⟨0, 0, t, 0, []⟩

theorem witness_TickBoundaryAndStaleWords :
    (let b := up.advance 0
     eqs (exec (.tickBoundary 0) { up with tick := 976 }) { up with tick := 976 } = true ∧ b.tickOf b.dt = 976) ∧
    (up.tick < up.tickOf up.dt ∧ up.phasePend = none ∧ eqs (exec (.tickBoundary 0) up) { up with tick := 976 } = true) ∧
    (let s := { up with phasePend := some 1023 }
     eqs (exec (.tickBoundary 0) s) (({ s with tick := 976, phasePend := none }.rs TIME.TICK_PHASE 0 1023).irqSet ⟨.time, 0⟩ 9) = true) ∧
    (let s := { up with phasePend := some 0 }
     s.rg TIME.TICK_PHASE 0 = 0 ∧ eqs (exec (.tickBoundary 0) s) ({ s with tick := 976, phasePend := none }.rs TIME.TICK_PHASE 0 0) = true) ∧
    (let s := { up with dt := 2 ^ 34, tok := [(15, { Tok.init with pend := [oldTok (2 ^ 33), oldTok (2 ^ 33 - 1)] })] }
     s.rg CLU.STALE_FLITS 15 < 2 ^ 32 ∧
      nx (exec (.staleCheck 0 (.tok 15)) s) (fun u => decide ((u.tk 15).pend = [oldTok (2 ^ 33)]) &&
        u.rg CLU.STALE_FLITS 15 == 1) = true) ∧
    (let s := { up with dt := 2 ^ 34, cores := [(4095, { Core.init with queue := [⟨2 ^ 33 - 1, 3, 0, 0, false⟩, ⟨2 ^ 33 - 1, 0, 0, 0, false⟩] })] }
     s.rg CLU.STALE_FLITS 15 < 2 ^ 32 ∧
      nx (exec (.staleCheck 0 (.coreQueue 4095)) s) (fun u => (u.core 4095).queue.length == 1 && u.rg CLU.STALE_FLITS 15 == 1) = true) ∧
    (let s := { up with dt := 2 ^ 34, banks := [(3, { Bank.init with queue := [⟨0, 0, 0, 0, 2 ^ 33, false, false, false⟩, ⟨0, 0, 0, 0, 1, false, false, false⟩] })],
                        routers := [(3, { Router.init with wait := [⟨0, 1, 0, 0⟩, ⟨0, 2 ^ 33, 0, 0⟩] })],
                        fab := { up.fab with openF := [⟨0, 1, 0, 0, [], 0⟩] } }
     nx (exec (.staleCheck 0 (.ledger 3)) s) (fun u => (u.bank 3).queue.length == 1) = true ∧
     nx (exec (.staleCheck 0 (.router 3)) s) (fun u => (u.router 3).wait.length == 1) = true ∧
     nx (exec (.staleCheck 0 (.escape 3)) s) (fun u => (u.router 3).escLevel == 0) = true ∧
     nx (exec (.staleCheck 0 .piste) s) (fun u => u.fab.openF.isEmpty) = true) := by decide +kernel

/-- `up` with SYNC_OUT3 on, its period 100 µs, its next edge at DT 2 ms. -/
def lineUp : State := (up.rs TIME.SYNC_EN 0 8).upLine 3 fun l => { l with period := 100, next := 2000000 }

theorem witness_SyncLineRegisterWrites :
    (reachesB up 0 .mgmtP0 ⟨.time, 0⟩ = true ∧ reachesB lineUp 0 .mgmtP0 ⟨.time, 0⟩ = true ∧ up.lineOn 3 = false ∧ lineUp.lineOn 3 = true ∧
      lineUp.rg TIME.SYNC_WIDTH 0 = TIME.SYNC_WIDTH.reset) ∧
    (eqs (exec (.syncPeriodWrite 0 .mgmtP0 3 100) up) ((up.rs (TIME.SYNC_PERIOD.nth 3) 0 100).upLine 3 fun l => { l with period := 100 }) = true ∧
      eqs (exec (.syncPeriodWrite 0 .mgmtP0 3 100000) lineUp)
        ((lineUp.rs (TIME.SYNC_PERIOD.nth 3) 0 100000).upLine 3 fun l => { l with pend := some 100000 }) = true ∧
      eqs (exec (.syncPeriodWrite 0 .mgmtP0 3 99) up) (up.irqSet ⟨.time, 0⟩ 4) = true ∧
      eqs (exec (.syncPeriodWrite 0 .mgmtP0 3 100001) up) (up.irqSet ⟨.time, 0⟩ 4) = true) ∧
    (eqs (exec (.syncWidthWrite 0 .mgmtP0 99) lineUp) (lineUp.rs TIME.SYNC_WIDTH 0 99) = true ∧
      eqs (exec (.syncWidthWrite 0 .mgmtP0 100) lineUp) (lineUp.irqSet ⟨.time, 0⟩ 4) = true ∧
      eqs (exec (.syncWidthWrite 0 .mgmtP0 0) up) (up.irqSet ⟨.time, 0⟩ 4) = true) ∧
    (let s := lineUp.rs TIME.SYNC_WIDTH 0 99
     nx (exec (.syncEnWrite 0 .mgmtP0 9) s) (fun u => u.rg TIME.SYNC_EN 0 == 9 && decide (u.line 3 = s.line 3) &&
        (u.line 0).next == nextMultiple s.dt 1000000) = true ∧
      nx (exec (.syncEnWrite 0 .mgmtP0 0) s) (fun u => u.rg TIME.SYNC_EN 0 == 0 && (u.line 3).next == 0) = true ∧
      eqs (exec (.syncEnWrite 0 .mgmtP0 2) ((up.rs TIME.SYNC_WIDTH 0 255).upLine 1 fun l => { l with period := 255 }))
        (((up.rs TIME.SYNC_WIDTH 0 255).upLine 1 fun l => { l with period := 255 }).irqSet ⟨.time, 0⟩ 4) = true) := by
  decide +kernel

theorem witness_SyncEdgesAndPulseInputs :
    (let s := lineUp.upLine 3 fun l => { l with pend := some 200 }
     (lineUp.advance 2000000).edgeDue 3 = true ∧ (s.advance 2000001).edgeDue 3 = true ∧
      nx (exec (.syncOutEdge 2000000 3) lineUp) (fun u => decide (u.out = [.pin (syncPin 3) true]) && (u.line 3).high &&
        u.rg (TIME.SYNC_EDGE.nth 3) 0 == 2000000 && decide ((u.line 3).edges = [(2000000, 100)]) && (u.line 3).next == 2100000) = true ∧
      nx (exec (.syncOutEdge 2000001 3) s) (fun u => (u.line 3).period == 200 &&
        (u.line 3).next == nextMultiple (2000000 + lineUp.rg TIME.SYNC_WIDTH 0 * 1000) 200000) = true) ∧
    (let s := lineUp.upLine 3 fun l => { l with high := true, fallAt := 1000000 }
     (s.line 3).fallAt ≤ (s.advance 0).dt ∧ (s.line 3).high = true ∧
      eqs (exec (.syncOutFall 0 3) s) ((s.upLine 3 fun l => { l with high := false }).emit (.pin (syncPin 3) false)) = true) ∧
    (up.aonRun = true ∧ nx (exec (.ppsInEdge 1000007) up) (fun u => u.rg TIME.PPS_IN_DT 0 == 1000007 && u.rg TIME.PPS_IN_COUNT 0 == 1 &&
      (u.rg (Hdr.IRQ_RAW .time) 0).testBit 8) = true) ∧
    (let s := fun n => ((lineUp.rs STREAM.MODE 35 1).rs STREAM.SYNC_LINE 35 3).upSt 35 fun c => { c with periods := n }
     (s 16).cmMode 35 = 1 ∧ ((s 16).st 35).periods = 16 ∧ nx (exec (.syncLostTimeout 0 35) (s 16)) (fun u => u.on STREAM.SYNC_LOST 35) = true ∧
      eqs (exec (.syncLostTimeout 0 35) (s 15)) (s 15) = true ∧
      nx (exec (.syncOutEdge 2000000 3) ((s 15).upLine 3 fun l => { l with began := true })) (fun u => (u.st 35).periods == 16) = true ∧
      nx (exec (.syncOutEdge 2000000 3) (s 15)) (fun u => (u.st 35).periods == 15 && (u.line 3).began) = true) := by decide +kernel

theorem witness_ClockModelWrites :
    reachesB up 0 .mgmtP0 ⟨.stream, 35⟩ = true ∧
    (let w : Word := BitVec.ofNat 32 (2 ^ STREAM.MODE.lsb * 1 + 2 ^ STREAM.FIT_LOG.lsb * 6)
     STREAM.MODE.of w = 1 ∧ STREAM.FIT_LOG.of w = 6 ∧ up.cmMode 35 ≠ 1 ∧
      nx (exec (.cmModeWrite 0 .mgmtP0 35 w) up) (fun u => u.cmMode 35 == 1 && u.rg STREAM.FIT_LOG 35 == 6 && !(u.st 35).act.valid) = true) ∧
    (let w : Word := BitVec.ofNat 32 (2 + 2 ^ STREAM.FIT_LOG.lsb * 1)
     up.cmMode 35 = STREAM.MODE.of w ∧ nx (exec (.cmModeWrite 0 .mgmtP0 35 w) up) (fun u => decide (u.strm = up.strm)) = true) ∧
    (STREAM.FIT_LOG.of 0#32 = 0 ∧ eqs (exec (.cmModeWrite 0 .mgmtP0 35 0) up) (up.irqSet ⟨.stream, 35⟩ 4) = true) ∧
    (let w : Word := BitVec.ofNat 32 (2 ^ STREAM.FIT_LOG.lsb * 7)
     STREAM.FIT_LOG.of w = 7 ∧ eqs (exec (.cmModeWrite 0 .mgmtP0 35 w) up) (up.irqSet ⟨.stream, 35⟩ 4) = true) ∧
    (STREAM.CM_COMMIT.of 0#32 = 0 ∧ eqs (exec (.cmCommit 0 .mgmtP0 35 0) up) up = true ∧ STREAM.CM_COMMIT.of 1#32 ≠ 0 ∧
      up.on (Hdr.ENABLE .stream) 35 = false ∧
      nx (exec (.cmCommit 0 .mgmtP0 35 1) up) (fun u => decide ((u.st 35).act = ⟨false, 0, 0, 0x000003E800000000⟩)) = true ∧
      nx (exec (.cmCommit 0 .mgmtP0 35 1) (up.rs STREAM.MODE 35 0)) (fun u => (u.st 35).act.valid) = true) ∧
    (let s := up.rs (Hdr.ENABLE .stream) 35 1
     s.on (Hdr.ENABLE .stream) 35 = true ∧ eqs (exec (.cmCommit 0 .mgmtP0 35 1) s)
       (s.upSt 35 fun x => { x with cap := some ⟨true, x.stgS, x.stgDT, x.stgRate⟩ }) = true) ∧
    (eqs (exec (.streamUnitWrite 0 .mgmtP0 35 65535) up)
        ((up.rs STREAM.STREAM_UNIT 35 65535).upSt 35 fun x => { x with stgRate := 65535 * 2 ^ 32 }) = true ∧
      eqs (exec (.streamUnitWrite 0 .mgmtP0 35 0) up) (up.irqSet ⟨.stream, 35⟩ 4) = true ∧
      eqs (exec (.streamUnitWrite 0 .mgmtP0 35 65536) up) (up.irqSet ⟨.stream, 35⟩ 4) = true) := by decide +kernel

/-! Witnesses of the statements about the ingest. -/

theorem witness_PayloadBytesPackLittleEndian :
    let bs : List Byte := [1, 2, 3, 4, 5, 6, 7, 8, 9]
    bs[8]? = some 9 ∧ packWords 10 bs = [(0x0807060504030201, 8), (9, 1)] ∧ packWords 1 [] = [] := by decide +kernel

/-- A decoded event of stream time `n`. -/
def dev (n : Nat) : DecEv := ⟨false, 3, 4, 1, n, 1000000, none⟩

/-- Stream 35 with one decoded event whose time the active model maps to DT 1000000 + 1000 n. -/
def stmp (n : Nat) (p : Option Nat) : State :=
  { up with strm := [(35, { Strm.init with wait := [dev n], prev := p, act := ⟨true, 0, 1000000, 1000 * 2 ^ 32⟩,
                                           stm := ⟨true, 0, 1000000, 1000 * 2 ^ 32⟩ })] }

theorem witness_StampedTimeNeverDecreasesInAStream :
    (((stmp 2 (some 5)).st 35).wait = dev 2 :: [] ∧ (dev 2).trig = false ∧ (dev 2).post = none) ∧
    (outOfRange 1000000 ((stmp 2 (some 5)).mapEvent 35 (dev 2)) = false ∧ (stmp 2 (some 5)).mapEvent 35 (dev 2) = 1002000 ∧
      nx (exec (.stampEvent 0 35) (stmp 2 (some 5))) (fun u => decide ((u.st 35).prev = some 1002000) &&
        u.rg STREAM.CLAMPED 35 == 0) = true ∧
      nx (exec (.stampEvent 0 35) (stmp 2 (some 1002001))) (fun u => decide ((u.st 35).prev = some 1002001) &&
        u.rg STREAM.CLAMPED 35 == 1 && ((u.st 35).queue.map Ev.dt == [] || (u.st 35).queue.map Ev.dt == [1002001])) = true) ∧
    (outOfRange 1000000 ((stmp (2 ^ 40) (some 5)).mapEvent 35 (dev (2 ^ 40))) = true ∧
      nx (exec (.stampEvent 0 35) (stmp (2 ^ 40) (some 5))) (fun u => decide ((u.st 35).prev = some 5)) = true) := by decide +kernel

/-- MIPI port 17 on, its map 3 on: virtual channel 2, data type 0x37, to stream 35, which is enabled. -/
def mipiUp : State :=
  (((((up.rs (Hdr.ENABLE .mipi) 17 1).rs (MIPI.MAP_EN.nth 3) 17 1).rs (MIPI.VCID.nth 3) 17 2).rs (MIPI.DT_MASK.nth 3) 17 0x80).rs
    (MIPI.STREAM.nth 3) 17 35).rs (Hdr.ENABLE .stream) 35 1

/-- AER port 1 on and mapped to stream 35, which is enabled. -/
def aerUp : State :=
  (((up.rs (Hdr.ENABLE .aer) 1 1).rs AER.MAP_EN 1 1).rs AER.STREAM 1 35).rs (Hdr.ENABLE .stream) 35 1

theorem witness_ReceptionOverMipiAndAer :
    ((mipiUp.advance 0).portOn ⟨.mipi, 17⟩ = true ∧
      eqs (exec (.mipiPacket 0 17 2 0x37 true .bad [1] [0] true) mipiUp) ((mipiUp.inc MIPI.ECC_FAIL 17).irqSet ⟨.mipi, 17⟩ 8) = true ∧
      eqs (exec (.mipiPacket 0 17 2 0x01 false .ok [] [] true) mipiUp) (mipiUp.inc MIPI.SHORT_PKTS 17) = true ∧
      eqs (exec (.mipiPacket 0 17 2 0x2F true .ok [1] [0] true) mipiUp) (mipiUp.inc MIPI.IMG_PKTS 17) = true ∧
      eqs (exec (.mipiPacket 0 17 2 0x38 true .ok [1] [0] true) mipiUp) (mipiUp.inc MIPI.IMG_PKTS 17) = true ∧
      mipiUp.vcMap 17 2 0x30 = none ∧
      eqs (exec (.mipiPacket 0 17 2 0x30 true .ok [1] [0] true) mipiUp) (mipiUp.inc MIPI.UNMAPPED_PKTS 17) = true ∧
      mipiUp.vcMap 17 2 0x37 = some 3 ∧ mipiUp.on (Hdr.ENABLE .stream) (mipiUp.rg (MIPI.STREAM.nth 3) 17) = true ∧
      nx (exec (.mipiPacket 0 17 2 0x37 true .ok [1, 2, 3] [1000000] true) mipiUp) (fun u => u.rg MIPI.PKTS_OK 17 == 1 &&
        decide ((u.st 35).fifo.map StageW.w = [0x030201])) = true) ∧
    (mipiUp.on MIPI.PHY_MODE 17 = false ∧ eqs (exec (.deskewSequence 0 17) mipiUp) (mipiUp.rb MIPI.DESKEW_DONE 17 true) = true) ∧
    ((aerUp.advance 0).portOn ⟨.aer, 1⟩ = true ∧ aerUp.aerP 1 = AerPort.init ∧
      eqs (exec (.aerReqRise 0 1) aerUp) (aerUp.upAer 1 ⟨true, 999997, 1000000, false⟩) = true) ∧
    (let s := aerUp.upAer 1 ⟨true, 999990, 1000000 - aerUp.rg AER.SETTLE 1, false⟩
     (s.aerP 1).req = true ∧ (s.aerP 1).ack = false ∧ (s.aerP 1).seen + s.rg AER.SETTLE 1 ≤ (s.advance 0).dt ∧ s.on AER.MAP_EN 1 = true ∧
      s.on (Hdr.ENABLE .stream) (s.rg AER.STREAM 1) = true ∧
      nx (exec (.aerLatch 0 1 0xABCDEF) s) (fun u => u.rg AER.WORDS 1 == 1 && (u.aerP 1).ack &&
        decide ((u.st 35).fifo.map StageW.w = [0xABCDEF])) = true ∧
      nx (exec (.aerReqFall 0 1) s) (fun u => u.rg AER.PROTO_ERR 1 == 1) = true ∧
      (s.rs AER.MAP_EN 1 0).on AER.MAP_EN 1 = false ∧
      nx (exec (.aerLatch 0 1 0xABCDEF) (s.rs AER.MAP_EN 1 0)) (fun u => u.rg AER.WORDS 1 == 1 && decide (u.strm = s.strm)) = true) ∧
    (let s := aerUp.upAer 1 ⟨true, 999990, 999991, true⟩
     (s.aerP 1).ack = true ∧ nx (exec (.aerReqFall 0 1) s) (fun u => decide (u.aerP 1 = AerPort.init)) = true) ∧
    (Page.ofAddr (pg ⟨.mipi, 17⟩).toNat = some ⟨.mipi, 17⟩ ∧ reachesB up 0 .mgmtP0 ⟨.mipi, 17⟩ = true ∧ (Hdr.ENABLE .mipi).of 1#32 = 1 ∧
      eqs (exec (.portEnable 0 .mgmtP0 (pg ⟨.mipi, 17⟩) 1) up) (up.rs (Hdr.ENABLE .mipi) 17 1) = true ∧
      reachesB aerUp 0 .mgmtP0 ⟨.aer, 1⟩ = true ∧ (Hdr.ENABLE .aer).of 0#32 = 0 ∧ (aerUp.aerP 1).ack = false ∧
      eqs (exec (.portEnable 0 .mgmtP0 (pg ⟨.aer, 1⟩) 0) aerUp) ((aerUp.rs (Hdr.ENABLE .aer) 1 0).upAer 1 AerPort.init) = true) := by
  decide +kernel

/-- Stream 35 in FIXED mode with 64-bit words, class 0 an EVENT: x the low 8 bits, y the next 8, polarity bit 16; one full word
staged. -/
def decUp : State :=
  let s := { up with strm := [(35, { Strm.init with fifo := [⟨0x10203, 1000000, 8, false⟩] })] }
  [(STREAM.WORD_BITS, 2), (STREAM.MODE, 0), (STREAM.WIDTH_M1, 3), (STREAM.HEIGHT_M1, 2), (STREAM.KIND.nth 0, 0), (STREAM.CLASS_EN.nth 0, 1),
    (STREAM.F0.nth 0, 0x200), (STREAM.F1.nth 0, 0x208), (STREAM.F2.nth 0, 0x50), (STREAM.F3.nth 0, 0),
    (Hdr.ENABLE .stream, 1)].foldl (fun s e => s.rs e.1 35 e.2) s

/-- Stream 35 with one event waiting at the distributor and its tile set to clusters 0 and 15. -/
def distUp (credits : Nat) : State :=
  let s := { up with strm := [(35, { Strm.init with queue := [⟨35, 3, 2, 1, 1000000, 0⟩] })], dcred := [(15 * 36 + 35, credits)] }
  (s.rs STREAM.CORE_CLUSTERS 35 0x8001).rs (Hdr.ENABLE .stream) 35 1

theorem witness_DecodingAndDistribution :
    (let g : StageW := ⟨0x10203, 1000000, 8, false⟩
     (decUp.st 35).rx = [] ∧ (decUp.st 35).wait = [] ∧ (decUp.st 35).fifo = g :: [] ∧ (decUp.st 35).cap = none ∧ g.resync = false ∧
      g.valid = 8 ∧ g.w < 2 ^ 64 ∧ decUp.rg STREAM.WORD_BITS 35 = 2 ∧ decUp.cmMode 35 = 0 ∧ decUp.classOf 35 g.w = some 0 ∧
      decUp.rg (STREAM.KIND.nth 0) 35 = 0 ∧ decUp.rg (STREAM.F3.nth 0) 35 = 0 ∧ fieldOf (decUp.rg (STREAM.F0.nth 0) 35) g.w = some 3 ∧
      fieldOf (decUp.rg (STREAM.F1.nth 0) 35) g.w = some 2 ∧ fieldOf (decUp.rg (STREAM.F2.nth 0) 35) g.w = some 1 ∧
      3 ≤ decUp.rg STREAM.WIDTH_M1 35 ∧ 2 ≤ decUp.rg STREAM.HEIGHT_M1 35) ∧
    nx (exec (.decodeWord 0 35) decUp) (fun u => decide ((u.st 35).wait = [⟨false, 3, 2, 1, 0, 1000000, none⟩]) &&
      u.rg STREAM.EVENTS 35 == 1 && (u.st 35).fifo.isEmpty) = true ∧
    (((distUp 1).st 35).queue = [⟨35, 3, 2, 1, 1000000, 0⟩] ∧ (distUp 1).on (Hdr.ENABLE .jstr) 35 = false ∧
      (distUp 1).tileClusters 35 (tileIdx 0 3 2) = [0, 15] ∧
      (∀ k ∈ [0, 15], (distUp 1).gated k = false ∧ 0 < (distUp 1).credit k 35) ∧
      nx (exec (.distIssue 0 35) (distUp 1)) (fun u => (u.st 35).queue.isEmpty && decide (u.net.map Flit.dcl = [0, 15])) = true ∧
      (distUp 0).creditsFor 35 [0, 15] = false ∧
      nx (exec (.distIssue 0 35) (distUp 0)) (fun u => (u.st 35).queue.length == 1 && u.net.isEmpty) = true) ∧
    (let s := { up with rfb := { up.rfb with closed := 959 } }
     s.rfb.closed + 17 ≤ (s.advance 0).curTick ∧ nx (exec (.rateTickClose 0) s) (fun u => u.rfb.closed == 960) = true) := by
  decide +kernel

theorem witness_StreamRegisterCommands :
    reachesB up 0 .mgmtP0 ⟨.stream, 35⟩ = true ∧
    nx (exec (.hotDataWrite 0 .mgmtP0 35 0x80000003#32) (up.rs STREAM.HOT_INDEX 35 7)) (fun u =>
      [STREAM.HOT_X, STREAM.HOT_Y, STREAM.DROP_ON, STREAM.DROP_OFF, STREAM.HOT_VALID].all fun f => u.rg f 35 7 == f.of 0x80000003#32) = true ∧
    (STREAM.SWAP.of 2#32 = 1 ∧ up.on STREAM.SWAP_PENDING 35 = false ∧
      eqs (exec (.tmapSwap 0 .mgmtP0 35 2) up) ((up.rb STREAM.SWAP_PENDING 35 true).upSt 35 fun x => { x with swapTick := up.curTick }) = true) ∧
    (let s := up.rb STREAM.SWAP_PENDING 35 true
     s.on STREAM.SWAP_PENDING 35 = true ∧ eqs (exec (.tmapSwap 0 .mgmtP0 35 2) s) s = true) ∧
    (STREAM.SWAP.of 0#32 = 0 ∧ eqs (exec (.tmapSwap 0 .mgmtP0 35 0) up) up = true) ∧
    ((Hdr.ENABLE .stream).of 1#32 = 1 ∧ up.on (Hdr.ENABLE .stream) 35 = false ∧ (aerUp.rb (Hdr.ENABLE .stream) 35 false).enableOk 35 = true ∧ up.enableOk 35 = false ∧
      nx (exec (.streamEnable 0 .mgmtP0 35 1) (aerUp.rb (Hdr.ENABLE .stream) 35 false)) (fun u => u.on (Hdr.ENABLE .stream) 35) = true ∧
      eqs (exec (.streamEnable 0 .mgmtP0 35 1) up) (up.irqSet ⟨.stream, 35⟩ 4) = true) ∧
    ((Hdr.ENABLE .stream).of 0#32 = 0 ∧ decUp.on (Hdr.ENABLE .stream) 35 = true ∧ (decUp.st 35).rx = [] ∧
      nx (exec (.streamDisable 0 .mgmtP0 35 0) decUp) (fun u => !u.on (Hdr.ENABLE .stream) 35 && decide (u.st 35 = decUp.st 35)) = true) := by
  decide +kernel

/-! Witnesses of the statements about the Ledger. -/

/-- Bank 15 with descriptor 63 enabled: one tile of stream 35 and map 5 at tile (2, 1), MERGED, TICK. -/
def ldbUp : State :=
  sets up [(LDB.DESC_EN, 15, 1, 63), (LDB.KEY, 15, 35, 63), (LDB.MAP, 15, 5, 63), (LDB.TX0, 15, 2, 63), (LDB.TY0, 15, 1, 63),
    (LDB.TW, 15, 1, 63), (LDB.TH, 15, 1, 63), (LDB.HALO, 15, 0, 63), (LDB.POL_MODE, 15, 1, 63), (LDB.SOURCE, 15, 0, 63),
    (LDB.DISCIPLINE, 15, 0, 63), (LDB.BACKED, 15, 0, 63), (LDB.K, 15, 0, 63), (LDB.SHADOW, 15, 0, 63)]

/-- The event word of stream 35 at (64, 32), polarity 1, time 1000000. -/
def w35 : Nat := evWord 35 64 32 1 1000000

/-- Core 255 of cluster 15 subscribes to the tile (2, 1) of stream 35. -/
def subUp : State :=
  sets up [(CLU.WIN_EN, 15, 1, 35), (CLU.TX0, 15, 2, 35), (CLU.TY0, 15, 1, 35), (CLU.TW, 15, 1, 35), (CLU.TH, 15, 1, 35),
    (CLU.SUB_BASE, 15, 9, 35), (CLU.N, 15, 1, 9), (CLU.SUB_LO, 15, 255, 9)]

theorem witness_EventsReplaysAndCoreWritesReachTheBank :
    (let f : Flit := ⟨0, 1, 15, 0, 5 * 256 + 192, [w35]⟩
     let s := { up with net := [f] }
     (s.advance 0).takeFlit (fun f => f.toUnit 0 15 0) = some (f, up) ∧
      eqs (exec (.eventFlit 0 15) s) { up with rqueue := [(15 * 36 + 35, [⟨w35, 5, true, true, none⟩])] } = true) ∧
    (let q : QFlit := ⟨w35, 5, true, false, none⟩
     let s := { ldbUp with rqueue := [(15 * 36 + 35, [q])], dcred := [(15 * 36 + 35, 7)] }
     Tab.get [] s.rqueue (15 * 36 + 35) = q :: [] ∧ (s.advance 0).mayDeliver 15 q = true ∧
      nx (exec (.streamQueueDeliver 0 15 35) s) (fun u => u.rqueue.isEmpty && u.credit 15 35 == 8 && (u.bank 15).queue.length == 1) = true) ∧
    (let q : QFlit := ⟨w35, 5, false, true, none⟩
     let s := { subUp with rqueue := [(15 * 36 + 35, [q])], cores := [(4095, { Core.init with queue := List.replicate 64 ⟨0, 0, 0, 0, false⟩ })] }
     (s.advance 0).mayDeliver 15 q = false ∧
        nx (exec (.streamQueueDeliver 0 15 35) s) (fun u => decide (u.rqueue = s.rqueue) && (u.rg CLU.STALL_STREAMS 15).testBit 35) = true) ∧
    (let s := subUp
     let q : QFlit := ⟨w35, 5, false, true, none⟩
     s.eventDescs 15 q = [] ∧ q.ledger = false ∧ q.cores = true ∧ (s.subCores 15 q.word).isSome = true ∧
      (∀ c ∈ (s.subCores 15 q.word).getD [], s.coreFenced (256 * 15 + c) = false) ∧
      (s.deliver 15 q).net.map Flit.dep = (s.subCores 15 q.word).getD [] ∧ (s.deliver 15 q).net ≠ []) ∧
    (let f : Flit := ⟨1, 1, 15, 0, 5 * 256 + 128, [w35, 1000000]⟩
     let s := { (ldbUp.rs LDB.SHADOW 15 1 63) with net := [f], dcred := [(15 * 36 + 35, 7)] }
     (s.advance 0).takeFlit (fun f => f.toUnit 1 15 0) = some (f, { s with net := [] }) ∧ f.aux.testBit 7 = true ∧ f.aux.testBit 6 = false ∧
      (s.advance 0).bankRoom 15 ((s.advance 0).replayDescs 15 w35 5).length = true ∧ s.replayDescs 15 w35 5 = [63] ∧
      nx (exec (.replayFlit 0 15) s) (fun u => u.net.isEmpty && u.credit 15 35 == 8 && (u.bank 15).queue.length == 1) = true) ∧
    (let f : Flit := ⟨3, 1, 15, 1, cwriteAux 4095 5, [w35]⟩
     let s := { (ldbUp.rs LDB.SOURCE 15 1 63) with net := [f] }
     (s.advance 0).takeUnit (fun f => f.toUnit 3 15 1) = some (f, { s with net := [] }) ∧ s.coreDescs 15 w35 5 = [63] ∧
      (s.advance 0).bankRoom 15 ((s.advance 0).coreDescs 15 w35 5).length = true ∧
      nx (exec (.cwrite 0 15) s) (fun u => decide (u.net = [⟨0xB, 0, 15, 255, srcField 1 15 1, [3 * 2 ^ 60 + 1]⟩]) &&
        decide ((u.bank 15).queue = [⟨63, 64, 32, 1, 1000000, true, false, false⟩])) = true) ∧
    (let f : Flit := ⟨0xB, 1, 15, 1, coreSrc (256 * 15 + 255), [976]⟩
     let s := { up with net := [f] }
     (s.advance 0).takeUnit (fun f => f.toUnit 0xB 15 1 && f.words.getD 0 0 >>> 60 == 0) = some (f, up) ∧
      nx (exec (.progress 0 15) s) (fun u => Tab.get 0 (u.bank 15).prog 255 == 976) = true) := by decide +kernel

/-- A progress report and a feature record arrive past a unit of another flow (the premise Arrives of the statements on flits). -/
theorem witness_Arrives :
    (let x : Flit := ⟨5, 0, 15, 255, srcField 1 15 1, [0]⟩
     let f : Flit := ⟨0xB, 1, 15, 1, coreSrc (256 * 15 + 255), [976]⟩
     Arrives { up with net := [x, f] } (fun f => f.toUnit 0xB 15 1 && f.words.getD 0 0 >>> 60 == 0) [x] f []) ∧
    (let x : Flit := ⟨5, 0, 15, 255, srcField 1 15 1, [0]⟩
     let f : Flit := ⟨7, 2, 0, 0, coreSrc 4095, [0, 0]⟩
     Arrives { up with net := [x, f] } (fun f => f.toHub 7 0) [x] f []) :=
  ⟨⟨rfl, by decide, .inr (by decide +kernel), by decide⟩, ⟨rfl, by decide, .inr (by decide +kernel), by decide⟩⟩

/-- A bank whose apply queue holds 8,192 writes; a replay flit and a core write wait for it. -/
def fullBank (src shadow : Nat) : State :=
  { (sets ldbUp [(LDB.SOURCE, 15, src, 63), (LDB.SHADOW, 15, shadow, 63)]) with
    net := [⟨1, 1, 15, 0, 5 * 256 + 128, [w35, 1000000]⟩, ⟨3, 1, 15, 1, 5 * 256 + 255, [w35]⟩],
    banks := [(15, { Bank.init with queue := List.replicate 8192 ⟨63, 0, 0, 0, 0, false, false, false⟩ })] }

theorem fullBank_room (a b n : Nat) : ((fullBank a b).advance 0).bankRoom 15 (n + 1) = false := by
  have h : (((fullBank a b).advance 0).bank 15).queue.length = 8192 := by
    have h : ((fullBank a b).advance 0).bank 15 =
        { Bank.init with queue := List.replicate 8192 ⟨63, 0, 0, 0, 0, false, false, false⟩ } := by
      simp only [State.bank, State.advance_banks]; rfl
    rw [h]
    exact List.length_replicate
  simp only [State.bankRoom, h]
  exact decide_eq_false (by omega)

theorem witness_FullBankKeepsReplaysAndCoreWrites :
    (((fullBank 0 1).advance 0).takeFlit (fun f => f.toUnit 1 15 0)).isSome = true ∧
    ((fullBank 0 1).advance 0).bankRoom 15 (((fullBank 0 1).advance 0).replayDescs 15 w35 5).length = false ∧
    (((fullBank 1 0).advance 0).takeUnit (fun f => f.toUnit 3 15 1)).isSome = true ∧
    ((fullBank 1 0).advance 0).bankRoom 15 (((fullBank 1 0).advance 0).coreDescs 15 w35 5).length = false := by
  have h : (((fullBank 0 1).advance 0).replayDescs 15 w35 5).length = 0 + 1 := by decide +kernel
  have g : (((fullBank 1 0).advance 0).coreDescs 15 w35 5).length = 0 + 1 := by decide +kernel
  refine ⟨by decide +kernel, ?_, by decide +kernel, ?_⟩
  · rw [h]; exact fullBank_room 0 1 0
  · rw [g]; exact fullBank_room 1 0 0

/-- The write of `w35` to descriptor 63 with full time `t`. -/
def lw (t : Nat) : LWrite := ⟨63, 64, 32, 1, t, false, false, false⟩

theorem witness_LedgerEntriesKeepTheNewestTime :
    (ldbUp.on LDB.BACKED 15 63 = false ∧
      (let s := { ldbUp with dt := 2 ^ 24 + 1023 }
       2 ^ 14 ≤ diff15 (lu15 (s.mapTime 15 63 s.dt) 10) (lu15 1023 10) ∧ s.applyEntry 15 (lw 1023) = s.inc LDB.STALE_WRITES 15 ∧
        ¬ 2 ^ 14 ≤ diff15 (lu15 (s.mapTime 15 63 s.dt) 10) (lu15 1024 10) ∧
        (s.applyEntry 15 (lw 1024)).entry 15 63 ((s.region 15 63).index 64 32 1) = 2 ^ 15 + 1) ∧
      (let s := ldbUp.applyEntry 15 (lw 999999)
       s.unitExp 15 63 = 10 ∧ eValid (s.entry 15 63 ((s.region 15 63).index 64 32 1)) = true ∧
        2 ^ 14 ≤ diff15 (lu15 998000 10) (eTime (s.entry 15 63 ((s.region 15 63).index 64 32 1))) ∧
        s.applyEntry 15 (lw 998000) = s.inc LDB.OLDER_WRITES 15 ∧ (s.applyEntry 15 (lw 1000000)).rg LDB.WRITES_APPLIED 15 = 2)) ∧
    ((ldbUp.writeNow 15 (lw 1000000)).1 = false ∧ ((ldbUp.bankWrite 15 (lw 1000000)).bank 15).queue = [lw 1000000]) ∧
    (let s := { ldbUp with dt := 1001024, tick := 977, banks := [(15, { Bank.init with applied := 900, queue := [lw 1000000] })] }
     (∀ w ∈ (s.bank 15).queue, s.tickWaiter 15 w = true → (s.bank 15).applied < s.coverTick 15 w) ∧ s.tickWaiter 15 (lw 1000000) = true ∧
      nx (exec (.ledgerTickAdvance 0 15) s) (fun u => (u.bank 15).applied == max 900 (s.applyLimit 15) &&
        decide (900 < (u.bank 15).applied)) = true) ∧
    (let s := { (ldbUp.applyEntry 15 (lw 999999)) with dt := 2 ^ 24 + 999999 }
     let n := s.rg LDB.BASE_LINE 15 63
     s.descs 15 = [63] ∧ s.clearing 15 63 = false ∧ n < s.rg LDB.BASE_LINE 15 63 + (s.region 15 63).lines ∧
      eValid (s.entry 15 63 0) = true ∧ 2 ^ 14 ≤ diff15 (lu15 (s.mapTime 15 63 s.dt) 10) (eTime (s.entry 15 63 0)) ∧
      (s.region 15 63).index 64 32 1 = 0 ∧
      nx (exec (.scrubVisit 0 15 n) s) (fun u => !eValid (u.entry 15 63 0) && eTime (u.entry 15 63 0) == eTime (s.entry 15 63 0)) = true) := by
  decide +kernel

theorem witness_LedgerReadsAndFences :
    (let f : Flit := ⟨4, 1, 15, 1, coreSrc 4095, [64 + 32 <<< 11 + 1 <<< 22 + 5 <<< 27 + 35 <<< 33 + 0x700 <<< 39, 900]⟩
     let s := { ldbUp with net := [f] }
     (s.advance 0).takeUnit (fun f => f.toUnit 4 15 1) = some (f, ldbUp) ∧
      nx (exec (.nreq 0 15) s) (fun u => decide ((u.bank 15).reqs = [⟨4095, 64, 32, 1, 0, 5, 35, false, 0x700, 900⟩])) = true) ∧
    (let q : NbrReq := ⟨4095, 64, 32, 1, 0, 5, 35, false, 0x700, 900⟩
     let s := { (ldbUp.applyEntry 15 (lw 900000)) with banks := [(15, { Bank.init with applied := 900, reqs := [q] })] }
     takeFirst (fun (q : NbrReq) => decide (q.tick ≤ (s.bank 15).applied)) (s.bank 15).reqs = some (q, []) ∧ s.nbrDesc 15 q = some (some 63) ∧
      nx (exec (.nbrServe 0 15) s) (fun u => (u.bank 15).reqs.isEmpty && u.rg LDB.NBR_READS 15 == 1 &&
        decide (u.net.map Flit.words = [pack16 (s.nbrPatch 15 q (some 63))])) = true ∧
      s.on LDB.POL_MODE 15 63 = true ∧ (s.nbrPatch 15 q (some 63)).getD 4 0 = (900 - 878) ∧ (s.nbrPatch 15 q (some 63)).getD 3 0 = 0xFFFF ∧
      (let z := { s with banks := [(15, { Bank.init with applied := 900, reqs := [{ q with map := 6 }] })] }
       z.nbrDesc 15 { q with map := 6 } = none ∧
        nx (exec (.nbrServe 0 15) z) (fun u => u.rg LDB.NBR_WRONG 15 == 1) = true)) ∧
    (let f : Flit := ⟨5, 0, 15, 255, srcField 1 15 1, pack16 [1, 2, 3, 4, 5, 6, 7, 8, 9]⟩
     let s := { up with net := [f], cores := [(4095, { Core.init with nbr := some (0x700, 1), tags := 1 })] }
     (s.advance 0).takeFlit (fun f => f.toCore 5 4095) = some (f, { s with net := [] }) ∧ (s.core 4095).nbr = some (0x700, 1) ∧
      (s.core 4095).port = [] ∧
      nx (exec (.nrsp 0 4095) s) (fun u => (u.core 4095).tags == 0 && u.cmem 4095 0x700 2 == 1 && u.cmem 4095 0x710 2 == 9) = true) ∧
    (let s := ldbUp.setFence 15 63 (some ⟨3, 1000000 - 1024 * ldbUp.rg LDB.SETTLE 15 63, false, false, 0⟩)
     ((s.fence 15 63).all (fun f => decide (f.f + 1024 * s.rg LDB.SETTLE 15 63 ≤ (s.advance 0).dt)) = true ∧ (s.fence 15 63).isSome = true) ∧
      nx (exec (.fenceSettle 0 15 63) s) (fun u => ((u.fence 15 63).map Fence.settled).getD false) = true) ∧
    (let f : Flit := ⟨0xB, 1, 15, 1, 0, [1 <<< 60 + 1 <<< 6 + 31]⟩
     let g : Flit := ⟨0xB, 1, 15, 2, 0, [1 <<< 60 + 1 <<< 20 + 63 <<< 14]⟩
     let s := ({ ldbUp with net := [f] }).setTokFence 15 31 (some ⟨3, 0, true, true, 0⟩)
     let z := ({ ldbUp with net := [g] }).setFence 15 63 (some ⟨3, 0, true, true, 0⟩)
     ((s.advance 0).takeFlit (fun f => (f.toUnit 0xB 15 1 || f.toUnit 0xB 15 2) && f.words.getD 0 0 >>> 60 == 1)).isSome = true ∧
      nx (exec (.release 0 15) s) (fun u => decide (u.tokFence 15 31 = some ⟨3, 0, true, true, 1⟩)) = true ∧
      nx (exec (.release 0 15) z) (fun u => decide (u.fence 15 63 = some ⟨3, 0, true, true, 1⟩)) = true) ∧
    (let s := { ((sets ldbUp [(LDB.DISCIPLINE, 15, 1, 63), (LDB.FENCE_READERS, 15, 1, 63), (FG.PERIOD_NS, 0, 500000, 0)]).setFence 15 63
         (some ⟨3, 500000, true, true, 1⟩)) with sched := [(0, ⟨some (4, 1000000), [(3, 500000)], 0, 0⟩)] }
     (s.advance 0).fenceDue 15 63 = some (false, 4, 1000000) ∧ s.on LDB.DISCIPLINE 15 63 = true ∧
      nx (exec (.fenceAdvance 0 15 63) s) (fun u => decide (u.fence 15 63 = some ⟨4, 1000000, false, false, 0⟩)) = true) := by
  decide +kernel

/-- The word of DESC_CTRL that gives KEY 35, one tile halo 4 and the bits `b`. -/
def descWord (b : Nat) : Word := BitVec.ofNat 32 (35 * 2 ^ LDB.KEY.lsb + 4 * 2 ^ LDB.HALO.lsb + b * 2 ^ LDB.DESC_EN.lsb)

theorem witness_DescriptorsEnableClearAndDisable :
    (let s := sets up [(LDB.DESC_INDEX, 15, 63, 0), (LDB.TW, 15, 1, 63), (LDB.TH, 15, 1, 63)]
     reachesB s 0 .mgmtP0 ⟨.ldb, 15⟩ = true ∧ s.rg LDB.DESC_INDEX 15 = 63 ∧ s.on LDB.DESC_EN 15 63 = false ∧
      LDB.HALO.of (descWord 1) = 4 ∧ LDB.KEY.of (descWord 1) = 35 ∧ LDB.DESC_EN.of (descWord 1) = 1 ∧
      nx (exec (.descEnable 0 .mgmtP0 15 (descWord 1)) s) (fun u => u.on LDB.DESC_EN 15 63 && u.clearing 15 63 && u.on LDB.INIT_BUSY 15 &&
        u.rg LDB.ENTRIES 15 63 == 40 * 40 * (s.region 15 63).p) = true ∧
      LDB.DESC_EN.of (descWord 0) = 0 ∧
      nx (exec (.descEnable 0 .mgmtP0 15 (descWord 0)) s) (fun u => u.rg LDB.KEY 15 63 == 35 && !u.on LDB.DESC_EN 15 63) = true ∧
      ¬ LDB.KEY.of (BitVec.ofNat 32 (36 * 2 ^ LDB.KEY.lsb) : Word) ≤ 35 ∧
      eqs (exec (.descEnable 0 .mgmtP0 15 (BitVec.ofNat 32 (36 * 2 ^ LDB.KEY.lsb))) s) (s.irqSet ⟨.ldb, 15⟩ 4) = true ∧
      (let z := s.rs LDB.BASE_LINE 15 65535 63
       eqs (exec (.descEnable 0 .mgmtP0 15 (descWord 1)) z) (z.irqSet ⟨.ldb, 15⟩ 4) = true)) ∧
    (let s := { (ldbUp.rs LDB.DESC_INDEX 15 63) with banks := [(15, { Bank.init with queue := [lw 1, { lw 1 with d := 62 }] })] }
     s.on LDB.DESC_EN 15 63 = true ∧
      eqs (exec (.descEnable 0 .mgmtP0 15 (descWord 1)) s) (s.irqSet ⟨.ldb, 15⟩ 4) = true ∧
      nx (exec (.descDisable 0 .mgmtP0 15 (descWord 0)) s) (fun u => !u.on LDB.DESC_EN 15 63 &&
        decide ((u.bank 15).queue = [{ lw 1 with d := 62 }])) = true) ∧
    (let s := { (ldbUp.applyEntry 15 (lw 999999)) with banks := [(15, { Bank.init with clears := [63] })] }
     s.clearing 15 63 = true ∧ s.on LDB.BACKED 15 63 = false ∧ (s.bank 15).queue = [] ∧ s.entry 15 63 0 ≠ 0 ∧
      nx (exec (.descClearDone 0 15 63) s) (fun u => u.entry 15 63 0 == 0 && !u.clearing 15 63) = true) ∧
    (let s := sets ldbUp [(LDB.BACKED, 15, 1, 63), (LDB.DDR_BASE, 15, 4096, 63)]
     let ln := s.rg LDB.DDR_BASE 15 63 / 64
     (s.bank 15).cache = [] ∧ 63 ∈ s.descs 15 ∧ s.on LDB.BACKED 15 63 = true ∧ ln < s.rg LDB.DDR_BASE 15 63 / 64 + (s.region 15 63).lines ∧
      nx (exec (.ledgerCacheFill 0 15 ln) s) (fun u => decide ((u.bank 15).cache.map CLine.addr = [ln])) = true ∧
      (let z := { s with banks := [(15, { Bank.init with cache := [⟨ln, true, 9⟩] })], sram := Mem.wr [] (bankBase 15 + 64 * 9) 7 }
       ((z.bank 15).cache.find? (fun l => l.addr == ln)).isSome = true ∧
        nx (exec (.ledgerCacheFill 0 15 ln) z) (fun u => u.ddr4.rd (64 * ln) == 7 && (u.bank 15).cache.all fun l => !l.dirty) = true) ∧
      (let m := s.cacheSets 15
       let old : CLine := ⟨ln + 4 * m, true, s.fillLine 15 (s.cacheSet 15 ln)⟩
       let z := { s with sram := Mem.wr [] (bankBase 15 + 64 * old.line) 7, banks := [(15, { Bank.init with
                cache := [⟨ln + m, true, old.line + 1⟩, ⟨ln + 2 * m, true, old.line + 2⟩, ⟨ln + 3 * m, false, old.line + 3⟩, old] })] }
       s.cacheSets 15 ≠ 0 ∧ z.cacheWays 15 (z.cacheSet 15 ln) = (z.bank 15).cache ∧
        nx (exec (.ledgerCacheFill 0 15 ln) z) (fun u => u.ddr4.rd (64 * old.addr) == 7 && u.sram.rd (bankBase 15 + 64 * old.line) == 0 &&
          decide ((u.bank 15).cache.map CLine.line = [old.line, old.line + 1, old.line + 2, old.line + 3])) = true)) := by
  decide +kernel

/-! Witnesses of the statements about sliver cores and cluster routers. -/

/-- Core 4095 runs, its group enabled; event handlers 0–3 enabled; window 2. -/
def coreUp : State :=
  { (sets up [(Hdr.ENABLE .cg, 255, 1, 0), (CGS.RUN, 4095, 1, 0), (CGS.EV_EN, 4095, 15, 0), (CLU.TS_WINDOW, 15, 2, 0)]) with
    tick := 976, cores := [(4095, { Core.init with stepped := 900, nt := 900 })] }

/-- An event flit for core 4095 of time `t`. -/
def evFlit (t : Nat) : Flit := ⟨0, 0, 15, 255, srcField 1 15 0, [evWord 35 64 32 1 t]⟩

theorem witness_TurnstileAndClosingSteps :
    (let s := { coreUp with net := [evFlit 999000] }
     let b := coreUp
     (s.advance 0).takeFlit (fun f => f.toCore 0 4095 || f.toCore 1 4095 || f.toCore 2 4095) = some (evFlit 999000, b) ∧
      s.coreFenced 4095 = false ∧ s.on CGS.UCODE_ERR 4095 = false ∧ s.rg CGS.LATE_ARRIVALS 4095 < 2 ^ CGS.LATE_ARRIVALS.width ∧
      b.tickClosed 4095 (b.arrOf 4095 (evFlit 999000)).t = false ∧
      nx (exec (.arrivalEnqueue 0 4095) s) (fun u => decide ((u.core 4095).queue.map Arr.t = [999000]) && u.rg CGS.LATE_ARRIVALS 4095 == 0) = true ∧
      (let z := { coreUp with net := [evFlit 998399] }
       b.tickClosed 4095 (b.arrOf 4095 (evFlit 998399)).t = true ∧
        nx (exec (.arrivalEnqueue 0 4095) z) (fun u => decide ((u.core 4095).queue.map Arr.late = [true]) &&
          u.rg CGS.LATE_ARRIVALS 4095 == 1 && (u.rg CG.LATE_MASK 255).testBit 15) = true) ∧
      (let z := { s with fenced := [.core 4095] }
       z.coreFenced 4095 = true ∧ eqs (exec (.arrivalEnqueue 0 4095) z) ({ z with net := [] }.fencedDrop 4095) = true) ∧
      (let z := s.rs CGS.UCODE_ERR 4095 1
       z.on CGS.UCODE_ERR 4095 = true ∧ eqs (exec (.arrivalEnqueue 0 4095) z) ({ z with net := [] }.inc CGS.UC_DROPS 4095) = true)) ∧
    (let a : Arr := ⟨921600, 0, 77, 0, false⟩
     let s := { coreUp with cores := [(4095, { Core.init with stepped := 900, nt := 901, queue := [a] })] }
     (s.advance 0).coreFree 4095 = true ∧ (s.advance 0).nextArr 4095 = some a ∧ a.cls = 0 ∧ (s.rg CGS.EV_EN 4095).testBit 0 = true ∧
      (s.router 15).wait = [] ∧
      nx (exec (.arrivalRelease 0 4095) s) (fun u => (u.core 4095).queue.isEmpty && (u.core 4095).nt == 901 &&
        u.rg CGS.ARR_SENSOR 4095 == 1 && decide ((u.core 4095).run.map HRun.ht = some 901)) = true) ∧
    ((coreUp.advance 0).closeDue 4095 = true ∧ coreUp.stepOf 4095 = 900 ∧ coreUp.on CGS.TICK_EN 4095 = false ∧
      coreUp.slotIn (coreUp.rg CGS.SLOT_GROUP 4095) 900 = none ∧ (coreUp.core 4095).port = [] ∧
      nx (exec (.tickCloseSteps 0 4095) coreUp) (fun u => (u.core 4095).stepped == 901 && u.rg CGS.PROGRESS 4095 == 901 &&
        decide (u.net = [⟨0xB, 1, 15, 1, coreSrc 4095, [901]⟩])) = true ∧
      (let s := coreUp.rs CGS.TICK_EN 4095 1
       (s.advance 0).closeDue 4095 = true ∧ s.on CGS.TICK_EN 4095 = true ∧ s.coreOn 4095 = true ∧
        nx (exec (.tickCloseSteps 0 4095) s) (fun u => decide ((u.core 4095).run.map HRun.kind = some 4)) = true)) ∧
    (reachesB coreUp 0 .mgmtP0 ⟨.cg, 255⟩ = true ∧ coreUp.on CGS.RUN 4095 = true ∧ coreUp.coreFenced 4095 = false ∧
      CGS.STATE_FMT.of (BitVec.ofNat 32 (2 ^ CGS.STATE_FMT.lsb + 1) : Word) ≠ coreUp.rg CGS.STATE_FMT 4095 ∧
      eqs (exec (.runWrite 0 .mgmtP0 4095 (BitVec.ofNat 32 (2 ^ CGS.STATE_FMT.lsb + 2 ^ CGS.RUN.lsb))) coreUp) (coreUp.irqSet ⟨.cg, 255⟩ 4) = true ∧
      nx (exec (.runWrite 0 .mgmtP0 4095 0) coreUp) (fun u => !u.on CGS.RUN 4095 && decide (u.cores = coreUp.cores)) = true ∧
      (let s := sets coreUp [(CGS.RUN, 4095, 0, 0), (CGS.INIT_EN, 4095, 1, 0)]
       CGS.RUN.of (BitVec.ofNat 32 (2 ^ CGS.RUN.lsb) : Word) = 1 ∧ s.on CGS.INIT_EN 4095 = true ∧
        nx (exec (.runWrite 0 .mgmtP0 4095 (BitVec.ofNat 32 (2 ^ CGS.RUN.lsb))) s)
          (fun u => u.on CGS.RUN 4095 && decide ((u.core 4095).run.map HRun.kind = some 6)) = true) ∧
      (let s := { coreUp with fenced := [.core 4095] }
       s.coreFenced 4095 = true ∧ nx (exec (.runWrite 0 .mgmtP0 4095 0) s) (fun u => u.on CGS.RUN 4095) = true)) := by decide +kernel

/-- A spike flit at router 15: AUX `aux`, words `w0` and group `g`. -/
def spkFlit (aux g : Nat) : Flit := ⟨2, 1, 15, 0, aux, [1000000, 0xABCD + g <<< 32]⟩

theorem witness_SpikesRouteAndEscape :
    (let f := spkFlit (0x18001 <<< 14 + 4095) 7
     let s := { up with net := [f] }
     (s.advance 0).takeFlit (fun f => f.toUnit 2 15 0) = some (f, up) ∧ f.aux >>> 14 ≠ 0 ∧
      nx (exec (.spikeFlit 0 15) s) (fun u => decide (u.net.map Flit.dcl = [0, 15, 0]) && decide (u.net.map Flit.dk = [1, 1, 2])) = true) ∧
    (let f := spkFlit 4095 (3 * 1024 + 1023)
     let s := { (sets up [(CLU.GT_VALID, 15, 1, 1023), (CLU.GT_TAG, 15, 3, 1023), (CLU.GT_MASK.nth 7, 15, 0x80000000, 1023),
       (CLU.GT_MASK.nth 0, 15, 1, 1023)]) with net := [f] }
     ((s.advance 0).takeFlit (fun f => f.toUnit 2 15 0)).isSome = true ∧ f.aux >>> 14 = 0 ∧ (s.router 15).wait = [] ∧ (s.router 15).escLevel = 0 ∧
      nx (exec (.spikeFlit 0 15) s) (fun u => u.rg CLU.SPIKES_IN 15 == 1 && decide (u.net.map Flit.dep = [0, 255])) = true ∧
      nx (exec (.spikeFlit 0 15) (s.rs CLU.GT_TAG 15 2 1023)) (fun u => u.rg CLU.GT_MISS 15 == 1 && u.net.isEmpty) = true) ∧
    (let c : SpkCopy := ⟨255, 2 ^ 64 - 1, 2 ^ 49 - 1, 1000⟩
     let s := { (sets up [(CLU.ESC_SIZE, 15, 4096, 0), (CLU.ESC_BASE, 15, 8192, 0)]) with routers := [(15, ⟨[c], 255, 0⟩)] }
     (s.router 15).wait = c :: [] ∧ s.escCap 15 ≠ 0 ∧ c.since + (s.rg CLU.ESC_WAIT 15 * 10 + 10) / 11 ≤ (s.advance 0).dt ∧
      (s.router 15).escLevel < s.escCap 15 ∧
      nx (exec (.escapeEntry 0 15) s) (fun u => (u.router 15).wait.isEmpty && (u.router 15).escLevel == 1 &&
        decide (u.escTop 15 = ⟨255, 2 ^ 64 - 1, 2 ^ 49 - 1, 0⟩)) = true ∧
      (let z := { s with routers := [(15, ⟨[c], 0, 256⟩)] }
       z.escCap 15 ≤ (z.router 15).escLevel ∧ eqs (exec (.escapeEntry 0 15) z) (z.escFull 15) = true)) ∧
    (let s := { (sets up [(CLU.ESC_SIZE, 15, 4096, 0), (CLU.ESC_BASE, 15, 8192, 0)]) with routers := [(15, ⟨[], 255, 2⟩)] }
     (s.router 15).escLevel ≠ 0 ∧ (s.advance 0).coreRoom (256 * 15 + (s.escTop 15).core) = true ∧
      s.coreFenced (256 * 15 + (s.escTop 15).core) = false ∧ (s.router 15).wait = [] ∧
      nx (exec (.escapeDrain 0 15) s) (fun u => u.net.length == 1 && decide (u.router 15 = ⟨[], 0, 1⟩)) = true ∧
      (let z := { s with cores := [(256 * 15 + (s.escTop 15).core, { Core.init with queue := List.replicate 64 ⟨0, 0, 0, 0, false⟩ })] }
       (z.advance 0).coreRoom (256 * 15 + (z.escTop 15).core) = false ∧ eqs (exec (.escapeDrain 0 15) z) z = true)) ∧
    (let f : Flit := ⟨0xB, 0, 15, 255, srcField 1 15 1, [3 * 2 ^ 60 + 2]⟩
     let s := { up with net := [f], cores := [(4095, { Core.init with tags := 5 })] }
     ((s.advance 0).takeFlit (fun f => f.toCore 0xB 4095)).isSome = true ∧ (s.core 4095).port = [] ∧
      nx (exec (.ack 0 4095) s) (fun u => (u.core 4095).tags == 3 && u.rg MESH.ACKS 15 == 1) = true) := by decide +kernel

theorem witness_ClusterTableWritesCommitTheirEntry :
    reachesB up 0 .mgmtP0 ⟨.clu, 15⟩ = true ∧
    (let v : Word := BitVec.ofNat 32 (64 * 2 ^ CLU.TW.lsb + 64 * 2 ^ CLU.TH.lsb + 2 ^ CLU.WIN_EN.lsb)
     let s := sets up [(CLU.SUBWIN_INDEX, 15, 35, 0), (CLU.SUB_BASE, 15, 0, stageIdx)]
     CLU.TW.of v = 64 ∧ CLU.TH.of v = 64 ∧ CLU.WIN_EN.of v = 1 ∧ s.rg CLU.SUB_BASE 15 stageIdx + 64 * 64 ≤ 4096 ∧
      nx (exec (.subwinWrite 0 .mgmtP0 15 v) s) (fun u => u.rg CLU.TW 15 35 == 64 && u.rg CLU.WIN_EN 15 35 == 1) = true ∧
      (let z := s.rs CLU.SUB_BASE 15 1 stageIdx
       ¬ z.rg CLU.SUB_BASE 15 stageIdx + 64 * 64 ≤ 4096 ∧
        eqs (exec (.subwinWrite 0 .mgmtP0 15 v) z) (z.irqSet ⟨.clu, 15⟩ 4) = true)) ∧
    (let s := sets up [(CLU.SUB_INDEX, 15, 4095, 0), (CLU.SUB_LO, 15, 0xFFFFFFFF, stageIdx)]
     s.rg CLU.SUB_INDEX 15 = 4095 ∧
      nx (exec (.subHiWrite 0 .mgmtP0 15 0x0000FFFF#32) s) (fun u => u.rg CLU.SUB_LO 15 4095 == 0xFFFFFFFF &&
        u.rg CLU.SUB_HI 15 4095 == CLU.SUB_HI.of 0x0000FFFF#32) = true) ∧
    (let s := sets up [(CLU.RT_INDEX, 15, 9, 0), (CLU.RT_LO, 15, 1 <<< 18, stageIdx)]
     bitsAt (s.rg CLU.RT_LO 15 stageIdx) 18 6 ≠ 0 ∧
      nx (exec (.rtHiWrite 0 .mgmtP0 15 0x80001234#32) s) (fun u => u.rg CLU.RT_HI 15 9 == 0x80001234 % 2 ^ CLU.RT_HI.width &&
        u.rg CLU.RT_LO 15 9 == 1 <<< 18) = true ∧
      bitsAt (up.rg CLU.RT_LO 15 stageIdx) 18 6 = 0 ∧
      eqs (exec (.rtHiWrite 0 .mgmtP0 15 0x80001234#32) up) (up.irqSet ⟨.clu, 15⟩ 4) = true) ∧
    (let s := sets up [(CLU.GT_INDEX, 15, 1023, 0), (CLU.GT_TAG, 15, 5, stageIdx), (CLU.GT_VALID, 15, 1, stageIdx),
       (CLU.GT_MASK.nth 6, 15, 99, stageIdx)]
     nx (exec (.gtMask7Write 0 .mgmtP0 15 77) s) (fun u => u.rg CLU.GT_TAG 15 1023 == 5 && u.on CLU.GT_VALID 15 1023 &&
       u.rg (CLU.GT_MASK.nth 6) 15 1023 == 99 && u.rg (CLU.GT_MASK.nth 7) 15 1023 == 77) = true) := by decide +kernel

theorem witness_NeuronsPackLeakAndFire :
    (let x : Neuron := { v := -(2 ^ 13), t17 := 2 ^ 17 - 1, fired := true }
     up.n64 4095 = false ∧ up.nNeurons 4095 = 1024 ∧ up.vBits 4095 = 14 ∧ -(2 ^ (up.vBits 4095 - 1) : Int) ≤ x.v ∧
      (up.setNeuron 4095 1023 x).neuron 4095 1023 = x ∧ (up.setNeuron 4095 1023 x).neuron 4095 1022 = up.neuron 4095 1022) ∧
    (let s := up.rs CGS.STATE_FMT 4095 1
     let x : Neuron := { v := 2 ^ 31 - 1, t17 := 0, fired := false }
     s.n64 4095 = true ∧ s.nNeurons 4095 = 512 ∧ (s.setNeuron 4095 511 x).neuron 4095 511 = x) ∧
    (let s := sets up [(CGS.THETA, 4095, 100, 0), (CGS.FIRE_LAW, 4095, 0, 0)]
     signed 32 (s.rg CGS.THETA 4095) = 100 ∧ (s.neuron 4095 1023).fired = false ∧
      (s.leak 4095 (s.neuron 4095 1023) 5).v = 0 ∧
      (s.synOp 4095 5 1023 99 0).neuron 4095 1023 = { v := 99, t17 := 5, fired := false } ∧
      (s.synOp 4095 5 1023 101 0).neuron 4095 1023 = { v := 1, t17 := 5, fired := true } ∧
      ((s.rs CGS.FIRE_LAW 4095 1).synOp 4095 5 1023 101 0).neuron 4095 1023 = { v := 0, t17 := 5, fired := true } ∧
      (let z := s.setNeuron 4095 1023 { v := 50, t17 := 5, fired := true }
       (z.leak 4095 (z.neuron 4095 1023) 5).fired = true ∧
        (z.synOp 4095 5 1023 50 0).neuron 4095 1023 = { v := 100, t17 := 5, fired := true })) := by decide +kernel

/-! Witnesses of the statements about micro-ops: core 4095 in a handler whose word at PC 5 is given. -/

/-- A micro-op word from its fields: opcode, D, A, B, COND, SF, IB, MOD, IMM (R165). -/
def uw (op d a b cond sf ib md imm : Nat) : Nat :=
  op * 2 ^ 56 + d * 2 ^ 52 + a * 2 ^ 48 + b * 2 ^ 44 + cond * 2 ^ 40 + sf * 2 ^ 39 + ib * 2 ^ 38 + md * 2 ^ 32 + imm

/-- A handler run of a kind at PC 5, entered by the arrival of an event of stream 35 at (64, 32). -/
def hrun (kind : Nat) : HRun :=
  { kind := kind, arr := some ⟨1000000, 0, evWord 35 64 32 1 0 >>> 35, 0, false⟩, entry := 0, ht := 976, readTick := 975, recT := 1000000,
    slotN := 0, hparam := [0, 0, 0, 0], gna := 0, nlAt := ⟨false, 0, 0, 0, false⟩, pc := 5, stack := [], count := 3, pair := none }

/-- Core 4095 running `r` with the word `w` at PC and engine `e`. -/
def runs (r : HRun) (w : Nat) (e : Eng) : State :=
  { (coreUp.setCmem 4095 (8 * r.pc) 8 w) with cores := [(4095, { Core.init with stepped := 976, nt := 970, eng := e, run := some r })] }

/-- An engine with g0 = a, g1 = b, g2 = c and accumulator 1 = x. -/
def eng (a b c : Nat) (x : Int) : Eng := { Eng.init with g := [a, b, c] ++ List.replicate 13 0, a := [0, x, 0, 0] }

/-- `Issues`, as a check, of the engine that `runs` gives. -/
def issuesB (s : State) (n op k : Nat) : Bool :=
  match (s.core n).run with
  | none => false
  | some r =>
    let w := s.uword n r.pc
    uOp w == op && s.handlerGoes n &&
      decide (condHolds (uCond w) (r.pair.getD (s.core n).eng).fl ((r.arr.map Arr.late).getD false) = some true) &&
      (s.rg CGS.UC_LIMIT n == 0 || decide (r.count + k ≤ s.rg CGS.UC_LIMIT n))

/-- The check says what `Issues` says. -/
theorem issues_of_check (s : State) (n op k : Nat) (h : issuesB s n op k = true) :
    ∃ r w e, Issues s n op k r w e := by
  unfold issuesB at h
  split at h
  · cases h
  · rename_i r hr
    simp only [Bool.and_eq_true, Bool.or_eq_true, beq_iff_eq, decide_eq_true_eq] at h
    exact ⟨r, _, _, hr, rfl, h.1.1.1, h.1.1.2, rfl, h.1.2, h.2⟩

/-- The engine after the command. -/
def engAfter (o : Host.Outcome State Fault Refusal) (p : Eng → Bool) : Bool :=
  nx o fun u => p (u.core 4095).eng && decide ((u.core 4095).run.map HRun.pc = some 6) && decide ((u.core 4095).run.map HRun.count = some 4)

/-- Register 3 reads `v` after the word with destination g3 and sources g0 and g1 issues. -/
def gives (i : Nat → Fin 4096 → Instr) (op a b v : Nat) (md : Nat := 0) (imm : Nat := 0) (c : Nat := 0) : Bool :=
  let s := runs (hrun 0) (uw op 3 0 1 0 1 0 md imm) { eng a b 0 7 with g := [a, b, 0, c] ++ List.replicate 12 0 }
  issuesB s 4095 op 1 && engAfter (exec (i 0 4095) s) fun e => e.reg 3 == v

/-- Accumulator 1 reads `x` after the word with D = 1 and sources g0 and g1 issues on accumulator 1 = `x0`. -/
def acc (i : Nat → Fin 4096 → Instr) (op a b : Nat) (x0 x : Int) (md : Nat := 0) (imm : Nat := 0) : Bool :=
  let s := runs (hrun 0) (uw op 1 0 1 0 1 0 md imm) (eng a b 0 x0)
  issuesB s 4095 op 1 && engAfter (exec (i 0 4095) s) fun e => e.acc 1 == x && e.reg 3 == 0

theorem witness_ArithmeticMicroOpsCompute :
    engAfter (exec (.uopNop 0 4095) (runs (hrun 0) (uw 0 0 0 0 0 0 0 0 0) (eng 1 2 3 4))) (fun e => decide (e = eng 1 2 3 4)) = true ∧
    gives .uopMov 1 1 2 2 = true ∧ gives .uopAdd 2 0xFFFFFFFF 2 1 = true ∧ gives .uopSub 3 1 2 0xFFFFFFFF = true ∧
    gives .uopAnd 4 12 10 8 = true ∧ gives .uopOr 5 12 10 14 = true ∧ gives .uopXor 6 12 10 6 = true ∧ gives .uopAndn 7 12 10 4 = true ∧
    gives .uopShl 8 1 31 0x80000000 = true ∧ gives .uopShl 8 1 32 1 = true ∧ gives .uopShr 9 0x80000000 31 1 = true ∧
    gives .uopSra 10 0x80000000 31 0xFFFFFFFF = true ∧ gives .uopRor 11 1 1 0x80000000 = true ∧ gives .uopRor 11 5 0 5 = true ∧
    gives .uopMin 12 0xFFFFFFFF 1 0xFFFFFFFF = true ∧ gives .uopMin 12 0xFFFFFFFF 1 1 (md := 1) = true ∧
    gives .uopMax 13 0xFFFFFFFF 1 1 = true ∧ gives .uopMax 13 0xFFFFFFFF 1 0xFFFFFFFF (md := 1) = true ∧
    gives .uopAbs 14 0x80000000 0 0x7FFFFFFF = true ∧ gives .uopAbs 14 0xFFFFFFFF 0 1 = true ∧ gives .uopPopc 15 0xF000000F 0 8 = true ∧
    gives .uopExt 17 0x1234F678 0 0xFFFFFFF6 (md := 8 + 32) (imm := 8) = true ∧ gives .uopExt 17 0xFFFFFFFF 0 0xFFFFFFFF (imm := 32) = true ∧
    gives .uopIns 18 0xAB 0 0x0000AB00 (md := 8) (imm := 8) = true ∧ gives .uopIns 18 0 0 0xFFFF00FF (md := 8) (imm := 8) (c := 0xFFFFFFFF) = true ∧
    gives .uopSat 19 200 0 127 (imm := 8) = true ∧ gives .uopSat 19 0x80000000 0 0x80000000 (imm := 32) = true ∧
    gives .uopMovs 20 0 0 64 (imm := 1) = true ∧ gives .uopMul 21 0x10001 0x10001 0x20001 = true ∧
    gives .uopTsb 22 3 5 1 (md := 1) = true ∧ gives .uopTsb 22 5 3 2 (md := 1) (c := 1) = true ∧
    acc .uopAset 32 0 0 7 (-1) (imm := 0xFFFFFFFF) = true ∧ acc .uopMac 33 0xFFFF 2 7 5 = true ∧ acc .uopMac 33 0xFFFF 2 7 131077 (md := 1) = true ∧
    acc .uopMac2 34 0xFFFF0002 0x00030004 7 12 = true ∧ acc .uopAadd 35 0 0xFFFFFFFF 7 6 = true ∧
    acc .uopAadd 35 0 1 (2 ^ 39 - 1) (2 ^ 39 - 1) = true ∧
    (let s := runs (hrun 0) (uw 36 3 1 0 0 1 0 1 0) (eng 1 2 3 (-7))
     issuesB s 4095 36 1 = true ∧ engAfter (exec (.uopAget 0 4095) s) (fun e => e.reg 3 == 0xFFFFFFFC) = true) ∧
    (let s := runs (hrun 0) (uw 16 3 0 1 0 0 0 0 0) (eng 1 2 3 0)
     issuesB s 4095 16 1 = true ∧ engAfter (exec (.uopCmp 0 4095) s) (fun e => decide (e = { eng 1 2 3 0 with fl := ⟨false, true, true, false, false⟩ })) = true) ∧
    (let s := runs (hrun 0) (uw 17 3 0 1 0 0 0 0 33) (eng 1 2 3 0)
     issuesB s 4095 17 1 = true ∧ extWidth (uw 17 3 0 1 0 0 0 0 33) = none ∧ eqs (exec (.uopExt 0 4095) s) (s.ucodeFault 4095 1 5) = true) := by
  decide +kernel

theorem witness_MicroOpsIssueBranchAndFault :
    (let s := runs (hrun 0) (uw 2 3 0 1 1 1 0 0 0) (eng 1 2 3 4)
     condHolds 1 (s.core 4095).eng.fl false = some false ∧ (hrun 0).pc < 255 ∧
      engAfter (exec (.uopAdd 0 4095) s) (fun e => decide (e = eng 1 2 3 4)) = true ∧
      (let z := runs (hrun 0) (uw 2 3 0 1 15 1 0 0 0) (eng 1 2 3 4)
       condHolds 15 (z.core 4095).eng.fl false = none ∧ eqs (exec (.uopAdd 0 4095) z) (z.ucodeFault 4095 1 5) = true) ∧
      (let z := s.rs CGS.UC_LIMIT 4095 3
       z.rg CGS.UC_LIMIT 4095 < (hrun 0).count + 1 ∧ eqs (exec (.uopAdd 0 4095) z) (z.ucodeFault 4095 4 5) = true)) ∧
    (let s := runs (hrun 0) (uw 0x60 0 0 0 0 0 0 0 255) (eng 1 2 3 4)
     issuesB s 4095 0x60 1 = true ∧ nx (exec (.uopB 0 4095) s) (fun u => decide ((u.core 4095).run.map HRun.pc = some 255)) = true) ∧
    (let w := uw 0x61 0 0 0 0 0 0 0 7
     let s := runs { hrun 0 with stack := [1, 2, 3] } w (eng 1 2 3 4)
     let z := runs { hrun 0 with stack := [1, 2, 3, 4] } w (eng 1 2 3 4)
     issuesB s 4095 0x61 1 = true ∧ nx (exec (.uopCall 0 4095) s) (fun u => decide ((u.core 4095).run.map HRun.stack = some [6, 1, 2, 3])) = true ∧
      issuesB z 4095 0x61 1 = true ∧ eqs (exec (.uopCall 0 4095) z) (z.ucodeFault 4095 6 5) = true) ∧
    (let w := uw 0x62 0 0 0 0 0 0 0 7
     let s := runs { hrun 0 with stack := [255, 2] } w (eng 1 2 3 4)
     let z := runs (hrun 0) w (eng 1 2 3 4)
     issuesB s 4095 0x62 1 = true ∧ nx (exec (.uopRet 0 4095) s) (fun u => decide ((u.core 4095).run.map HRun.pc = some 255)) = true ∧
      issuesB z 4095 0x62 1 = true ∧ eqs (exec (.uopRet 0 4095) z) (z.ucodeFault 4095 6 5) = true) ∧
    (let w := uw 0x63 0 0 0 0 0 0 0 9
     let s := runs (hrun 0) w (eng 0 2 3 4)
     let z := runs (hrun 0) w (eng 1 2 3 4)
     issuesB s 4095 0x63 1 = true ∧ nx (exec (.uopLoop 0 4095) s) (fun u => (u.core 4095).eng.reg 0 == 0xFFFFFFFF &&
       decide ((u.core 4095).run.map HRun.pc = some 9)) = true ∧
      engAfter (exec (.uopLoop 0 4095) z) (fun e => e.reg 0 == 0) = true) ∧
    (let s := runs (hrun 0) (uw 0x64 0 0 0 0 0 0 0 0) (eng 0 2 3 4)
     let z := runs (hrun 5) (uw 0x64 0 0 0 0 0 0 0 0) (eng 0 2 3 4)
     issuesB s 4095 0x64 1 = true ∧ (s.core 4095).nbr = none ∧
      nx (exec (.uopEnd 0 4095) s) (fun u => (u.core 4095).run.isNone && (u.core 4095).nt == 976) = true ∧
      nx (exec (.uopEnd 0 4095) z) (fun u => (u.core 4095).run.isNone && u.rg CGS.PROGRESS 4095 == 977) = true) ∧
    (let s := runs (hrun 0) (uw 0x17 0 0 0 0 0 0 0 0) (eng 0 2 3 4)
     opClass (uOp (s.uword 4095 5)) = none ∧ s.handlerGoes 4095 = true ∧
      eqs (exec (.unlistedMicroOp 0 4095) s) (s.ucodeFault 4095 1 5) = true) ∧
    (let s := (runs (hrun 6) 0 (eng 0 2 3 4)).ucodeFault 4095 7 255
     s.rg CGS.UC_PC 4095 = 255 ∧ s.rg CGS.UC_CODE 4095 = 7 ∧ s.rg CGS.UC_HANDLER 4095 = 6) := by decide +kernel

theorem witness_ConditionsAfterACompareOrderTheOperands :
    let f : Flags := ⟨true, true, true, true, true⟩
    (0x80000000 : Nat) < 2 ^ 32 ∧ condHolds 3 (f.put (flagsSub 0x80000000 1)) false = some true ∧
    condHolds 7 (f.put (flagsSub 0x80000000 1)) false = some false ∧ condHolds 9 (f.put (flagsAdd 0x7FFFFFFF 1)) false = some true ∧
    condHolds 7 (f.put (flagsAdd 0xFFFFFFFF 1)) false = some true := by decide +kernel

theorem witness_MemoryAndPortMicroOps :
    (let s := (runs (hrun 0) (uw 0x30 3 0 1 0 1 0 3 0xFFFFFFFE) (eng 0x6000 2 3 4)).setCmem 4095 0x5FFE 2 0x8001
     issuesB s 4095 0x30 1 = true ∧ (s.core 4095).nbrTouches 0x5FFE 2 = false ∧
      engAfter (exec (.uopLd16 0 4095) s) (fun e => e.reg 3 == 0xFFFF8001 && e.reg 0 == 0x6002) = true) ∧
    (let s := (runs (hrun 0) (uw 0x31 0 0 1 0 0 0 1 0) (eng 0x800 2 3 4)).setCmem 4095 0x800 4 0x89ABCDEF
     issuesB s 4095 0x31 1 = true ∧ engAfter (exec (.uopLd32 0 4095) s) (fun e => e.reg 0 == 0x89ABCDEF) = true ∧
      (let z := runs (hrun 0) (uw 0x31 0 0 1 0 0 0 1 0) (eng 0x802 2 3 4)
       eqs (exec (.uopLd32 0 4095) z) (z.ucodeFault 4095 2 5) = true)) ∧
    (let s := runs (hrun 0) (uw 0x32 3 0 1 0 0 0 1 0) (eng 0x57FE 0xABCD1234 3 4)
     issuesB s 4095 0x32 1 = true ∧ uIB (uw 0x32 3 0 1 0 0 0 1 0) = false ∧
      nx (exec (.uopSt16 0 4095) s) (fun u => u.cmem 4095 0x57FE 2 == 0x1234 && (u.core 4095).eng.reg 0 == 0x5800) = true ∧
      (let z := runs (hrun 0) (uw 0x32 3 0 1 0 0 0 1 0) (eng 0x5800 0xABCD1234 3 4)
       eqs (exec (.uopSt16 0 4095) z) (z.ucodeFault 4095 2 5) = true)) ∧
    (let s := runs (hrun 0) (uw 0x33 3 0 1 0 0 0 0 0) (eng 0x800 0xABCD1234 3 4)
     issuesB s 4095 0x33 1 = true ∧ nx (exec (.uopSt32 0 4095) s) (fun u => u.cmem 4095 0x800 4 == 0xABCD1234) = true ∧
      (let z := runs (hrun 0) (uw 0x33 3 0 1 0 0 1 0 0) (eng 0x800 0xABCD1234 3 4)
       uIB (uw 0x33 3 0 1 0 0 1 0 0) = true ∧ eqs (exec (.uopSt32 0 4095) z) (z.ucodeFault 4095 1 5) = true)) ∧
    (let w := uw 0x50 0 0 1 0 0 0 (4 * 4 + 3) (5 + 35 <<< 6 + 0x800 <<< 16)
     let s := runs (hrun 0) w (eng 0 0 0 0)
     issuesB s 4095 0x50 1 = true ∧ (hrun 0).kind ≠ 6 ∧ (hrun 0).event ≠ none ∧ bitsAt (uMod w) 2 3 = 4 ∧ (s.core 4095).nbr = none ∧
      s.portRoom 4095 2 = true ∧
      nx (exec (.uopNbr 0 4095) s) (fun u => decide ((u.core 4095).nbr = some (0x800, 4)) && decide ((u.net ++ (u.core 4095).port).map Flit.words =
        [[64 + 32 <<< 11 + 4 <<< 22 + 5 <<< 27 + 35 <<< 33 + 0x800 <<< 39, 975]])) = true ∧
      (let z := { s with cores := [(4095, { s.core 4095 with nbr := some (0x700, 1) })] }
       (z.core 4095).nbr ≠ none ∧ eqs (exec (.uopNbr 0 4095) z) z = true)) ∧
    (let s := runs (hrun 0) (uw 0x51 0 0 0 0 0 0 0 0) (eng 0 0 0 0)
     issuesB s 4095 0x51 1 = true ∧ engAfter (exec (.uopWaitn 0 4095) s) (fun e => decide (e = eng 0 0 0 0)) = true ∧
      (let z := { s with cores := [(4095, { s.core 4095 with nbr := some (0x700, 1) })] }
       eqs (exec (.uopWaitn 0 4095) z) z = true)) ∧
    (let s := runs (hrun 0) (uw 0x52 0 0 1 0 0 0 3 (5 + 35 <<< 6)) (eng 0 0 0 0)
     let full : Flit := ⟨6, 1, 15, 2, coreSrc 4095, [0, 0, 0, 0, 0, 0, 0, 0]⟩
     let z := { s with cores := [(4095, { s.core 4095 with port := [full, full] })] }
     issuesB s 4095 0x52 1 = true ∧ s.portRoom 4095 1 = true ∧
      nx (exec (.uopCwr 0 4095) s) (fun u => decide (u.net ++ (u.core 4095).port =
        [⟨3, 1, 15, 1, cwriteAux 4095 5, [evWord 35 64 32 1 1000000]⟩])) = true ∧
      z.portRoom 4095 1 = false ∧ eqs (exec (.uopCwr 0 4095) z) (z.waitBegin CGS.OUT_STALL_CYCLES 4095) = true) ∧
    (let s := (runs (hrun 0) (uw 0x53 0 0 0 0 0 0 0 0x57C0) (eng 0 0 0 0)).setCmem 4095 0x57C0 8 (2 ^ 64 - 1)
     issuesB s 4095 0x53 1 = true ∧ s.portRoom 4095 8 = true ∧
      nx (exec (.uopEmitt 0 4095) s) (fun u => decide ((u.net ++ (u.core 4095).port).map Flit.words =
        [[(2 ^ 29 - 1) <<< 35 + 1000000, 0, 0, 0, 0, 0, 0, 0]])) = true ∧
      (let z := runs (hrun 0) (uw 0x53 0 0 0 0 0 0 0 0x5800) (eng 0 0 0 0)
       eqs (exec (.uopEmitt 0 4095) z) (z.ucodeFault 4095 2 5) = true)) ∧
    (let s := runs (hrun 0) (uw 0x54 2 0 1 0 0 0 1 0) (eng 7 9 11 0)
     issuesB s 4095 0x54 1 = true ∧ s.portRoom 4095 2 = true ∧
      nx (exec (.uopEmitf 0 4095) s) (fun u => decide ((u.net ++ (u.core 4095).port) =
        [⟨7, 2, 0, 0, coreSrc 4095, [11 <<< 35 + 1000000, 7 + 9 <<< 32]⟩])) = true) := by decide +kernel

/-- Core 4095 with the latch holding neuron 1023 (V, T17, FIRED) and the word `w` at PC. -/
def latched (v : Int) (t : Nat) (f : Bool) (w : Nat) (e : Eng) : State :=
  (runs (hrun 0) w e).upCore 4095 fun c => { c with nl := ⟨true, 1023, v, t, f⟩ }

/-- The latch after the command. -/
def nlAfter (o : Host.Outcome State Fault Refusal) (l : NLatch) : Bool := nx o fun u => decide ((u.core 4095).nl = l) && (u.core 4095).run.isSome

theorem witness_NeuronMicroOpsWorkOnTheLatch :
    (let w := uw 0x40 0 0 0 0 0 0 0 1
     let s := (runs (hrun 0) w (eng 1022 0 0 0)).setNeuron 4095 1023 { v := -5, t17 := 9, fired := true }
     let z := runs (hrun 0) w (eng 1023 0 0 0)
     issuesB s 4095 0x40 1 = true ∧ s.nNeurons 4095 = 1024 ∧ nlAfter (exec (.uopNld 0 4095) s) ⟨true, 1023, -5, 9, true⟩ = true ∧
      eqs (exec (.uopNld 0 4095) z) (z.ucodeFault 4095 2 5) = true) ∧
    (((runs (hrun 0) 0 (eng 1 2 3 4)).core 4095).nl.valid = false ∧
      (∀ x ∈ ([(Instr.uopNst, 0x41), (Instr.uopLeak, 0x42), (Instr.uopNadd, 0x43), (Instr.uopNget, 0x44),
        (Instr.uopNput, 0x45), (Instr.uopFire, 0x46), (Instr.uopNclr, 0x47)] : List ((Nat → Fin 4096 → Instr) × Nat)),
        issuesB (runs (hrun 0) (uw x.2 0 0 1 0 1 0 0 0) (eng 1 2 3 4)) 4095 x.2 1 = true ∧
        eqs (exec (x.1 0 4095) (runs (hrun 0) (uw x.2 0 0 1 0 1 0 0 0) (eng 1 2 3 4)))
          ((runs (hrun 0) (uw x.2 0 0 1 0 1 0 0 0) (eng 1 2 3 4)).ucodeFault 4095 7 5) = true)) ∧
    (((latched 8000 976 false 0 (eng 0 0 0 0)).core 4095).nl.valid = true ∧
      (let s := latched 8000 976 false (uw 0x41 0 0 0 0 0 0 0 0) (eng 0 0 0 0)
       issuesB s 4095 0x41 1 = true ∧
        nx (exec (.uopNst 0 4095) s) (fun u => decide (u.neuron 4095 1023 = { v := 8000, t17 := 976, fired := false })) = true) ∧
      (let s := latched 8000 976 true (uw 0x42 0 0 0 0 0 0 0 0) (eng 0 0 0 0)
       issuesB s 4095 0x42 1 = true ∧ nlAfter (exec (.uopLeak 0 4095) s) ⟨true, 1023, 8000, 976, true⟩ = true) ∧
      (let s := latched 8000 (2 ^ 17 + 976 - 65536) true (uw 0x42 0 0 0 0 0 0 0 0) (eng 0 0 0 0)
       issuesB s 4095 0x42 1 = true ∧ nlAfter (exec (.uopLeak 0 4095) s) ⟨true, 1023, 0, 976, false⟩ = true) ∧
      (let s := latched 8000 976 false (uw 0x43 0 0 1 0 1 0 1 0) (eng 0 96 0 0)
       issuesB s 4095 0x43 1 = true ∧ nlAfter (exec (.uopNadd 0 4095) s) ⟨true, 1023, 8191, 976, false⟩ = true ∧
        nx (exec (.uopNadd 0 4095) s) (fun u => u.rg CGS.SAT_EVENTS 4095 == 1 && (u.core 4095).eng.fl.v) = true) ∧
      (let s := latched (-5) 976 false (uw 0x44 3 0 0 0 1 0 0 0) (eng 0 0 0 0)
       issuesB s 4095 0x44 1 = true ∧ engAfter (exec (.uopNget 0 4095) s) (fun e => e.reg 3 == 0xFFFFFFFB && e.fl.n) = true) ∧
      (let s := latched 8000 976 false (uw 0x45 0 0 0 0 1 0 0 0) (eng 0xFFFF0000 0 0 0)
       issuesB s 4095 0x45 1 = true ∧ nlAfter (exec (.uopNput 0 4095) s) ⟨true, 1023, -8192, 976, false⟩ = true) ∧
      (let s := (latched 100 976 false (uw 0x46 0 0 0 0 0 0 0 0) (eng 0 0 0 0)).rs CGS.THETA 4095 100
       issuesB s 4095 0x46 1 = true ∧ s.portRoom 4095 2 = true ∧ nlAfter (exec (.uopFire 0 4095) s) ⟨true, 1023, 0, 976, true⟩ = true ∧
        engAfter (exec (.uopFire 0 4095) s) (fun e => e.fl.f) = true) ∧
      (let s := latched 100 976 true (uw 0x47 0 0 0 0 0 0 0 0) (eng 0 0 0 0)
       issuesB s 4095 0x47 1 = true ∧ nlAfter (exec (.uopNclr 0 4095) s) ⟨true, 1023, 0, 976, true⟩ = true)) := by decide +kernel


theorem witness_MicroOpsWaitAndRefuse :
    (let w := uw 0x50 0 0 1 0 0 0 (4 * 4 + 3) (2 ^ 15 + 5 + 35 <<< 6 + 0x800 <<< 16)
     let s := runs (hrun 0) w (eng 0 0 0 0)
     issuesB s 4095 0x50 1 = true ∧ (uImm w).testBit 15 = true ∧ eqs (exec (.uopNbr 0 4095) s) (s.ucodeFault 4095 1 5) = true) ∧
    (let w := uw 0x50 0 0 1 0 0 0 (4 * 4 + 3) (5 + 35 <<< 6 + 0x800 <<< 16)
     let full : Flit := ⟨6, 1, 15, 2, coreSrc 4095, [0, 0, 0, 0, 0, 0, 0, 0]⟩
     let s := (runs (hrun 0) w (eng 0 0 0 0)).upCore 4095 fun c => { c with port := [full, full] }
     let z := runs (hrun 6) w (eng 0 0 0 0)
     issuesB s 4095 0x50 1 = true ∧ s.portRoom 4095 2 = false ∧
      eqs (exec (.uopNbr 0 4095) s) (s.waitBegin CGS.OUT_STALL_CYCLES 4095) = true ∧
      issuesB z 4095 0x50 1 = true ∧ eqs (exec (.uopNbr 0 4095) z) (z.ucodeFault 4095 5 5) = true) ∧
    (let w := uw 0x31 0 0 1 0 0 0 1 0
     let s := (runs (hrun 0) w (eng 0x820 2 3 4)).upCore 4095 fun c => { c with nbr := some (0x800, 4) }
     issuesB s 4095 0x31 1 = true ∧ (s.core 4095).nbrTouches 0x820 4 = true ∧ eqs (exec (.uopLd32 0 4095) s) s = true) ∧
    (let w := uw 0x64 0 0 0 0 0 0 0 0
     let s := (runs (hrun 0) w (eng 0 2 3 4)).upCore 4095 fun c => { c with nbr := some (0x800, 4) }
     let z := (runs (hrun 0) w (eng 0 2 3 4)).upCore 4095 fun c => { c with initDue := true }
     issuesB s 4095 0x64 1 = true ∧ eqs (exec (.uopEnd 0 4095) s) s = true ∧
      issuesB z 4095 0x64 1 = true ∧ (hrun 0).kind ≠ 4 ∧ (hrun 0).kind ≠ 5 ∧
      nx (exec (.uopEnd 0 4095) z) (fun u => decide ((u.core 4095).run.map HRun.kind = some 6) && !(u.core 4095).initDue) = true) ∧
    (let s := (latched 100 976 false (uw 0x46 0 0 0 0 0 0 0 3) (eng 0 0 0 0)).rs CGS.THETA 4095 101
     issuesB s 4095 0x46 1 = true ∧ ¬ signed 32 (s.rg CGS.THETA 4095) ≤ 100 ∧
      nx (exec (.uopFire 0 4095) s) (fun u => u.net.isEmpty && (u.core 4095).port.isEmpty && !(u.core 4095).eng.fl.f) = true) ∧
    (let s := { (sets coreUp [(CGS.SLOT_EN, 4095, 1, 0)]) with
         cores := [(4095, { Core.init with stepped := 976, run := some (hrun 4) })], sched := [(0, ⟨some (9, 976 * 1024 + 7), [], 0, 0⟩)] }
     s.slotIn (s.rg CGS.SLOT_GROUP 4095) (s.stepOf 4095) = some 9 ∧ s.coreOn 4095 = true ∧ s.on CGS.SLOT_EN 4095 = true) := by
  decide +kernel

/-! Witnesses of the statements about matrix cores, token buffers and the package network. -/

/-- Matrix core 31 on, a program of two descriptors at its base, bound to group 3, which runs with its next slot at DT 1500000. -/
def mxUp : State :=
  { (sets up [(Hdr.ENABLE .mxc, 31, 1, 0), (MXC.BOUND, 31, 1, 0), (MXC.GROUP, 31, 3, 0), (MXC.PROG_LEN, 31, 2, 0), (FG.PERIOD_NS, 3, 500000, 0),
      (MXC.SEM_INIT.nth 0, 31, 0x20001, 0)]) with sched := [(3, ⟨some (5, 1500000), [(4, 1000000)], 0, 0⟩)] }

/-- Descriptor `i` of core 31 with the listed bytes: offset, length, value. -/
def desc (s : State) (i : Nat) (l : List (Nat × Nat × Nat)) : State :=
  { s with sram := l.foldl (fun x e => x.wrLE (s.descAt 31 i + e.1) e.2.1 e.2.2) s.sram }

/-- Core 31 in slot 4 with descriptor 0 in unit `u` and descriptor 1 queued. -/
def inUnit (s : State) (u : Nat) (visible : Bool) : State :=
  { s with mx := [(31, { Mx.init with sem := s.semInit 31, last := some 4,
                                      run := some (MxRun.setUnit ⟨some 4, 1000000, 2, [1], none, none, none, 0⟩ u (some (0, visible))) })] }

theorem witness_SlotSequencerRunsItsProgram :
    ((mxUp.advance 0).mxOn 31 = true ∧ mxUp.on MXC.BOUND 31 = true ∧ mxUp.rg MXC.PROG_LEN 31 ≠ 0 ∧ mxUp.groupOn (mxUp.rg MXC.GROUP 31) = true ∧
      (mxUp.advance 0).mxSlotDue 31 = some (4, 1000000) ∧ (mxUp.mxc 31).run = none ∧
      nx (exec (.mxSlotStart 0 31 0 0) mxUp) (fun u => decide ((u.mxc 31).run.map MxRun.queue = some [0, 1]) && u.on MXC.SLOT_RUNNING 31 &&
        decide ((u.mxc 31).sem.take 2 = [1, 2]) && u.rg MXC.SLOT_N 31 == 4) = true) ∧
    (let s := desc { mxUp with mx := [(31, { Mx.init with sem := mxUp.semInit 31, run := some ⟨some 4, 1000000, 2, [0, 1], none, none, none, 0⟩ })] } 0
       [(0, 1, 7), (4, 2, 3)]
     ((s.mxc 31).run.map MxRun.queue) = some [0, 1] ∧ s.rg MXC.PROG_BASE 31 + 128 ≤ mxSize ∧ unitOf (s.dOp (s.descAt 31 0)) = 2 ∧
      semsUp (s.mxc 31).sem (s.dWait (s.descAt 31 0)) = true ∧
      nx (exec (.mxDispatch 0 31) s) (fun u => decide ((u.mxc 31).run.map MxRun.dma = some (some (0, false))) && decide ((u.mxc 31).sem.take 2 = [0, 1])) = true ∧
      (let z := desc s 0 [(4, 2, 4)]
       semsUp (z.mxc 31).sem (z.dWait (z.descAt 31 0)) = false ∧ eqs (exec (.mxDispatch 0 31) z) z = true)) ∧
    (let s := desc (inUnit mxUp 0 true) 0 [(0, 1, 9), (6, 2, 0x8000), (8, 4, 77)]
     ((s.mxc 31).run.bind MxRun.finished) = some (0, 0) ∧ s.dOp (s.descAt 31 0) = 9 ∧ s.dIrq (s.descAt 31 0) = false ∧
      nx (exec (.mxDescriptorDone 0 31) s) (fun u => decide ((u.mxc 31).run.map MxRun.done = some 1) && u.rg MXC.SEQ_LAST 31 == 77 &&
        (u.mxc 31).sem.getD 15 0 == 1) = true ∧
      (let z := s.rs MXC.PROG_LEN 31 1
       nx (exec (.mxDescriptorDone 0 31) z) (fun u => (u.mxc 31).run.isNone && u.rg MXC.SLOTS_RUN 31 == 1 &&
         decide (u.net = [⟨0xB, 2, 0, 0, mxSrc 31, [2 <<< 60 ||| 4 <<< 2]⟩])) = true)) ∧
    (let s := inUnit mxUp 0 false
     (s.advance 1500000).mxOverdue 31 = true ∧ nx (exec (.mxSlotAbort 1500000 31) s) (fun u => u.rg MXC.SLOT_OVERRUNS 31 == 1 &&
        u.rg MXC.LAST_STATUS 31 == 1 && decide (u.net = [⟨0xB, 2, 0, 0, mxSrc 31, [2 <<< 60 ||| 4 <<< 2 ||| 1]⟩])) = true ∧
      (s.advance 1499999).mxOverdue 31 = false ∧ eqs (exec (.mxSlotAbort 1499999 31) s) (s.advance 1499999) = true) ∧
    (reachesB mxUp 0 .mgmtP0 ⟨.mxc, 31⟩ = true ∧ MXC.START.of 1#32 = 1 ∧
      eqs (exec (.mxStart 0 .mgmtP0 31 1) mxUp) (mxUp.irqSet ⟨.mxc, 31⟩ 4) = true ∧
      (let s := mxUp.rs MXC.BOUND 31 0
       (s.on MXC.BOUND 31 || s.on MXC.SLOT_RUNNING 31) = false ∧
        nx (exec (.mxStart 0 .mgmtP0 31 1) s) (fun u => decide ((u.mxc 31).run.map MxRun.slot = some none) && u.on MXC.SLOT_RUNNING 31) = true)) ∧
    (let s := desc (inUnit mxUp 0 false) 0 [(0, 1, 9)]
     (s.mxCurrent 31 0 fun a => s.dOp a == 9) = some 0 ∧ (s.dCheck (s.descAt 31 0) 0 []).isOk = true ∧
      eqs (exec (.mxNop 0 31) s) (s.mxVisible 31 0 0) = true ∧
      (let z := desc s 0 [(0x7F, 1, 1)]
       (z.dCheck (z.descAt 31 0) 0 []).isOk = false ∧ eqs (exec (.mxNop 0 31) z) (z.mxFault 31 0 4) = true) ∧
      (let z := desc s 0 [(0, 1, 10)]
       (z.mxCurrent 31 0 fun a => !(decide (1 ≤ z.dOp a ∧ z.dOp a ≤ 9))) = some 0 ∧
        eqs (exec (.unlistedDescriptorOp 0 31) z) (z.mxFault 31 0 1) = true) ∧
      (s.mxFault 31 65535 7).rg MXC.CF_INDEX 31 = 65535 ∧ (s.mxFault 31 65535 7).rg MXC.CF_CODE 31 = 7) := by decide +kernel

/-- A GEMM of INT8 rows to INT32: A (1 × 2) at 0x1000, B (2 × 2, by columns) at 0x2000, C at 0x3000. -/
def gemmUp : State :=
  let s := desc (inUnit mxUp 0 false) 0 [(0, 1, 1), (2, 1, 0x00), (3, 1, 0x17), (0xC, 4, 0x3F800000), (0x10, 4, 0x1000), (0x14, 4, 0x2000), (0x18, 4, 0x3000),
    (0x1C, 4, absent), (0x20, 4, absent), (0x24, 4, absent), (0x28, 2, 1), (0x2A, 2, 2), (0x2C, 2, 2), (0x30, 4, 2), (0x34, 4, 2), (0x38, 4, 8)]
  { s with sram := ((s.sram.wrLE (mxBase 31 + 0x1000) 2 0xFF02).wrLE (mxBase 31 + 0x2000) 4 0x80030405).wrLE (mxBase 31 + 0x3000) 8 0 }

theorem witness_MatrixDescriptorsComputeTheirElements :
    ((gemmUp.mxCurrent 31 0 fun a => gemmUp.dOp a == 1) = some 0 ∧ (gemmUp.gemm 31 (gemmUp.descAt 31 0)).isOk = true ∧
      gemmUp.rg MXC.MACS 31 < 2 ^ 64 ∧ tyBytes (gemmUp.dTO (gemmUp.descAt 31 0)) 2 ≤ 8 ∧
      nx (exec (.gemm 0 31) gemmUp) (fun u => u.sram.rdLE (mxBase 31 + 0x3000) 4 == 2 * 5 - 4 &&
        u.sram.rdLE (mxBase 31 + 0x3004) 4 == 2 * 3 + 128 && u.rg MXC.MACS 31 == 4 &&
        decide ((u.mxc 31).run.map MxRun.comp = some (some (0, true)))) = true) ∧
    (let s := desc gemmUp 0 [(2, 1, 0x20)]
     (s.gemm 31 (s.descAt 31 0)).isOk = false ∧ eqs (exec (.gemm 0 31) s) (s.mxFault 31 0 2) = true) ∧
    (∀ x ∈ [(Instr.conv, 2), (Instr.attn, 4), (Instr.eltwise, 5), (Instr.reduce, 6)],
      ((desc (inUnit mxUp 0 false) 0 [(0, 1, x.2), (0x7F, 1, 1)]).mxCurrent 31 0 fun a =>
        (desc (inUnit mxUp 0 false) 0 [(0, 1, x.2), (0x7F, 1, 1)]).dOp a == x.2) = some 0 ∧
      eqs (exec (x.1 0 31) (desc (inUnit mxUp 0 false) 0 [(0, 1, x.2), (0x7F, 1, 1)]))
        ((desc (inUnit mxUp 0 false) 0 [(0, 1, x.2), (0x7F, 1, 1)]).mxFault 31 0 4) = true) ∧
    (let s := desc (inUnit mxUp 0 false) 0 [(0, 1, 5), (2, 1, 0x66), (3, 1, 6), (0xC, 4, 0x3F800000), (0x10, 4, 0x1000), (0x14, 4, 0x1004),
       (0x18, 4, 0x3000), (0x1C, 4, 1), (0x20, 1, 0)]
     let z : State := { s with sram := s.sram.wrLE (mxBase 31 + 0x1000) 8 0x400000003F800000 }
     (z.eltwise 31 (z.descAt 31 0)).isOk = true ∧ (0 : Nat) < z.dsc (z.descAt 31 0) 0x1C 4 ∧
      nx (exec (.eltwise 0 31) z) (fun u => u.sram.rdLE (mxBase 31 + 0x3000) 4 == 0x40400000) = true) ∧
    (let s := desc (inUnit mxUp 0 false) 0 [(0, 1, 6), (2, 1, 6), (3, 1, 6), (0xC, 4, 0x3F800000), (0x10, 4, 0x1000), (0x14, 4, 0x3000),
       (0x18, 4, 1), (0x1C, 4, 2), (0x20, 1, 2)]
     let z : State := { s with sram := s.sram.wrLE (mxBase 31 + 0x1000) 8 0x400000003F800000 }
     (z.reduce 31 (z.descAt 31 0)).isOk = true ∧
      nx (exec (.reduce 0 31) z) (fun u => u.sram.rdLE (mxBase 31 + 0x3000) 4 == 0x40000000) = true) ∧
    (dotI 3 (fun i => i) (fun i => 10 + i) = (1 * 11 + 2 * 12, 0) ∧
      (let part := fun e => ((engRange 3 e).map fun (i : Nat) => (i : Int) * (10 + i)).sum
       (-(2 ^ 31 - 1) : Int) ≤ part 0 + part 1 ∧ part 0 + part 1 ≤ 2 ^ 31 - 1)) := by decide +kernel

/-- A token record of buffer 31 of cluster 15 at sensor 0, pixel (33, 40): type `ty`, time `t`, from core 4095. -/
def tokFlit (ty t : Nat) : Flit := ⟨6, 1, 15, 2, coreSrc 4095, [t + 15 <<< 35 + 1 <<< 39 + ty <<< 40, 33 + 40 <<< 11, 1, 2, 3, 4, 5, 6]⟩

/-- Buffer 31 of cluster 15 enabled, group 3. -/
def tokUp : State :=
  { (sets up [(TOK.BUF_EN, 15, 1, 31), (TOK.GROUP, 15, 3, 31), (TOK.BASE, 15, 0x10000, 31), (TOK.NS, 15, 1, 31)]) with
    sched := [(3, ⟨some (5, 1000000), [(4, 500000)], 0, 0⟩)] }

theorem witness_GathersAndTokenRecords :
    (let s := desc (inUnit (sets mxUp [(FG.PERIOD_NS, 3, 500000, 0)]) 1 false) 0 [(0, 1, 3), (3, 1, 2), (0x10, 4, 0x1000), (0x14, 4, absent),
       (0x19, 1, 5), (0x1A, 1, 35), (0x20, 2, 1), (0x22, 2, 1)]
     ((s.mxCurrent 31 1 fun a => (s.dsc a 0x18 1 == 1) == false) = some 0 ∧
      nx (exec (.gatherLedger 0 31) s) (fun u => decide ((u.mxc 31).run.map MxRun.gath = some (some (0, true)))) = true) ∧
     (let z := sets s [(LDB.DESC_EN, 15, 1, 63), (LDB.KEY, 15, 35, 63), (LDB.MAP, 15, 5, 63), (LDB.DISCIPLINE, 15, 1, 63), (LDB.FENCE_GROUP, 15, 3, 63)]
      (z.gatherReady 15 4 3 (z.gatherDescs 15 5 35 false)) = false ∧ eqs (exec (.gatherLedger 0 31) z) z = true) ∧
     (let z := desc s 0 [(0x24, 1, 3)]
      eqs (exec (.gatherLedger 0 31) z) (z.mxFault 31 0 4) = true)) ∧
    (let s := desc (inUnit tokUp 1 false) 0 [(0, 1, 3), (0x10, 4, 0x1000), (0x14, 4, 0x2000), (0x18, 1, 1), (0x19, 1, 31), (0x1C, 4, 0x3000),
       (0x20, 4, 0x4000), (0x24, 2, 1)]
     let z := (s.setTokFence 15 31 (some ⟨4, 0, true, false, 0⟩))
     (z.mxCurrent 31 1 fun a => (z.dsc a 0x18 1 == 1) == true) = some 0 ∧
      nx (exec (.gatherTokens 0 31) z) (fun u => decide ((u.mxc 31).run.map MxRun.gath = some (some (0, true)))) = true ∧
      eqs (exec (.gatherTokens 0 31) s) s = true) ∧
    (let s := { tokUp with net := [tokFlit 5 999000] }
     ((s.advance 0).takeFlit (fun f => f.toUnit 6 15 2)) = some (tokFlit 5 999000, tokUp) ∧ s.on TOK.BUF_EN 15 31 = true ∧
      bitsAt ((tokFlit 5 999000).words.getD 0 0) 40 3 = 5 ∧ s.tokCell 15 31 (33 + 40 <<< 11) = some 21 ∧ s.tokFence 15 31 = none ∧
      nx (exec (.token 0 15) s) (fun u => decide (Tab.get none (u.tk 15).cells (31 * 4096 + 21) = some (999000, 4095)) &&
        u.sram.rdLE (s.tokAddr 15 31 21 + 56) 8 == 6 && u.rg TOK.RECORDS_IN 15 == 1) = true ∧
      (let z := s.setTokFence 15 31 (some ⟨4, 998999, false, false, 0⟩)
       z.tokWaits 15 31 999000 = true ∧ nx (exec (.token 0 15) z) (fun u => (u.tk 15).pend.length == 1 && (u.tk 15).cells.isEmpty) = true) ∧
      nx (exec (.token 0 15) { tokUp with net := [tokFlit 6 999000] }) (fun u => u.rg TOK.BAD_REC 15 == 1) = true ∧
      nx (exec (.token 0 15) { up with net := [tokFlit 5 999000] }) (fun u => u.rg TOK.NO_BUF 15 == 1) = true ∧
      nx (exec (.token 0 15) (sets s [(TOK.GW, 15, 1, 31)])) (fun u => u.rg TOK.OUTSIDE 15 == 1) = true) ∧
    (let p : TokPend := ⟨31, 21, 999000, 4095, [1, 2, 3, 4, 5, 6, 7, 8]⟩
     let u := tokUp.tokStore 15 p
     p.cell < 4096 ∧ u.sram.rdLE (tokUp.tokAddr 15 31 21) 8 = 1 ∧
      Tab.get none ((u.tokStore 15 { p with core := 4094 }).tk 15).cells (31 * 4096 + 21) = some (999000, 4094) ∧
      (u.tokStore 15 { p with core := 4094 }).tokStore 15 p = (u.tokStore 15 { p with core := 4094 }).inc TOK.OLDER 15 ∧
      Tab.get none ((u.tokStore 15 { p with t := 999001, core := 0 }).tk 15).cells (31 * 4096 + 21) = some (999001, 0)) ∧
    (let f : Fence := ⟨4, 500000, true, true, 0⟩
     let s := tokUp.setTokFence 15 31 (some f)
     s.tokFence 15 31 = some f ∧ (s.advance 0).slotAfter (s.rg TOK.GROUP 15 31) 4 = some (5, 1000000) ∧ 1000000 ≤ (s.advance 0).dt ∧
      nx (exec (.tokFenceAdvance 0 15 31) s) (fun u => decide (u.tokFence 15 31 = some ⟨5, 1000000, false, false, 0⟩) &&
        u.rg TOK.FORCED 15 == 1) = true ∧
      nx (exec (.tokFenceAdvance 0 15 31) (s.setTokFence 15 31 (some { f with marks := 1 }))) (fun u => u.rg TOK.FORCED 15 == 0 &&
        decide (u.tokFence 15 31 = some ⟨5, 1000000, false, false, 0⟩)) = true) ∧
    (decay 0 3 9 = 4096 ∧ decay 0 3 48 = 0 ∧ decay 1 3 0 = 32768 ∧ decay 1 3 3 = 0 ∧ decay 2 3 2 = 32768 ∧ decay 2 3 3 = 0) := by decide +kernel

theorem witness_DmaResultsAndNetworkTransfers :
    (let s := desc (inUnit mxUp 2 false) 0 [(0, 1, 7), (0x10, 8, 0x1000), (0x18, 8, 0x1FFFC0), (0x20, 4, 64), (0x24, 4, 1)]
     let z : State := { s with sram := s.sram.wrLE (mxBase 31 + 0x1000) 4 0xAABBCCDD }
     (z.mxCurrent 31 2 fun a => z.dOp a == 7) = some 0 ∧ (z.mxc 31).job = none ∧ (z.mxc 31).reqs = [] ∧
      (z.dCheck (z.descAt 31 0) 0 [(0x10, 0x32)]).isOk = true ∧ 0x1FFFC0 + 64 ≤ mxSize ∧
      nx (exec (.dma 0 31) z) (fun u => u.sram.rdLE (mxBase 31 + 0x1FFFC0) 4 == 0xAABBCCDD && u.rg MXC.DMA_BYTES 31 == 64 &&
        decide ((u.mxc 31).run.map MxRun.dma = some (some (0, true)))) = true) ∧
    (let s := desc (inUnit mxUp 2 false) 0 [(0, 1, 7), (0x10, 8, 2 <<< 60 + 0x5000), (0x18, 8, 0x100), (0x20, 4, 1), (0x24, 4, 1)]
     let z : State := 
       { s with host.parts := [(0, { Part.empty with clusters := 0x8000, ddrBase := 0x5000, ddrSize := 1 })] }
     spaceOf (2 <<< 60 + 0x5000) = 2 ∧ (z.dmaCheck 15 (2 <<< 60 + 0x5000) 1 0 1).isOk = true ∧
      nx (exec (.dma 0 31) z) (fun u => decide (u.net = [⟨9, 2, 0, 1, mxSrc 31 + 1 <<< 23, [2 <<< 60 + 0x5000]⟩]) &&
        decide ((u.mxc 31).reqs = [⟨0, 0x100, 1, false⟩])) = true ∧
      (let y := { z with bufs := 0 }
       y.linkRoom (reqFlit 9 31 (2 <<< 60 + 0x5000) 0 []) = false ∧ z.linkRoom (reqFlit 9 31 (2 <<< 60 + 0x5000) 0 []) = true ∧
        nx (exec (.dma 0 31) y) (fun u => u.net.isEmpty && (u.mxc 31).reqs.isEmpty) = true)) ∧
    (let f : Flit := ⟨9, 1, 15, 4, mxSrc 30 + 511 <<< 14 + 2 <<< 23, [1 <<< 60 + 31 <<< 21 + 0x10]⟩
     let s : State := { up with net := [f], sram := Mem.wrLE [] (mxBase 31 + 0x10) 2 0x1234 }
     (s.advance 0).takeUnit (fun f => f.ty == 9) = some (f, { s with net := [] }) ∧ f.dk ≠ 2 ∧
      nx (exec (.readFlit 0) s) (fun u => decide (u.net = [⟨0xA, 1, 15, 3, srcField 1 15 4, [511, 0x1234, 0, 0, 0, 0, 0, 0, 0]⟩])) = true ∧
      (let g : Flit := ⟨9, 2, 0, 1, mxSrc 31 + 7 <<< 14 + 64 <<< 23, [2 <<< 60 + 0x5000]⟩
       let z := (List.range 6).foldl (fun s c => s.rs DDR.TRAIN_STATE c 2) { up with net := [g] }
       (z.channelOf 0x5000).isSome = true ∧ nx (exec (.readFlit 0) z) (fun u => u.net.isEmpty && u.ddrq.length == 1) = true)) ∧
    (let r : DdrReq := ⟨1, 0x5000, none, 2, 31, 7⟩
     let w : DdrReq := ⟨1, 0x6000, some [9, 8], 2, 31, 8⟩
     let s := { (up.rs DDR.TRAIN_STATE 5 2) with ddrq := [(5, [⟨2, 0, none, 1, 0, 0⟩, r])] }
     (s.advance 0).ddrLevel 5 = some 1 ∧ nx (exec (.ddrRequestServe 0 5) s) (fun u => decide (u.net.map Flit.words = [[7, 0, 0, 0, 0, 0, 0, 0, 0]]) &&
        (Tab.get [] u.ddrq 5).length == 1) = true ∧
      nx (exec (.ddrRequestServe 0 5) { s with ddrq := [(5, [w])] }) (fun u => u.ddr4.rd 0x6001 == 8 && u.ddrq.isEmpty) = true) ∧
    (let f : Flit := ⟨0xA, 1, 15, 4, srcField 2 0 1, [5, 0x2211, 0, 0, 0, 0, 0, 0, 0]⟩
     let s := { (inUnit mxUp 2 false) with net := [f], mx := [(31, { Mx.init with reqs := [⟨5, 0x300, 2, false⟩] })] }
     (s.advance 0).takeFlit (fun f => f.ty == 0xA && f.dk == 1) = some (f, { s with net := [] }) ∧ (s.mxc 31).job = none ∧ spaceOf 0x300 = 0 ∧
      ((s.mxc 31).reqs.find? fun r => r.tag == 5 && !r.wr) = some ⟨5, 0x300, 2, false⟩ ∧
      nx (exec (.readrsp 0) s) (fun u => u.sram.rdLE (mxBase 31 + 0x300) 2 == 0x2211 && (u.mxc 31).reqs.isEmpty &&
        u.rg MXC.DMA_BYTES 31 == 2) = true) ∧
    (let f : Flit := ⟨8, 1, 15, 4, mxSrc 30 + 5 <<< 14 + 2 <<< 23, [1 <<< 60 + 31 <<< 21 + 0x40, 0x2211, 0, 0, 0, 0, 0, 0, 0]⟩
     let s := { up with net := [f] }
     ((s.advance 0).takeUnit (fun f => f.ty == 8 && !f.isResult)).isSome = true ∧ f.dk ≠ 2 ∧ (s.mxc (srcMx f.src)).job = none ∧
      f.reqLen = 2 ∧ f.reqTag = 5 ∧
      nx (exec (.writeFlit 0) s) (fun u => u.sram.rdLE (mxBase 31 + 0x40) 2 == 0x2211 && u.net.isEmpty) = true) ∧
    (let s := desc (inUnit (mxUp.rs MXC.SLOT_N 31 4) 2 false) 0 [(0, 1, 8), (0x10, 4, 0x1FFFC0), (0x14, 4, 64), (0x19, 1, 35)]
     (s.mxCurrent 31 2 fun a => s.dOp a == 8) = some 0 ∧ (s.dCheck (s.descAt 31 0) 0 [(0x10, 0x1A)]).isOk = true ∧
      nx (exec (.result 0 31) s) (fun u => decide (u.net = [resultFlit 31 0x1FFFC0 3 4 0 35 (Mem.rdBytes [] 0 64)])) = true ∧
      (let z := desc s 0 [(0x14, 4, 63)]
       eqs (exec (.result 0 31) z) (z.mxFault 31 0 4) = true)) ∧
    (eqs (exec (.badFlit 0 15 14) up) ((up.inc CLU.BAD_FLIT 15).irqSet ⟨.clu, 15⟩ 10) = true ∧ eqs (exec (.badFlit 0 15 13) up) up = true) ∧
    (FUnit.die 3 ∉ up.fenced ∧ nx (exec (.ucieCrcRetry 0 15 false) up) (fun u => decide (FUnit.die 3 ∈ u.fenced)) = true ∧
      eqs (exec (.ucieCrcRetry 0 15 true) up) ((up.inc UCIE.CRC_ERR 15).logFault ⟨.ucie, 15⟩ false 5 0) = true ∧
      eqs (exec (.meshParityResend 0 15 3 true) up) (up.logFault ⟨.mesh, 15⟩ false 5 3) = true ∧
      nx (exec (.meshParityResend 0 15 3 false) up) (fun u => decide (FUnit.cluster 15 ∈ u.fenced)) = true) := by decide +kernel

/-! Witnesses of the statements about the rate filter bank and the fusion complex. -/

theorem witness_RateFilterBankCommands :
    reachesB up 0 .mgmtP0 ⟨.rfb, 0⟩ = true ∧ reachesB up 0 .mgmtP0 ⟨.rfbs, 35⟩ = true ∧
    (let s := { (sets up [(RFB.SYNC_TICK, 0, 1000, 0), (RFB.SYNC_MASK, 0, 0xFFFF, 0)]) with rfb := { up.rfb with proc := 900 } }
     RFB.SYNC_ARM.of 1#32 = 1 ∧ nx (exec (.syncArm 0 .mgmtP0 1) s) (fun u => decide (u.rfb.sync = some (0xFFFF, 1000))) = true ∧
      nx (exec (.syncArm 0 .mgmtP0 1) (s.rs RFB.SYNC_TICK 0 800)) (fun u => decide (u.rfb.sync = some (0xFFFF, 900))) = true) ∧
    (let s := sets up [(RFB.PROF_INDEX, 0, 15, 0), (RFB.REQ_SLOT, 0, 31, 15), (RFB.REQ_GEN, 0, 127, 15), (RFB.XF_LEN, 0, 256, 15)]
     RFB.COMMIT.of 1#32 = 1 ∧ RFB.SWAP.of 1#32 = 0 ∧ RFB.COMMIT.of 2#32 = 0 ∧ RFB.SWAP.of 2#32 = 1 ∧
      eqs (exec (.commit 0 .mgmtP0 1) s) (s.upProf 15 fun q => { q with commit := true }) = true ∧
      newer 8 (s.rg RFB.REQ_GEN 0 15) (s.prof 15).gen = true ∧ s.rg RFB.REQ_SLOT 0 15 ≠ s.bankSlot 15 (s.prof 15).bankB ∧
      nx (exec (.swap 0 .mgmtP0 2) s) (fun u => decide ((u.prof 15).swap = some (31, 127, 256))) = true ∧
      (let z := s.rs RFB.REQ_GEN 0 128 15
       newer 8 (z.rg RFB.REQ_GEN 0 15) (z.prof 15).gen = false ∧
        eqs (exec (.swap 0 .mgmtP0 2) z) ((z.inc RFB.SWAPS_REFUSED 0).irqSet ⟨.rfb, 0⟩ 9) = true) ∧
      (let z := s.rs RFB.REQ_SLOT 0 15 15
       z.rg RFB.REQ_SLOT 0 15 = z.bankSlot 15 (z.prof 15).bankB ∧
        eqs (exec (.swap 0 .mgmtP0 2) z) ((z.inc RFB.SWAPS_REFUSED 0).irqSet ⟨.rfb, 0⟩ 9) = true)) := by decide +kernel

theorem witness_RateFilterBankCommands_coefficients :
    (let s := sets up [(RFB.COEF_SLOT, 0, 16, 0), (RFB.COEF_TAP, 0, 63, 0)]
     s.slotUsed 16 = false ∧
      nx (exec (.coefDataWrite 0 .mgmtP0 0x3FFFF#32) s) (fun u => u.coefTap 16 63 == -1 && u.rg RFB.COEF_TAP 0 == 0) = true ∧
      up.slotUsed (up.rg RFB.COEF_SLOT 0) = true ∧ eqs (exec (.coefDataWrite 0 .mgmtP0 0x3FFFF#32) up) (up.irqSet ⟨.rfb, 0⟩ 4) = true) ∧
    ((Hdr.ENABLE .rfb).of 0#32 = 0) ∧
    (RFBS.CH_EN.of 1#32 = 1 ∧ up.on (RFBS.CH_EN.nth 31) 35 = false ∧
      nx (exec (.chCfgWrite 0 .mgmtP0 35 31 1) up) (fun u => u.on (RFBS.CH_EN.nth 31) 35 && (u.chan 1151).pend) = true) := by decide +kernel

theorem witness_FilterTickProcessing :
    (let s := { up with rfb := { up.rfb with closed := 960, proc := 959 } }
     s.rfb.proc + 17 ≤ (s.advance 0).curTick ∧ s.rfb.proc < s.rfb.closed ∧
      nx (exec (.rfbProcessTick 0) s) (fun u => u.rfb.proc == 960) = true) ∧
    (let s := (sets up [(RFB.S1, 0, 3, 15), (RFB.NTAPS_M1, 0, 63, 15)]).upProf 15 fun q => { q with commit := true }
     (s.prof 15).commit = true ∧ (s.prof 15).startsAt 0 = true ∧ ((s.applyCommit 0 15).prof 15).s1 = 3 ∧
      ((s.applyCommit 0 15).prof 15).ntaps = 64 ∧ (s.prof 15).startsAt 1 = false ∧ s.applyCommit 1 15 = s) ∧
    ({ Chan.init with i0 := 2 ^ 52 - 1 }.integrate 1).i0 = 0 ∧ ({ Chan.init with i0 := 2 ^ 52 - 1 }.integrate 1).i1 = 0 := by decide +kernel

/-- Group 3 enabled with 500 µs slots from DT 0, streams 0 and 35, slot 1 started at DT 500000. -/
def fuseUp : State :=
  { (sets up [(FG.PERIOD_NS, 3, 500000, 0), (FG.SENS_SET, 3, 2 ^ 35 + 1, 0), (FG.COLLECT_NS, 3, 50000, 0)]) with
    sched := [(3, ⟨some (2, 1000000), [(1, 500000)], 0, 0⟩)], grp := [(3, { Grp.init with sens := 2 ^ 35 + 1, known := [(1, 500000)] })] }

/-- A feature record of kind `kind` at stream 35, pixel (64, 32), time `t`. -/
def featFlit (kind t : Nat) : Flit := ⟨7, 2, 0, 0, coreSrc 4095, [evWord 35 64 32 1 t, kind + 7 <<< 16 + 9 <<< 32 + 11 <<< 48]⟩

theorem witness_FusionCollectsInputsPerSlot :
    ((fuseUp.sch 3).next = some (2, 1000000) ∧ 1000000 ≤ (fuseUp.advance 0).dt ∧ fuseUp.on FG.TIMEBASE 3 = false ∧
      nx (exec (.fusionSlotInstant 0 3) fuseUp) (fun u => decide ((u.sch 3).starts = [(2, 1000000), (1, 500000)]) && u.rg FG.SLOT_N 3 == 2 &&
        decide ((u.sch 3).next = some (3, 1500000))) = true ∧
      (let s := { fuseUp with dt := 999999 }
       (s.advance 0).dt < 1000000 ∧ eqs (exec (.fusionSlotInstant 0 3) s) s = true)) ∧
    (fuseUp.slotOf 3 500000 = some (some 1) ∧ fuseUp.slotOf 3 500001 = some (some 2) ∧ fuseUp.slotOf 3 1000001 = none ∧
      fuseUp.slotOf 3 0 = some none) ∧
    (let s := { fuseUp with net := [featFlit 1 400000] }
     (s.advance 0).takeHub (fun f => f.toHub 7 0) = some (featFlit 1 400000, fuseUp) ∧ s.featCap = [] ∧
      (∀ h ∈ List.range 4, (s.groupOn h && (s.setOf h).testBit 35) = decide (h = 3)) ∧
      nx (exec (.feature 0) s) (fun u => decide ((u.gr 3).slots.map (fun y => y.corners) = [[⟨35, evWord 35 64 32 1 0 >>> 35, 7, 9, 400000⟩]]) &&
        u.rg FUSE.FEAT_IN 0 == 1) = true ∧
      nx (exec (.feature 0) { s with net := [featFlit 2 400000] }) (fun u => decide ((u.gr 3).slots.map (fun y => y.bins.map fun b => b.2.w) = [[11]])) = true ∧
      nx (exec (.feature 0) { s with net := [featFlit 3 400000] }) (fun u => u.rg FUSE.FEAT_OTHER 0 == 1) = true ∧
      nx (exec (.feature 0) { s with net := [featFlit 1 1000001] }) (fun u => u.rg FUSE.FEAT_EARLY 0 == 1) = true ∧
      nx (exec (.feature 0) { s with net := [featFlit 1 0] }) (fun u => u.rg FUSE.FEAT_LATE 0 == 1 && (u.gr 3).late) = true ∧
      nx (exec (.feature 0) { s with featCap := List.replicate 11 999999 }) (fun u => u.rg FUSE.FEAT_OVER 0 == 1) = true ∧
      nx (exec (.feature 0) (s.rs FG.PERIOD_NS 3 0)) (fun u => u.featCap.length == 1 && (u.gr 3).slots.isEmpty) = true) ∧
    (let f : Flit := ⟨0xB, 2, 0, 0, mxSrc 31, [2 <<< 60 ||| 1 <<< 2 ||| 1]⟩
     let s := { (fuseUp.rs MXC.GROUP 31 3) with net := [f] }
     ((s.advance 0).takeFlit (fun f => f.toHub 0xB 0 && f.words.getD 0 0 >>> 60 == 2)).isSome = true ∧ (s.gr 3).past 1 = false ∧
      nx (exec (.slotDone 0) s) (fun u => decide ((u.gr 3).slots.map (fun y => y.done) = [[(31, 1)]])) = true ∧
      (let z := s.upGr 3 fun x => { x with cut := some 1 }
       (z.gr 3).past 1 = true ∧ nx (exec (.slotDone 0) z) (fun u => (u.gr 3).slots.isEmpty && u.net.isEmpty) = true)) ∧
    (let hd := fun (n : Byte) => n :: List.replicate 63 (0 : Byte)
     let f := fun (kind sensor : Nat) (d : List Byte) => resultFlit 31 0 3 1 kind sensor (d ++ List.replicate 64 0)
     let s := { fuseUp with net := [f 1 35 (hd 1)] }
     ((s.advance 0).takeHub Flit.isResult).isSome = true ∧ resultBytes (f 1 35 (hd 1)).words = hd 1 ++ List.replicate 64 0 ∧
      s.srcInstant 3 1 = some 500000 ∧ s.srcInstant 3 2 = none ∧
      nx (exec (.resultReceive 0) s) (fun u => decide ((Tab.get [] (u.gr 3).dets 35).map (fun r => (r.tm, r.dets.length)) = [(500000, 1)])) = true ∧
      nx (exec (.resultReceive 0) { fuseUp with net := [f 2 35 (hd 16)] }) (fun u =>
        decide ((Tab.get [] (u.gr 3).depth 35).map (fun r => (r.tm, r.depth.length)) = [(500000, 16)])) = true ∧
      nx (exec (.resultReceive 0) { fuseUp with net := [f 4 35 (hd 1)] }) (fun u => u.rg FUSE.BAD_RESULT 0 == 1) = true ∧
      nx (exec (.resultReceive 0) { fuseUp with net := [f 1 35 (hd 3)] }) (fun u => u.rg FUSE.BAD_RESULT 0 == 1) = true ∧
      nx (exec (.resultReceive 0) { fuseUp with net := [f 2 34 (hd 1)] }) (fun u => u.rg FUSE.BAD_RESULT 0 == 1) = true ∧
      nx (exec (.resultReceive 0) { fuseUp with net := [f 3 35 (hd 7)] }) (fun u =>
        decide ((u.gr 3).slots.map (fun y => y.user) = [[(31, hd 7 ++ List.replicate 64 0)]])) = true) := by
  decide +kernel

theorem witness_FusionReportsReachTheHostRing :
    (let s := { fuseUp with sched := [(3, ⟨some (2, 1000000), [(1, 950000)], 0, 0⟩)] }
     (s.advance 0).cutDue 3 = some (1, 950000) ∧
      nx (exec (.fusionCutoff 0 3) s) (fun u => decide ((u.gr 3).reports.map (fun r => (r.n, r.f, r.done, r.cut)) = [(1, 950000, false, 1000000)]) &&
        (u.gr 3).reports.all fun r => r.bytes.length % 64 == 0 && leAt r.bytes 0 2 == 0x5846 && leAt r.bytes 3 1 == 3 &&
          leAt r.bytes 4 4 == r.bytes.length && leAt r.bytes 8 8 == 1) = true ∧
      (let z := { s with dt := 999999 }
       (z.advance 0).cutDue 3 = none ∧ eqs (exec (.fusionCutoff 0 3) z) z = true)) ∧
    (let l : List Pair := [(1, 10, 20), (2, 10, 21), (3, 11, 20), (4, 11, 21)]
     takePairs l [] [] = [(1, 10, 20), (4, 11, 21)]) ∧
    (let r : Report := ⟨1, 500000, false, List.replicate 64 0, 600000, 0, false, 1000000, false, [], false⟩
     let s := fuseUp.upGr 3 fun x => { x with reports := [r] }
     (s.gr 3).reports.find? (fun r => !r.done) = some r ∧
      nx (exec (.reportComplete 0 3) s) (fun u => decide ((u.gr 3).reports = [{ r with done := true }]) && u.rg FG.SLOTS_DONE 3 == 1) = true ∧
      (fuseUp.gr 3).reports.find? (fun r => !r.done) = none ∧ eqs (exec (.reportComplete 0 3) fuseUp) fuseUp = true) ∧
    (let r : Report := ⟨1, 500000, true, List.replicate 64 0, 600000, 1, false, 1000000, false, [], false⟩
     let s := sets (fuseUp.upGr 3 fun x => { x with reports := [r] }) [(HQ.RING_EN, 0, 1, 6), (HQ.RING_BASE, 0, 0x100000, 6),
       (HQ.RING_SIZE_LOG, 0, 20, 6)]
     let z := { s with host := { s.host with ready := true, d3 := false } }
     (z.advance 0).releaseDue 3 = some r ∧ (fuseUp.advance 0).releaseDue 3 = none ∧ r.dest = 1 ∧
      nx (exec (.reportRelease 0 3) z) (fun u => (u.gr 3).reports.isEmpty && (u.rg (Hdr.IRQ_RAW .fg) 3).testBit 8) = true) := by decide +kernel

theorem witness_FusionRegisterWritesCommitOrRefuse :
    (reachesB up 0 .mgmtP0 ⟨.fg, 3⟩ = true ∧ reachesB fuseUp 0 .mgmtP0 ⟨.fg, 3⟩ = true ∧ fuseUp.groupOn 3 = true ∧ up.groupOn 3 = false ∧
      eqs (exec (.fgEnable 0 .mgmtP0 3 500000) fuseUp) (fuseUp.irqSet ⟨.fg, 3⟩ 4) = true ∧
      eqs (exec (.fgEnable 0 .mgmtP0 3 99999) up) (up.irqSet ⟨.fg, 3⟩ 4) = true ∧
      eqs (exec (.fgEnable 0 .mgmtP0 3 100000001) up) (up.irqSet ⟨.fg, 3⟩ 4) = true ∧
      up.fgOk 3 100000000 = true ∧ up.on FG.TIMEBASE 3 = false ∧
      (let s := sets up [(FG.TRK_FIRST, 3, 4095, 0), (FG.TRK_NUM, 3, 2, 0)]
       let z := up.rs FG.COLLECT_NS 3 (up.rg FG.SLOT_LATENCY_NS 3)
       s.fgOk 3 100000000 = true ∧ s.tracksOk 3 = false ∧ up.tracksOk 3 = true ∧
        eqs (exec (.fgEnable 0 .mgmtP0 3 100000000) s) ((s.irqSet ⟨.fg, 3⟩ 4).rb FG.ENABLE_REFUSED 3 false) = true ∧
        z.fgOk 3 100000000 = false ∧
        eqs (exec (.fgEnable 0 .mgmtP0 3 100000000) z) ((z.irqSet ⟨.fg, 3⟩ 4).rb FG.ENABLE_REFUSED 3 true) = true)) ∧
    (reachesB up 0 .mgmtP0 ⟨.cal, 0⟩ = true ∧ CAL.CAL_SWITCH.of 1#32 ≠ 0 ∧
      (let s := sets up [(CAL.CAL_REQ_GEN, 0, 127, 0), (CAL.CAL_SENSOR, 0, 35, 0), (CAL.CAL_WORD, 0, 2193, 0)]
       (s.on CAL.PENDING 0 || !newer 8 (s.rg CAL.CAL_REQ_GEN 0) (s.rg CAL.GEN 0)) = false ∧ (∀ g ∈ List.range 4, s.groupOn g = false) ∧
        nx (exec (.calSwitch 0 .mgmtP0 1) s) (fun u => u.activeBank == 1 - s.activeBank && u.rg CAL.GEN 0 == 127) = true ∧
        (let z := sets s [(FG.PERIOD_NS, 0, 500000, 0), (FG.PERIOD_NS, 1, 500000, 0), (FG.PERIOD_NS, 2, 500000, 0), (FG.PERIOD_NS, 3, 500000, 0)]
         (∀ g ∈ List.range 4, z.groupOn g = true ∧ (z.gr g).latched = false) ∧
          eqs (exec (.calSwitch 0 .mgmtP0 1) z) ((z.rb CAL.PENDING 0 true).rs CAL.PEND_GEN 0 127) = true) ∧
        eqs (exec (.calSwitch 0 .mgmtP0 1) up) ((up.inc CAL.SWITCHES_REFUSED 0).irqSet ⟨.cal, 0⟩ 9) = true ∧
        s.on CAL.PENDING 0 = false ∧
        nx (exec (.calDataAccess 0 .mgmtP0 true 99) s) (fun u => Tab.get 0 u.cal (calWords + 35 * 2194 + 2193) == 99 && u.rg CAL.CAL_WORD 0 == 0) = true ∧
        (let z := { s with cal := [(calWords + 35 * 2194 + 2193, 99)] }
         z.mayRead .host (Page.addr ⟨.cal, 0⟩) = true ∧ z.latch = [] ∧ reachesB z 0 .host ⟨.cal, 0⟩ = true ∧
          nx (exec (.calDataAccess 0 .host false 0) z) (fun u => decide (u.out = [.readData .host [99]]) && u.rg CAL.CAL_WORD 0 == 0) = true) ∧
        (let z := s.rb CAL.PENDING 0 true
         z.on CAL.PENDING 0 = true ∧ eqs (exec (.calDataAccess 0 .mgmtP0 true 99) z) (z.irqSet ⟨.cal, 0⟩ 4) = true))) := by decide +kernel

theorem witness_FusionRegisterWritesCommitOrRefuse_zones :
    (let v : Word := BitVec.ofNat 32 (2 ^ FUSE.ZONE_EN.lsb + 3 * 2 ^ FUSE.ZONE_GROUP.lsb)
     let s := sets up [(FUSE.ZONE_INDEX, 0, 63, 0), (FUSE.ZONE_MEM.nth 0, 0, 0x80008023, 63)]
     reachesB s 0 .mgmtP0 ⟨.fuse, 0⟩ = true ∧ FUSE.ZONE_EN.of v = 1 ∧
      nx (exec (.zoneCfgWrite 0 .mgmtP0 v) s) (fun u => u.on FUSE.ZONE_EN 0 63 && u.rg FUSE.ZONE_GROUP 0 63 == 3 &&
        u.rg (FUSE.ZONE_MEM.nth 0) 0 (zoneIdx 63) == 0x80008023) = true ∧
      (let z := s.rs (FUSE.ZONE_MEM.nth 0) 0 0x80238023 63
       eqs (exec (.zoneCfgWrite 0 .mgmtP0 v) z) (z.irqSet ⟨.fuse, 0⟩ 4) = true)) ∧
    (let v : Word := BitVec.ofNat 32 (2 ^ TRK.KILL.lsb + 4095 * 2 ^ TRK.KILL_INDEX.lsb)
     reachesB up 0 .mgmtP0 ⟨.trk, 0⟩ = true ∧ TRK.KILL.of v = 1 ∧ eqs (exec (.trkKill 0 .mgmtP0 v) up) { up with kills := [4095] } = true ∧
      TRK.KILL.of 0#32 = 0 ∧ eqs (exec (.trkKill 0 .mgmtP0 0) up) up = true) := by decide +kernel

/-! Witnesses of the statements about the Journal and the host interface. -/

/-- Stream 35 of the Journal on: 16 staging lines, a ring of 4 KB, a flush time of 1 µs, mark 7 placed, three words in the partial line. -/
def jrnUp : State :=
  { (sets up [(Hdr.ENABLE .jstr, 35, 1, 0), (JSTR.STAGE_LINES, 35, 16, 0), (JSTR.SIZE_LOG, 35, 12, 0), (JSTR.RING_BASE, 35, 0x10000, 0),
      (JSTR.WP, 35, 4032, 0), (JRNL.FLUSH_NS, 0, 1000, 0)]) with
    jrn := [(35, ⟨[1, 2, 3], [], [], none, 0, false, 999000, false, [(7, ⟨false, false, true, 4040, 5, 4040⟩)]⟩)] }

/-- A replay from that stream by channel 3, running at an event of time 5 with pace. -/
def repUp : State :=
  { (sets jrnUp [(JCH.STREAM, 3, 35, 0), (JCH.STATE, 3, 1, 0), (JCH.PACE, 3, 1, 0), (JCH.TGT_CORES, 3, 1, 0), (JCH.LENGTH, 3, 10, 0),
      (JCH.POSITION, 3, 8, 0)]) with ddr4 := Mem.wrLE [] 0x10008 8 (evWord 35 0 0 1 5) }

theorem witness_JournalRecordsMarksAndReplays :
    (let w := evWord 35 2047 1 1 (2 ^ 35 - 1)
     wStr w = 35 ∧ wX w = 2047 ∧ wY w = 1 ∧ wP w = 1 ∧ wT w = 2 ^ 35 - 1 ∧ recKind w = 35 ∧ w < 2 ^ 64) ∧
    (reachesB up 0 .mgmtP0 ⟨.jstr, 35⟩ = true ∧ reachesB jrnUp 0 .mgmtP0 ⟨.jstr, 0⟩ = true ∧ (Hdr.ENABLE .jstr).of 1#32 = 1 ∧
      jrnUp.on (Hdr.ENABLE .jstr) 0 = false ∧
      (let s := jrnUp.rs JSTR.STAGE_LINES 0 65535
       eqs (exec (.journalEnable 0 .mgmtP0 0 1) s) (s.irqSet ⟨.jstr, 0⟩ 4) = true) ∧
      (let s := (sets jrnUp [(JSTR.STAGE_LINES, 0, 65520, 0), (JSTR.WP, 0, 640, 0), (JSTR.OVERTAKEN, 0, 3, 0)])
       (s.jr 0).lines = [] ∧ nx (exec (.journalEnable 0 .mgmtP0 0 1) s) (fun u => u.on (Hdr.ENABLE .jstr) 0 && u.rg JSTR.WP 0 == 0 &&
         u.rg JSTR.OVERTAKEN 0 == 0 && decide (u.jr 0 = Jrn.init)) = true)) ∧
    (reachesB jrnUp 0 .mgmtP0 ⟨.jstr, 35⟩ = true ∧ (Hdr.ENABLE .jstr).of 0#32 = 0 ∧
      nx (exec (.journalDisable 0 .mgmtP0 35 0) jrnUp) (fun u => !u.on (Hdr.ENABLE .jstr) 35 &&
        decide ((u.jr 35).lines = [[1, 2, 3] ++ List.replicate 5 (61 <<< 58)])) = true) ∧
    ((jrnUp.jr 35).part ≠ [] ∧ (jrnUp.jr 35).lastCopy + 1000 ≤ (jrnUp.advance 0).dt ∧
      nx (exec (.journalFlush 0 35) jrnUp) (fun u => u.rg JSTR.PAD_WORDS 35 == 5 && decide ((u.jr 35).part = [])) = true ∧
      (let s := jrnUp.upJr 35 fun j => { j with lastCopy := 999001 }
       (s.advance 0).dt < (s.jr 35).lastCopy + s.rg JRNL.FLUSH_NS 0 ∧ eqs (exec (.journalFlush 0 35) s) s = true)) ∧
    (let s := jrnUp.upJr 35 fun j => j.putAll [4, 5, 6, 7, 8]
     (s.jr 35).lines = [[1, 2, 3, 4, 5, 6, 7, 8]] ∧
      nx (exec (.journalLineIssue 0 35) s) (fun u => decide ((u.jr 35).lines = []) && decide ((u.jr 35).flight.length = 1) &&
        nx (exec (.journalLineDone 0 35) u) (fun z => z.rg JSTR.WP 35 == 4096 && Mem.rdLE z.ddr4 (0x10000 + 4032 + 56) 8 == 8 &&
          (z.mark 35 7).valid)) = true) ∧
    (JSTR.MARK_CMD_OP.of 0x107#32 = 1 ∧ JSTR.MARK_CMD_INDEX.of 0x107#32 = 7 ∧ JSTR.MARK_CMD_OP.of 0x200#32 = 2 ∧
      nx (exec (.markSet 0 .mgmtP0 35 0x106) jrnUp) (fun u => (u.mark 35 6).set && decide (u.mark 35 7 = jrnUp.mark 35 7)) = true ∧
      nx (exec (.markSet 0 .mgmtP0 35 0x107) jrnUp) (fun u => (u.mark 35 7).set) = true ∧
      eqs (exec (.markSet 0 .mgmtP0 0 0x107) jrnUp) (jrnUp.irqSet ⟨.jstr, 0⟩ 4) = true ∧
      eqs (exec (.markSet 0 .mgmtP0 35 0x307) jrnUp) (jrnUp.irqSet ⟨.jstr, 35⟩ 4) = true ∧
      nx (exec (.markClear 0 .mgmtP0 35 0x207) jrnUp) (fun u => !(u.mark 35 7).valid && !(u.mark 35 7).set && decide ((u.jr 35).part = [1, 2, 3])) = true) ∧
    (reachesB repUp 0 .mgmtP0 ⟨.jrnl, 0⟩ = true ∧ JCH.START.of 1#32 = 1 ∧ JCH.CANCEL.of 1#32 = 0 ∧ JCH.START.of 2#32 = 0 ∧ JCH.CANCEL.of 2#32 = 1 ∧
      repUp.replaying 3 = true ∧ eqs (exec (.replayStart 0 .mgmtP0 3 1) repUp) (repUp.rs JCH.REFUSE_REASON 3 1) = true ∧
      (let s := repUp.upMark 35 (repUp.rg JCH.MARK 3) fun _ => ⟨true, false, false, 4040, 1000000, 4040⟩
       eqs (exec (.replayStart 0 .mgmtP0 3 1) s) (s.rs JCH.REFUSE_REASON 3 2) = true) ∧
      nx (exec (.replayCancel 0 .mgmtP0 3 2) repUp) (fun u => u.rg JCH.STATE 3 == 5 && !u.on JCH.SHORT 3 && (u.rg (Hdr.IRQ_RAW .jrnl) 0).testBit 8) = true ∧
      (let s := (sets repUp [(JCH.STATE, 3, 0, 0), (JCH.MARK, 3, 6, 0), (JCH.START_DELAY_NS, 3, 7, 0)])
       let z := s.upMark 35 6 fun _ => ⟨true, false, false, 4040, 1000000, 4040⟩
       (s.replaying 3 = false ∧ (s.mark 35 6).valid = false ∧
         eqs (exec (.replayStart 0 .mgmtP0 3 1) s) ((s.rs JCH.STATE 3 4).rs JCH.REFUSE_REASON 3 1) = true) ∧
       ((z.mark 35 6).valid = true ∧ z.shiftClash 3 7 (z.replayClusters 35 0) = false ∧ z.rg JCH.LENGTH 3 ≠ 0 ∧
         nx (exec (.replayStart 0 .mgmtP0 3 1) z) (fun u => u.replaying 3 && u.rg JCH.SHIFT 3 == 7 && u.rg JCH.POSITION 3 == 4040) = true) ∧
       (let y := (z.rs JCH.TGT_CORES 3 0).rs JCH.TGT_LEDGER 3 0
        eqs (exec (.replayStart 0 .mgmtP0 3 1) y) ((y.rs JCH.STATE 3 4).rs JCH.REFUSE_REASON 3 3) = true))) ∧
    (repUp.rg JCH.LENGTH 3 ≠ 0xFFFFFFFF ∧ repUp.rg JCH.POSITION 3 < repUp.rg JSTR.WP 35 ∧
      (let w := Mem.rdLE repUp.ddr4 0x10008 8
       recKind w < 36 ∧ (repUp.replayEvent 3 w (rebuild 0 (wT w))).isSome = true) ∧
      nx (exec (.replayIssue 0 3) repUp) (fun u => u.rg JCH.POSITION 3 == 16 && u.rg JCH.EVENTS_DONE 3 == 1) = true ∧
      (let s := repUp.rs JCH.POSITION 3 4032
       s.rg JSTR.WP 35 ≤ s.rg JCH.POSITION 3 ∧ nx (exec (.replayIssue 0 3) s) (fun u => u.rg JCH.STATE 3 == 2 && u.on JCH.SHORT 3) = true)) := by
  decide +kernel

/-- The host function live: rings 0 to 3 enabled with 16 entries (the report ring with 64 KB), command 5 of ring 0 waits. -/
def hostUp : State :=
  let s := sets up ([(PCIE.BME, 0, 1, 0), (PCIE.LINK_UP, 0, 1, 0), (HQ.RING_PROD, 0, 6, 0), (HQ.RING_CONS, 0, 5, 0), (HQ.RING_PROD, 0, 20, 1), (HQ.RING_CONS, 0, 10, 1),
      (HQ.RING_BASE, 0, 0x40000, 1), (HQ.RING_PROD, 0, 9, 2), (HQ.RING_CONS, 0, 2, 2), (HQ.RING_PROD, 0, 9, 6), (HQ.RING_CONS, 0, 2, 6)] ++
      [0, 1, 2].map (fun r => (HQ.RING_SIZE_LOG, 0, 4, r)) ++ [(HQ.RING_SIZE_LOG, 0, 16, 6)] ++ [0, 1, 2, 6].map fun r => (HQ.RING_EN, 0, 1, r))
  { s with host := { s.host with perst := false, ready := true } }

theorem witness_HostRingsMessagesAndLink :
    (hostUp.answers hqPage = true ∧ hostUp.host.perst = false ∧ hostUp.mayWrite .host hqPage.addr = true ∧ hostUp.ringLive 0 = true ∧
      eqs (exec (.cmdTail 0 21) hostUp) (hostUp.rs HQ.RING_PROD 0 21 0) = true ∧ eqs (exec (.cmdTail 0 22) hostUp) hostUp.dbBad = true ∧
      eqs (exec (.cplHead 0 20) hostUp) (hostUp.rs HQ.RING_CONS 0 20 1) = true ∧ eqs (exec (.cplHead 0 21) hostUp) hostUp.dbBad = true ∧
      eqs (exec (.ntcHead 0 9) hostUp) (hostUp.rs HQ.RING_CONS 0 9 2) = true ∧ eqs (exec (.ntcHead 0 1) hostUp) hostUp.dbBad = true ∧
      eqs (exec (.rptCons 0 3 9) hostUp) (hostUp.rs HQ.RING_CONS 0 9 6) = true ∧ eqs (exec (.rptCons 0 0 0) hostUp) hostUp.dbBad = true) ∧
    (reachesB hostUp 0 .mgmtP0 hqPage = true ∧ HQ.RING_SIZE_LOG.of 0x10C#32 = 12 ∧ HQ.RING_EN.of 0x10C#32 = 1 ∧
      (let s := (hostUp.rs HQ.RING_INDEX 0 2).rs HQ.RING_EN 0 0 2
       nx (exec (.ringEnable 0 .mgmtP0 0x10C) s) (fun u => u.on HQ.RING_EN 0 2 && u.rg HQ.RING_SIZE_LOG 0 2 == 12 && u.rg HQ.RING_PROD 0 2 == 0 &&
         u.rg HQ.RING_PROD 0 1 == 20) = true ∧
       eqs (exec (.ringEnable 0 .mgmtP0 0x10D) s) (s.irqSet hqPage 4) = true ∧ eqs (exec (.ringEnable 0 .mgmtP0 0x103) s) (s.irqSet hqPage 4) = true) ∧
      (let s := hostUp.rs HQ.RING_INDEX 0 6
       nx (exec (.ringEnable 0 .mgmtP0 0x010) s) (fun u => !u.on HQ.RING_EN 0 6 && u.rg HQ.RING_PROD 0 6 == 9) = true ∧
       eqs (exec (.ringEnable 0 .mgmtP0 0x111) s) (s.irqSet hqPage 4) = true)) ∧
    (let s : State := { hostUp with host := { hostUp.host with msixEn := true, funcMask := true } }
     let z : State := { hostUp with host := { hostUp.host with msixEn := true, msix := [(4 * 63 + 3, 0)] } }
     hostUp.msixSend 63 = hostUp ∧ (s.msixSend 63).host.pba.testBit 63 = true ∧ z.msixSend 63 = z.emit (.msix 63)) ∧
    (let s : State := { hostUp with host := { hostUp.host with coalFold := [(5, true)], coalEnd := [(5, 1000000)] } }
     eqs (exec (.coalExpiry 0 5) s) { s with host := { s.host with coalFold := [] } } = true ∧
     (let z : State := { s with host := { s.host with coalEnd := [(5, 1000001)] } }
      eqs (exec (.coalExpiry 0 5) z) z = true) ∧ eqs (exec (.coalExpiry 0 0) s) s = true) ∧
    ((∀ x ∈ [(Instr.perstAssert 0, PCIE.PERST_COUNT, 9, true, false), (Instr.flr 0, PCIE.FLR_COUNT, 10, false, true)], nx (exec x.1 hostUp) (fun u =>
        u.rg x.2.1 0 == 1 && (u.rg (Hdr.IRQ_RAW .pcie) 0).testBit x.2.2.1 && u.host.perst == x.2.2.2.1 && u.on PCIE.LINK_UP 0 == x.2.2.2.2 &&
        !u.on PCIE.BME 0 && !u.on HQ.RING_EN 0 6) = true) ∧
      eqs (exec (.perstDeassert 0) { hostUp with host := { hostUp.host with perst := true } }) hostUp = true ∧
      nx (exec (.pcieLinkDown 0) hostUp) (fun u => !u.on PCIE.LINK_UP 0 && (u.rg (Hdr.IRQ_RAW .pcie) 0).testBit 8) = true ∧
      (let s := hostUp.rs PCIE.LINK_UP 0 0
       eqs (exec (.pcieLinkDown 0) s) s = true ∧ (s.boot.hubUp && !s.host.perst && bit s.boot.lock 8) = true ∧
       nx (exec (.pcieLinkUp 0 5 8) s) (fun u => u.on PCIE.LINK_UP 0 && u.rg PCIE.LINK_SPEED 0 == 5 && u.rg PCIE.LINK_WIDTH 0 == 8) = true ∧
       (let z : State := { s with host := { s.host with perst := true } }
        eqs (exec (.pcieLinkUp 0 5 8) z) z = true))) ∧
    (eqs (exec (.configRequest 0 .readVendor) hostUp) (hostUp.emit (.cfg (some 0x1F7A))) = true ∧
      eqs (exec (.configRequest 0 .readDevice) hostUp) (hostUp.emit (.cfg (some 0x3640))) = true ∧
      (let s : State := { hostUp with host := { hostUp.host with ready := false } }
       eqs (exec (.configRequest 0 .readDevice) s) (s.emit (.cfg none)) = true) ∧
      (let s := hostUp.rs PCIE.LINK_UP 0 0
       eqs (exec (.configRequest 0 .readDevice) s) s = true) ∧
      nx (exec (.configRequest 0 (.setBme false)) hostUp) (fun u => !u.on PCIE.BME 0) = true ∧
      nx (exec (.configRequest 0 (.setMsix true true)) hostUp) (fun u => u.host.msixEn && u.host.funcMask) = true ∧
      nx (exec (.configRequest 0 (.setD3 true)) hostUp) (fun u => u.host.d3) = true ∧
      nx (exec (.configRequest 0 (.setL12 true)) hostUp) (fun u => u.host.aspmL12) = true) := by decide +kernel

/-- A command entry: opcode, tag 0x1234, and values at offsets (offset, bytes, value). -/
def entry (op : Nat) (l : List (Nat × Nat × Nat)) : List Byte :=
  l.foldl (fun d e => d.take e.1 ++ leBytes e.2.1 e.2.2 ++ d.drop (e.1 + e.2.1)) ([BitVec.ofNat 8 op, 0, 0x34, 0x12] ++ List.replicate 60 0)

/-- A command of opcode `op` taken and running, in its reading phase, with the bytes `d` read. -/
def running (op phase : Nat) (cmd d : List Byte) : CmdRun :=
  { opcode := op, tag := 0x1234, entry := cmd, dtStart := 999000, phase := phase, data := d, readErr := false, todo := [], silent := false,
    fenceSeen := false, groupRestart := false, jobStop := false, variant := 0, ddrBase := 0, ddrSize := 0, fenced := [], held := [] }

/-- The host function live with such a command. -/
def withCmd (r : CmdRun) : State := { hostUp with host := { hostUp.host with cmd := some r } }

theorem witness_HostCommandsCompleteOnce :
    (hostUp.cmdReady = true ∧ (entry 3 []).length = 64 ∧ (let u := hostUp.cmdTake (entry 3 [])
      u.rg HQ.RING_CONS 0 0 = 6 ∧ u.rg HQ.CMD_STATE 0 = 1 ∧ u.rg HQ.CUR_OPCODE 0 = 3 ∧ u.rg HQ.CUR_TAG 0 = 0x1234 ∧
        u.host.cmd.map CmdRun.dtStart = some 1000000)) ∧
    (let r := running 3 1 (entry 3 []) []
     (withCmd r).host.cmd = some r ∧ (withCmd r).ringLive 1 = true ∧
      (let u := (withCmd r).complete 13 0xFFFF 7
       u.host.cmd = none ∧ u.rg HQ.LAST_CODE 0 = 13 ∧ u.rg HQ.RING_PROD 0 1 = 21 ∧ u.rg HQ.CMDS_DONE 0 = 1 ∧
        Out.hostWrite (0x40000 + 20 % 16 * 32) (cplBytes r 13 0xFFFF 7 1000000 0) ∈ u.out ∧ leAt (cplBytes r 13 0xFFFF 7 1000000 0) 8 8 = 7 ∧
        leAt (cplBytes r 13 0xFFFF 7 1000000 0) 24 8 = 1000000) ∧
      ((withCmd { r with silent := true }).complete 13 0xFFFF 7).rg HQ.RING_PROD 0 1 = 20) ∧
    ((5 < leAt (entry 6 []) 0 1 ∧ nx (exec (.cmdUnlistedOpcode 0 (entry 6 [])) hostUp) (fun u => u.host.cmd.isNone && u.rg HQ.LAST_CODE 0 == 13) = true) ∧
      (∀ x ∈ ([0, 1, 2, 3, 4, 5] : List Nat), cmdUnused (entry x [(63, 1, 1)]) = true ∧ leAt (entry x [(63, 1, 1)]) 0 1 = x) ∧
      (cmdUnused (entry 0 []) = false ∧ leAt (entry 0 []) 0 1 = 0) ∧
      (cmdUnused (entry 3 [(8, 1, 15)]) = false ∧ leAt (entry 3 [(8, 1, 15)]) 8 1 < 16 ∧
        nx (exec (.query 0 (entry 3 [(8, 1, 16)])) hostUp) (fun u => u.rg HQ.LAST_CODE 0 == 13) = true) ∧
      (cmdUnused (entry 2 [(8, 1, 15)]) = false ∧ nx (exec (.unload 0 (entry 2 [(8, 1, 16)])) hostUp) (fun u => u.rg HQ.LAST_CODE 0 == 13) = true ∧
        (hostUp.part 15).clusters = 0 ∧
        (let s := hostUp.upPart 15 fun p => { p with clusters := 0x8100 }
         (List.range 16).filter (bit (s.part 15).clusters) = [8, 15])) ∧
      (let c := entry 4 [(0x28, 8, 0x1000), (0x30, 4, 0x140), (0x34, 2, 0)]
       cmdUnused c = false ∧ attestLen 0 = 0x140 ∧ leAt c 0x28 8 % 64 = 0 ∧ attestLen 0 ≤ leAt c 0x30 4 ∧
        (let d := entry 4 [(0x28, 8, 0x1000), (0x30, 4, 0x13F)]
         leAt d 0x30 4 < attestLen 0 ∧ nx (exec (.attest 0 d) hostUp) (fun u => u.rg HQ.LAST_CODE 0 == 13) = true))) ∧
    (let s := hostUp.upPart 15 fun p => { p with clusters := 0x8100, state := 1 }
     ((s.partEmpty 15).part 15).state = 0 ∧ ((s.partEmpty 15).part 15).clusters = 0) ∧
    (let c := entry 5 [(8, 8, 64), (0x10, 4, 64)]
     let s := hostUp.rs HQ.STAGE_SIZE 0 4096
     let img := List.replicate 64 (0 : Byte)
     s.cmdReady = true ∧ leAt c 0 1 = 5 ∧ cmdUnused c = false ∧ s.rg PWR.PWR_STATE 0 = 0 ∧ leAt c 8 8 % 64 = 0 ∧ leAt c 0x10 4 ≤ s.rg HQ.STAGE_SIZE 0 ∧
      img.length = leAt c 0x10 4 ∧ imageCheck (some img) = 2 ∧
      nx (exec (.fwUpdate 0 c img true) s) (fun u => u.host.cmd.isNone && u.rg HQ.LAST_CODE 0 == 0x0C && !u.host.fwDown) = true) ∧
    (let r := running 5 2 (entry 5 [(0x14, 4, 2)]) []
     let s := withCmd r
     s.host.cmd = some r ∧ (leAt r.entry 0x14 4).testBit 1 = true ∧ eqs (exec (.fwRestarted 0) s) s = true ∧
      (let z : State := { s with host := { s.host with fwDown := true } }
       z.host.fwDown = true ∧ nx (exec (.fwRestarted 0) z) (fun u => !u.host.fwDown && u.rg MGMT.RESTARTS 0 == 1) = true)) := by decide +kernel

/-- A package of 256 bytes: unsigned, one section, one cluster, partition 3, generation 7, microcode of 4 bytes for core 5. -/
def pkg0 : List Byte :=
  [(0, 4, 0x504D584C), (4, 2, 1), (8, 4, 256), (0x0C, 2, 1), (0x0E, 1, 3), (0x0F, 1, 1), (0x10, 2, 7), (0x14, 1, 1), (0x40, 1, 1), (0x41, 1, 0xFF),
    (0x42, 2, 5), (0x44, 4, 0x80), (0x48, 4, 0), (0x80, 4, 0)].foldl
    (fun d e => d.take e.1 ++ leBytes e.2.1 e.2.2 ++ d.drop (e.1 + e.2.1)) (List.replicate 256 0)

/-- A LOAD of it, staged, onto cluster 15. -/
def loadCmd : List Byte := entry 1 [(8, 8, 64), (0x10, 4, 256), (0x18, 8, 15)]

/-- The loader at a step of cluster 15. -/
def atStep (op st t0 : Nat) : State := withCmd { running op 3 (if op = 1 then loadCmd else entry op [(8, 1, 3)]) pkg0 with todo := [(15, st, t0)] }

theorem witness_ModelLoadsCheckThenApply_staging :
    (let s := sets hostUp [(HQ.STAGE_SIZE, 0, 4096, 0), (HQ.STAGE_BASE, 0, 0x8000, 0), (DDR.TRAIN_STATE, 2, 2, 0)]
     s.cmdReady = true ∧ loadCmd.length = 64 ∧ leAt loadCmd 0 1 = 1 ∧ cmdUnused loadCmd = false ∧ s.rg PWR.PWR_STATE 0 = 0 ∧ leAt loadCmd 8 8 % 64 = 0 ∧
      leAt loadCmd 0x10 4 ≤ s.rg HQ.STAGE_SIZE 0 ∧ s.rg HQ.STAGE_SIZE 0 ≠ 0 ∧ s.channels ≠ [] ∧ pkg0.length = 256 ∧
      nx (exec (.load 0 loadCmd pkg0 true) s) (fun u => decide (u.host.cmd.map CmdRun.phase = some 1 ∧ u.host.cmd.map CmdRun.readErr = some false)) = true ∧
      nx (exec (.load 0 loadCmd pkg0 true) hostUp) (fun u => u.rg HQ.LAST_CODE 0 == 7) = true ∧
      (let c := entry 1 [(8, 8, 65), (0x10, 4, 256), (0x18, 8, 15)]
       cmdUnused c = false ∧ nx (exec (.load 0 c pkg0 true) s) (fun u => u.rg HQ.LAST_CODE 0 == 13) = true)) ∧
    (let r := running 1 1 loadCmd pkg0
     let s := withCmd r
     s.host.cmd = some r ∧ headerOk pkg0 256 = true ∧ headerRanges pkg0 = true ∧ ((s.loadCheck pkg0 256 15).toOption.map Prod.fst) = some 0 ∧
      nx (exec (.packageStaged 0) (withCmd { r with readErr := true })) (fun u => u.rg HQ.LAST_CODE 0 == 0x0C && u.rg HQ.LAST_DETAIL 0 == 0xFFFE) = true ∧
      ((withCmd { r with data := [] }).loadCheck [] 256 15).toOption = none) := by decide +kernel

theorem witness_ModelLoadsCheckThenApply_clusters :
    (let s := atStep 1 1 0
     let q : State := { s with tick := 1000000000000 }
     (s.clusterStep 15).map (fun x => x.2) = some (1, 0) ∧ s.tick < 0 + s.rg CLU.TS_WINDOW 15 + 1 ∧ eqs (exec (.clusterQuiesced 0 15) s) s = true ∧
      (q.clusterStep 15).map (fun x => x.2) = some (1, 0) ∧ 0 + q.rg CLU.TS_WINDOW 15 + 1 ≤ q.tick ∧ q.cores = []) ∧
    (let s := atStep 1 4 0
     let z := atStep 2 4 0
     (s.clusterStep 15).map (fun x => (x.1.jobStop, x.1.opcode, x.1.atomic, x.2)) = some (false, 1, false, 4, 0) ∧
      (z.clusterStep 15).map (fun x => (x.1.jobStop, x.1.opcode, x.2)) = some (false, 2, 4, 0) ∧ eqs (exec (.clusterQuiesced 0 15) s) s = true) ∧
    (let x : Sect := ⟨0, 1, 0xFF, 0, 5, 0x80, 4, 0⟩
     let pl : Place := ⟨15, 1, false, []⟩
     sections pkg0 = [{ x with len := 0 }] ∧ (x.body pkg0).length = 4 ∧ 256 * pl.cluster 0 + pl.core (pl.cluster 0) 5 = 3845) ∧
    (let s := { atStep 1 7 0 with tick := 1 }
     (s.clusterStep 15).map (fun x => (x.1.jobStop, x.1.opcode, x.1.atomic, x.2)) = some (false, 1, false, 7, 0) ∧ 0 < s.tick ∧ s.atStep 7 = [15] ∧
      s.atStep 3 = [] ∧ eqs (exec (.clusterResume 0 15) { s with tick := 0 }) { s with tick := 0 } = true) ∧
    (let s := withCmd { running 1 3 loadCmd pkg0 with todo := [(15, 1, 0)], jobStop := true }
     nx (exec (.clusterResume 0 15) s) (fun u => u.rg HQ.LAST_CODE 0 == 9 && (u.part 3).state == 3) = true) := by
  decide +kernel

/-! Witnesses of the statements about network time. -/

/-- Both Ethernet ports up, port 1 with a MAC and an IPv4 address. -/
def ethUp : State :=
  sets up [(Hdr.ENABLE .eth, 1, 1, 0), (ETH.LINK_UP, 0, 1, 0), (ETH.LINK_UP, 1, 1, 0), (ETH.MAC_ADDR, 1, 0x020000000001, 0), (ETH.IPV4_ADDR, 1, 0x0A000001, 0)]

/-- A frame of 68 bytes with its FCS: destination, EtherType, and bytes from offset 14. -/
def ethFrame (dst type : Nat) (l : List Byte) : List Byte :=
  beBytes 6 dst ++ beBytes 6 0x020000000009 ++ beBytes 2 type ++ l ++ List.replicate (54 - l.length) 0

/-- A launch entry of queue 3 on port 1, due at DT 1000000, and a later one. -/
def launchUp : State :=
  { (sets ethUp [(LNQ.FRAG_BYTES, 7, 64, 0), (LNQ.TPL_LEN, 7, 14, 0)]) with
    launch := [(1, [⟨3, 9, 0, some 1000001, [1]⟩, ⟨3, 8, 0, some 1000000, List.replicate 65 7⟩])] }

theorem witness_EthernetFramesAndLaunches :
    (let f := ethFrame 0x020000000001 0x0900 []
     ethUp.on ETH.LINK_UP 1 = true ∧ f.length = 68 ∧
      (let s := ethUp.rs ETH.LINK_UP 1 0
       eqs (exec (.ethFrameRx 0 1 f true) s) s = true) ∧ eqs (exec (.ethFrameRx 0 1 (f.take 63) true) ethUp) ethUp = true ∧
      eqs (exec (.ethFrameRx 0 1 f false) ethUp) (ethUp.inc ETH.RX_FCS_ERR 1) = true ∧
      eqs (exec (.ethFrameRx 0 1 (ethFrame 0x0180C2000001 0x8808 []) true) ethUp) ((ethUp.inc ETH.RX_FRAMES 1).inc ETH.RX_PAUSE 1) = true ∧
      etherType (f.take 64) = 0x0900 ∧ ethUp.ptpFor 1 (f.take 64) = none ∧ ethUp.forFirmware 1 (f.take 64) = true ∧ ethUp.fwReply 1 (f.take 64) = none ∧
      eqs (exec (.ethFrameRx 0 1 f true) ethUp) (ethUp.inc ETH.RX_FRAMES 1) = true ∧
      eqs (exec (.ethFrameRx 0 0 f true) ethUp) ((ethUp.inc ETH.RX_FRAMES 0).inc ETH.RX_NO_CONSUMER 0) = true ∧
      (let s : State := { ethUp with host := { ethUp.host with fwDown := true } }
       nx (exec (.ethFrameRx 0 1 f true) s) (fun u => decide (u.rxHeld = [(1, f.take 64)]) && u.rg ETH.RX_LATE_STAMP 1 == 1) = true)) ∧
    (let arp := beBytes 8 0x0001080006040001 ++ beBytes 6 0x020000000009 ++ beBytes 4 0x0A000002 ++ beBytes 6 0 ++ beBytes 4 0x0A000001
     let f := ethFrame 0xFFFFFFFFFFFF 0x0806 arp
     (ethUp.fwReply 1 (f.take 64)).isSome = true ∧ ethUp.maySend 1 60 = true ∧
      nx (exec (.ethFrameRx 0 1 f true) ethUp) (fun u => u.rg ETH.TX_FRAMES 1 == 1 && decide (u.rxHeld = [])) = true) ∧
    (let s := sets ethUp [(PTPD.DOM_EN, 1, 1, 0), (PTPD.ON_PORT, 1, 1, 0), (PTPD.PROFILE, 1, 0, 0), (PTPD.TRANSPORT, 1, 0, 0), (PTPD.DOMAIN_NUM, 1, 24, 0)]
     let f := fun ty : Nat => ethFrame 0x011B19000000 0x88F7 ([BitVec.ofNat 8 ty, 2, 0, 44, 24])
     s.ptpFor 1 ((f 3).take 64) = some 3 ∧ eqs (exec (.ethFrameRx 0 1 (f 3) true) s) ((s.inc ETH.RX_FRAMES 1).inc ETH.PTP_RX 1) = true ∧
      eqs (exec (.ethFrameRx 0 1 (f 13) true) s) ((s.inc ETH.RX_FRAMES 1).inc ETH.MGMT_MSGS 1) = true ∧
      eqs (exec (.ethFrameRx 0 1 (f 11) true) s) (s.inc ETH.RX_FRAMES 1) = true) ∧
    (let s := sets ethUp [(PTPD.DOM_EN, 1, 1, 0), (PTPD.FAILOVER, 1, 1, 0), (PTPD.ON_PORT, 1, 1, 0), (PTPD.STATE, 1, 3, 0)]
     nx (exec (.ethLinkDown 0 1) s) (fun u => !u.on ETH.LINK_UP 1 && u.rg PTPD.ON_PORT 1 == 0 && u.rg PTPD.STATE 1 == 1 &&
        (u.rg (Hdr.IRQ_RAW .eth) 1).testBit 8) = true ∧
      (let z := s.rs ETH.LINK_UP 1 0
       eqs (exec (.ethLinkDown 0 1) z) z = true ∧ z.ethFenced 1 = false ∧ z.clkGood (ethPage 1) = true ∧ z.inReset (ethPage 1) = false ∧ z.asleep = false ∧
        eqs (exec (.ethLinkUp 0 1) z) s = true ∧ eqs (exec (.ethLinkUp 0 0) z) z = true)) ∧
    ((∃ d, d < 2 ∧ (ethUp.rs PTPD.DOM_EN 0 1).on PTPD.DOM_EN d = true ∧ (ethUp.rs PTPD.DOM_EN 0 1).rg PTPD.ON_PORT d = 0) ∧
      (ethUp.advance 0).asleep = false ∧ eqs (exec (.pdelayReq 0 1 []) ethUp) ethUp = true ∧ eqs (exec (.delayReqTimer 0 1) ethUp) ethUp = true) ∧
    ((firstEntry (launchUp.entries 1)).map (fun e => (e.n, e.dt)) = some (8, some 1000000) ∧
      eqs (exec (.launchStart 0 1) { launchUp with dt := 999999 }) { launchUp with dt := 999999 } = true ∧
      Tab.get 0 launchUp.wireEnd 1 ≤ 1000000 ∧ launchUp.nFrag 7 65 = 2 ∧
      (let s := launchUp.rs ETH.LINK_UP 1 0
       nx (exec (.launchStart 0 1) s) (fun u => u.rg LNQ.LINK_DROPS 7 == 1 && decide ((u.entries 1).map (fun e => e.n) = [9])) = true) ∧
      (let s : State := { launchUp with wireEnd := [(1, 1000001)] }
       s.on LNQ.LATE_SEND 7 = false ∧ nx (exec (.launchStart 0 1) s) (fun u => u.rg LNQ.LATE_DROPS 7 == 1 && (u.rg (Hdr.IRQ_RAW .lnch) 1).testBit 8) = true)) ∧
    (reachesB ethUp 0 .mgmtP0 ⟨.lnch, 1⟩ = true ∧
      (let s := ethUp.rs LNQ.TPL_WORD 7 15
       nx (exec (.tplDataWrite 0 .mgmtP0 1 3 77) s) (fun u => u.rg LNQ.TPL_DATA 7 15 == 77 && u.rg LNQ.TPL_WORD 7 == 0) = true ∧
       eqs (exec (.tplDataWrite 0 .mgmtP0 1 3 77) (s.rs LNQ.Q_EN 7 1)) ((s.rs LNQ.Q_EN 7 1).irqSet ⟨.lnch, 1⟩ 4) = true)) := by decide +kernel

/-- Domain 1 enabled and locked on port 1, its last sample applied at DT 990000; domain 0 off. -/
def ptpUp : State :=
  { (sets ethUp [(PTPD.DOM_EN, 1, 1, 0), (PTPD.STATE, 1, 3, 0), (PTPD.EVER_LOCKED, 1, 1, 0), (PTPD.SERVO_EN, 1, 1, 0), (PTPD.ON_PORT, 1, 1, 0),
      (PTPD.SLEW_LIMIT, 1, 1000, 0), (PTPD.JUMP_CONFIRM, 1, 2, 0), (PTPD.JUMP_WINDOW_NS, 1, 5000, 0), (PTPD.KP, 1, 0x8000, 0), (PTPD.KI, 1, 0x1000, 0)]) with
    dom := [(1, { Dom.init with applied := some 990000, annAt := 1000000, annIv := 1000, syncAt := 1000000, syncIv := 1000 })] }

theorem witness_PtpDomainsFollowTheirTransmitter :
    (ptpUp.rg PTPD.STATE 1 = 3 ∧ ptpUp.host.fwDown = false ∧ eqs (exec (.ptpSync 0 0 999990 0 1000000 0 1000) ptpUp) ptpUp = true ∧
      (let s := ptpUp.rs PTPD.SERVO_EN 1 0
       nx (exec (.ptpSync 0 1 999990 0 1000000 4 1000) s) (fun u => u.rg PTPD.LAST_OFFSET 1 == 6 && u.rg PTPD.SYNCS 1 == 1 && u.rg PTPD.MEAN_PATH 1 == 4 &&
         (u.dm 1).syncAt == 1000000) = true)) ∧
    (ptpUp.on PTPD.SLEWING 1 = false ∧ ptpUp.heldNow 1 = false ∧ (ptpUp.dm 1).applied = some 990000 ∧
      (let u := ptpUp.servo 1 10 0
       (u.dm 1).iAcc = 10 ∧ (u.dm 1).applied = some 1000000 ∧ u.wt 1 1000000 = ptpUp.wt 1 1000000 ∧
        u.wtR 1 = clampRate (2 ^ 32 - Int.tdiv ((10 * 0x8000 + 10 * 0x1000) * 65536) 10000)) ∧
      (let u := ptpUp.servo 1 1001 0
       (u.dm 1).run = 1 ∧ u.wtO 1 = ptpUp.wtO 1 ∧ u.rg PTPD.JUMPS 1 = 0) ∧
      (let s := ptpUp.upDm 1 fun x => { x with run := 1 }
       let u := s.servo 1 (-1001) 0
       u.rg PTPD.JUMPS 1 = 1 ∧ u.rg PTPD.JUMP_OFFSET 1 = 2 ^ 64 - 1001 ∧ u.on PTPD.RATE_HELD 1 = true ∧ u.on PTPD.STEP_PENDING 1 = true) ∧
      (let s := ptpUp.rs PTPD.EVER_LOCKED 1 0
       (s.servo 1 1001 0).wtO 1 = s.wtO 1 - 1001 * 2 ^ 32 ∧ (s.servo 1 1001 0).rg PTPD.STEPS 1 = 1)) ∧
    ((∃ j, (({ ptpUp with dom := [(0, { Dom.init with jumpAt := some 995000 })] } : State).dm 0).jumpAt = some j ∧ ptpUp.dt ≤ j + 5000) ∧
      (ptpUp.dm 0).jumpAt = none ∧ (ptpUp.jump 1 1001 0).on PTPD.STEP_PENDING 1 = true ∧
      (let s := ptpUp.rs PTPD.STATE 0 3
       s.heldNow 0 = false ∧ (s.jump 1 1001 0).on PTPD.JUDGING 1 = true ∧ ((s.jump 1 1001 0).dm 1).judgeEnd = 1005000)) ∧
    (eqs (exec (.ptpAnnounce 0 0 9 true 37 true 1000) ptpUp) ptpUp = true ∧
      (let s := ptpUp.rs PTPD.STATE 1 4
       nx (exec (.ptpAnnounce 0 1 9 true 37 true 2000) s) (fun u => u.rg PTPD.GM_ID 1 == 9 && u.rg PTPD.STATE 1 == 2 && u.rg PTPD.UTC_OFFSET 1 == 37 &&
         (u.dm 1).annIv == 2000) = true)) ∧
    (ptpUp.ptpLate 1 = false ∧ eqs (exec (.ptpTimeout 0 1 none) ptpUp) ptpUp = true ∧ (ptpUp.advance 1900000).ptpLate 1 = true ∧
      nx (exec (.ptpTimeout 1900000 1 none) ptpUp) (fun u => u.rg PTPD.STATE 1 == 4 && u.on PTPD.RATE_HELD 1 && u.rg PTPD.TIMEOUTS 1 == 1) = true ∧
      nx (exec (.ptpTimeout 1900000 1 (some 5)) ptpUp) (fun u => u.rg PTPD.STATE 1 == 2 && u.rg PTPD.GM_ID 1 == 5) = true ∧
      (let s := (ptpUp.rs PTPD.JUDGING 1 1).upDm 1 fun x => { x with judgeEnd := 1000000 }
       nx (exec (.jumpWindowExpiry 0 1) s) (fun u => !u.on PTPD.JUDGING 1 && u.on PTPD.SUSPECT 1) = true ∧ eqs (exec (.jumpWindowExpiry 0 1) ptpUp) ptpUp = true)) ∧
    (reachesB ptpUp 0 .mgmtP0 ⟨.ptpd, 1⟩ = true ∧ reachesB ptpUp 0 .mgmtP0 ⟨.ptpd, 0⟩ = true ∧
      (PTPD.JUMP_CONFIRM.of 0x04330051#32 = 4 ∧ PTPD.ANN_TIMEOUT.of 0x04330051#32 = 3 ∧ PTPD.SYNC_TIMEOUT.of 0x04330051#32 = 3 ∧
        PTPD.DOM_EN.of 0x04330051#32 = 1 ∧ PTPD.PORT.of 0x04330051#32 = 1) ∧
      eqs (exec (.domEnWrite 0 .mgmtP0 1 0x043B0051) ptpUp) (ptpUp.irqSet ⟨.ptpd, 1⟩ 4) = true ∧
      eqs (exec (.domEnWrite 0 .mgmtP0 1 0x04330151) ptpUp) (ptpUp.irqSet ⟨.ptpd, 1⟩ 4) = true ∧
      nx (exec (.domEnWrite 0 .mgmtP0 0 0x04330051) ptpUp) (fun u => u.on PTPD.DOM_EN 0 && u.rg PTPD.STATE 0 == 1 && u.rg PTPD.ON_PORT 0 == 1 &&
        u.on PTPD.RATE_HELD 0) = true ∧
      nx (exec (.domEnWrite 0 .mgmtP0 1 0x04330050) ptpUp) (fun u => !u.on PTPD.DOM_EN 1 && u.rg PTPD.STATE 1 == 0) = true ∧
      nx (exec (.domEnWrite 0 .mgmtP0 1 0x04330041) ptpUp) (fun u => u.rg PTPD.STATE 1 == 1 && u.rg PTPD.ON_PORT 1 == 0) = true) ∧
    (let s := sets ptpUp [(PTPD.RATE, 1, 2 ^ 32 + 2147483, 0), (PTPD.OFFSET, 1, 2 ^ 128 - 5, 0), (PTPD.JUMP_OFFSET, 1, 2 ^ 64 - 7, 0)]
     let z := s.rs PTPD.SUSPECT 1 1
     rateOk (1 * 2 ^ 32 + s.rg PTPD.RATE 1 % 2 ^ 32) = true ∧
      nx (exec (.rateWrite 0 .mgmtP0 1 1) s) (fun u => u.wtR 1 == 2 ^ 32 + 2147483 && u.wt 1 1000000 == s.wt 1 1000000) = true ∧
      rateOk (2 * 2 ^ 32 + s.rg PTPD.RATE 1 % 2 ^ 32) = false ∧ eqs (exec (.rateWrite 0 .mgmtP0 1 2) s) (s.irqSet ⟨.ptpd, 1⟩ 4) = true ∧
      (PTPD.SET_OFFSET.of 1#32 = 1 ∧ PTPD.RESOLVE_STEP.of 2#32 = 1 ∧ PTPD.RESOLVE_SLEW.of 4#32 = 1 ∧ PTPD.CLEAR_INTEGRAL.of 8#32 = 1) ∧
      nx (exec (.setOffset 0 .mgmtP0 1 1) s) (fun u => u.wtO 1 == (-5 : Int) && u.rg PTPD.STEPS 1 == 1) = true ∧
      nx (exec (.resolveStep 0 .mgmtP0 1 2) z) (fun u => u.wtO 1 == (7 * 2 ^ 32 : Int) && !u.on PTPD.SUSPECT 1) = true ∧
      eqs (exec (.resolveStep 0 .mgmtP0 1 2) s) (s.irqSet ⟨.ptpd, 1⟩ 4) = true ∧
      nx (exec (.resolveSlew 0 .mgmtP0 1 4) z) (fun u => u.on PTPD.SLEWING 1 && !u.on PTPD.SUSPECT 1 && u.wtO 1 == 0) = true ∧
      eqs (exec (.resolveSlew 0 .mgmtP0 1 4) s) (s.irqSet ⟨.ptpd, 1⟩ 4) = true ∧
      (let y := s.upDm 1 fun x => { x with iAcc := 99 }
       nx (exec (.clearIntegral 0 .mgmtP0 1 8) y) (fun u => u.dm 1 == { y.dm 1 with iAcc := 0 }) = true)) := by decide +kernel

/-- PPS_OUT on, 100 ms wide, gated, domain 0 locked, WT at 3 s. -/
def ppsUp : State :=
  { (sets up [(PTP.PPS_EN, 0, 1, 0), (PTP.PPS_GATE, 0, 1, 0), (PTP.PPS_WIDTH_MS, 0, 100, 0), (PTPD.STATE, 0, 3, 0)]) with
    wtOff := [(0, 2999000000 * 2 ^ 32)], pps := { up.pps with base := 2 } }

theorem witness_ActiveDomainAndPulsePerSecond :
    (reachesB ppsUp 0 .mgmtP0 ⟨.ptp, 0⟩ = true ∧ PTP.PPS_WIDTH_MS.of 0x03E70005#32 = 999 ∧ PTP.ACTIVE.of 0x03E70005#32 = 1 ∧
      eqs (exec (.activeWrite 0 .mgmtP0 0x03E80001) ppsUp) (ppsUp.irqSet ⟨.ptp, 0⟩ 4) = true ∧
      nx (exec (.activeWrite 0 .mgmtP0 0x03E70005) ppsUp) (fun u => u.rg PTP.ACTIVE 0 == 1 && u.rg PTP.PPS_WIDTH_MS 0 == 999 &&
        u.rg PTP.SWITCHES 0 == 1 && !u.on PTP.PPS_GATE 0 && (u.rg (Hdr.IRQ_RAW .ptp) 0).testBit 9) = true ∧
      nx (exec (.activeWrite 0 .mgmtP0 0x00010004) ppsUp) (fun u => u.rg PTP.ACTIVE 0 == 0 && u.rg PTP.SWITCHES 0 == 0) = true) ∧
    (ppsUp.asleep = false ∧ ppsUp.boot.hubUp = true ∧ ppsUp.ppsSecond = 3 ∧ ppsUp.pps.base < ppsUp.ppsSecond ∧
      nx (exec (.ppsOutEdge 0) ppsUp) (fun u => u.pps.high && u.pps.fallAt == 101000000 && decide (u.out = [.pin "PPS_OUT" true]) &&
        eqs (exec (.ppsOutEdge 0) u) u && nx (exec (.ppsOutFall 101000000) u) (fun z => !z.pps.high) &&
        eqs (exec (.ppsOutFall 100999999) u) (u.advance 100999999)) = true ∧
      (let s := ppsUp.rs PTPD.STATE 0 2
       nx (exec (.ppsOutEdge 0) s) (fun u => !u.pps.high && u.pps.base == 3) = true)) := by decide +kernel

/-! Witnesses of the statements about the Piste. -/

/-- Device 7, a member whose ports 5 and 0 are UP, port 5 with device 9 behind it. -/
def pstUp : State :=
  let s := sets up [(Hdr.ENABLE .pst, 5, 1, 0), (PST.LINK_STATE, 5, 2, 0), (Hdr.ENABLE .pst, 0, 1, 0), (PST.LINK_STATE, 0, 2, 0), (FAB.DEV_NUM, 0, 7, 0),
      (FAB.MSTATE, 0, 2, 0), (PST.NBR_VALID, 5, 1, 0), (PST.NBR_DEV, 5, 9, 0), (FAB.PRIMARY, 0, 5, 9), (FAB.P_VALID, 0, 1, 9), (PST.LOS_NS, 5, 1000, 0)]
  { s with fab := { s.fab with numOk := true, ports := [(5, { PPort.init with rxSeq := 1023, lastGood := 999000, retry := [(1, 3, [5]), (3, 3, [6])] })] } }

/-- A header of SEQ `q` that acknowledges SEQ 1. -/
def hdr (q : Fin 1024) : PHdr := ⟨q, 1, false, 0, 0, false⟩

/-- An EVENT flit's first word: FT35 5, GROUP 0x0401 (entry 1, tag 1), CLASS 1, `n` spikes, to device `d`, HOP `h`. -/
def ev0 (n d h : Nat) : Nat := 5 ||| 0x0401 <<< 35 ||| 1 <<< 51 ||| n <<< 52 ||| d <<< 55 ||| h <<< 61

theorem witness_PisteLinksDeliverInOrder :
    ((pstUp.pp 5).rxSeq = 1023 ∧ (hdr 1023).seq.val ∉ (pstUp.pp 5).failed ∧
      (∀ x ∈ [Instr.pisteEvent 0 5 (hdr 1023) [], Instr.tensor 0 5 (hdr 1023) [7], Instr.pisteMgmt 0 5 (hdr 1023) [0x0800000000000007],
          Instr.pisteTime 0 5 (hdr 1023) true [], Instr.hello 0 5 (hdr 1023) [] none, Instr.route 0 5 (hdr 1023) [], Instr.pisteBadType 0 5 (hdr 1023)],
        nx (exec x pstUp) (fun u => (u.pp 5).rxSeq == 0 && u.rg PST.FLITS_RX 5 == 1 && ((u.pp 5).retry.take 1 == [(3, 3, [6])])) = true) ∧
      (∀ x ∈ [Instr.pisteEvent 0 5 (hdr 0) [], Instr.pisteTime 0 5 (hdr 1) false [], Instr.pisteBadType 0 5 (hdr 0)],
        nx (exec x pstUp) (fun u => (u.pp 5).rxSeq == 1023 && (u.pp 5).failed.contains 1023 && !(u.pp 5).nak) = true) ∧
      (∀ x ∈ [Instr.pisteEvent 0 5 (hdr 1022) [], Instr.pisteTime 0 5 (hdr 512) false []],
        nx (exec x pstUp) (fun u => (u.pp 5).rxSeq == 1023 && (u.pp 5).failed.isEmpty && !(u.pp 5).nak && u.rg PST.FLITS_RX 5 == 1) = true) ∧
      (∀ x ∈ [Instr.pisteEvent 0 4 (hdr 0) [], Instr.route 0 4 (hdr 0) [], Instr.pisteNull 0 4 (hdr 0)],
        pstUp.rg PST.LINK_STATE 4 = 0 ∧ eqs (exec x pstUp) pstUp = true) ∧
      nx (exec (.pisteNull 0 5 (hdr 9)) pstUp) (fun u => (u.pp 5).rxSeq == 1023 && (u.pp 5).lastGood == 1000000 && (u.pp 5).retry.length == 1) = true) ∧
    (nx (exec (.pisteCrcFail 0 5 1023) pstUp) (fun u => u.rg PST.CRC_ERR 5 == 1 && (u.pp 5).failed == [1023] && u.linkUp 5 &&
        nx (exec (.pisteCrcFail 0 5 1023) u) (fun z => z.pisteFenced 5 && !z.linkUp 5)) = true) ∧
    ((pstUp.pp 5).retry.length < 256 ∧ (pstUp.pp 5).wait = [] ∧ ((pstUp.pisteSend 5 4 [1]).pp 5).retry.length = 3 ∧
      (let s := pstUp.upPp 5 fun x => { x with retry := List.replicate 256 (0, 3, []) }
       256 ≤ (s.pp 5).retry.length ∧ ((s.pisteSend 5 4 [1]).pp 5).wait = [⟨4, [1], none⟩]) ∧
      (let s := { (pstUp.upPp 5 fun x => { x with out := [(6, 64)] }) with bufs := 64 }
       let m := [ev0 1 9 6, 1]
       msgBuf 1 m = some 6 ∧ ((s.pisteSend 5 1 m).pp 5).wait = [⟨1, m, none⟩] ∧ ((pstUp.pisteSend 5 1 m).pp 5).wait = [] ∧
        Tab.get 0 ((pstUp.pisteSend 5 1 m).pp 5).out 6 = 1)) ∧
    (((pstUp.consumed 5 2 6).pp 5).owed = [] ∧ (let s := pstUp.upPp 5 fun x => { x with used := [(22, 3)] }
      Tab.get 0 (s.pp 5).used (2 * 8 + 6) = 3 ∧ ((s.consumed 5 2 6).pp 5).owed = [(2, 6)])) ∧
    (let s := (pstUp.rs PST.LINK_STATE 5 1).upPp 5 fun x => { x with hello := true }
     s.rg PST.LINK_STATE 5 = 1 ∧ (s.pp 5).hello = true ∧ s.pisteFenced 5 = false ∧ s.clkGood ⟨.pst, 5⟩ = true ∧
      nx (exec (.portUp 0 5) s) (fun u => u.linkUp 5 && (u.rg (Hdr.IRQ_RAW .pst) 5).testBit 9 && (u.pp 5).lastGood == 1000000) = true ∧
      eqs (exec (.portUp 0 4) s) s = true ∧
      (pstUp.pp 5).lastGood + pstUp.rg PST.LOS_NS 5 < (pstUp.advance 1000001).dt ∧
      nx (exec (.losTimeout 1000001 5) pstUp) (fun u => u.rg PST.LINK_STATE 5 == 1 && u.rg PST.LINK_DOWNS 5 == 1 && (u.pp 5).retry.isEmpty) = true ∧
      eqs (exec (.losTimeout 0 5) pstUp) pstUp = true) ∧
    (nx (exec (.helloTimer 0) pstUp) (fun u => (u.pp 5).retry.length == 3 && (u.pp 4) == pstUp.pp 4) = true ∧
      nx (exec (.routeTimer 0) pstUp) (fun u => u.fab.advSeq == 1 && (u.pp 0).retry == [(0, 5, u.ownAdv)]) = true ∧
      (let s := pstUp.rs FAB.MSTATE 0 1
       eqs (exec (.routeTimer 0) s) s = true) ∧
      nx (exec (.timeRequestTimer 0) pstUp) (fun u => (u.pp 0).t1 == some 1000000 && (u.pp 0).retry == [(0, 3, [1000000])] && (u.pp 4).t1 == none) = true) := by
  decide +kernel

/-- That device with entry 1 of the fabric group table valid for clusters 0 and 15, and device 9 in its mask. -/
def fgtUp : State :=
  sets pstUp [(FAB.FGT_VALID, 0, 1, 1), (FAB.FGT_TAG, 0, 1, 1), (FAB.FGT_CLUSTERS, 0, 0x8001, 1), (FAB.FGT_DEVMASK, 0, 2 ^ 9 + 2 ^ 7, 1), (FAB.PACK_NS, 0, 100, 0)]

theorem witness_FabricMessagesAndRegisters_messages :
    (pstUp.devNum = 7 ∧ fgtUp.fgt 0x0401 = some 1 ∧ fgtUp.fgt 1 = none ∧ bitsAt (ev0 6 7 0) 52 3 = 6 ∧ bitsAt (ev0 6 7 0) 55 6 = 7 ∧
      (let u := fgtUp.eventIn 5 [ev0 6 7 0, 1, 2, 3, 4, 5, 6] none
       u.rg FAB.SPIKES_RX 0 = 6 ∧ u.net.length = 12 ∧ (u.net.map Flit.dcl).take 2 = [0, 15]) ∧
      (pstUp.eventIn 5 [ev0 1 7 0, 1] none).rg FAB.FGT_MISS 0 = 1 ∧
      pstUp.eventIn 5 [ev0 7 7 0] none = pstUp.inc PST.BAD_TYPE 5 ∧ pstUp.eventIn 0 [ev0 1 9 5, 1] none = pstUp.forward 1 [ev0 1 9 5, 1] none ∧
      (let s := { fgtUp with bufs := 0 }
       let u := s.eventIn 5 [ev0 6 7 0, 1, 2, 3, 4, 5, 6] (some (5, 0, 0))
       (u.pp 5).rx.map (fun x => (x.body.length, x.src)) = [(7, some (5, 0, 0))] ∧ u.net = [] ∧ u.rg FAB.SPIKES_RX 0 = 0)) ∧
    (msgHop 1 [ev0 1 9 6] + 1 = 7 ∧ pstUp.forward 1 [ev0 1 9 6] none = pstUp.inc FAB.UNREACH_DROPS 0 ∧ pstUp.routePort 9 = some 5 ∧ pstUp.routePort 8 = none ∧
      pstUp.forward 1 [ev0 1 8 0] none = pstUp.inc FAB.UNREACH_DROPS 0 ∧ pstUp.forward 1 [ev0 1 9 5] none = pstUp.pisteSend 5 1 [ev0 1 9 6]) ∧
    (let w := fun (last : Nat) (off : Nat) => 7 ||| 9 <<< 9 ||| last <<< 15 ||| 3 <<< 16 ||| off <<< 32
     let s := pstUp.setXfers [⟨9, 3, 5, List.replicate 48 0⟩]
     (pstUp.tensorIn 5 [w 0 0] none).fab.xfers.map (fun x => (x.src, x.tid, x.port, x.data.length)) = [(9, 3, 5, 48)] ∧
      (s.tensorIn 5 [w 0 48] none).fab.xfers.map (fun x => x.data.length) = [96] ∧ (s.tensorIn 4 [w 0 48] none).rg FAB.TENSOR_DISCARD 0 = 1 ∧
      (s.tensorIn 5 [w 1 48] none).fab.xfers = [] ∧ pstUp.tensorIn 5 [8] none = pstUp.forward 2 [8] none) ∧
    (let s := sets pstUp [(FAB.INBOX_EN, 0, 1, 0), (FAB.INBOX_SIZE_LOG, 0, 16, 0), (FAB.INBOX_BASE, 0, 0x20000, 0)]
     let d := leBytes 4 0 ++ leBytes 4 1 ++ leBytes 8 0 ++ leBytes 8 0xAB
     16 + leNat (slice d 4 4) ≤ d.length ∧ (pad64 (d.take 17)).length = 64 ∧ (s.transferDone d).rg FAB.INBOX_PROD 0 = 64 ∧
      Mem.rd (s.transferDone d).ddr4 0x20010 = 0xAB ∧ pstUp.transferDone d = pstUp.inc FAB.INBOX_DROPS 0 ∧
      (let z := s.rs FAB.INBOX_PROD 0 (2 ^ 16 - 63)
       z.transferDone d = z.inc FAB.INBOX_DROPS 0)) := by decide +kernel

theorem witness_FabricMessagesAndRegisters_time :
    (let s := (sets pstUp [(FAB.PARENT_VALID, 0, 1, 0), (FAB.PARENT_PORT, 0, 5, 0), (FAB.FT_MODE_ACTIVE, 0, 1, 0)]).upPp 5 fun x => { x with t1 := some 999000 }
     (s.pp 5).t1 = some 999000 ∧ (s.timeResponse 5 [100, 300, 999900]).rg PST.LINK_DELAY 5 = 400 ∧
      (s.timeResponse 5 [100, 300, 999900]).rg FAB.FT_ERR 0 = 300) ∧
    (let s : State := { pstUp with fab := { pstUp.fab with ftSamples := [8, 8, 8, 8, 8, 8, 8] } }
     s.on FAB.FT_LOCKED 0 = false ∧ (s.ftShared 0 12).rg FAB.FAB_OFFSET 0 = 9 * 2 ^ 32 ∧ (s.ftShared 0 12).on FAB.FT_LOCKED 0 = true ∧
      (pstUp.ftShared 0 12).fab.ftSamples = [12]) ∧
    (let s := sets pstUp [(FAB.PIN_NUM, 0, 1, 0), (FAB.UID, 0, 100, 0)]
     let u := s.helloIn 5 [99, 7 + 64 + 3 * 2048, 99, 7] none
     u.rg PST.NBR_UID 5 = 99 ∧ u.rg PST.NBR_DEV 5 = 7 ∧ u.rg PST.NBR_PORT 5 = 3 ∧ u.rg FAB.DUP_NUM 0 = 1 ∧ u.rg FAB.MSTATE 0 = 3) ∧
    (let m := [9 + 4 * 2 ^ 32, 71, 0, 0, 0, 0, 0]
     let u := pstUp.routeIn 5 m
     u.fab.dirty = true ∧ (Tab.get none u.fab.advs 9).map Adv.seq = some 4 ∧ u.routeIn 5 m = u ∧ pstUp.routeIn 5 [7] = pstUp) := by decide +kernel

theorem witness_FabricMessagesAndRegisters_registers :
    (let s : State := { pstUp with fab := { pstUp.fab with dirty := true } }
     eqs (exec (.routeRecompute 0) pstUp) pstUp = true ∧ s.fab.dirty = true ∧
      nx (exec (.routeRecompute 0) s) (fun u => !u.fab.dirty && u.on FAB.REACHABLE 0 9 && u.rg FAB.PRIMARY 0 9 == 5 && u.rg FAB.HOPS_P 0 9 == 1 &&
        !u.on FAB.REACHABLE 0 63) = true) ∧
    (let f : Flit := ⟨2, 2, 0, 2, 0, [0x100, 0x55 ||| 0x0401 <<< 32 ||| 1 <<< 48]⟩
     let s : State := { fgtUp with net := [f] }
     f.toHub 2 2 = true ∧ ((s.advance 0).takeFlit fun f => f.toHub 2 2).map (fun x => x.1) = some f ∧
      nx (exec (.pisteEgress 0) s) (fun u => u.rg FAB.SPIKES_TX 0 == 1 && (u.fab.openF.map fun x => (x.dest, x.group, x.cls, x.since)) == [(9, 0x0401, 1, 1000000)] &&
        nx (exec (.packTimeout 1000099) u) (fun z => z.fab.openF.length == 1) &&
        nx (exec (.packTimeout 1000100) u) (fun z => z.fab.openF.isEmpty && z.rg FAB.EVT_FLITS_TX 0 == 1)) = true ∧
      (let z : State := { s with net := [⟨2, 2, 0, 2, 0, [0x100, 1 <<< 32]⟩] }
       nx (exec (.pisteEgress 0) z) (fun u => u.rg FAB.FGT_MISS 0 == 1) = true)) ∧
    (let s := pstUp.rs FAB.RMT_STATUS 0 1
     bitsAt (7 + 2 ^ 59) 0 6 = 7 ∧ (s.mgmtIn [7 + 2 ^ 59, 77] none).rg FAB.RMT_STATUS 0 = 2 ∧ (s.mgmtIn [7 + 2 ^ 59, 77] none).rg FAB.RMT_DATA 0 = 77 ∧
      pstUp.mgmtIn [7 + 2 ^ 59, 77] none = pstUp ∧ pstUp.mgmtIn [9] none = pstUp.forward 6 [9] none) ∧
    (reachesB pstUp 0 .mgmtP0 ⟨.fab, 0⟩ = true ∧ FAB.RMT_CMD.of 1#32 = 1 ∧ FAB.RMT_CMD.of 2#32 = 2 ∧
      nx (exec (.rmtRead 0 .mgmtP0 1) pstUp) (fun u => u.rg FAB.RMT_STATUS 0 == 1 && u.fab.rmtAt == some 1000000 &&
        eqs (exec (.rmtWrite 0 .mgmtP0 2) u) (u.irqSet ⟨.fab, 0⟩ 4) && eqs (exec (.rmtTimeout 1099999) u) (u.advance 1099999) &&
        nx (exec (.rmtTimeout 1100000) u) (fun z => z.rg FAB.RMT_STATUS 0 == 3 && z.fab.rmtAt == none)) = true ∧
      nx (exec (.rmtWrite 0 .mgmtP0 2) pstUp) (fun u => u.rg FAB.RMT_STATUS 0 == 1) = true ∧
      eqs (exec (.rmtRead 0 .mgmtP0 3) pstUp) (pstUp.irqSet ⟨.fab, 0⟩ 4) = true) ∧
    (let s := (pstUp.rs FAB.IS_ROOT 0 1)
     let v : Word := BitVec.ofNat 32 (63 * 2 ^ FAB.REQ_NUM.lsb + 2 ^ FAB.REQ_VALID.lsb)
     FAB.REQ_NUM.of v = 63 ∧ FAB.REQ_VALID.of v = 1 ∧ 63 ∉ s.numsTaken ∧
      nx (exec (.devNumReqWrite 0 .mgmtP0 v) s) (fun u => u.rg FAB.DEV_NUM 0 == 63 && u.rg FAB.ROOT_DEV 0 == 63) = true) ∧
    (let s := sets pstUp [(FAB.FGT_INDEX, 0, 1023, 0), (FAB.FGT_TAG, 0, 63, stageIdx), (FAB.FGT_VALID, 0, 1, stageIdx)]
     nx (exec (.fgtClustersWrite 0 .mgmtP0 0xFFFF) s) (fun u => u.rg FAB.FGT_CLUSTERS 0 1023 == 0xFFFF && u.rg FAB.FGT_TAG 0 1023 == 63 && u.on FAB.FGT_VALID 0 1023) = true) ∧
    (let v := fun k : Nat => BitVec.ofNat 32 (k * 2 ^ FAB.INBOX_SIZE_LOG.lsb + 2 ^ FAB.INBOX_EN.lsb)
     FAB.INBOX_SIZE_LOG.of (v 30) = 30 ∧ FAB.INBOX_EN.of (v 30) = 1 ∧
      nx (exec (.inboxEnable 0 .mgmtP0 (v 30)) pstUp) (fun u => u.on FAB.INBOX_EN 0 && u.rg FAB.INBOX_SIZE_LOG 0 == 30) = true ∧
      eqs (exec (.inboxEnable 0 .mgmtP0 (v 31)) pstUp) (pstUp.irqSet ⟨.fab, 0⟩ 4) = true ∧
      eqs (exec (.inboxEnable 0 .mgmtP0 (v 15)) pstUp) (pstUp.irqSet ⟨.fab, 0⟩ 4) = true) := by decide +kernel

/-! Witnesses of the statements about reset, boot and power. -/

theorem witness_PackageResetsAndWatchdog :
    (up.boot.porHold = false ∧ up.boot.pinHold = false ∧
      nx (exec (.resetNLow 0) up) (fun u => u.dt == 0 && !u.aonRun && u.boot.pinHold && u.rg RSTC.LAST_CAUSE 0 == 1 && u.rg RSTC.CAUSE_HIST 0 == 2 &&
        nx (exec (.resetNRise 0) u) (fun z => !z.boot.pinHold && z.phase == 1)) = true ∧
      nx (exec (.por 0) up) (fun u => u.boot.porHold && u.rg RSTC.LAST_CAUSE 0 == 0 && nx (exec (.porRelease 0) u) (fun z => z.phase == 1)) = true ∧
      eqs (exec (.resetNRise 0) up) up = true ∧ eqs (exec (.porRelease 0) up) up = true) ∧
    ((2 : Nat) < 6 ∧ (RSTC.WDOG_COUNT.pk ≠ .time ∧ ETH.RX_FRAMES.pk ≠ .rstc ∧ ETH.RX_FRAMES.pk ≠ .hub) ∧
      (let u := (up.rs ETH.RX_FRAMES 1 9).warmReset 2 77
       u.dt = 1000077 ∧ u.phase = 2 ∧ u.rg RSTC.LAST_CAUSE 0 = 2 ∧ u.rg RSTC.WDOG_COUNT 0 = 1 ∧ u.rg ETH.RX_FRAMES 1 = 0 ∧ u.boot.hubUp = false ∧ u.boot.lock = 1) ∧
      (up.warmReset 3 0).rg RSTC.SOFT_COUNT 0 = 1) ∧
    ((∀ c, c < 6 → Tab.get [] up.ddrq c = []) ∧ (∀ i, i < 36 → (up.jr i).flight = []) ∧ up.ddrCapacity ≤ 5) ∧
    (let s : State := { up with boot := { up.boot with wdogOn := true, wdogEnd := 6000000, wdogPer := 10 } }
     s.wdogRuns = true ∧ s.boot.wdogEnd ≤ s.dt + 500000 * 10 ∧ eqs (exec (.wdogWarn 0) s) (s.irqSet ⟨.rstc, 0⟩ 8) = true ∧
      (let z : State := { s with boot := { s.boot with wdogEnd := 6000001 } }
       eqs (exec (.wdogWarn 0) z) z = true ∧ z.dt < z.boot.wdogEnd ∧ eqs (exec (.wdogExpiry 0) z) z = true) ∧
      (s.advance 6000000).dt = 6000000 ∧ up.wdogRuns = false) ∧
    (reachesB up 0 .mgmtP0 ⟨.rstc, 0⟩ = true ∧
      (RSTC.PKG_RESET_KEY.of 0xA5005A01#32 = 0xA5 ∧ RSTC.PKG_RESET_CONFIRM.of 0xA5005A01#32 = 0x5A ∧ RSTC.PKG_RESET_REQUEST.of 0xA5005A01#32 = 1) ∧
      nx (exec (.pkgReset 0 .mgmtP0 0xA5005A01) up) (fun u => u.dt == 1001000 && u.rg RSTC.SOFT_COUNT 0 == 1) = true ∧
      eqs (exec (.pkgReset 0 .mgmtP0 0xA5005A00) up) (up.irqSet ⟨.rstc, 0⟩ 4) = true ∧
      (let s := up.rs RSTC.WDOG_PERIOD_MS 0 10
       nx (exec (.wdogKick 0 .mgmtP0 0xA5000001) s) (fun u => u.boot.wdogEnd == 11000000) = true ∧ eqs (exec (.wdogKick 0 .mgmtP0 0xA4000001) s) s = true ∧
        eqs (exec (.wdogEnWrite 0 .mgmtP0 0x27110001) s) (s.irqSet ⟨.rstc, 0⟩ 4) = true ∧ eqs (exec (.wdogEnWrite 0 .mgmtP0 1) s) (s.irqSet ⟨.rstc, 0⟩ 4) = true ∧
        nx (exec (.wdogEnWrite 0 .mgmtP0 0x27100001) s) (fun u => u.on RSTC.WDOG_EN 0 && u.boot.wdogOn && u.boot.wdogEnd == 10001000000) = true ∧
        nx (exec (.wdogEnWrite 0 .mgmtP0 0x00010000) s) (fun u => u.rg RSTC.WDOG_PERIOD_MS 0 == 1 && !u.boot.wdogOn) = true)) := by decide +kernel

/-- Valid option bytes: LAYOUT 1, the rest 0, and their CRC. -/
def otpOk : List Byte := let b := leBytes 1 1 ++ leBytes 251 0; b ++ leBytes 4 (crc32 b)

/-- The block in a boot phase. -/
def inPhase (p : Nat) : State := up.rs RSTC.BOOT_PHASE 0 p

theorem witness_BootReachesReadyStepByStep_early :
    ((inPhase 1).phase = 1 ∧ nx (exec (.refclkDetect 0) { inPhase 1 with boot := { up.boot with refclkOk := false } }) (fun u => u.boot.refclkOk) = true ∧
      eqs (exec (.refclkDetect 0) (inPhase 2)) (inPhase 2) = true ∧ eqs (exec (.optionLoadDone 0) (inPhase 3)) (inPhase 3) = true ∧
      (let s : State := { inPhase 2 with boot := { up.boot with otp := otpOk } }
       optBlank otpOk = false ∧ optValid otpOk = true ∧ s.phase = 2) ∧
      (let s : State := { inPhase 3 with boot := { up.boot with lock := 1 } }
       bit s.boot.lock 1 = false ∧ eqs (exec (.hubPllTimeout 0) s) (s.rs RSTC.BOOT_PHASE 0 11) = true) ∧ eqs (exec (.hubPllTimeout 0) (inPhase 3)) (inPhase 3) = true ∧
      (let s := up.rs RSTC.BOOT_COUNT 0 2
       nx (exec (.bootCountClear 60000000000) s) (fun u => u.rg RSTC.BOOT_COUNT 0 == 0) = true ∧
        eqs (exec (.bootCountClear 59999999999) s) (s.advance 59999999999) = true)) ∧
    (eqs (exec (.vaultImageChecked 0 none) up) up = true ∧
      (let s := (inPhase 4).rs RSTC.BOOT_COUNT 0 3
       eqs (exec (.vaultImageChecked 0 none) s) (s.hostBoot 5) = true) ∧
      imageCheck none = 1 ∧ (inPhase 4).rg RSTC.BOOT_COUNT 0 < 3 ∧ eqs (exec (.vaultImageChecked 0 none) (inPhase 4)) ((inPhase 4).hostBoot 1) = true ∧
      (let s := (inPhase 5).rs VAULT.HB_STATUS 0 1
       s.hostUp = false ∧ nx (exec (.vaultImageChecked 0 (some [])) s) (fun u => u.rg VAULT.HB_STATUS 0 == 3 && u.rg VAULT.FAIL_REASON 0 == 1) = true) ∧
      (up.hostBoot 255).phase = 5 ∧ (up.hostBoot 255).rg VAULT.FAIL_REASON 0 = 255 ∧ (up.hostBoot 255).answers ⟨.vault, 0⟩ = true ∧
      (up.hostBoot 255).answers ⟨.eth, 0⟩ = false) := by decide +kernel

theorem witness_BootReachesReadyStepByStep_late :
    (let s := (inPhase 6).rs DDR.TRAIN_STATE 5 1
     s.rg DDR.TRAIN_STATE 5 = 1 ∧ bit s.boot.lock 6 = true ∧ eqs (exec (.ddrTrainDone 0 0 0 2 8192 3 1 1) s) s = true ∧
      nx (exec (.ddrTrainDone 0 5 0 2 8192 3 1 1) s) (fun u => u.rg DDR.TRAIN_STATE 5 == 2 && u.rg DDR.CAPACITY_MB 5 == 8192 && u.rg DDR.RANKS 5 == 2) = true ∧
      nx (exec (.ddrTrainDone 0 5 3 0 0 3 0 0) s) (fun u => u.rg DDR.TRAIN_STATE 5 == 3 && u.ddrFenced 5) = true) ∧
    (let s : State := { inPhase 7 with boot := { up.boot with diesUp := 0, diesTrained := 7 } }
     bit s.boot.diesTrained 3 = false ∧ bit s.boot.lock 5 = true ∧
      eqs (exec (.dieLinkTrained 0 3 false) s) (s.logFault ⟨.ucie, 12⟩ true 7 0) = true ∧ eqs (exec (.dieLinkTrained 0 2 true) s) s = true ∧
      (let z : State := { s with boot := { s.boot with diesTrained := 0 } }
       nx (exec (.dieLinkTrained 0 3 true) z) (fun u => bit u.boot.diesTrained 3 && u.on UCIE.LINK_UP 15 && bit u.boot.diesUp 3) = true)) ∧
    (let s := (inPhase 6).rs DDR.TRAIN_STATE 5 1
     let z : State := { s with boot := { s.boot with diesUp := 7 } }
     (s.ddrFitted 5 = false ∧ (s.rs (OPT.OPT_IN_USE.nth 2) 0 0x20).ddrFitted 5 = true) ∧ (s.rs (OPT.OPT_IN_USE.nth 2) 0 0x20).bootNext = s.rs (OPT.OPT_IN_USE.nth 2) 0 0x20 ∧
      bit z.boot.diesTrained 3 = true ∧ bit z.bootNext.boot.diesUp 3 = true) ∧
    ((inPhase 7).phase = 7 ∧ eqs (exec (.bootReady 0 true) up) up = true) ∧
    (reachesB up 0 .mgmtP0 ⟨.vault, 0⟩ = true ∧ reachesB (inPhase 5) 0 .mgmtP0 ⟨.vault, 0⟩ = true ∧ VAULT.HB_GO.of 1#32 = 1 ∧
      eqs (exec (.hbGo 0 .mgmtP0 0) up) up = true ∧ eqs (exec (.hbGo 0 .mgmtP0 1) up) (up.irqSet ⟨.vault, 0⟩ 4) = true ∧
      eqs (exec (.hbGo 0 .mgmtP0 1) (inPhase 5)) ((inPhase 5).rs VAULT.HB_STATUS 0 1) = true) ∧
    (reachesB up 0 .mgmtP0 ⟨.opt, 0⟩ = true ∧ OPT.BURN.of 0xA5005A01#32 = 1 ∧ eqs (exec (.optBurn 0 .mgmtP0 1) up) up = true ∧
      eqs (exec (.optBurn 0 .mgmtP0 0xA5005A01) up) ((up.rb OPT.BURN_FAIL 0 true).irqSet ⟨.opt, 0⟩ 4) = true ∧
      (let s := sets up [(OPT.OPT_BLANK, 0, 1, 0), ((OPT.OPT_STAGE.nth 0), 0, 1, 0), ((OPT.OPT_STAGE.nth 63), 0, leAt otpOk 252 4, 0)]
       optBlank s.boot.otp = true ∧ s.boot.burning = [] ∧ s.optStaged = otpOk ∧
        nx (exec (.optBurn 0 .mgmtP0 0xA5005A01) s) (fun u => decide (u.boot.burning = otpOk) && u.on OPT.BURN_BUSY 0 &&
          nx (exec (.burnDone 0 true) u) (fun z => decide (z.boot.otp = otpOk) && !z.on OPT.BURN_BUSY 0 && (z.rg (Hdr.IRQ_RAW .opt) 0).testBit 8)) = true) ∧
      eqs (exec (.burnDone 0 true) up) up = true) := by decide +kernel

/-- The block in a power state that was requested at DT 999000. -/
def inPwr (p : Nat) : State := { up.rs PWR.PWR_STATE 0 p with pow := { up.pow with reqDT := 999000 } }

theorem witness_PowerStatesAndRegulator :
    (reachesB up 0 .mgmtP0 ⟨.pwr, 0⟩ = true ∧ reachesB (inPwr 1) 0 .mgmtP0 ⟨.pwr, 0⟩ = true ∧ reachesB (inPwr 2) 0 .mgmtP0 ⟨.pwr, 0⟩ = true ∧
      reachesB (inPwr 5) 0 .mgmtP0 ⟨.pwr, 0⟩ = true ∧ PWR.PWR_REQ.of 3#32 = 3 ∧
      eqs (exec (.pwrReqSleep 0 .mgmtP0 3) up) (up.irqSet ⟨.pwr, 0⟩ 4) = true ∧ eqs (exec (.pwrReqActive 0 .mgmtP0 0) (inPwr 1)) ((inPwr 1).pwrRefuse 1) = true ∧
      up.standbyBar = 2 ∧ eqs (exec (.pwrReqStandby 0 .mgmtP0 1) up) (up.pwrRefuse 2) = true ∧
      (let s := up.rs DIST.CLUSTER_GATE 0 0xFFFF
       s.standbyBar = 0 ∧ nx (exec (.pwrReqStandby 0 .mgmtP0 1) s) (fun u => u.pwr == 1 && u.pow.reqDT == 1000000) = true) ∧
      up.sleepBar = 0 ∧ nx (exec (.pwrReqSleep 0 .mgmtP0 2) up) (fun u => u.pwr == 4) = true ∧
      (let s := up.rs (Hdr.ENABLE .stream) 35 1
       s.sleepBar = 5 ∧ eqs (exec (.pwrReqSleep 0 .mgmtP0 2) s) (s.pwrRefuse 5) = true) ∧
      eqs (exec (.pwrReqActive 0 .mgmtP0 0) up) up = true ∧ nx (exec (.pwrReqActive 0 .mgmtP0 0) (inPwr 2)) (fun u => u.pwr == 3) = true ∧
      nx (exec (.pwrReqActive 0 .mgmtP0 0) (inPwr 5)) (fun u => u.pwr == 6 && decide (u.out = [.pin "CORE_EN" true])) = true) ∧
    ((up.pwrRefuse 15).rg PWR.REFUSE_REASON 0 = 15 ∧ (up.pwrRefuse 15).rg PWR.REFUSALS 0 = 1) := by decide +kernel

theorem witness_PowerStatesAndRegulator_standby :
    (inPwr 1).quiet = true ∧ nx (exec (.standbyQuiet 0) (inPwr 1)) (fun u => u.pwr == 2 && u.rg PWR.STANDBY_ENTRIES 0 == 1) = true ∧
      eqs (exec (.standbyQuiet 0) up) up = true := by decide +kernel

theorem witness_PowerStatesAndRegulator_sleep :
    ((inPwr 4).rs DDR.TRAIN_STATE 5 2).quiet = true ∧ ((inPwr 4).rs DDR.TRAIN_STATE 5 2).pwr = 4 := by decide +kernel

theorem witness_PowerStatesAndRegulator_timeout :
    eqs (exec (.standbyTimeout 2000000) (inPwr 1)) ((inPwr 1).advance 2000000) = true ∧ eqs (exec (.standbyExitDone 0) up) up = true ∧
      (let s : State := { inPwr 1 with cores := [(9, { (up.core 9) with port := [⟨2, 2, 0, 0, 0, []⟩] })] }
       s.quiet = false ∧ eqs (exec (.standbyQuiet 0) s) s = true ∧
        nx (exec (.standbyTimeout 1999000) s) (fun u => u.pwr == 0 && u.rg PWR.REFUSE_REASON 0 == 8 && (u.rg (Hdr.IRQ_RAW .pwr) 0).testBit 9) = true ∧
        eqs (exec (.standbyTimeout 1998999) s) (s.advance 1998999) = true) := by decide +kernel

theorem witness_PowerStatesAndRegulator_wake :
    (nx (exec (.standbyExitDone 0) { inPwr 3 with boot := { up.boot with diesUp := 0 } }) (fun u => u.pwr == 0 && u.rg PWR.LAST_EXIT_US 0 == 1) = true) := by decide +kernel

theorem witness_PowerStatesAndRegulator_regulator :
    ((inPwr 6).pwr = 6 ∧ eqs (exec (.sleepExitDone 0 true 15) up) up = true) ∧
    (up.pow.avsDead = false ∧ up.pow.avsAt = none ∧ up.asleep = false ∧
      (let s := up.rs GOV.AVS_EN 0 1
       s.pow.mv = 750 ∧ s.avsNext 800 = 760 ∧ s.avsNext 0 = 740 ∧
        nx (exec (.avsCommand 0 800 true true) s) (fun u => u.pow.mv == 760 && decide (u.out = [.avs 760]) &&
          eqs (exec (.avsCommand 1099999 800 true true) u) (u.advance 1099999) && nx (exec (.avsCommand 1100000 800 true true) u) (fun z => z.pow.mv == 770)) = true ∧
        nx (exec (.avsCommand 0 800 false true) s) (fun u => u.pow.mv == 760 && !u.pow.avsDead && (u.rg (Hdr.IRQ_RAW .gov) 0).testBit 0) = true ∧
        nx (exec (.avsCommand 0 800 false false) s) (fun u => u.pow.mv == 750 && u.pow.avsDead && (u.rg (Hdr.IRQ_RAW .gov) 0).testBit 1) = true)) ∧
    (let s := up.rs GOV.TJ_WARN 0 100
     nx (exec (.tjWarnCross 0 0x65000000 20) s) (fun u => u.sec.hot && u.sec.alert && (u.rg (Hdr.IRQ_RAW .gov) 0).testBit 8 && u.rg GOV.TJ_DIE 0 == 0x65000000) = true ∧
      nx (exec (.tjWarnCross 0 0x64000000 100) s) (fun u => !u.sec.hot) = true) := by decide +kernel

/-! Witnesses of the statements about faults, keys, protection, trace and observation. -/

/-- Core 4095 in a run of arrivals, nothing fenced. -/
def act (k : Nat) (u : FUnit) : FaultAct := ⟨k, u.word, 8, 999000⟩

/-- The block with an action owed and a log entry owed. -/
def owing (a : FaultAct) : State := { up with sec := { up.sec with notices := [a], logs := [a] } }

/-- A management image that fails its check, as firmware restarts. -/
def fwDown : State := { up with host := { up.host with fwDown := true } }

theorem witness_FaultsAreClassedFencedAndLogged :
    (eqs (exec (.sramEccError 0 (.sliver 4095 3071) true true) up) (up.logFault ⟨.cg, 255⟩ false 2 (15 * 2 ^ 20 + 3071)) = true ∧
      nx (exec (.sramEccError 0 (.sliver 4095 3071) false false) up) (fun u => decide (u.fenced = [.core 4095]) && u.rg HUB.FENCED_SC 0 == 1 &&
        !u.on HUB.REPLACE_REQUEST 0) = true ∧
      nx (exec (.sramEccError 0 (.matrix 31 7) false false) up) (fun u => u.mxFenced 31 && u.on HUB.REPLACE_REQUEST 0) = true ∧
      eqs (exec (.sramEccError 0 (.ledger 15 524287) false true) up) (up.logFault ⟨.ldb, 15⟩ false 1 524287) = true ∧
      eqs (exec (.sramEccError 0 (.router 15 9) false true) up) (up.logFault ⟨.clu, 15⟩ false 1 9) = true ∧
      eqs (exec (.sramEccError 0 (.dieSwitch 3 9) true true) up) (up.logFault ⟨.die, 3⟩ false 2 9) = true ∧
      hubSite (.report 2 5) = (⟨.fuse, 0⟩, 5) ∧ eqs (exec (.sramEccError 0 (.report 2 5) true true) up) (up.logFault ⟨.fuse, 0⟩ false 2 5) = true ∧
      nx (exec (.sramEccError 0 (.report 2 5) true false) up) (fun u => u.on HUB.REPLACE_REQUEST 0 && (u.rg HUB.RR_CAUSE 0).testBit 4) = true ∧
      nx (exec (.ddrEccError 0 5 (2 ^ 40 - 1) true true 255 true 15) up) (fun u => u.rg DDR.FIRST_ERRORS 5 == 1 && u.rg DDR.LAST_ERR_ADDR 5 == 2 ^ 40 - 1 &&
        u.rg DDR.BANK 5 == 15 && !u.on DDR.LASTING 5) = true) ∧
    (FUnit.core 7 ∉ up.fenced ∧ (let f := up.fenceUnit (.core 7) 1
      FUnit.core 7 ∈ f.fenced ∧ (⟨1, (FUnit.core 7).word, 1, 1000000⟩ : FaultAct) ∈ f.sec.logs ∧ f.fenceUnit (.core 7) 1 = f) ∧
      (up.fenceUnit (.piste 5) 5).sec.logs = [] ∧ (up.fenceUnit (.piste 5) 5).sec.notices.length = 1) ∧
    ((owing (act 1 (.core 7))).sec.notices = [act 1 (.core 7)] ∧ FUnit.ofWord (act 1 (.core 7)).unit = some (.core 7) ∧
      nx (exec (.fenceFirmwareAction 0) (owing (act 1 (.core 7)))) (fun u => decide (u.sec.notices = [])) = true ∧
      nx (exec (.fenceFirmwareAction 0) (owing (act 2 (.core 7)))) (fun u => decide (u.sec.notices = [])) = true ∧
      nx (exec (.fenceFirmwareAction 0) (owing (act 3 (.core 7)))) (fun u => u.on HUB.JOB_STOPPED 0 && (u.rg (Hdr.IRQ_RAW .hub) 0).testBit 9) = true ∧
      eqs (exec (.fenceFirmwareAction 0) up) up = true) ∧
    (let s := owing (act 1 (.ddr 5))
     nx (exec (.faultLogAppend 0 true) s) (fun u => decide (u.sec.flog = [logEntry (act 1 (.ddr 5))]) && u.rg HUB.LOG_ENTRIES 0 == 1 &&
        decide (u.out = [.flash 0xFE0000 (logEntry (act 1 (.ddr 5)))])) = true ∧
      nx (exec (.faultLogAppend 0 false) s) (fun u => u.on HUB.LOG_FAIL 0 && decide (u.sec.flog = [])) = true ∧
      (let z : State := { s with sec := { s.sec with flog := [logEntry (act 1 (.ddr 5))] } }
       nx (exec (.faultLogAppend 0 true) z) (fun u => u.sec.flog.length == 1 && decide (u.sec.logs = [])) = true) ∧
      eqs (exec (.faultLogAppend 0 true) up) up = true) ∧
    (let s := sets up [(DDR.TRAIN_STATE, 5, 2, 0), (DDR.CAPACITY_MB, 5, 1, 0)]
     s.ddrFenced 5 = false ∧ eqs (exec (.patrolScrub 0 4) s) s = true ∧ nx (exec (.patrolScrub 0 5) s) (fun u => Tab.get 0 u.sec.scrub 5 == 64) = true ∧
      (let z : State := { s with sec := { s.sec with scrub := [(5, 1048512)] } }
       nx (exec (.patrolScrub 0 5) z) (fun u => Tab.get 0 u.sec.scrub 5 == 0 && u.rg DDR.SCRUB_PASSES 5 == 1) = true)) ∧
    (eqs (exec (.mgmtWarmRestart 0 none) up) up = true ∧
      eqs (exec (.mgmtWarmRestart 0 none) fwDown) (State.hostBoot { fwDown with protVault := true, prot := [] } 1) = true) ∧
    (stale (2 ^ 34) 0 = true ∧ stale (2 ^ 33) 0 = false ∧ (0 : Nat) % 2 ^ 35 = 0 ∧ 2 ^ 34 - 0 ≤ 2 ^ 34) ∧
    (let s : State := { up with dt := 2 ^ 34, cores := [(9, { Core.init with queue := [⟨0, 0, 0, 0, false⟩, ⟨0, 3, 0, 0, false⟩, ⟨2 ^ 34, 0, 0, 0, false⟩] })] }
     nx (exec (.staleCheck 0 (.coreQueue 9)) s) (fun u => decide ((u.core 9).queue.map Arr.cls = [3, 0]) && u.rg CLU.STALE_FLITS 0 == 1) = true) ∧
    (let s : State := { up with dt := 2 ^ 34, fab := { up.fab with openF := [⟨9, 0, 0, 0, [1], 0⟩, ⟨8, 2 ^ 33, 0, 0, [1], 0⟩] } }
     nx (exec (.staleCheck 0 .piste) s) (fun u => decide (u.fab.openF.map OpenFlit.dest = [8]) && u.rg FAB.STALE_FLITS 0 == 1) = true) ∧
    (nx (exec (.badFlit 0 15 14) up) (fun u => u.rg CLU.BAD_FLIT 15 == 1 && (u.rg (Hdr.IRQ_RAW .clu) 15).testBit 10) = true ∧
      eqs (exec (.badFlit 0 15 13) up) up = true) := by decide +kernel

theorem witness_KeysProtectionTraceAndObservation :
    (reachesB up 0 .mgmtP0 ⟨.vault, 0⟩ = true ∧
      (VAULT.KEY_CMD_KEY.of 0xA5005A31#32 = 0xA5 ∧ VAULT.KEY_CMD_CONFIRM.of 0xA5005A31#32 = 0x5A ∧ VAULT.KEY_CMD_OP.of 0xA5005A31#32 = 1 ∧
        VAULT.KEY_CMD_SLOT.of 0xA5005A31#32 = 3 ∧ VAULT.KEY_CMD_OP.of 0xA5005A32#32 = 2) ∧
      eqs (exec (.keyProgram 0 .mgmtP0 0xA4005A31) up) up = true ∧ eqs (exec (.keyRevoke 0 .mgmtP0 0xA5005A33) up) (up.irqSet ⟨.vault, 0⟩ 4) = true ∧
      (let s := up.rs (VAULT.KEY_STAGE.nth 0) 0 0x77
       nx (exec (.keyProgram 0 .mgmtP0 0xA5005A31) s) (fun u => decide (u.sec.burn = some (1, 3, s.keyStaged)) && u.rg VAULT.KEY_STATUS 0 == 1 &&
         eqs (exec (.keyProgram 0 .mgmtP0 0xA5005A01) u) (u.irqSet ⟨.vault, 0⟩ 4) &&
         nx (exec (.keyBurnDone 0) u) (fun z => decide (Tab.get [] z.sec.owner 3 = s.keyStaged) && (z.rg VAULT.FILLED 0).testBit 3 &&
           eqs (exec (.keyProgram 0 .mgmtP0 0xA5005A31) z) ((z.rs VAULT.KEY_STATUS 0 3).irqSet ⟨.vault, 0⟩ 4))) = true) ∧
      nx (exec (.keyRevoke 0 .mgmtP0 0xA5005A32) up) (fun u => bit u.sec.revoked 3 && u.rg VAULT.REVOKED 0 == 8 &&
        eqs (exec (.keyRevoke 0 .mgmtP0 0xA5005A32) u) ((u.rs VAULT.KEY_STATUS 0 3).irqSet ⟨.vault, 0⟩ 4)) = true ∧
      eqs (exec (.keyBurnDone 0) up) up = true) ∧
    (reachesB up 0 .mgmtP0 ⟨.mgmt, 0⟩ = true ∧ MGMT.PT_REQ_GO.of 1#32 = 1 ∧ eqs (exec (.ptReqGo 0 .mgmtP0 0) up) up = true ∧
      eqs (exec (.ptReqApplied 0) up) up = true ∧
      (let s := sets up [(MGMT.PT_REQ_INDEX, 0, (⟨.eth, 1⟩ : Page).addr / 1024 * 4096 + (⟨.eth, 1⟩ : Page).addr % 1024, 0), (MGMT.PT_REQ_ENTRY, 0, 0x31, 0)]
       ptEntry (s.rg MGMT.PT_REQ_INDEX 0) = (⟨.eth, 1⟩ : Page).addr ∧ ptRefused false (s.rg MGMT.PT_REQ_INDEX 0) 0x31 = false ∧
        nx (exec (.ptReqGo 0 .mgmtP0 1) s) (fun u => u.rg MGMT.PT_REQ_STATUS 0 == 1 && nx (exec (.ptReqApplied 0) u) (fun z => u.sec.ptReq.isSome &&
          z.rg MGMT.PT_REQ_STATUS 0 == 2 && z.grants (⟨.eth, 1⟩ : Page).addr == 0x31 && (z.rg (Hdr.IRQ_RAW .mgmt) 0).testBit 8)) = true ∧
        (let z := sets s [(MGMT.PT_REQ_INDEX, 0, (⟨.prot, 0⟩ : Page).addr / 1024 * 4096 + (⟨.prot, 0⟩ : Page).addr % 1024, 0), (MGMT.PT_REQ_ENTRY, 0, 0x32, 0)]
         Page.ofAddr (ptEntry (z.rg MGMT.PT_REQ_INDEX 0)) = some ⟨.prot, 0⟩ ∧ ptRefused false (z.rg MGMT.PT_REQ_INDEX 0) 0x32 = true ∧
          nx (exec (.ptReqGo 0 .mgmtP0 1) z) (fun u => nx (exec (.ptReqApplied 0) u) (fun y => y.rg MGMT.PT_REQ_STATUS 0 == 3)) = true))) ∧
    (reachesB up 0 .mgmtP0 ⟨.trace, 0⟩ = true ∧ TRACE.CLEAR.of 1#32 = 1 ∧ eqs (exec (.traceClear 0 .mgmtP0 0) up) up = true ∧
      (let s := up.rs TRACE.TR_EN 0 1
       eqs (exec (.traceClear 0 .mgmtP0 1) s) (s.irqSet ⟨.trace, 0⟩ 4) = true ∧ eqs (exec (.fwMark 0 .mgmtP0 9) s) (s.trace ⟨.trace, 0⟩ 9 0 9) = true) ∧
      (let s := sets up [(TRACE.TR_EN, 0, 1, 0), (TRACE.KIND_MASK, 0, 0x8000, 0), (TRACE.WR_INDEX, 0, 131071, 0)]
       let u := s.trace ⟨.eth, 1⟩ 15 3 5
       (s.rg TRACE.KIND_MASK 0).testBit 15 = true ∧ Mem.rdLE u.sram (0x0F600000 + 16 * 131071 + 8) 8 = 15 + 3 * 2 ^ 16 + 5 * 2 ^ 32 ∧
        u.rg TRACE.WR_INDEX 0 = 0 ∧ u.rg TRACE.LAPS 0 = 1 ∧ s.trace ⟨.eth, 1⟩ 14 3 5 = s ∧
        ((s.rs TRACE.STOP_FULL 0 1).trace ⟨.eth, 1⟩ 15 3 5).on TRACE.TR_EN 0 = false)) ∧
    (let s := up.rs OBS.ENABLED 0 1
     let z := up.rs OBS.ENABLED 0 0
     s.on OBS.ENABLED 0 = true ∧ s.boot.hubUp = true ∧ eqs (exec (.readId 0) z) z = true ∧ eqs (exec (.obsDataTimeout 0) z) z = true ∧
      nx (exec (.readReg 0 (adr ⟨.hub, 0⟩ 0) 2) s) (fun u => match u.out with | [.obs l] => l.length == 9 && l.head? == some 0xA5 | _ => false) = true ∧
      windowOf 8 = (0, 0x01800000) ∧ s.mayRead .obs 0x10000 = true ∧
      nx (exec (.readMem 0 8 16) s) (fun u => match u.out with | [.obs l] => l.length == 17 | _ => false) = true ∧
      eqs (exec (.obsDataTimeout 0) s) ((s.inc OBS.FRAMES 0).emit (.obs [0xEE, 0xFF])) = true ∧
      eqs (exec (.obsUnknownCommand 0) s) (((s.inc OBS.FRAMES 0).inc OBS.BAD_CMD 0).emit (.obs [0xFF])) = true) ∧
    (nx (exec (.idcode 0) up) (fun u => decide (u.out = [.jtag 0x136405EB])) = true ∧ nx (exec (.sample 0) up) (fun u => u.out.length == 1) = true ∧
      nx (exec (.bypass 0) up) (fun u => u.sec.ir == 15) = true) := by decide +kernel

/-! Witnesses of the clauses about commands to which nothing applies: nothing has arrived, waits or is due. -/

theorem witness_EventsReplaysAndCoreWritesReachTheBank_nothing :
    (up.advance 0).takeFlit (fun f => f.toUnit 0 15 0) = none ∧ ((up.advance 0).takeUnit (fun f => f.toUnit 3 15 1)).isNone = true ∧
      Tab.get [] up.rqueue (15 * 36 + 35) = [] ∧
      (∀ x ∈ ([.eventFlit 0 15, .replayFlit 0 15, .cwrite 0 15, .progress 0 15, .streamQueueDeliver 0 15 35] : List Instr), eqs (exec x up) up = true) ∧
      (let q : QFlit := ⟨w35, 5, true, false, some 1000000⟩
       let f : Flit := ⟨1, 1, 15, 0, 5 * 256 + 128, [w35, 1000000]⟩
       let s := { (ldbUp.rs LDB.SHADOW 15 1 63) with net := [f], rqueue := [(15 * 36 + 35, [q])] }
       ((s.advance 0).takeFlit (fun f => f.toUnit 1 15 0)).isSome = true ∧
        nx (exec (.replayFlit 0 15) s) (fun u => decide (Tab.get [] u.rqueue (15 * 36 + 35) = [q, q]) && decide ((u.bank 15).queue = [])) = true) := by
  decide +kernel

theorem witness_LedgerReadsAndFences_nothing :
    (up.bank 15).reqs = [] ∧ up.fence 15 63 = none ∧ (up.advance 0).fenceDue 15 63 = none ∧
      (∀ x ∈ ([.nreq 0 15, .nbrServe 0 15, .nrsp 0 4095, .release 0 15, .fenceSettle 0 15 63, .fenceAdvance 0 15 63] : List Instr),
        eqs (exec x up) up = true) ∧
      (let q : NbrReq := ⟨4095, 64, 32, 1, 0, 5, 35, false, 0x700, 901⟩
       let s := { ldbUp with banks := [(15, { Bank.init with applied := 900, reqs := [q] })] }
       s.rg LDB.APPLY_W 15 ≠ 0 ∧ s.reached 15 900 = true ∧ s.reached 15 901 = false ∧ eqs (exec (.nbrServe 0 15) s) s = true ∧
        (s.rs LDB.APPLY_W 15 0).reached 15 901 = true) := by decide +kernel

theorem witness_GathersAndTokenRecords_nothing :
    (up.advance 0).mxCurrent 31 1 (fun a => (up.dsc a 0x18 1 == 1) == false) = none ∧ (up.tk 15).pend.length < 1024 ∧ up.tokFence 15 31 = none ∧
      (∀ x ∈ ([.gatherLedger 0 31, .gatherTokens 0 31, .token 0 15, .tokFenceAdvance 0 15 31] : List Instr), eqs (exec x up) up = true) ∧
      (∀ x ∈ ([.dma 0 31, .result 0 31, .readFlit 0, .writeFlit 0, .readrsp 0, .ddrRequestServe 0 5] : List Instr), eqs (exec x up) up = true) := by
  decide +kernel

theorem witness_FusionCollectsInputsPerSlot_nothing :
    (up.sch 3).next = none ∧ (up.gr 3).reports = [] ∧ (up.advance 0).cutDue 3 = none ∧
      (∀ x ∈ ([.fusionSlotInstant 0 3, .feature 0, .slotDone 0, .resultReceive 0, .fusionCutoff 0 3, .reportComplete 0 3, .reportRelease 0 3] :
        List Instr), eqs (exec x up) up = true) := by decide +kernel

/-- A report whose sample point of map 5, stream 35 waits for the fence of descriptor 63. -/
def rptWaiting (c : Fence) : State :=
  ({ (sets ldbUp [(LDB.DISCIPLINE, 15, 1, 63), (LDB.FENCE_GROUP, 15, 3, 63)]) with sched := fuseUp.sched }.setFence 15 63 (some c)).upGr 3
    fun x => { x with reports := [⟨1, 500000, false, List.replicate 64 0, 600000, 0, false, 1000000, false, [⟨5, false, 35, 64, 32, 0, 0⟩], false⟩] }

theorem witness_FusionReportsReachTheHostRing_samples :
    (let s := rptWaiting ⟨0, 0, true, false, 0⟩
     (s.smpDesc 3 ⟨5, false, 35, 64, 32, 0, 0⟩) = some (15, 63) ∧ ((s.advance 0).smpReady 3 1 500000 ⟨5, false, 35, 64, 32, 0, 0⟩) = false ∧
      eqs (exec (.reportComplete 0 3) s) s = true) ∧
    (let s := rptWaiting ⟨1, 500000, true, false, 0⟩
     ((s.advance 0).smpReady 3 1 500000 ⟨5, false, 35, 64, 32, 0, 0⟩) = true ∧
      nx (exec (.reportComplete 0 3) s) (fun u => (u.gr 3).reports.all fun r => r.done && r.pend.isEmpty) = true) := by decide +kernel

theorem witness_FabricMessagesAndRegisters_nothing :
    pstUp.fab.dirty = false ∧ pstUp.fab.rmtAt = none ∧ ((up.advance 0).takeUnit fun f => f.toHub 2 2 && !(List.range 6).any up.egressFull).isNone = true ∧
      (∀ x ∈ ([.routeRecompute 0, .pisteEgress 0, .packTimeout 0, .rmtTimeout 0] : List Instr), eqs (exec x pstUp) pstUp = true) := by decide +kernel

/-! Well-formedness: one ill-formed term for each check, which the check refuses, and a well-formed one. -/

theorem test_wf_entry : Instr.wf (.cmdNop 0 (List.replicate 63 0)) = false ∧ Instr.wf (.cmdNop 0 (List.replicate 64 0)) = true := by decide

theorem test_wf_packet :
    packetWf false [1] [0] = false ∧ packetWf true [1, 2] [5, 4] = false ∧ packetWf true [1, 2] [4, 5] = true ∧ packetWf false [] [0] = true := by decide

theorem test_wf_body : bodyWf [0, 0, 0, 0, 0, 0] = false ∧ bodyWf [0, 0, 0, 0, 0, 0, 0] = true := by decide

theorem test_wf_sram_site :
    (SramSite.trace 262144).wf = false ∧ (SramSite.trace 262143).wf = true ∧ (SramSite.mgmt 1048576).wf = false ∧ (SramSite.report 0 524288).wf = false := by
  decide

theorem test_wf_port_page :
    portPageWf 0x100F = false ∧ portPageWf 0x1010 = true ∧ portPageWf 0x1021 = true ∧ portPageWf 0x1022 = false ∧ portPageWf 0x1025 = true := by decide

theorem test_wf_line : Instr.wf (.scrubVisit 0 0 (2 ^ 35)) = false ∧ Instr.wf (.scrubVisit 0 0 (2 ^ 35 - 1)) = true := by decide

theorem test_wf_bad_flit : Instr.wf (.badFlit 0 0 13) = false ∧ Instr.wf (.badFlit 0 0 14) = true := by decide

theorem test_wf_obs_alignment :
    Instr.wf (.readReg 0 2 1) = false ∧ Instr.wf (.readReg 0 4 1) = true ∧ Instr.wf (.readMem 0 4 1) = false ∧ Instr.wf (.readMem 0 8 1) = true := by decide

theorem test_wf_bus_address :
    busWf .host 0x4000000 = false ∧ busWf .mgmtP0 0xC000000 = false ∧ busWf .host 0xC00FFFC = true ∧ busWf .host 0xC010000 = false ∧
      busWf .obs 0x10000000 = true ∧ Instr.wf (.registerWrite 0 .host 0x10000000 .b4 0) = false := by decide

theorem test_wf_frame : Instr.wf (.pdelayReq 0 0 (List.replicate 13 0)) = false ∧ Instr.wf (.pdelayReq 0 0 (List.replicate 14 0)) = true := by decide

theorem test_wf_interval : Instr.wf (.ptpSync 0 0 0 0 0 0 0) = false ∧ Instr.wf (.ptpSync 0 0 0 0 0 0 1) = true := by decide

/-- No row of the table has bits, so no word spells a command and a word in front of the queue changes nothing. -/
theorem test_no_word_spells_a_command : decodeTableWord 32 0xFFFFFFFF = none ∧ State.reset.withFetchWord 32 7 = State.reset := by decide +kernel

/-- The check value of the CRC-32 that R485 names. -/
theorem test_crc32_check : crc32 ("123456789".toList.map fun c => BitVec.ofNat 8 c.toNat) = 0xCBF43926 := by decide +kernel

end Sys2Proof.Tests
end

/-!
SUPPORT. The register file (R9, R14): when two fields share a key, what a saturating counter reads as, and that a field write
touches the register file alone.
-/
namespace Sys2Proof.Machine

/-- Page kinds of the same number are the same page kind. -/
theorem PK.num_inj {p q : PK} (h : p.num = q.num) : p = q :=
  calc p = PK.ofNat p.num := (PK.ofNat_ctorIdx p).symm
    _ = PK.ofNat q.num := congrArg PK.ofNat h
    _ = q := PK.ofNat_ctorIdx q

/-- Two fields share a key exactly when index, page kind, instance, offset and low bit agree, within the key's widths. -/
theorem Fld.key_eq_iff {f g : Fld} {i j x y : Nat} :
    g.key j y = f.key i x ↔
      y = x ∧ g.pk = f.pk ∧ j % 4096 = i % 4096 ∧ g.off % 4096 = f.off % 4096 ∧ g.lsb % 64 = f.lsb % 64 := by
  constructor
  · intro h
    obtain ⟨hidx, hpk, hinst, hoff, hlsb⟩ := regKey_inj h
    exact ⟨hidx, PK.num_inj hpk, hinst, hoff, hlsb⟩
  · rintro ⟨rfl, hpk, hinst, hoff, hlsb⟩
    simp only [Fld.key, regKey, hpk, hinst, hoff, hlsb]

/-- A saturating counter stops at the largest value of its width, so cutting to the width loses nothing. -/
@[simp] theorem State.incSat_rg_same (s : State) (f : Fld) (i n x : Nat) :
    (s.incSat f i n x).rg f i x = min (s.rg f i x + n) (2 ^ f.width - 1) := by
  have hlt : min (s.rg f i x + n) (2 ^ f.width - 1) < 2 ^ f.width :=
    Nat.lt_of_le_of_lt (Nat.min_le_right _ _) (Nat.sub_one_lt_of_lt (Nat.two_pow_pos _))
  calc (s.incSat f i n x).rg f i x
      = min (s.rg f i x + n) (2 ^ f.width - 1) % 2 ^ f.width := s.rs_rg_same f i _ x
    _ = min (s.rg f i x + n) (2 ^ f.width - 1) := Nat.mod_eq_of_lt hlt

/-- A field write changes nothing of the state but the register file. -/
theorem State.rs_with_regs (s : State) (f : Fld) (i v x : Nat) : { s.rs f i v x with regs := s.regs } = s := rfl

/-- A count changes nothing of the state but the register file. -/
theorem State.inc_with_regs (s : State) (f : Fld) (i n x : Nat) : { s.inc f i n x with regs := s.regs } = s :=
  s.rs_with_regs f i _ x

/-- Settles O7: the fields the frame clause names are those whose key differs (`Fld.key_eq_iff`), and the table of the register file
reads the written key as written and every other key as before. -/
theorem registerFieldReadsBackWhatWasWritten : Obligations.RegisterFieldReadsBackWhatWasWritten := by
  unfold Obligations.RegisterFieldReadsBackWhatWasWritten
  intro s f g i j v n x y
  refine ⟨s.rs_rg_same f i v x, s.inc_rg_same f i n x, s.incSat_rg_same f i n x, fun hne => ?_,
    s.rs_with_regs f i v x, s.inc_with_regs f i n x⟩
  have hkey : g.key j y ≠ f.key i x := fun h => hne (Fld.key_eq_iff.mp h)
  exact ⟨s.rs_rg_other f g i j v x y hkey, s.inc_rg_other f g i j n x y hkey⟩

end Sys2Proof.Machine

/-!
SUPPORT. Logging a fault (R38): the count with its interrupt bit, then the entry of ERR_LOG, then the trace record. What each header
field of the page reads as after each of the three.
-/
namespace Sys2Proof.Machine

/-- The counter of the lasting or of the transient faults of a page. -/
def Hdr.faultCount (lasting : Bool) (k : PK) : Fld := if lasting then Hdr.ERR_LASTING k else Hdr.ERR_TRANSIENT k

/-- The bit of IRQ_RAW that a lasting or a transient fault sets. -/
def faultIrq (lasting : Bool) : Nat := if lasting then 1 else 0

/-- The page counts a fault and sets its interrupt bit. -/
def State.countFault (s : State) (p : Page) (lasting : Bool) : State :=
  (s.inc (Hdr.faultCount lasting p.pk) p.inst).irqSet p (faultIrq lasting)

/-- ERR_LOG of the page takes the entry of a fault. -/
def State.putErrLog (s : State) (p : Page) (lasting : Bool) (code w : Nat) : State :=
  (((s.rb (Hdr.LOG_VALID p.pk) p.inst true).rb (Hdr.LOG_LASTING p.pk) p.inst lasting).rs
    (Hdr.LOG_CODE p.pk) p.inst code).rs (Hdr.LOG_WHERE p.pk) p.inst w

/-! ## The count -/

/-- A header field outside IRQ_RAW and the fault counters does not see the count. -/
theorem State.countFault_rg_other (s : State) (p : Page) (lasting : Bool) (g : Fld) (j : Nat) (hlow : g.off % 4096 < 0x40)
    (hraw : g.off % 4096 ≠ 0x010) (htransient : g.off % 4096 ≠ 0x028) (hlasting : g.off % 4096 ≠ 0x02C) :
    (s.countFault p lasting).rg g j = s.rg g j := by
  have hkeyRaw : g.key j ≠ (Hdr.IRQ_RAW p.pk).key p.inst := Fld.key_ne (decide_eq_true (.inl hraw))
  have hkeyCount : g.key j ≠ (Hdr.faultCount lasting p.pk).key p.inst := by
    cases lasting
    · exact Fld.key_ne (decide_eq_true (.inl htransient))
    · exact Fld.key_ne (decide_eq_true (.inl hlasting))
  calc (s.countFault p lasting).rg g j
      = (s.inc (Hdr.faultCount lasting p.pk) p.inst).rg g j := State.irqSet_rg _ _ _ _ (.inr hlow) _ _ hkeyRaw
    _ = s.rg g j := State.inc_rg_other _ _ _ _ _ _ _ _ hkeyCount

/-- The fault's counter goes up by 1 and wraps at 32 bits. -/
theorem State.countFault_rg_faultCount (s : State) (p : Page) (lasting : Bool) :
    (s.countFault p lasting).rg (Hdr.faultCount lasting p.pk) p.inst =
      (s.rg (Hdr.faultCount lasting p.pk) p.inst + 1) % 2 ^ 32 := by
  unfold State.countFault
  cases lasting
  · rw [State.irqSet_rg _ _ _ _ (Fld.notTrace_of rfl) _ _ (Fld.key_ne rfl), State.inc_rg_same]; rfl
  · rw [State.irqSet_rg _ _ _ _ (Fld.notTrace_of rfl) _ _ (Fld.key_ne rfl), State.inc_rg_same]; rfl

/-- An interrupt bit of the 32 that IRQ_RAW has is 1 after it is set. -/
theorem State.irqSet_testBit (s : State) (p : Page) (b : Nat) (hb : b < 32) :
    ((s.irqSet p b).rg (Hdr.IRQ_RAW p.pk) p.inst).testBit b = true := by
  rw [State.irqSet_raw, Nat.testBit_mod_two_pow, setBit_same, decide_eq_true hb]; rfl

/-- The fault's interrupt bit is 1 after the count. -/
theorem State.countFault_testBit (s : State) (p : Page) (lasting : Bool) :
    ((s.countFault p lasting).rg (Hdr.IRQ_RAW p.pk) p.inst).testBit (faultIrq lasting) = true :=
  State.irqSet_testBit _ p _ (by cases lasting <;> decide)

/-! ## The entry -/

/-- ERR_LOG reads back the entry written to it. -/
theorem State.putErrLog_rg (s : State) (p : Page) (lasting : Bool) (code w : Nat) :
    (s.putErrLog p lasting code w).rg (Hdr.LOG_VALID p.pk) p.inst = 1 ∧
    (s.putErrLog p lasting code w).rg (Hdr.LOG_LASTING p.pk) p.inst = (if lasting then 1 else 0) ∧
    (s.putErrLog p lasting code w).rg (Hdr.LOG_CODE p.pk) p.inst = code % 2 ^ (Hdr.LOG_CODE p.pk).width ∧
    (s.putErrLog p lasting code w).rg (Hdr.LOG_WHERE p.pk) p.inst = w % 2 ^ (Hdr.LOG_WHERE p.pk).width := by
  unfold State.putErrLog
  refine ⟨?_, ?_, ?_, State.rs_rg_same _ _ _ _ _⟩
  · rw [State.rs_rg_other _ _ _ _ _ _ _ _ (Fld.key_ne rfl), State.rs_rg_other _ _ _ _ _ _ _ _ (Fld.key_ne rfl),
      State.rb_rg_other _ _ _ _ _ _ _ _ (Fld.key_ne rfl), State.rb_rg_same _ _ _ _ _ Nat.one_ne_zero, if_pos rfl]
  · rw [State.rs_rg_other _ _ _ _ _ _ _ _ (Fld.key_ne rfl), State.rs_rg_other _ _ _ _ _ _ _ _ (Fld.key_ne rfl),
      State.rb_rg_same _ _ _ _ _ Nat.one_ne_zero]
  · rw [State.rs_rg_other _ _ _ _ _ _ _ _ (Fld.key_ne rfl), State.rs_rg_same]

/-- A field outside ERR_LOG does not see the entry. -/
theorem State.putErrLog_rg_other (s : State) (p : Page) (lasting : Bool) (code w : Nat) (g : Fld) (j : Nat)
    (hoff : g.off % 4096 ≠ 0x024) : (s.putErrLog p lasting code w).rg g j = s.rg g j := by
  have hkey (f : Fld) (hf : f.off = 0x024) : g.key j ≠ f.key p.inst :=
    Fld.key_ne (decide_eq_true (.inl (by rw [hf]; exact hoff)))
  unfold State.putErrLog
  rw [State.rs_rg_other _ _ _ _ _ _ _ _ (hkey _ rfl), State.rs_rg_other _ _ _ _ _ _ _ _ (hkey _ rfl),
    State.rb_rg_other _ _ _ _ _ _ _ _ (hkey _ rfl), State.rb_rg_other _ _ _ _ _ _ _ _ (hkey _ rfl)]

/-! ## Logging a fault -/

/-- The count leaves ERR_LOG.LASTING, which decides about the entry, as it was. -/
theorem State.countFault_on_lasting (s : State) (p : Page) (lasting : Bool) :
    (s.countFault p lasting).on (Hdr.LOG_LASTING p.pk) p.inst = s.on (Hdr.LOG_LASTING p.pk) p.inst := by
  unfold State.on
  rw [s.countFault_rg_other p lasting (Hdr.LOG_LASTING p.pk) p.inst
    (by decide : 0x024 % 4096 < 0x40) (by decide : 0x024 % 4096 ≠ 0x010) (by decide : 0x024 % 4096 ≠ 0x028)
    (by decide : 0x024 % 4096 ≠ 0x02C)]

/-- Outside the trace unit, logging a fault is the count and then, for a lasting fault or while LASTING is 0, the entry. -/
theorem State.logFault_rg (s : State) (p : Page) (lasting : Bool) (code w : Nat) (g : Fld) (hg : g.notTrace) (j : Nat) :
    (s.logFault p lasting code w).rg g j =
      (if lasting || !s.on (Hdr.LOG_LASTING p.pk) p.inst then (s.countFault p lasting).putErrLog p lasting code w
       else s.countFault p lasting).rg g j := by
  rw [← s.countFault_on_lasting p lasting]
  cases lasting
  · exact State.trace_rg _ _ _ _ _ _ hg _ _
  · exact State.trace_rg _ _ _ _ _ _ hg _ _

/-- Outside the trace unit and ERR_LOG, logging a fault is the count. -/
theorem State.logFault_rg_count (s : State) (p : Page) (lasting : Bool) (code w : Nat) (g : Fld) (hg : g.notTrace) (j : Nat)
    (hoff : g.off % 4096 ≠ 0x024) : (s.logFault p lasting code w).rg g j = (s.countFault p lasting).rg g j := by
  rw [State.logFault_rg _ _ _ _ _ _ hg]
  split
  · exact State.putErrLog_rg_other _ _ _ _ _ _ _ hoff
  · rfl

/-- Logging a fault adds 1 to its counter, modulo 2^32. -/
theorem State.logFault_rg_faultCount (s : State) (p : Page) (lasting : Bool) (code w : Nat) :
    (s.logFault p lasting code w).rg (Hdr.faultCount lasting p.pk) p.inst =
      (s.rg (Hdr.faultCount lasting p.pk) p.inst + 1) % 2 ^ 32 := by
  have hoff : (Hdr.faultCount lasting p.pk).off % 4096 < 0x40 ∧ (Hdr.faultCount lasting p.pk).off % 4096 ≠ 0x024 := by
    cases lasting
    · exact (by decide : 0x028 % 4096 < 0x40 ∧ 0x028 % 4096 ≠ 0x024)
    · exact (by decide : 0x02C % 4096 < 0x40 ∧ 0x02C % 4096 ≠ 0x024)
  rw [State.logFault_rg_count _ _ _ _ _ _ (.inr hoff.1) _ hoff.2, State.countFault_rg_faultCount]

/-- Logging a fault sets its interrupt bit. -/
theorem State.logFault_testBit (s : State) (p : Page) (lasting : Bool) (code w : Nat) :
    ((s.logFault p lasting code w).rg (Hdr.IRQ_RAW p.pk) p.inst).testBit (faultIrq lasting) = true := by
  rw [State.logFault_rg_count _ _ _ _ _ _ (Fld.notTrace_of rfl) _ (by decide : 0x010 % 4096 ≠ 0x024)]
  exact s.countFault_testBit p lasting

/-- A lasting fault, and a transient one while LASTING is 0, leaves its entry in ERR_LOG (R38). -/
theorem State.logFault_overwrites (s : State) (p : Page) (lasting : Bool) (code w : Nat)
    (h : lasting = true ∨ s.on (Hdr.LOG_LASTING p.pk) p.inst = false) :
    (s.logFault p lasting code w).on (Hdr.LOG_VALID p.pk) p.inst = true ∧
    (s.logFault p lasting code w).on (Hdr.LOG_LASTING p.pk) p.inst = lasting ∧
    (s.logFault p lasting code w).rg (Hdr.LOG_CODE p.pk) p.inst = code % 2 ^ (Hdr.LOG_CODE p.pk).width ∧
    (s.logFault p lasting code w).rg (Hdr.LOG_WHERE p.pk) p.inst = w % 2 ^ (Hdr.LOG_WHERE p.pk).width := by
  have hentry : (lasting || !s.on (Hdr.LOG_LASTING p.pk) p.inst) = true := by
    rcases h with h | h <;> simp [h]
  have hread (g : Fld) (hg : g.notTrace) : (s.logFault p lasting code w).rg g p.inst =
      ((s.countFault p lasting).putErrLog p lasting code w).rg g p.inst := by
    rw [State.logFault_rg _ _ _ _ _ _ hg, if_pos hentry]
  obtain ⟨hvalid, hlasting, hcode, hwhere⟩ := (s.countFault p lasting).putErrLog_rg p lasting code w
  refine ⟨?_, ?_, (hread _ (Fld.notTrace_of rfl)).trans hcode, (hread _ (Fld.notTrace_of rfl)).trans hwhere⟩
  · rw [State.on, hread _ (Fld.notTrace_of rfl), hvalid]; rfl
  · rw [State.on, hread _ (Fld.notTrace_of rfl), hlasting]; cases lasting <;> rfl

/-- A transient fault leaves ERR_LOG as it was while LASTING is 1 (R38). -/
theorem State.logFault_transient_keeps (s : State) (p : Page) (code w : Nat) (g : Fld) (hg : g.off = 0x024)
    (h : s.on (Hdr.LOG_LASTING p.pk) p.inst = true) : (s.logFault p false code w).rg g p.inst = s.rg g p.inst := by
  have hlow : g.off % 4096 < 0x40 := by omega
  rw [State.logFault_rg _ _ _ _ _ _ (.inr hlow), if_neg (by simp [h])]
  exact s.countFault_rg_other p false g p.inst hlow (by omega) (by omega) (by omega)

/-- Settles O10: a lasting fault and a transient one differ in the counter, the bit of IRQ_RAW and, while LASTING is 1, in whether
ERR_LOG takes the entry. -/
theorem lastingFaultOverwritesTheErrorLog : Obligations.LastingFaultOverwritesTheErrorLog := by
  unfold Obligations.LastingFaultOverwritesTheErrorLog
  intro s p code w
  refine ⟨?lasting, ?transient⟩
  case lasting =>
    rintro _ rfl
    obtain ⟨hvalid, hlasting, hcode, hwhere⟩ := s.logFault_overwrites p true code w (.inl rfl)
    exact ⟨hvalid, hlasting, hcode, hwhere, s.logFault_rg_faultCount p true code w, s.logFault_testBit p true code w⟩
  case transient =>
    rintro _ rfl
    refine ⟨s.logFault_rg_faultCount p false code w, s.logFault_testBit p false code w, fun hset => ?_,
      fun hclear => s.logFault_overwrites p false code w (.inr hclear)⟩
    have hkeep (g : Fld) (hg : g.off = 0x024) := s.logFault_transient_keeps p code w g hg hset
    exact ⟨hkeep _ rfl, hkeep _ rfl, hkeep _ rfl, hkeep _ rfl⟩

end Sys2Proof.Machine

/-!
SUPPORT. Rebuilding a full time from 35 bits (R45): how far before the present the newest time with the field's low bits lies, and that
every other time with those bits lies a whole number of 2^35 ns away from it.
-/
namespace Sys2Proof.Machine

/-- How far before `now` the newest time, not after `now`, with the low 35 bits of `f` lies. -/
def backTo (now f : Nat) : Nat := (now % 2 ^ 35 + 2 ^ 35 - f % 2 ^ 35) % 2 ^ 35

theorem backTo_lt (now f : Nat) : backTo now f < 2 ^ 35 := Nat.mod_lt _ (Nat.two_pow_pos 35)

/-- A time has the field's low bits exactly when it lies `backTo` before the present, give or take whole multiples of 2^35. -/
theorem add_backTo_mod_eq_iff (now f x : Nat) : (x + backTo now f) % 2 ^ 35 = now % 2 ^ 35 ↔ x % 2 ^ 35 = f % 2 ^ 35 := by
  unfold backTo
  omega

/-- The past candidate is taken when it exists and lies at most 2^34 ns back, otherwise the future one. -/
theorem rebuild_cases (now f : Nat) :
    (backTo now f ≤ 2 ^ 34 ∧ backTo now f ≤ now ∧ rebuild now f = now - backTo now f) ∨
    (¬ (backTo now f ≤ 2 ^ 34 ∧ backTo now f ≤ now) ∧ rebuild now f = now + (2 ^ 35 - backTo now f)) := by
  by_cases h : backTo now f ≤ 2 ^ 34 ∧ backTo now f ≤ now
  · exact .inl ⟨h.1, h.2, if_pos h⟩
  · exact .inr ⟨h, if_neg h⟩

/-- No time with the field's low bits lies strictly between the past and the future candidate. -/
theorem le_past_or_future_le {now f x : Nat} (h : x % 2 ^ 35 = f % 2 ^ 35) :
    x + backTo now f ≤ now ∨ now + (2 ^ 35 - backTo now f) ≤ x := by
  have hlt := backTo_lt now f
  have hmod := (add_backTo_mod_eq_iff now f x).mpr h
  omega

/-- A rebuilt time has the field's low 35 bits. -/
theorem rebuild_mod (now f : Nat) : rebuild now f % 2 ^ 35 = f % 2 ^ 35 := by
  have hlt := backTo_lt now f
  rw [← add_backTo_mod_eq_iff now f]
  rcases rebuild_cases now f with ⟨_, hle, hr⟩ | ⟨_, hr⟩
  · rw [hr, Nat.sub_add_cancel hle]
  · rw [hr, Nat.add_assoc, Nat.sub_add_cancel (Nat.le_of_lt hlt), Nat.add_mod_right]

/-- No time with the field's low bits lies nearer to the present than the rebuilt one. -/
theorem rebuild_nearest {now f x : Nat} (h : x % 2 ^ 35 = f % 2 ^ 35) :
    ((rebuild now f : Int) - now).natAbs ≤ ((x : Int) - now).natAbs := by
  have hlt := backTo_lt now f
  rcases rebuild_cases now f with ⟨hback, hle, hr⟩ | ⟨hfar, hr⟩
  · rcases le_past_or_future_le (now := now) h with hpast | hfuture <;> omega
  · rcases le_past_or_future_le (now := now) h with hpast | hfuture <;> omega

/-- Of two times at the same distance the earlier one is rebuilt. -/
theorem rebuild_le_of_tie {now f x : Nat} (h : x % 2 ^ 35 = f % 2 ^ 35)
    (htie : ((rebuild now f : Int) - now).natAbs = ((x : Int) - now).natAbs) : rebuild now f ≤ x := by
  have hlt := backTo_lt now f
  rcases rebuild_cases now f with ⟨hback, hle, hr⟩ | ⟨hfar, hr⟩
  · rcases le_past_or_future_le (now := now) h with hpast | hfuture <;> omega
  · rcases le_past_or_future_le (now := now) h with hpast | hfuture <;> omega

/-- Settles O9: a time with the field's low bits lies at or before the past candidate or at or after the future one
(`le_past_or_future_le`), and `rebuild` takes the nearer of the two. -/
theorem rebuiltTimeIsNearest : Obligations.RebuiltTimeIsNearest := by
  unfold Obligations.RebuiltTimeIsNearest
  intro now f x h
  exact ⟨rebuild_mod now f, rebuild_nearest h, rebuild_le_of_tie h⟩

end Sys2Proof.Machine

/-!
SUPPORT. Stream contexts: what reads as before when one changes, and the part of a context that the stamper's order is about, which a
trigger leaves alone (R61, R63, R66).
-/
namespace Sys2Proof.Machine
open Regs

/-- A changed stream context reads as changed. -/
@[simp] theorem State.upSt_st_same (s : State) (i : Nat) (f : Strm → Strm) : (s.upSt i f).st i = f (s.st i) :=
  Tab.get_put_same _ _ _ _

@[simp] theorem State.upSt_dt (s : State) (i : Nat) (f : Strm → Strm) : (s.upSt i f).dt = s.dt := rfl
@[simp] theorem State.upSt_regs (s : State) (i : Nat) (f : Strm → Strm) : (s.upSt i f).regs = s.regs := rfl
@[simp] theorem State.upSt_rg (s : State) (i : Nat) (f : Strm → Strm) (g : Fld) (j x : Nat) : (s.upSt i f).rg g j x = s.rg g j x := rfl
@[simp] theorem State.rs_st (s : State) (f : Fld) (i v x j : Nat) : (s.rs f i v x).st j = s.st j := rfl
@[simp] theorem State.rb_st (s : State) (f : Fld) (i : Nat) (b : Bool) (x j : Nat) : (s.rb f i b x).st j = s.st j := rfl
@[simp] theorem State.inc_st (s : State) (f : Fld) (i n x j : Nat) : (s.inc f i n x).st j = s.st j := rfl
@[simp] theorem State.advance_st (s : State) (t j : Nat) : (s.advance t).st j = s.st j := by
  unfold State.st; rw [State.advance_strm]
@[simp] theorem State.irqSet_st (s : State) (p : Page) (b j : Nat) : (s.irqSet p b).st j = s.st j := by
  have hstrm := congrArg State.strm (s.irqSet_frame p b)
  exact congrArg (fun m => Tab.get Strm.init m j) hstrm

/-! ## The alignment test -/

@[simp] theorem State.setUnaligned_st (s : State) (i : Nat) (b : Bool) (j : Nat) : (s.setUnaligned i b).st j = s.st j := by
  unfold State.setUnaligned
  dsimp only
  split
  · rw [State.irqSet_st, State.rb_st]
  · rw [State.rb_st]

@[simp] theorem State.alignUpdate_st (s : State) (i j : Nat) : (s.alignUpdate i).st j = s.st j := by
  unfold State.alignUpdate
  dsimp only
  split
  · rw [State.setUnaligned_st]
  split
  · rw [State.setUnaligned_st]
  · rfl

@[simp] theorem State.residual_st (s : State) (i : Nat) (r : Int) (j : Nat) : (s.residual i r).st j = s.st j := by
  unfold State.residual
  dsimp only
  refine iteInduction (motive := fun u : State => u.st j = s.st j) (fun _ => ?bad)
    (fun _ => iteInduction (motive := fun u : State => u.st j = s.st j) (fun _ => ?good) (fun _ => ?unjudged))
  case bad => rw [State.setUnaligned_st, State.rs_st, State.rs_st]
  case good => rw [State.setUnaligned_st, State.rs_st, State.rs_st]
  case unjudged => rw [State.rs_st, State.rs_st]

/-! ## The events of a stream -/

/-- The part of a stream context that holds its events: those that wait for a lane, those that wait for the distributor, and the DT of
the previous one. -/
def Strm.events (c : Strm) : List DecEv × List Ev × Option Nat := (c.wait, c.queue, c.prev)

theorem Strm.events_eq_iff {c : Strm} {w : List DecEv} {q : List Ev} {p : Option Nat} :
    c.events = (w, q, p) ↔ c.wait = w ∧ c.queue = q ∧ c.prev = p := by
  simp only [Strm.events, Prod.mk.injEq]

/-- A pair or point that enters the fit leaves the events alone (R63). -/
theorem State.newEntry_events (s : State) (i st dt : Nat) : ((s.newEntry i st dt).1.st i).events = (s.st i).events := by
  unfold State.newEntry
  dsimp only
  split
  · simp only [Strm.events, State.upSt_st_same, State.inc_st, State.residual_st]
  split
  · simp only [State.inc_st, State.residual_st]
  · simp only [Strm.events, State.alignUpdate_st, State.upSt_st_same, State.inc_st, State.residual_st]

/-- Pairing a trigger with an edge leaves the events alone (R61). -/
theorem State.pairTrigger_events (s : State) (i st dt : Nat) : ((s.pairTrigger i st dt).1.st i).events = (s.st i).events := by
  unfold State.pairTrigger
  split
  case h_1 => rw [State.inc_st]
  case h_2 edge period _ =>
    refine iteInduction (motive := fun r : State × Option Model => (r.1.st i).events = (s.st i).events)
      (fun _ => ?far) (fun _ => ?near)
    case far => rw [State.inc_st]
    case near =>
      dsimp only
      rw [State.alignUpdate_st, State.newEntry_events, State.rb_st, State.upSt_st_same]
      rfl

/-- A trigger that reaches the stamper leaves the events alone (R61, R87). -/
theorem State.stampTrigger_events (s : State) (i : Nat) (e : DecEv) : ((s.stampTrigger i e).st i).events = (s.st i).events := by
  have hpair := s.pairTrigger_events i e.st (s.mapEvent i e)
  unfold State.stampTrigger
  split
  · dsimp only
    split
    · rw [State.upSt_st_same]
      exact hpair
    · exact hpair
  · rw [State.inc_st]

end Sys2Proof.Machine

/-!
SUPPORT. The CAM, the rate count, the flicker gate and the tile-map swap (R93–R95, R98): what each leaves of the stream's events and of
the registers that are not its own.
-/
namespace Sys2Proof.Machine
open Regs

/-! ## The CAM -/

/-- Whether some entry of a table passes a test that no entry at key `a` passes does not depend on what is written at `a`. -/
theorem Tab.any_put_of_not {α : Type} [DecidableEq α] (d : α) (m : Tab α) (a : Nat) (v : α) (p : Nat × α → Bool)
    (hp : ∀ w, p (a, w) = false) : (Tab.put d m a v).any p = m.any p := by
  unfold Tab.put
  split
  case isTrue =>
    rw [List.any_filter]
    congr 1
    funext ⟨k, w⟩
    by_cases hk : k = a
    · subst hk; rw [hp, Bool.and_false]
    · rw [decide_eq_true hk, Bool.true_and]
  case isFalse =>
    induction m with
    | nil => simp only [Tab.ins, List.any_cons, hp, Bool.false_or]
    | cons e r ih =>
      obtain ⟨k, w⟩ := e
      simp only [Tab.ins]
      split
      · simp only [List.any_cons, hp, Bool.false_or]
      split
      case isTrue hk => subst hk; simp only [List.any_cons, hp, Bool.false_or]
      case isFalse => simp only [List.any_cons, ih]

/-- What the CAM drops does not depend on the count of clamped events. -/
theorem State.hotDrop_inc_clamped (s : State) (i x y p : Nat) : (s.inc STREAM.CLAMPED i).hotDrop i x y p = s.hotDrop i x y p := by
  unfold State.hotDrop State.on
  have hx (h : Nat) := s.inc_rg_other STREAM.CLAMPED STREAM.HOT_X i i 1 0 h (Fld.key_ne rfl)
  have hy (h : Nat) := s.inc_rg_other STREAM.CLAMPED STREAM.HOT_Y i i 1 0 h (Fld.key_ne rfl)
  have hdrop (h : Nat) : (s.inc STREAM.CLAMPED i).rg (if p = 1 then STREAM.DROP_ON else STREAM.DROP_OFF) i h =
      s.rg (if p = 1 then STREAM.DROP_ON else STREAM.DROP_OFF) i h := by
    split
    · exact s.inc_rg_other _ _ _ _ _ _ _ (Fld.key_ne rfl)
    · exact s.inc_rg_other _ _ _ _ _ _ _ (Fld.key_ne rfl)
  simp only [hx, hy, hdrop]
  refine Tab.any_put_of_not _ _ _ _ _ fun w => ?_
  have hvalid (h : Nat) : (STREAM.CLAMPED.key i 0 == STREAM.HOT_VALID.key i h) = false :=
    beq_false_of_ne (Fld.key_ne rfl)
  simp only [hvalid, Bool.false_and]

/-! ## The rate count and the flicker gate -/

@[simp] theorem State.rateCount_st (s : State) (i ch tick j : Nat) : (s.rateCount i ch tick).st j = s.st j := by
  unfold State.rateCount
  dsimp only
  split <;> rfl

/-- The rate count writes RATE_LATE alone. -/
theorem State.rateCount_rg (s : State) (i ch tick : Nat) (g : Fld) (j x : Nat) (hg : g.key j x ≠ STREAM.RATE_LATE.key i) :
    (s.rateCount i ch tick).rg g j x = s.rg g j x := by
  unfold State.rateCount
  dsimp only
  split
  · exact State.inc_rg_other _ _ _ _ _ _ _ _ hg
  · rfl

/-- A count leaves the fields of every other page kind alone. -/
theorem State.inc_rg_of_pk_ne (s : State) (f g : Fld) (i n x j y : Nat) (h : g.pk ≠ f.pk) :
    (s.inc f i n x).rg g j y = s.rg g j y :=
  s.inc_rg_other _ _ _ _ _ _ _ (Fld.key_ne (decide_eq_true (.inr (.inr h))))

/-- Reading an output leaves the stream contexts and the pages of other units alone (R259). -/
theorem State.outputAt_frame (s : State) (ch v : Nat) :
    (∀ j, (s.outputAt ch v).2.st j = s.st j) ∧ ∀ (g : Fld) (j x : Nat), g.pk ≠ .rfb → (s.outputAt ch v).2.rg g j x = s.rg g j x := by
  have hold (u : State) (g : Fld) (j x : Nat) (hg : g.pk ≠ .rfb) := u.inc_rg_of_pk_ne RFB.HIST_OLD g 0 1 0 j x hg
  have hearly (g : Fld) (j x : Nat) (hg : g.pk ≠ .rfb) := s.inc_rg_of_pk_ne RFB.HIST_EARLY g 0 1 0 j x hg
  unfold State.outputAt
  split
  · exact ⟨fun _ => rfl, fun _ _ _ _ => rfl⟩
  · dsimp only
    split <;> split
    · exact ⟨fun _ => rfl, hearly⟩
    · exact ⟨fun _ => rfl, fun _ _ _ _ => rfl⟩
    · exact ⟨fun _ => rfl, fun g j x hg => (hold _ g j x hg).trans (hearly g j x hg)⟩
    · exact ⟨fun _ => rfl, hold s⟩

/-- So does reading the FLICKER flag of a region (R95, R260). -/
theorem State.flickerFor_frame (s : State) (ch tick : Nat) :
    (∀ j, (s.flickerFor ch tick).2.st j = s.st j) ∧
    ∀ (g : Fld) (j x : Nat), g.pk ≠ .rfb → (s.flickerFor ch tick).2.rg g j x = s.rg g j x := by
  unfold State.flickerFor
  split
  · exact ⟨fun _ => rfl, fun _ _ _ _ => rfl⟩
  · exact s.outputAt_frame ch (tick - 64)

/-- The flicker gate leaves the events alone; of the registers it writes those of the rate filter bank (R95). -/
theorem State.flickerGate_frame (s : State) (i region tick : Nat) :
    ((s.flickerGate i region tick).2.st i).events = (s.st i).events ∧
    ∀ (g : Fld) (j x : Nat), g.pk ≠ .rfb → (s.flickerGate i region tick).2.rg g j x = s.rg g j x := by
  obtain ⟨hst, hrg⟩ := s.flickerFor_frame (32 * i + region) tick
  unfold State.flickerGate
  split
  · exact ⟨by rw [State.upSt_st_same]; rfl, fun _ _ _ _ => rfl⟩
  · dsimp only
    exact ⟨by rw [State.upSt_st_same, hst]; rfl, hrg⟩

/-- A flicker gate that is not enabled lets every event pass (R95). -/
theorem State.flickerGate_pass (s : State) (i region tick : Nat) (h : s.on STREAM.FLK_EN i = false) :
    (s.flickerGate i region tick).1 = true := by
  unfold State.flickerGate
  rw [h]
  rfl

/-! ## The tile-map swap -/

@[simp] theorem State.swapApply_st (s : State) (i tick j : Nat) : (s.swapApply i tick).st j = s.st j := by
  unfold State.swapApply
  split <;> rfl

/-- The swap leaves the count of clamped events alone. -/
theorem State.swapApply_rg_clamped (s : State) (i tick : Nat) : (s.swapApply i tick).rg STREAM.CLAMPED i = s.rg STREAM.CLAMPED i := by
  unfold State.swapApply
  split
  · rw [State.rb_rg_other _ _ _ _ _ _ _ _ (Fld.key_ne rfl), State.rs_rg_other _ _ _ _ _ _ _ _ (Fld.key_ne rfl)]
  · rfl

end Sys2Proof.Machine

/-!
SUPPORT. STAMP_EVENT in its steps (R92): the stamper takes the first waiting event, clamps it inside the range test, and the gates judge
it.
-/
namespace Sys2Proof.Machine
open Regs

/-! ## The steps -/

/-- A lane is granted to stream `i` and its first waiting event is taken, which leaves `rest`. -/
def State.takeWaiting (s : State) (i : Nat) (rest : List DecEv) : State :=
  (s.grantLane i).upSt i fun c => { c with wait := rest }

/-- A fit that an event completed applies from the next event on (R63). -/
def State.applyPost (s : State) (i : Nat) (post : Option Model) : State :=
  match post with
  | some m => s.upSt i fun c => { c with stm := m }
  | none => s

/-- The clamp (R59): the previous event's DT becomes the larger of itself and `dt0`, and CLAMPED counts a `dt0` below it. -/
def State.clamp (s : State) (i dt0 : Nat) : State :=
  (if dt0 < (s.st i).prev.getD dt0 then s.inc STREAM.CLAMPED i else s).upSt i
    fun c => { c with prev := some (max dt0 ((s.st i).prev.getD dt0)) }

/-- The rate count and the flicker gate's judgement of an event of stamp tick `tick` (R94, R95). -/
def State.judgeEvent (s : State) (i : Nat) (e : DecEv) (tick : Nat) : Bool × State :=
  (s.rateCount i (32 * i + s.regionOf i e.x e.y) tick).flickerGate i (s.regionOf i e.x e.y) tick

/-- An event that has passed the gates enters the stream's queue (R98, R100). -/
def State.enqueue (s : State) (i : Nat) (e : DecEv) (dt tick : Nat) : State :=
  ((s.swapApply i tick).inc INGEST.EVENTS_DISTRIBUTED 0).upSt i fun c =>
    { c with queue := c.queue ++
        [⟨i, e.x, e.y, e.p, dt, ((s.swapApply i tick).inc INGEST.EVENTS_DISTRIBUTED 0).rg STREAM.ACTIVE_BANK i⟩] }

/-- What becomes of an event that has its DT: the CAM, the flicker gate or the queue (R93–R95, R98, R100). -/
def State.gate (s : State) (i : Nat) (e : DecEv) (dt : Nat) : State :=
  if s.hotDrop i e.x e.y e.p then (s.inc STREAM.HOT_DROPPED i).inc INGEST.GATED_TOTAL 0
  else if !(s.judgeEvent i e (s.tickOf dt)).1 then
    ((s.judgeEvent i e (s.tickOf dt)).2.inc STREAM.FLK_DROPPED i).inc INGEST.GATED_TOTAL 0
  else (s.judgeEvent i e (s.tickOf dt)).2.enqueue i e dt (s.tickOf dt)

/-! ## STAMP_EVENT is made of them -/

theorem State.grantLane_st (s : State) (i : Nat) :
    (s.grantLane i).st i = { s.st i with lim := s.dt :: s.recent (s.st i).lim } :=
  Tab.get_put_same _ _ _ _

/-- STAMP_EVENT without a lane to grant does nothing. -/
theorem exec_stampEvent_of_not (s : State) (t : Nat) (i : Fin 36) (h : (s.advance t).canStamp i = false) :
    exec (.stampEvent t i) s = .next (s.advance t) := by
  show Host.Outcome.next (if (s.advance t).canStamp i then _ else _) = _
  rw [h]
  rfl

/-- STAMP_EVENT with a lane to grant stamps the first waiting event. -/
theorem exec_stampEvent (s : State) (t : Nat) (i : Fin 36) (e : DecEv) (rest : List DecEv)
    (h : (s.advance t).canStamp i = true) (hw : (s.st i).wait = e :: rest) :
    exec (.stampEvent t i) s =
      .next ((if e.trig then ((s.advance t).takeWaiting i rest).stampTrigger i e
        else ((s.advance t).takeWaiting i rest).stampData i e).applyPost i e.post) := by
  have hwait : (((s.advance t).grantLane i).st i).wait = e :: rest :=
    calc (((s.advance t).grantLane i).st i).wait
        = ((s.advance t).st i).wait := by rw [State.grantLane_st]
      _ = e :: rest := by rw [State.advance_st, hw]
  show Host.Outcome.next (if (s.advance t).canStamp i then ((s.advance t).grantLane i).stampEvent i else _) = _
  rw [if_pos h, State.stampEvent, hwait]
  rfl

/-- Inside the range test an event is clamped and goes to the gates; outside it only counts (R47, R59). -/
theorem State.stampData_eq (s : State) (i : Nat) (e : DecEv) :
    s.stampData i e =
      if outOfRange s.dt (s.mapEvent i e) then s.inc STREAM.STAMP_RANGE i
      else (s.clamp i (s.mapEvent i e)).gate i e (max (s.mapEvent i e) ((s.st i).prev.getD (s.mapEvent i e))) := by
  rfl

/-! ## What each step leaves -/

/-- The taken event leaves the others waiting; queue, previous DT and the stamper's model stand. -/
theorem State.takeWaiting_st (s : State) (i : Nat) (rest : List DecEv) :
    ((s.takeWaiting i rest).st i).events = (rest, (s.st i).queue, (s.st i).prev) ∧
    ((s.takeWaiting i rest).st i).stm = (s.st i).stm := by
  unfold State.takeWaiting
  rw [State.upSt_st_same, State.grantLane_st]
  exact ⟨rfl, rfl⟩

/-- A register field is read from the register file. -/
theorem State.rg_congr {s u : State} (h : u.regs = s.regs) (g : Fld) (j x : Nat) : u.rg g j x = s.rg g j x := by
  unfold State.rg
  rw [h]

/-- What the CAM drops is read from registers. -/
theorem State.hotDrop_congr {s u : State} (h : u.regs = s.regs) (i x y p : Nat) : u.hotDrop i x y p = s.hotDrop i x y p := by
  unfold State.hotDrop State.on State.rg
  rw [h]

/-- Whether a stream is an AER stream is read from registers. -/
theorem State.aerStream_congr {s u : State} (h : u.regs = s.regs) (i : Nat) : u.aerStream i = s.aerStream i := by
  unfold State.aerStream State.source State.mapsTo State.on State.rg
  rw [h]

@[simp] theorem State.grantLane_dt (s : State) (i : Nat) : (s.grantLane i).dt = s.dt := rfl
@[simp] theorem State.grantLane_regs (s : State) (i : Nat) : (s.grantLane i).regs = s.regs := rfl
@[simp] theorem State.takeWaiting_dt (s : State) (i : Nat) (rest : List DecEv) : (s.takeWaiting i rest).dt = s.dt := by
  rw [State.takeWaiting, State.upSt_dt, State.grantLane_dt]
@[simp] theorem State.takeWaiting_regs (s : State) (i : Nat) (rest : List DecEv) : (s.takeWaiting i rest).regs = s.regs := by
  rw [State.takeWaiting, State.upSt_regs, State.grantLane_regs]
@[simp] theorem State.takeWaiting_rg (s : State) (i : Nat) (rest : List DecEv) (g : Fld) (j x : Nat) :
    (s.takeWaiting i rest).rg g j x = s.rg g j x := State.rg_congr (s.takeWaiting_regs i rest) g j x
@[simp] theorem State.takeWaiting_on (s : State) (i : Nat) (rest : List DecEv) (g : Fld) (j x : Nat) :
    (s.takeWaiting i rest).on g j x = s.on g j x := congrArg (· != 0) (s.takeWaiting_rg i rest g j x)
@[simp] theorem State.takeWaiting_hotDrop (s : State) (i : Nat) (rest : List DecEv) (j x y p : Nat) :
    (s.takeWaiting i rest).hotDrop j x y p = s.hotDrop j x y p := State.hotDrop_congr (s.takeWaiting_regs i rest) j x y p

/-- A granted lane does not change what DT an event maps to. -/
@[simp] theorem State.takeWaiting_mapEvent (s : State) (i : Nat) (rest : List DecEv) (e : DecEv) :
    (s.takeWaiting i rest).mapEvent i e = s.mapEvent i e := by
  unfold State.mapEvent
  rw [(s.takeWaiting_st i rest).2, State.aerStream_congr (s.takeWaiting_regs i rest), State.takeWaiting_rg]

/-- A fit that comes into force leaves registers and events alone. -/
theorem State.applyPost_frame (s : State) (i : Nat) (post : Option Model) :
    ((s.applyPost i post).st i).events = (s.st i).events ∧ ∀ (g : Fld) (j x : Nat), (s.applyPost i post).rg g j x = s.rg g j x := by
  cases post with
  | none => exact ⟨rfl, fun _ _ _ => rfl⟩
  | some m => exact ⟨by rw [State.applyPost, State.upSt_st_same]; rfl, fun _ _ _ => rfl⟩

/-- The clamp moves the previous event's DT and no event. -/
theorem State.clamp_events (s : State) (i dt0 : Nat) :
    ((s.clamp i dt0).st i).events = ((s.st i).wait, (s.st i).queue, some (max dt0 ((s.st i).prev.getD dt0))) := by
  unfold State.clamp
  rw [State.upSt_st_same]
  split <;> rfl

/-- The clamp counts in CLAMPED an event below the previous one (R59). -/
theorem State.clamp_rg_clamped (s : State) (i dt0 : Nat) (h : s.rg STREAM.CLAMPED i < 2 ^ 32) :
    (s.clamp i dt0).rg STREAM.CLAMPED i =
      (s.rg STREAM.CLAMPED i + if dt0 < (s.st i).prev.getD dt0 then 1 else 0) % 2 ^ 32 := by
  unfold State.clamp
  rw [State.upSt_rg]
  split
  · exact s.inc_rg_same STREAM.CLAMPED i 1 0
  · exact (Nat.mod_eq_of_lt h).symm

/-- The clamp writes CLAMPED alone. -/
theorem State.clamp_rg_other (s : State) (i dt0 : Nat) (g : Fld) (j x : Nat) (hg : g.key j x ≠ STREAM.CLAMPED.key i) :
    (s.clamp i dt0).rg g j x = s.rg g j x := by
  unfold State.clamp
  rw [State.upSt_rg]
  split
  · exact s.inc_rg_other _ _ _ _ _ _ _ hg
  · rfl

/-- What the CAM drops does not depend on the clamp. -/
theorem State.clamp_hotDrop (s : State) (i dt0 x y p : Nat) : (s.clamp i dt0).hotDrop i x y p = s.hotDrop i x y p := by
  unfold State.clamp
  split
  · exact s.hotDrop_inc_clamped i x y p
  · rfl

/-- The rate count and the flicker gate leave the events and CLAMPED alone. -/
theorem State.judgeEvent_frame (s : State) (i : Nat) (e : DecEv) (tick : Nat) :
    ((s.judgeEvent i e tick).2.st i).events = (s.st i).events ∧
    (s.judgeEvent i e tick).2.rg STREAM.CLAMPED i = s.rg STREAM.CLAMPED i := by
  obtain ⟨hevents, hrg⟩ := State.flickerGate_frame (s.rateCount i (32 * i + s.regionOf i e.x e.y) tick) i (s.regionOf i e.x e.y) tick
  constructor
  · exact hevents.trans (by rw [State.rateCount_st])
  · exact (hrg STREAM.CLAMPED i 0 (by decide)).trans (s.rateCount_rg _ _ _ _ _ _ (Fld.key_ne rfl))

/-- An event that does not pass was judged by an enabled flicker gate. -/
theorem State.judgeEvent_drops (s : State) (i : Nat) (e : DecEv) (tick : Nat) (h : (s.judgeEvent i e tick).1 = false) :
    s.on STREAM.FLK_EN i = true := by
  have hkeep : (s.rateCount i (32 * i + s.regionOf i e.x e.y) tick).on STREAM.FLK_EN i = s.on STREAM.FLK_EN i :=
    congrArg (· != 0) (s.rateCount_rg _ _ _ STREAM.FLK_EN i 0 (Fld.key_ne rfl))
  cases hon : s.on STREAM.FLK_EN i with
  | true => rfl
  | false => exact absurd (h.symm.trans (State.flickerGate_pass _ _ _ _ (hkeep.trans hon))) Bool.false_ne_true

/-- An event the CAM drops only counts (R93). -/
theorem State.gate_of_hot (s : State) (i : Nat) (e : DecEv) (dt : Nat) (h : s.hotDrop i e.x e.y e.p = true) :
    s.gate i e dt = (s.inc STREAM.HOT_DROPPED i).inc INGEST.GATED_TOTAL 0 := if_pos h

/-- What can become of an event that the CAM lets pass: the flicker gate drops it, or it is enqueued. -/
theorem State.gate_cases (s : State) (i : Nat) (e : DecEv) (dt : Nat) (h : s.hotDrop i e.x e.y e.p = false) :
    ((s.judgeEvent i e (s.tickOf dt)).1 = false ∧
      s.gate i e dt = ((s.judgeEvent i e (s.tickOf dt)).2.inc STREAM.FLK_DROPPED i).inc INGEST.GATED_TOTAL 0) ∨
    s.gate i e dt = (s.judgeEvent i e (s.tickOf dt)).2.enqueue i e dt (s.tickOf dt) := by
  unfold State.gate
  rw [h]
  cases hpass : (s.judgeEvent i e (s.tickOf dt)).1 with
  | false => exact .inl ⟨rfl, rfl⟩
  | true => exact .inr rfl

/-- An enqueued event is the last of the queue, with the bank then active. -/
theorem State.enqueue_events (s : State) (i : Nat) (e : DecEv) (dt tick : Nat) :
    ((s.enqueue i e dt tick).st i).events = ((s.st i).wait,
      (s.st i).queue ++ [⟨i, e.x, e.y, e.p, dt, (s.enqueue i e dt tick).rg STREAM.ACTIVE_BANK i⟩], (s.st i).prev) := by
  unfold State.enqueue
  rw [State.upSt_st_same, State.inc_st, State.swapApply_st]
  rfl

theorem State.enqueue_rg_clamped (s : State) (i : Nat) (e : DecEv) (dt tick : Nat) :
    (s.enqueue i e dt tick).rg STREAM.CLAMPED i = s.rg STREAM.CLAMPED i := by
  unfold State.enqueue
  rw [State.upSt_rg, State.inc_rg_other _ _ _ _ _ _ _ _ (Fld.key_ne rfl), State.swapApply_rg_clamped]

/-- The gates leave the waiting events, the previous DT and CLAMPED alone, and drop the event or enqueue it. -/
theorem State.gate_spec (s : State) (i : Nat) (e : DecEv) (dt : Nat) :
    (s.gate i e dt).rg STREAM.CLAMPED i = s.rg STREAM.CLAMPED i ∧
    ∃ q, ((s.gate i e dt).st i).events = ((s.st i).wait, q, (s.st i).prev) ∧
      (s.hotDrop i e.x e.y e.p = true → q = (s.st i).queue ∧
        (s.gate i e dt).rg STREAM.HOT_DROPPED i = (s.rg STREAM.HOT_DROPPED i + 1) % 2 ^ 32) ∧
      (s.hotDrop i e.x e.y e.p = false →
        q = (s.st i).queue ++ [⟨i, e.x, e.y, e.p, dt, (s.gate i e dt).rg STREAM.ACTIVE_BANK i⟩] ∨
        (s.on STREAM.FLK_EN i = true ∧ q = (s.st i).queue)) := by
  cases hhot : s.hotDrop i e.x e.y e.p with
  | true =>
    rw [s.gate_of_hot i e dt hhot]
    refine ⟨?clamped, (s.st i).queue, rfl, fun _ => ⟨rfl, ?dropped⟩, fun h => absurd h (by decide)⟩
    case clamped => rw [State.inc_rg_other _ _ _ _ _ _ _ _ (Fld.key_ne rfl), State.inc_rg_other _ _ _ _ _ _ _ _ (Fld.key_ne rfl)]
    case dropped =>
      rw [State.inc_rg_other _ _ _ _ _ _ _ _ (Fld.key_ne rfl)]
      exact s.inc_rg_same STREAM.HOT_DROPPED i 1 0
  | false =>
    obtain ⟨hevents, hclamped⟩ := s.judgeEvent_frame i e (s.tickOf dt)
    rcases s.gate_cases i e dt hhot with ⟨hdrop, hgate⟩ | hgate
    · rw [hgate]
      refine ⟨?clamped, (s.st i).queue, ?events, fun h => absurd h (by decide),
        fun _ => .inr ⟨s.judgeEvent_drops i e _ hdrop, rfl⟩⟩
      case clamped =>
        rw [State.inc_rg_other _ _ _ _ _ _ _ _ (Fld.key_ne rfl), State.inc_rg_other _ _ _ _ _ _ _ _ (Fld.key_ne rfl), hclamped]
      case events =>
        rw [State.inc_st, State.inc_st]
        exact hevents
    · rw [hgate]
      obtain ⟨hwait, hqueue, hprev⟩ := Strm.events_eq_iff.mp hevents
      refine ⟨(State.enqueue_rg_clamped _ _ _ _ _).trans hclamped, _, ?events, fun h => absurd h (by decide), fun _ => .inl rfl⟩
      case events => rw [State.enqueue_events, hwait, hqueue, hprev]

/-! ## STAMP_EVENT -/

/-- A trigger is taken off the waiting events, and that is all that happens to them (R61). -/
theorem State.stampTrigger_taken_events (b : State) (i : Nat) (e : DecEv) (rest : List DecEv) :
    ((((b.takeWaiting i rest).stampTrigger i e).applyPost i e.post).st i).events = (rest, (b.st i).queue, (b.st i).prev) := by
  rw [(State.applyPost_frame _ _ _).1, State.stampTrigger_events, (b.takeWaiting_st i rest).1]

/-- Outside the range test an event only counts in STAMP_RANGE (R47). -/
theorem State.stampData_out_of_range (s : State) (i : Nat) (e : DecEv) (h : outOfRange s.dt (s.mapEvent i e) = true) :
    ((s.stampData i e).st i).events = (s.st i).events ∧
    (s.stampData i e).rg STREAM.CLAMPED i = s.rg STREAM.CLAMPED i ∧
    (s.stampData i e).rg STREAM.STAMP_RANGE i = (s.rg STREAM.STAMP_RANGE i + 1) % 2 ^ 32 := by
  rw [State.stampData_eq, if_pos h]
  exact ⟨rfl, s.inc_rg_other _ _ _ _ _ _ _ (Fld.key_ne rfl), s.inc_rg_same STREAM.STAMP_RANGE i 1 0⟩

/-- Inside the range test an event is clamped and then judged by the gates (R59, R93–R95). -/
theorem State.stampData_in_range (s : State) (i : Nat) (e : DecEv) (dt0 dt : Nat) (hdt0 : dt0 = s.mapEvent i e)
    (hdt : dt = max dt0 ((s.st i).prev.getD dt0)) (h : outOfRange s.dt dt0 = false) (hlt : s.rg STREAM.CLAMPED i < 2 ^ 32) :
    (s.stampData i e).rg STREAM.CLAMPED i =
      (s.rg STREAM.CLAMPED i + if dt0 < (s.st i).prev.getD dt0 then 1 else 0) % 2 ^ 32 ∧
    ∃ q, ((s.stampData i e).st i).events = ((s.st i).wait, q, some dt) ∧
      (s.hotDrop i e.x e.y e.p = true → q = (s.st i).queue ∧
        (s.stampData i e).rg STREAM.HOT_DROPPED i = (s.rg STREAM.HOT_DROPPED i + 1) % 2 ^ 32) ∧
      (s.hotDrop i e.x e.y e.p = false →
        q = (s.st i).queue ++ [⟨i, e.x, e.y, e.p, dt, (s.stampData i e).rg STREAM.ACTIVE_BANK i⟩] ∨
        (s.on STREAM.FLK_EN i = true ∧ q = (s.st i).queue)) := by
  have hstamp : s.stampData i e = (s.clamp i dt0).gate i e dt := by
    rw [State.stampData_eq, ← hdt0, ← hdt, if_neg (Bool.not_eq_true _ ▸ h)]
  obtain ⟨hwait, hqueue, hprev⟩ := Strm.events_eq_iff.mp (s.clamp_events i dt0)
  have hdropped := s.clamp_rg_other i dt0 STREAM.HOT_DROPPED i 0 (Fld.key_ne rfl)
  have hflk : (s.clamp i dt0).on STREAM.FLK_EN i = s.on STREAM.FLK_EN i :=
    congrArg (· != 0) (s.clamp_rg_other i dt0 STREAM.FLK_EN i 0 (Fld.key_ne rfl))
  have hgate := (s.clamp i dt0).gate_spec i e dt
  rwa [← hstamp, s.clamp_rg_clamped i dt0 hlt, s.clamp_hotDrop, hdropped, hflk, hwait, hqueue, hprev, ← hdt] at hgate

/-- Settles O21: a taken event goes through the range test, the clamp and the gates one after the other; the clamp alone writes the
previous event's DT, and the gates alone write the queue. When a lane can be granted is `canStamp`'s matter (assumption 140), and the
proof does not depend on its limits. -/
theorem stampedTimeNeverDecreasesInAStream : Obligations.StampedTimeNeverDecreasesInAStream := by
  unfold Obligations.StampedTimeNeverDecreasesInAStream
  intro s t i
  refine ⟨exec_stampEvent_of_not s t i, ?trigger, ?event⟩
  case trigger =>
    intro e rest hcan hwait htrig
    have hevents := (s.advance t).stampTrigger_taken_events i e rest
    rw [State.advance_st] at hevents
    refine ⟨_, exec_stampEvent s t i e rest hcan hwait, ?_⟩
    rw [if_pos htrig]
    exact Strm.events_eq_iff.mp hevents
  case event =>
    intro e rest hcan hwait htrig hlt
    have hexec := exec_stampEvent s t i e rest hcan hwait
    rw [if_neg (Bool.not_eq_true _ ▸ htrig)] at hexec
    obtain ⟨hpost, hrg⟩ := State.applyPost_frame (((s.advance t).takeWaiting i rest).stampData i e) i e.post
    obtain ⟨hrest, hqueue, hprev⟩ := Strm.events_eq_iff.mp ((s.advance t).takeWaiting_st i rest).1
    rw [State.advance_st] at hqueue hprev
    constructor
    · intro hout
      obtain ⟨hevents, hcounts⟩ := State.stampData_out_of_range ((s.advance t).takeWaiting i rest) i e
        (by rwa [State.takeWaiting_dt, State.takeWaiting_mapEvent])
      obtain ⟨huwait, huqueue, huprev⟩ := Strm.events_eq_iff.mp (hpost.trans hevents)
      simp only [State.takeWaiting_rg, State.advance_rg] at hcounts
      refine ⟨_, hexec, huwait.trans hrest, huprev.trans hprev, huqueue.trans hqueue, ?_⟩
      simpa only [hrg] using hcounts
    · intro hin
      obtain ⟨hclamped, q, hevents, hgate⟩ := State.stampData_in_range ((s.advance t).takeWaiting i rest) i e
        ((s.advance t).mapEvent i e) _ (State.takeWaiting_mapEvent _ _ _ _).symm rfl
        (by rwa [State.takeWaiting_dt]) (by rwa [State.takeWaiting_rg, State.advance_rg])
      obtain ⟨huwait, rfl, huprev⟩ := Strm.events_eq_iff.mp (hpost.trans hevents)
      simp only [hprev, hqueue, State.takeWaiting_rg, State.takeWaiting_on, State.takeWaiting_hotDrop, State.advance_rg,
        State.advance_on, ← hrg] at hclamped huprev hgate
      refine ⟨_, hexec, huwait.trans hrest, huprev, fun p hp => ?_, hclamped, hgate⟩
      rw [hp]
      exact Nat.le_max_right _ _

end Sys2Proof.Machine

/-!
SUPPORT. Little-endian numbers byte by byte, and the staging words of a payload (R79) each in terms of its own eight payload bytes.
-/
namespace Sys2Proof.Machine

/-! ## Little-endian numbers -/

/-- A number of `bs.length` bytes is zero above them. -/
theorem leNat_lt (bs : List Byte) : leNat bs < 256 ^ bs.length := by
  induction bs with
  | nil => exact Nat.one_pos
  | cons b bs ih =>
    have hb : b.toNat < 256 := b.isLt
    rw [leNat, List.length_cons, Nat.pow_succ]
    omega

/-- Base-256 digit `i` of the number a byte list spells is byte `i` of the list. -/
theorem leNat_digit {bs : List Byte} {i : Nat} {x : Byte} (h : bs[i]? = some x) : leNat bs / 256 ^ i % 256 = x.toNat := by
  induction bs generalizing i with
  | nil => cases h
  | cons b bs ih =>
    have hb : b.toNat < 256 := b.isLt
    cases i with
    | zero =>
      obtain rfl : b = x := Option.some.inj h
      rw [leNat]
      omega
    | succ i =>
      have hrest : leNat (b :: bs) / 256 = leNat bs := by
        rw [leNat]
        omega
      rw [Nat.pow_succ', ← Nat.div_div_eq_div_mul, hrest]
      exact ih h

/-! ## The staging words of a payload -/

/-- The payload bytes of staging word `j`. -/
def stagingBytes (bs : List Byte) (j : Nat) : List Byte := (bs.drop (8 * j)).take 8

theorem stagingBytes_length (bs : List Byte) (j : Nat) : (stagingBytes bs j).length = min 8 (bs.length - 8 * j) := by
  rw [stagingBytes, List.length_take, List.length_drop]

/-- Byte `i` of the payload is byte `i % 8` of staging word `i / 8`. -/
theorem stagingBytes_getElem? (bs : List Byte) (i : Nat) : (stagingBytes bs (i / 8))[i % 8]? = bs[i]? := by
  rw [stagingBytes, List.getElem?_take_of_lt (Nat.mod_lt i (by decide)), List.getElem?_drop, Nat.div_add_mod]

/-- Staging word `j` of a payload, with its count of valid bytes. -/
def stagingWord (bs : List Byte) (j : Nat) : Nat × Nat := (leNat (stagingBytes bs j), (stagingBytes bs j).length)

/-- Behind its first word, a payload packs as what is left of it after 8 bytes. -/
theorem stagingWord_succ (bs : List Byte) (j : Nat) : stagingWord bs (j + 1) = stagingWord (bs.drop 8) j := by
  rw [stagingWord, stagingWord, stagingBytes, stagingBytes, List.drop_drop, Nat.mul_succ, Nat.add_comm]

/-- With the fuel the receiver gives it, packing makes one word of every 8 payload bytes begun. -/
theorem packWords_eq_map_stagingWord {n : Nat} {bs : List Byte} (h : bs.length < n) :
    packWords n bs = (List.range ((bs.length + 7) / 8)).map (stagingWord bs) := by
  induction n generalizing bs with
  | zero => exact absurd h (Nat.not_lt_zero _)
  | succ n ih =>
    cases bs with
    | nil => rfl
    | cons b bs =>
      have hdrop : ((b :: bs).drop 8).length = (b :: bs).length - 8 := List.length_drop
      have hlen : (b :: bs).length = bs.length + 1 := List.length_cons
      have hcount : ((b :: bs).length + 7) / 8 = (((b :: bs).drop 8).length + 7) / 8 + 1 := by omega
      rw [packWords, ih (by omega), hcount, List.range_succ_eq_map, List.map_cons, List.map_map]
      · exact congrArg _ (List.map_congr_left fun j _ => (stagingWord_succ (b :: bs) j).symm)
      · exact nofun

/-- The packing holds exactly the staging words that begin inside the payload. -/
theorem packWords_getElem?_eq_some_iff {n : Nat} {bs : List Byte} (h : bs.length < n) {j : Nat} {p : Nat × Nat} :
    (packWords n bs)[j]? = some p ↔ 8 * j < bs.length ∧ stagingWord bs j = p := by
  have hbegins : j < (bs.length + 7) / 8 ↔ 8 * j < bs.length := by omega
  rw [packWords_eq_map_stagingWord h, List.getElem?_eq_some_iff]
  simp only [List.length_map, List.length_range, List.getElem_map, List.getElem_range, exists_prop, hbegins]

/-- Settles O20: the packing is the list of the payload's staging words (`packWords_eq_map_stagingWord`), and in each of them the bytes
of the payload are the base-256 digits (`leNat_digit`), with none above the valid ones (`leNat_lt`). -/
theorem payloadBytesPackLittleEndian : Obligations.PayloadBytesPackLittleEndian := by
  unfold Obligations.PayloadBytesPackLittleEndian
  intro bs
  have hfuel : bs.length < bs.length + 1 := Nat.lt_succ_self _
  refine ⟨?length, fun i x hx => ?byte, fun j w n hword => ?count⟩
  case length => rw [packWords_eq_map_stagingWord hfuel, List.length_map, List.length_range]
  case byte =>
    have hi : i < bs.length := (List.getElem?_eq_some_iff.mp hx).1
    have hword := (packWords_getElem?_eq_some_iff hfuel).mpr ⟨Nat.lt_of_le_of_lt (Nat.mul_div_le i 8) hi, rfl⟩
    exact ⟨_, _, hword, leNat_digit ((stagingBytes_getElem? bs i).trans hx)⟩
  case count =>
    obtain ⟨hj, hwn⟩ := (packWords_getElem?_eq_some_iff hfuel).mp hword
    obtain ⟨rfl, rfl⟩ := Prod.mk.inj hwn
    have hlen := stagingBytes_length bs j
    exact ⟨hlen, by omega, leNat_lt _⟩

end Sys2Proof.Machine
